-- ==== Sys2Proof/Word.lean ====
section
/-!
DEFINITION. The word types of the machine and the two containers its state is made of: `Sparse`, a memory-like map
with a default value, and `Tbl`, a table of records. Both are plain sorted lists of (key, value) pairs.
-/

namespace Sys2Proof

/-- A byte of memory. -/
abbrev Byte := BitVec 8
/-- A 32-bit word: an instruction word or a vector-register lane (01 R21, 02 R44). -/
abbrev Word := BitVec 32
/-- A 64-bit word: a scalar register or an address (01 R21). -/
abbrev DWord := BitVec 64
/-- A program counter, 57 bits (01 R11, 05 R127). -/
abbrev PC := BitVec 57
/-- A set of lanes: bit l is lane l (01 R21). -/
abbrev LaneMask := BitVec 32

/-- A memory-like map: sorted (index, value) pairs, no entry equal to the default an unlisted index reads as. -/
abbrev Sparse (α : Type) := List (Nat × α)

/-- Insert a pair before the first larger index. -/
def Sparse.ins {α : Type} (m : Sparse α) (i : Nat) (v : α) : Sparse α :=
  match m with
  | [] => [(i, v)]
  | (k, w) :: t => if i < k then (i, v) :: (k, w) :: t else (k, w) :: Sparse.ins t i v

/-- The value at index `i`, the default `d` where nothing is listed. -/
def Sparse.get {α : Type} (d : α) (m : Sparse α) (i : Nat) : α :=
  match m with
  | [] => d
  | (k, w) :: t => if k = i then w else Sparse.get d t i

/-- Drop every entry at index `i`. -/
def Sparse.del {α : Type} (m : Sparse α) (i : Nat) : Sparse α :=
  match m with
  | [] => []
  | (k, w) :: t => if k = i then Sparse.del t i else (k, w) :: Sparse.del t i

/-- Write `v` at index `i`; writing the default removes the entry. -/
def Sparse.put {α : Type} [DecidableEq α] (d : α) (m : Sparse α) (i : Nat) (v : α) : Sparse α :=
  if v = d then m.del i else (m.del i).ins i v

/-- Every index is above `lo`, indices rise strictly, and no entry equals the default. -/
def Sparse.wfFrom {α : Type} [DecidableEq α] (d : α) (lo : Nat) (m : Sparse α) : Bool :=
  match m with
  | [] => true
  | (k, w) :: t => decide (lo ≤ k) && !decide (w = d) && Sparse.wfFrom d (k + 1) t

/-- The canonical form: indices strictly rising, no entry equal to the default. -/
def Sparse.wf {α : Type} [DecidableEq α] (d : α) (m : Sparse α) : Bool := m.wfFrom d 0

/-- A table of records by number, sorted by number. -/
abbrev Tbl (α : Type) := List (Nat × α)

/-- The record numbered `i`, if there is one. -/
def Tbl.find {α : Type} (t : Tbl α) (i : Nat) : Option α :=
  match t with
  | [] => none
  | (k, w) :: r => if k = i then some w else Tbl.find r i

/-- Set record `i`. -/
def Tbl.put {α : Type} (t : Tbl α) (i : Nat) (v : α) : Tbl α := Sparse.ins (Sparse.del t i) i v

/-- Remove record `i`. -/
def Tbl.del {α : Type} (t : Tbl α) (i : Nat) : Tbl α := Sparse.del t i

/-- The numbers of the records held. -/
def Tbl.keys {α : Type} (t : Tbl α) : List Nat := t.map (·.1)

/-- The records held. -/
def Tbl.vals {α : Type} (t : Tbl α) : List α := t.map (·.2)

/-- Change record `i`, if it is there. -/
def Tbl.upd {α : Type} (t : Tbl α) (i : Nat) (f : α → α) : Tbl α :=
  match t.find i with
  | none => t
  | some v => t.put i (f v)

end Sys2Proof
end

