-- ==== Sys2Proof/Syntax.lean ====
section
/-!
DEFINITION. The syntax of one step: `Instr` has one constructor per row of the opcode table, the instructions and hints
(02 Table 2.4) with their decoded operands, then the events and commands (95), whose operands say which unit they
concern.
-/

namespace Sys2Proof

/-- A vector register name v0-v127 (02 R46). -/
abbrev VReg := BitVec 7
/-- A scalar register name s0-s31 (02 R46). -/
abbrev SReg := BitVec 5
/-- A mask register name k0-k7 (02 R46). -/
abbrev KReg := BitVec 3
/-- A route register name q0-q3 (02 R46). -/
abbrev QReg := BitVec 2
/-- A tile name t0-t31 (02 R46). -/
abbrev TReg := BitVec 5

/-- Condition codes of ICMP, ICMPI and SCMP (02 Table 2.2). -/
inductive IntCond where
  | eq | ne | lt | le | gt | ge | ltu | leu | gtu | geu
  deriving DecidableEq, Repr

/-- Condition codes of FCMP (02 Table 2.2). -/
inductive FpCond where
  | eq | ne | lt | le | gt | ge | un | ord
  deriving DecidableEq, Repr

/-- Condition codes of ZTEST (02 Table 2.2). -/
inductive DepthCond where
  | never | less | equal | lequal | greater | notequal | gequal | always
  deriving DecidableEq, Repr

/-- The tests of a value against zero that BR and BRS make (05 R128, R129). -/
inductive VTest where
  | eqz | nez | ltz | gez | gtz | lez
  deriving DecidableEq, Repr

/-- What BR tests: a vector against zero, or a mask register's bit set or clear (05 R128). -/
inductive BrOp where
  | vec (t : VTest) (a : VReg)
  | mask (set : Bool) (k : KReg)
  deriving DecidableEq, Repr

/-- The width field W of the wide memory instructions: 4, 8 or 16 bytes (02 R49). -/
inductive Width where
  | w4 | w8 | w16
  deriving DecidableEq, Repr

/-- The width field W of LDB (02 Table 2.4). -/
inductive SubWidth where
  | u8 | s8 | u16 | s16
  deriving DecidableEq, Repr

/-- The operation of ATOM and ATOM64 (07 Table 7.5). -/
inductive AtomOp where
  | add | min | max | minu | maxu | and | or | xor
  deriving DecidableEq, Repr

/-- The operation of REDUCE and SCAN (04 R98). -/
inductive RedOp where
  | add | min | max | minu | maxu | fadd | fmin | fmax
  deriving DecidableEq, Repr

/-- The pairing of DOT2 (02 Table 2.5). -/
inductive Pair2 where
  | fp16 | bf16
  deriving DecidableEq, Repr

/-- The pairing of DOT4 (02 Table 2.5). -/
inductive Pair4 where
  | ss | uu | su | e4e4 | e5e5 | e4e5
  deriving DecidableEq, Repr

/-- The pairing of DOT8 (02 Table 2.5). -/
inductive Pair8 where
  | ss | uu | su | e2e2
  deriving DecidableEq, Repr

/-- The float formats (04 Table 4.1). -/
inductive FFmt where
  | fp32 | fp16 | bf16 | e4m3 | e5m2 | e2m1
  deriving DecidableEq, Repr

/-- The integer formats (04 Table 4.3). -/
inductive IFmt where
  | int32 | uint32 | int16 | uint16 | int8 | uint8 | int4 | uint4
  deriving DecidableEq, Repr

/-- An element format of PACK and UNPACK: kind bit and format code (06 R153). -/
inductive ElemFmt where
  | float (f : FFmt)
  | int (f : IFmt)
  deriving DecidableEq, Repr

/-- The rounding modes (04 R85). -/
inductive Rm where
  | rne | rtz | rup | rdn | rto
  deriving DecidableEq, Repr

/-- The element formats of MMA and WLD (02 Table 2.5). -/
inductive MFmt where
  | int8 | uint8 | e4m3 | e5m2 | int4 | e2m1 | fp16 | bf16
  deriving DecidableEq, Repr

/-- The conversions of ACCST and ACCLD (08 Table 8.6). -/
inductive AccConv where
  | raw | fp16 | bf16 | e4m3 | e5m2 | int8 | uint8 | int16
  deriving DecidableEq, Repr

/-- Tile states (07 Table 7.3). -/
inductive TileSt where
  | empty | filling | ready | draining
  deriving DecidableEq, Repr

/-- Scopes (02 Table 2.10, 11 R283). -/
inductive Scope where
  | crew | block | cluster | device | system
  deriving DecidableEq, Repr

/-- The order field of FENCE (07 R188). -/
inductive FenceOrder where
  | sc | acquire | release | acqrel
  deriving DecidableEq, Repr

/-- The order field of the ORDER hint (02 Table 2.6). -/
inductive MemOrder where
  | plain | acquire | release | acqrel
  deriving DecidableEq, Repr

/-- The CACHE hint's policies (02 Table 2.6). -/
inductive CachePolicy where
  | dflt | stream | l2only | retain | noalloc
  deriving DecidableEq, Repr

/-- BIN's strip height (10 R257). -/
inductive StripH where
  | h8 | h16 | h32
  deriving DecidableEq, Repr

/-- TEXQ's address mode (10 R262). -/
inductive TexMode where
  | wrap | clamp | mirror | border
  deriving DecidableEq, Repr

/-- COPY's size code (09 R245). -/
inductive CopySize where
  | c4 | c8 | c16
  deriving DecidableEq, Repr

/-- The SCHED hint's payload: nothing, a yield, or a stall of n + 1 clocks (02 Table 2.6). -/
inductive SchedHint where
  | none
  | yield
  | stall (n : BitVec 6)
  deriving DecidableEq, Repr

/-- RDSV's destination: a vector, or a scalar when I[5] = 1 (10 R273). -/
inductive SvDest where
  | vec (d : VReg)
  | scal (d : SReg)
  deriving DecidableEq, Repr

/-- The stores that the error log names (16 Table 16.8). -/
inductive ErrStore where
  | l1 (core : Nat)
  | l2
  | strip
  | lpddr
  deriving DecidableEq, Repr

/-- DisplayPort link rates the serialiser supports (15 Table 15.6). -/
inductive DpRate where
  | hbr3orBelow | uhbr10 | uhbr135 | uhbr20
  deriving DecidableEq, Repr

/-- The link rates of the host link, from 2.5 to 64 GT/s (16 R401). -/
inductive PcieRate where
  | gts2p5 | gts5 | gts8 | gts16 | gts32 | gts64
  deriving DecidableEq, Repr

/-- The transports of PTP messages (16 R418). -/
inductive PtpTransport where
  | layer2 | udpIpv4 | udpIpv6
  deriving DecidableEq, Repr

/-- What a PTP message from the master says (16 R418): a Sync of a one-step master carries its origin time and that of a two-step
master leaves it to a Follow_Up; a Delay_Resp carries the time at which the master received the device's request. -/
inductive PtpBody where
  | sync (twoStep : Bool) (origin : DWord)
  | followUp (origin : DWord)
  | delayResp (received : DWord)
  deriving DecidableEq, Repr

/-- A PTP message from the master: the Ethernet port, the transport, the sequence id and the body. -/
structure PtpMsg where
  port : BitVec 3
  transport : PtpTransport
  seq : BitVec 16
  body : PtpBody
  deriving DecidableEq, Repr

/-- The read-modify-writes that a slice performs for a peer (12 R310, 16 R420); `ring` carries which of RACQ, RCOMMIT,
RPEEK, RREL it is. -/
inductive PeerOp where
  | atom (op : AtomOp)
  | swap
  | cas
  | xadd
  | xrd (clear : Bool) (rm : Rm)
  | ring (which : BitVec 2)
  deriving DecidableEq, Repr

/-- What a fabric frame from a peer carries (16 R420). -/
inductive FabricReq where
  /-- a read of `size` bytes at a physical address under a page's attribute and key -/
  | read (pa : BitVec 48) (size : Nat) (attr : BitVec 3) (key : BitVec 8)
  /-- a write with byte mask: an absent byte is not written -/
  | write (pa : BitVec 48) (attr : BitVec 3) (key : BitVec 8) (bytes : List (Option Byte))
  /-- an atomic on `size` bytes with its operand -/
  | atomic (pa : BitVec 48) (attr : BitVec 3) (key : BitVec 8) (op : PeerOp) (size : Nat) (x : List Byte)
  /-- a response to one of this device's reads -/
  | response (bytes : List Byte)
  /-- an acknowledgement up to a sequence number -/
  | ack (seq : Word)
  deriving DecidableEq, Repr

/-- A fabric frame of a peer as it comes in (16 R420): its sequence number, the cumulative acknowledgement, and what it carries. -/
structure FabricMsg where
  seq : Word
  ack : Word
  req : FabricReq
  deriving DecidableEq, Repr

/-- One step of the machine: a row of the opcode table with its operands. -/
inductive Instr where
  /-- ADD (R111). Adds two vector registers lane by lane, wrapping to 32 bits. -/
  | add (d : VReg) (a : VReg) (b : VReg) (k : KReg)
  /-- SUB (R111). Subtracts vector B from vector A lane by lane, wrapping to 32 bits. -/
  | sub (d : VReg) (a : VReg) (b : VReg) (k : KReg)
  /-- ADDI (R113). Adds a sign-extended immediate to a vector on the head run without exited lanes. -/
  | addi (d : VReg) (a : VReg) (i : BitVec 10)
  /-- MUL (R111). Multiplies two vectors and keeps the low 32 bits. -/
  | mul (d : VReg) (a : VReg) (b : VReg) (k : KReg)
  /-- MULHI (R111). Gives the high 32 bits of the signed 64-bit product. -/
  | mulhi (d : VReg) (a : VReg) (b : VReg) (k : KReg)
  /-- MULHIU (R111). Gives the high 32 bits of the unsigned 64-bit product. -/
  | mulhiu (d : VReg) (a : VReg) (b : VReg) (k : KReg)
  /-- MAD (R112). Multiplies two vectors and adds D or the SRC3 register, wrapping to 32 bits. -/
  | mad (d : VReg) (a : VReg) (b : VReg) (k : KReg)
  /-- DIV (R111). Divides signed with truncation toward zero, with fixed results for zero divisors and overflow. -/
  | div_ (d : VReg) (a : VReg) (b : VReg) (k : KReg)
  /-- DIVU (R111). Divides unsigned, giving all ones for a zero divisor. -/
  | divu (d : VReg) (a : VReg) (b : VReg) (k : KReg)
  /-- REM (R111). Gives the signed remainder with the sign of the dividend. -/
  | rem (d : VReg) (a : VReg) (b : VReg) (k : KReg)
  /-- REMU (R111). Gives the unsigned remainder, the dividend for a zero divisor. -/
  | remu (d : VReg) (a : VReg) (b : VReg) (k : KReg)
  /-- MIN (R111). Gives the signed lesser of two vectors. -/
  | min_ (d : VReg) (a : VReg) (b : VReg) (k : KReg)
  /-- MAX (R111). Gives the signed greater of two vectors. -/
  | max_ (d : VReg) (a : VReg) (b : VReg) (k : KReg)
  /-- MINU (R111). Gives the unsigned lesser of two vectors. -/
  | minu (d : VReg) (a : VReg) (b : VReg) (k : KReg)
  /-- MAXU (R111). Gives the unsigned greater of two vectors. -/
  | maxu (d : VReg) (a : VReg) (b : VReg) (k : KReg)
  /-- AND (R114). Bitwise AND of two vectors. -/
  | and_ (d : VReg) (a : VReg) (b : VReg) (k : KReg)
  /-- OR (R114). Bitwise OR of two vectors. -/
  | or_ (d : VReg) (a : VReg) (b : VReg) (k : KReg)
  /-- XOR (R114). Bitwise XOR of two vectors. -/
  | xor_ (d : VReg) (a : VReg) (b : VReg) (k : KReg)
  /-- ANDN (R114). Gives A AND NOT B lane by lane. -/
  | andn (d : VReg) (a : VReg) (b : VReg) (k : KReg)
  /-- ANDI (R114). ANDs a vector with a sign-extended immediate. -/
  | andi (d : VReg) (a : VReg) (i : BitVec 10)
  /-- ORI (R114). ORs a vector with a sign-extended immediate. -/
  | ori (d : VReg) (a : VReg) (i : BitVec 10)
  /-- XORI (R114). XORs a vector with a sign-extended immediate. -/
  | xori (d : VReg) (a : VReg) (i : BitVec 10)
  /-- SHL (R115). Shifts left by each lane's count from B bits [4:0]. -/
  | shl (d : VReg) (a : VReg) (b : VReg) (k : KReg)
  /-- SHR (R115). Shifts right logically by each lane's count. -/
  | shr (d : VReg) (a : VReg) (b : VReg) (k : KReg)
  /-- SAR (R115). Shifts right arithmetically by each lane's count. -/
  | sar (d : VReg) (a : VReg) (b : VReg) (k : KReg)
  /-- SHLI (R115). Shifts left by an immediate count. -/
  | shli (d : VReg) (a : VReg) (n : BitVec 5)
  /-- SHRI (R115). Shifts right logically by an immediate count. -/
  | shri (d : VReg) (a : VReg) (n : BitVec 5)
  /-- SARI (R115). Shifts right arithmetically by an immediate count. -/
  | sari (d : VReg) (a : VReg) (n : BitVec 5)
  /-- BFX (R116). Extracts an unsigned bit field. -/
  | bfx (d : VReg) (a : VReg) (len : BitVec 5) (pos : BitVec 5)
  /-- BFXS (R116). Extracts a sign-extended bit field. -/
  | bfxs (d : VReg) (a : VReg) (len : BitVec 5) (pos : BitVec 5)
  /-- BFI (R116). Inserts A's low bits into a field of D. -/
  | bfi (d : VReg) (a : VReg) (len : BitVec 5) (pos : BitVec 5)
  /-- POPC (R117). Counts the one bits of each lane. -/
  | popc (d : VReg) (a : VReg) (k : KReg)
  /-- CLZ (R117). Counts leading zero bits of each lane. -/
  | clz (d : VReg) (a : VReg) (k : KReg)
  /-- BREV (R117). Reverses the bit order of each lane. -/
  | brev (d : VReg) (a : VReg) (k : KReg)
  /-- ICMP (R118). Compares two vectors under a condition and writes the active lanes' bits of a mask. -/
  | icmp (cc : IntCond) (t : KReg) (a : VReg) (b : VReg) (k : KReg)
  /-- ICMPI (R118). Compares a vector with an immediate into a mask. -/
  | icmpi (cc : IntCond) (t : KReg) (a : VReg) (i : BitVec 10)
  /-- SEL (R119). Selects A or B per lane by a mask register. -/
  | sel (d : VReg) (a : VReg) (b : VReg) (k : KReg)
  /-- KAND (R120). ANDs two mask registers for the crew. -/
  | kand (d : KReg) (a : KReg) (b : KReg)
  /-- KOR (R120). ORs two mask registers for the crew. -/
  | kor (d : KReg) (a : KReg) (b : KReg)
  /-- KXOR (R120). XORs two mask registers for the crew. -/
  | kxor (d : KReg) (a : KReg) (b : KReg)
  /-- KANDN (R120). Gives mask A AND NOT mask B. -/
  | kandn (d : KReg) (a : KReg) (b : KReg)
  /-- KTOV (R121). Expands a mask register into all-ones or zero lanes of a vector. -/
  | ktov (d : VReg) (a : KReg) (k : KReg)
  /-- VTOK (R121). Sets active lanes' mask bits from whether a vector is nonzero. -/
  | vtok (d : KReg) (a : VReg) (k : KReg)
  /-- MOVI (R122). Writes a sign-extended immediate to every lane of the head run. -/
  | movi (d : VReg) (i : BitVec 17)
  /-- MOV (R122). Copies a vector in the active lanes. -/
  | mov (d : VReg) (a : VReg) (k : KReg)
  /-- BCAST (R123). Writes the low word of a scalar to every active lane. -/
  | bcast (d : VReg) (a : SReg) (k : KReg)
  /-- GETLANE (R123). Copies one lane of a vector into a scalar. -/
  | getlane (d : SReg) (a : VReg) (lane : BitVec 5)
  /-- ADD64 (R124). Adds a sign-extended 32-bit vector to a 64-bit register pair. -/
  | add64 (d : VReg) (a : VReg) (b : VReg) (k : KReg)
  /-- LEA (R124). Adds a zero-extended index shifted by K to a 64-bit register pair. -/
  | lea (d : VReg) (a : VReg) (b : VReg) (sh : BitVec 3)
  /-- SADD (R125). Adds two scalars. -/
  | sadd (d : SReg) (a : SReg) (b : SReg)
  /-- SSUB (R125). Subtracts two scalars. -/
  | ssub (d : SReg) (a : SReg) (b : SReg)
  /-- SADDI (R125). Adds an immediate to a scalar. -/
  | saddi (d : SReg) (a : SReg) (i : BitVec 10)
  /-- SMUL (R125). Multiplies two scalars modulo 2^64. -/
  | smul (d : SReg) (a : SReg) (b : SReg)
  /-- SAND (R125). ANDs two scalars. -/
  | sand (d : SReg) (a : SReg) (b : SReg)
  /-- SOR (R125). ORs two scalars. -/
  | sor (d : SReg) (a : SReg) (b : SReg)
  /-- SXOR (R125). XORs two scalars. -/
  | sxor (d : SReg) (a : SReg) (b : SReg)
  /-- SSHLI (R125). Shifts a scalar left by an immediate. -/
  | sshli (d : SReg) (a : SReg) (n : BitVec 6)
  /-- SSHRI (R125). Shifts a scalar right logically by an immediate. -/
  | sshri (d : SReg) (a : SReg) (n : BitVec 6)
  /-- SMOVI (R125). Writes a sign-extended immediate to a scalar. -/
  | smovi (d : SReg) (i : BitVec 17)
  /-- SCMP (R126). Compares two scalars and writes all 32 bits of a mask. -/
  | scmp (cc : IntCond) (t : KReg) (a : SReg) (b : SReg)
  /-- SSARI (R125). Shifts a scalar right arithmetically by an immediate. -/
  | ssari (d : SReg) (a : SReg) (n : BitVec 6)
  /-- FADD (R139). Adds FP32 values with one rounding under RM(). -/
  | fadd (d : VReg) (a : VReg) (b : VReg) (k : KReg)
  /-- FSUB (R139). Subtracts FP32 values with one rounding. -/
  | fsub (d : VReg) (a : VReg) (b : VReg) (k : KReg)
  /-- FMUL (R139). Multiplies FP32 values with one rounding. -/
  | fmul (d : VReg) (a : VReg) (b : VReg) (k : KReg)
  /-- FMA (R140). Fused multiply-add of FP32 values with one rounding. -/
  | fma (d : VReg) (a : VReg) (b : VReg) (k : KReg)
  /-- FNMA (R140). Fused c minus a times b with one rounding. -/
  | fnma (d : VReg) (a : VReg) (b : VReg) (k : KReg)
  /-- FMIN (R141). Gives the lesser FP32 value, NaN canonical. -/
  | fmin (d : VReg) (a : VReg) (b : VReg) (k : KReg)
  /-- FMAX (R141). Gives the greater FP32 value, NaN canonical. -/
  | fmax (d : VReg) (a : VReg) (b : VReg) (k : KReg)
  /-- FCMP (R142). Compares FP32 values into a mask. -/
  | fcmp (cc : FpCond) (t : KReg) (a : VReg) (b : VReg) (k : KReg)
  /-- FDIV (R139). Divides FP32 values correctly rounded. -/
  | fdiv (d : VReg) (a : VReg) (b : VReg) (k : KReg)
  /-- FSQRT (R139). Correctly rounded FP32 square root. -/
  | fsqrt (d : VReg) (a : VReg) (k : KReg)
  /-- FRCP (R146). Approximate FP32 reciprocal within 1 ulp. -/
  | frcp (d : VReg) (a : VReg) (k : KReg)
  /-- FRSQ (R146). Approximate reciprocal square root. -/
  | frsq (d : VReg) (a : VReg) (k : KReg)
  /-- FEXP2 (R146). Approximate power of two. -/
  | fexp2 (d : VReg) (a : VReg) (k : KReg)
  /-- FLOG2 (R146). Approximate base-2 logarithm. -/
  | flog2 (d : VReg) (a : VReg) (k : KReg)
  /-- FSIN (R146). Approximate sine of an argument in turns. -/
  | fsin (d : VReg) (a : VReg) (k : KReg)
  /-- FCOS (R146). Approximate cosine of an argument in turns. -/
  | fcos (d : VReg) (a : VReg) (k : KReg)
  /-- FABS (R143). Clears the sign bit, canonicalising NaNs. -/
  | fabs (d : VReg) (a : VReg) (k : KReg)
  /-- FNEG (R143). Inverts the sign bit, canonicalising NaNs. -/
  | fneg (d : VReg) (a : VReg) (k : KReg)
  /-- FRINT (R144). Rounds an FP32 value to an integral value under RM(). -/
  | frint (d : VReg) (a : VReg) (k : KReg)
  /-- FCLASS (R145). Writes the one-hot class of an FP32 value. -/
  | fclass (d : VReg) (a : VReg) (k : KReg)
  /-- HADD2 (R147). Adds two packed FP16 pairs. -/
  | hadd2 (d : VReg) (a : VReg) (b : VReg) (k : KReg)
  /-- HMUL2 (R147). Multiplies two packed FP16 pairs. -/
  | hmul2 (d : VReg) (a : VReg) (b : VReg) (k : KReg)
  /-- HFMA2 (R147). Fused multiply-add on packed FP16 pairs. -/
  | hfma2 (d : VReg) (a : VReg) (b : VReg) (k : KReg)
  /-- BFMA2 (R147). Fused multiply-add on packed BF16 pairs. -/
  | bfma2 (d : VReg) (a : VReg) (b : VReg) (k : KReg)
  /-- DOT2 (R148). Two-element 16-bit dot product plus addend. -/
  | dot2 (d : VReg) (a : VReg) (b : VReg) (p : Pair2)
  /-- DOT4 (R148). Four-element 8-bit dot product plus addend. -/
  | dot4 (d : VReg) (a : VReg) (b : VReg) (p : Pair4)
  /-- DOT8 (R148). Eight-element 4-bit dot product plus addend. -/
  | dot8 (d : VReg) (a : VReg) (b : VReg) (p : Pair8)
  /-- CVTF (R150). Converts between float formats. -/
  | cvtf (d : VReg) (a : VReg) (sat : Bool) (rm : Rm) (fs : FFmt) (fd : FFmt)
  /-- CVTFI (R151). Converts a float to a saturated integer. -/
  | cvtfi (d : VReg) (a : VReg) (rm : Rm) (fs : FFmt) (fd : IFmt)
  /-- CVTIF (R152). Converts an integer to a float format. -/
  | cvtif (d : VReg) (a : VReg) (sat : Bool) (rm : Rm) (fs : IFmt) (fd : FFmt)
  /-- PACK (R153). Inserts one converted value into a sub-element of D. -/
  | pack (d : VReg) (a : VReg) (rm : Rm) (n : BitVec 3) (f : ElemFmt)
  /-- UNPACK (R154). Extracts and widens one sub-element to 32 bits. -/
  | unpack (d : VReg) (a : VReg) (n : BitVec 3) (f : ElemFmt)
  /-- ROUTESET (R157). Loads a Benes route register from lanes 0 to 4 of a vector. -/
  | routeset (d : QReg) (a : VReg)
  /-- ROUTE (R158). Permutes the 32 lane values through a route register. -/
  | route (d : VReg) (a : VReg) (b : QReg) (k : KReg)
  /-- SHFL (R159). Gives each active lane A from a lane it chooses. -/
  | shfl (d : VReg) (a : VReg) (b : VReg) (k : KReg)
  /-- BALLOT (R160). Collects the active lanes' nonzero tests into a scalar. -/
  | ballot (d : SReg) (a : VReg) (k : KReg)
  /-- REDUCE (R161). Combines the participating lanes and writes the result to the whole head run. -/
  | reduce (d : VReg) (a : VReg) (b : KReg) (op : RedOp)
  /-- SCAN (R161). Inclusive prefix combination over participating lanes. -/
  | scan (d : VReg) (a : VReg) (b : KReg) (op : RedOp)
  /-- XSCAN (R161). Exclusive prefix combination over participating lanes. -/
  | xscan (d : VReg) (a : VReg) (b : KReg) (op : RedOp)
  /-- LD (R173). Loads 4, 8 or 16 bytes per active lane from S plus A. -/
  | ld (d : VReg) (a : VReg) (s : SReg) (w : Width) (k : KReg)
  /-- LDB (R173). Loads a byte or halfword per lane, zero- or sign-extended. -/
  | ldb (d : VReg) (a : VReg) (s : SReg) (w : SubWidth) (k : KReg)
  /-- ST (R173). Stores 4, 8 or 16 bytes per active lane as one store event. -/
  | st (d : VReg) (a : VReg) (s : SReg) (w : Width) (k : KReg)
  /-- STB (R173). Stores a byte or halfword per lane. -/
  | stb (d : VReg) (a : VReg) (s : SReg) (half : Bool) (k : KReg)
  /-- LDX (R173). Loads per lane from a 64-bit pointer pair plus S. -/
  | ldx (d : VReg) (a : VReg) (s : SReg) (w : Width) (k : KReg)
  /-- STX (R173). Stores per lane to a 64-bit pointer pair plus S. -/
  | stx (d : VReg) (a : VReg) (s : SReg) (w : Width) (k : KReg)
  /-- LDS (R174). Loads from the block's bank by bank address. -/
  | lds (d : VReg) (a : VReg) (s : SReg) (w : Width) (k : KReg)
  /-- STS (R174). Stores into the block's bank by bank address. -/
  | sts (d : VReg) (a : VReg) (s : SReg) (w : Width) (k : KReg)
  /-- LDT (R181). Reads a READY tile through its swizzle, waiting while it fills or drains. -/
  | ldt (d : VReg) (a : VReg) (t : TReg) (w : Width) (k : KReg)
  /-- ATOM (R182). Performs a 32-bit atomic read-modify-write per lane, returning the old value. -/
  | atom (d : VReg) (a : VReg) (s : SReg) (f : Bool) (op : AtomOp)
  /-- ATOM64 (R182). Performs a 64-bit atomic read-modify-write per lane. -/
  | atom64 (d : VReg) (a : VReg) (s : SReg) (f : Bool) (op : AtomOp)
  /-- SWAP (R183). Atomically exchanges a register with memory. -/
  | swap (d : VReg) (a : VReg) (s : SReg) (wide : Bool) (f : Bool) (k : KReg)
  /-- CAS (R184). Atomic compare-and-swap, returning the old value. -/
  | cas (d : VReg) (a : VReg) (s : SReg) (wide : Bool) (f : Bool) (k : KReg)
  /-- XADD (R186). Adds an FP32 value exactly into an exact accumulator at the L2. -/
  | xadd (d : VReg) (a : VReg) (s : SReg) (f : Bool) (k : KReg)
  /-- XRD (R186). Reads an exact accumulator rounded once. -/
  | xrd (d : VReg) (a : VReg) (s : SReg) (f : Bool) (k : KReg)
  /-- XRDC (R186). Reads an exact accumulator rounded once and clears it. -/
  | xrdc (d : VReg) (a : VReg) (s : SReg) (f : Bool) (k : KReg)
  /-- FENCE (R188). Waits until the crew's earlier accesses are performed at a scope and order. -/
  | fence (o : FenceOrder) (sc : Scope)
  /-- QFENCE (R189). Waits for the crew's earlier copies to named queues to complete. -/
  | qfence (m : BitVec 4)
  /-- BAR (R192). Arrives at a barrier and holds the crew until the generation completes. -/
  | bar (b : BitVec 4)
  /-- BARRIVE (R192). Arrives at a barrier without holding. -/
  | barrive (b : BitVec 4)
  /-- BARWAIT (R192). Waits for the generation the crew arrived in to complete. -/
  | barwait (b : BitVec 4)
  /-- TILEDEF (R177). Defines a tile's offset, size and swizzle and sets it EMPTY. -/
  | tiledef (t : TReg) (a : SReg)
  /-- TILESET (R178). Sets a tile's state; READY releases the crew's bank writes. -/
  | tileset (t : TReg) (st : TileSt)
  /-- TILEQ (R179). Reads a tile-table entry into a scalar without waiting. -/
  | tileq (d : SReg) (t : TReg)
  /-- CCLEAN (R196). Writes back a line's dirty sectors from L1 and L2. -/
  | cclean (a : VReg) (s : SReg) (f : Bool) (k : KReg)
  /-- CFLUSH (R196). Writes back and invalidates a line in L1 and L2. -/
  | cflush (a : VReg) (s : SReg) (f : Bool) (k : KReg)
  /-- PREFETCH (R197). Fetches lines into L1 and L2 without faulting. -/
  | prefetch (a : VReg) (s : SReg) (f : Bool) (k : KReg)
  /-- PREFETCHL2 (R197). Fetches lines into the L2 only. -/
  | prefetchl2 (a : VReg) (s : SReg) (f : Bool) (k : KReg)
  /-- MMODE_ON (R203). Serialises, takes an accumulator pair and enters matrix mode. -/
  | mmodeOn (p : BitVec 3)
  /-- WLD (R208). Takes plane ownership and loads a tile sub-block into the shadow weight plane. -/
  | wld (sb : BitVec 2) (t : TReg) (f : MFmt)
  /-- MMA (R212). Streams an activation sub-block through the front plane into an accumulator. -/
  | mma (n : Bool) (tr : Bool) (z : Bool) (g : Bool) (sb : BitVec 2) (t : TReg) (f : MFmt)
  /-- GANG (R220). Writes the gang register from a scalar after checking it. -/
  | gang (a : SReg)
  /-- ACCZ (R215). Zeroes all elements of an accumulator. -/
  | accz (n : Bool)
  /-- ACCST (R216). Converts an accumulator into a tile, setting it FILLING. -/
  | accst (n : Bool) (t : TReg) (c : AccConv)
  /-- ACCLD (R216). Loads an accumulator from a READY tile with exact conversion. -/
  | accld (n : Bool) (t : TReg) (c : AccConv)
  /-- ACCFL (R218). Reads and clears an accumulator tile's event flags. -/
  | accfl (d : SReg) (n : Bool)
  /-- SPAWN (R234). Checks a task frame and pushes it onto its class view or parks it. -/
  | spawn (a : VReg)
  /-- TAKE (R236). Pops or steals a task frame onto the crew's frame stack, waiting if none. -/
  | take (d : VReg)
  /-- JOIN (R238). Waits until a join counter reads zero, as an acquire. -/
  | join (a : SReg) (sc : Scope)
  /-- JOINQ (R238). Reads a join counter into a scalar without waiting. -/
  | joinq (d : SReg) (a : SReg) (sc : Scope)
  /-- DEPSET (R240). Sets a dependence counter's value and context tag. -/
  | depset (a : SReg) (b : SReg)
  /-- DEPDEC (R240). Decrements a nonzero dependence counter. -/
  | depdec (a : SReg)
  /-- RACQ (R243). Acquires the next ring index, waiting for a free slot. -/
  | racq (d : SReg) (a : SReg)
  /-- RCOMMIT (R243). Commits a ring index and advances the commit frontier. -/
  | rcommit (a : SReg) (b : SReg)
  /-- RPEEK (R243). Reads a ring's frontier and release index. -/
  | rpeek (d : SReg) (a : SReg)
  /-- RREL (R243). Releases ring slots by advancing the release index. -/
  | rrel (a : SReg) (b : SReg)
  /-- COPY (R245). Checks and queues an asynchronous lane-by-lane copy. -/
  | copy (q : BitVec 2) (c : SReg) (a : VReg) (b : VReg) (z : CopySize)
  /-- CBSET (R252). Takes a codebook slot and loads 256 entries into it. -/
  | cbset (a : SReg)
  /-- COPYCB (R253). Queues a copy that expands index bytes through the block's codebook. -/
  | copycb (q : BitVec 2) (c : SReg) (a : VReg) (b : VReg)
  /-- BR (R128). Branches each lane of the head run whose test holds. -/
  | br (o : BrOp) (off : BitVec 14)
  /-- J (R130). Jumps every lane of the head run. -/
  | j (off : BitVec 24)
  /-- JR (R131). Jumps active lanes to the target in a register pair. -/
  | jr (a : VReg) (k : KReg)
  /-- CALL (R130). Pushes the return address and jumps every lane of the head run. -/
  | call (off : BitVec 24)
  /-- CALLR (R131). Pushes the return address and jumps active lanes through a register pair. -/
  | callr (a : VReg) (k : KReg)
  /-- BRS (R129). Branches the whole head run on a scalar test. -/
  | brs (a : SReg) (c : VTest) (off : BitVec 14)
  /-- BIN (R257). Sets primitive bits in the strip bitmaps its row ranges touch. -/
  | bin (d : VReg) (a : VReg) (s : SReg) (w : StripH) (k : KReg)
  /-- COVER (R258). Narrows a 4x4 coverage mask by one edge. -/
  | cover (d : VReg) (a : VReg) (b : VReg) (k : KReg)
  /-- ZTEST (R259). Compares and updates bank depths lane by lane into a mask. -/
  | ztest (cc : DepthCond) (t : KReg) (a : VReg) (b : VReg) (k : KReg)
  /-- TEXQ (R262). Loads the four texels of a bilinear footprint. -/
  | texq (d : VReg) (a : VReg) (s : SReg) (m : TexMode) (k : KReg)
  /-- TEXW (R263). Computes quantised bilinear weights from a coordinate. -/
  | texw (d : VReg) (a : VReg) (b : VReg) (k : KReg)
  /-- RATE (R265). Reads the shading rate in force for the bound chain. -/
  | rate (d : SReg)
  /-- CHAINQ (R266). Reads one item of a chain's status. -/
  | chainq (d : SReg) (a : SReg)
  /-- PROGRESS (R267). Reports work units for the bound chain's current strip, stamped with TIME. -/
  | progress (x : BitVec 16)
  /-- RNG (R269). Draws one Philox block per active lane and advances its index. -/
  | rng (d : VReg) (k : KReg)
  /-- RNGKEY (R271). Sets the RNG key, selects lane-number words and zeroes the indices. -/
  | rngkey (a : SReg)
  /-- TRAP (R272). Raises Software Trap with a code, restarting after the group. -/
  | trap (x : BitVec 16)
  /-- RDSV (R273). Reads a system value into a vector or scalar. -/
  | rdsv (d : SvDest) (id : BitVec 5)
  /-- WRSV (R274). Sets the retired-instruction count, privileged. -/
  | wrsv (a : SReg) (id : BitVec 5)
  /-- RDTIME (R275). Reads TIME in ns. -/
  | rdtime (d : SReg)
  /-- WAITT (R276). Waits until TIME reaches a scalar value. -/
  | waitt (a : SReg)
  /-- FRFLAGS (R163). Reads the sticky flag word into a scalar. -/
  | frflags (a : SReg)
  /-- FWFLAGS (R163). Writes the sticky flags from a scalar. -/
  | fwflags (a : SReg)
  /-- FCFLAGS (R163). Clears the sticky flags a scalar names. -/
  | fcflags (a : SReg)
  /-- FRCFLAGS (R163). Reads the sticky flags and then clears them all. -/
  | frcflags (a : SReg)
  /-- RDSTATE (R277). Reads a hidden-state item, privileged. -/
  | rdstate (d : SReg) (item : BitVec 10)
  /-- WRSTATE (R277). Writes a hidden-state item, privileged. -/
  | wrstate (a : SReg) (item : BitVec 10)
  /-- BRK (R272). Raises Breakpoint with a code, restarting at the group. -/
  | brk (x : BitVec 16)
  /-- HINT_WIDE (R58). Prefixes 20 bits to the next instruction's immediate. -/
  | hintWide (p : BitVec 20)
  /-- HINT_SRC3 (R58). Names the addend register of the next instruction. -/
  | hintSrc3 (r : VReg)
  /-- HINT_OFF (R58). Adds a signed byte offset to every lane's address. -/
  | hintOff (p : BitVec 20)
  /-- HINT_ORDER (R58). Gives the next access its order and scope. -/
  | hintOrder (o : MemOrder) (sc : Scope)
  /-- HINT_CACHE (R58). Sets the allocation policy of the next access. -/
  | hintCache (p : CachePolicy)
  /-- HINT_LASTREAD (R58). Declares marked source registers dead after the group. -/
  | hintLastread (p : BitVec 4)
  /-- HINT_ROUND (R58). Gives the rounding mode that RM() returns. -/
  | hintRound (r : Rm)
  /-- HINT_SCHED (R58). Yields or stalls the crew for scheduling only. -/
  | hintSched (p : SchedHint)
  /-- SCHED_STALL_EXPIRY (R58). The stated stall clocks of a SCHED hint run out and the crew becomes eligible again. -/
  | schedStallExpiry (crew : Nat)
  /-- DOORBELL (R407). A write of a slot number to a BAR2 page submits that slot's launch packet. -/
  | doorbell (page : BitVec 6) (slot : Word)
  /-- LAUNCH_READY (R338). A launch becomes ready when TIME reaches START and its predecessor condition holds. -/
  | launchReady (launch : Nat)
  /-- LAUNCH_BLOCKING (R341). A launch passed over for 1,000,000 ns becomes blocking. -/
  | launchBlocking (launch : Nat)
  /-- CREW_START_COMPLETE (R19). A STARTING crew finishes initialisation and becomes ELIGIBLE. -/
  | crewStartComplete (crew : Nat)
  /-- WAIT_RESOLVED (R19). A WAITING crew's cause clears and it returns to ELIGIBLE or TRAPPED. -/
  | waitResolved (crew : Nat)
  /-- LOAD_RETURN (R109). A load or atomic returns its value to the crew's register. -/
  | loadReturn (crew : Nat)
  /-- STORE_EVENT_PERFORM (R289). A drained store event is performed at its home L2 slice. -/
  | storeEventPerform (crew : Nat)
  /-- L1_DIRTY_EXPIRY (R309). A sector dirty for 2048 clk is written to the L2. -/
  | l1DirtyExpiry (core : Nat)
  /-- WC_LINE_EXPIRY (R312). A write-combining line 2048 clk after its first store is written to its slice. -/
  | wcLineExpiry (core : Nat)
  /-- BLOCK_RETIRE (R17). A block retires once its crews have exited and its stores and copies are done, releasing its resources. -/
  | blockRetire (block : Nat)
  /-- PREEMPTION_ENTRY (R363). A pending pre-emption request is taken and the crew enters its save routine through entry 0x20. -/
  | preemptionEntry (crew : Nat)
  /-- PREEMPTION_RETRY (R365). A request dropped for lack of a save frame is repeated after 1 µs. -/
  | preemptionRetry (crew : Nat)
  /-- CREW_RESUME (R368). The dispatcher places a SAVED crew as STARTING on its residue's partition to run its restore routine. -/
  | crewResume (crew : Nat)
  /-- GANG_TIMEOUT (R222). A rendezvous latch open for 2^20 clk raises Gang Timeout on its crews. -/
  | gangTimeout (leader : Nat)
  /-- MMA_STREAM_END (R212). An MMA finishes its 40 clk of streaming and frees the datapath. -/
  | mmaStreamEnd (core part : Nat)
  /-- WLD_COMPLETE (R208). A WLD finishes writing the shadow plane and sets it valid. -/
  | wldComplete (core part : Nat)
  /-- ACCST_COMPLETE (R216). ACCST's bank writes finish, PEND drops and the tile may become READY. -/
  | accstComplete (core part : Nat)
  /-- COPY_COMPLETE (R251). A copy's writes are performed, releasing them and stepping its tile and counter. -/
  | copyComplete (core : Nat) (queue : BitVec 2)
  /-- LAMP_HOLD_EXPIRY (R345). A lamp held 8 clk without an MMA goes to DONE. -/
  | lampHoldExpiry (cluster : Nat)
  /-- LAMP_BURST_EXPIRY (R345). A burst 4096 clk old goes to DRAIN. -/
  | lampBurstExpiry (cluster : Nat)
  /-- LAMP_BURST_IDLE (R345). A burst 256 clk without an MMA issue goes to DRAIN. -/
  | lampBurstIdle (cluster : Nat)
  /-- LAMP_DRAIN_DONE (R345). A draining cluster's issued MMAs finish and it goes to DONE. -/
  | lampDrainDone (cluster : Nat)
  /-- INVALIDATION_COMPLETE (R331). Once old-translation accesses drain the completion word is written 1. -/
  | invalidationComplete (n : Nat)
  /-- CHAIN_RELEASE (R350). TIME reaches an instance's release time and admission charges partitions. -/
  | chainRelease (handle : BitVec 16)
  /-- RESERVATION_GRANT (R351). A reserving chain gets its partitions, pre-empts class 3 crews and pushes its frame. -/
  | reservationGrant (handle : BitVec 16)
  /-- CHAIN_RESERVE_DEADLINE (R349). TIME passes the deadline before a grant and the chain returns IDLE with event 2. -/
  | chainReserveDeadline (handle : BitVec 16)
  /-- PROGRESS_REPORT (R353). The strip scheduler processes a PROGRESS report, predicting, stepping or finishing. -/
  | progressReport (handle : BitVec 16)
  /-- CHAIN_LATE (R356). TIME passes the deadline plus 1,000 ns without a finish and the chain goes LATE with event 2. -/
  | chainLate (handle : BitVec 16)
  /-- STRIP_DUE (R392). At a strip's due time the engine updates the ring, consuming or missing the index. -/
  | stripDue (head : BitVec 6)
  /-- DISPLAY_READING_END (R394). The serialiser emits a strip's last line and ends its reading. -/
  | displayReadingEnd (head : BitVec 6)
  /-- ENCODER_ROW (R396). An engine codes a ready superblock row as one tile group. -/
  | encoderRow (engine : BitVec 3)
  /-- ISUBMIT (R409). A write to ISUBMIT submits the context page's invalidation descriptor. -/
  | isubmit (ctx : BitVec 6)
  /-- FABID_WRITE (R420). Writes the device's fabric number, ignored while a context exists. -/
  | fabidWrite (v : Word)
  /-- PWRCAP_WRITE (R422). Sets the power cap, clamped to the fused limit. -/
  | pwrcapWrite (v : Word)
  /-- REGISTER_WRITE (R403). A host write to a register with no behaviour of its own. -/
  | registerWrite (off : Nat) (size : Nat) (v : DWord)
  /-- SAMPLE (R382). Every 2^SPLOG clk a core samples one partition's crews of the context. -/
  | sample (core : Nat)
  /-- PTP_MESSAGE (R418). A received PTP message is timestamped and disciplines TIME. -/
  | ptpMessage (msg : PtpMsg)
  /-- FABRIC_FRAME (R420). A received fabric frame delivers requests, responses or acknowledgements. -/
  | fabricFrame (peer : BitVec 4) (msg : FabricMsg)
  /-- FABRIC_RETRANSMIT (R420). Unacknowledged fabric frames are resent go-back-N. -/
  | fabricRetransmit (peer : BitVec 4)
  /-- PEER_UNREACHABLE (R333). A peer silent for 1 ms becomes unreachable and its accesses fault. -/
  | peerUnreachable (peer : BitVec 4)
  /-- CORRECTED_ERROR (R421). A single-bit sector error is corrected and counted. -/
  | correctedError (store : ErrStore) (pa : BitVec 48)
  /-- UNCORRECTABLE_ERROR (R321). An uncorrectable sector error poisons the sector and is logged. -/
  | uncorrectableError (store : ErrStore) (pa : BitVec 48)
  /-- POWER_THROTTLE (R422). Average power over the cap steps the arithmetic clock down or back up. -/
  | powerThrottle (watts : Nat)
  /-- THERMAL_THROTTLE (R422). A junction above 105 °C lowers the clock. -/
  | thermalThrottle (celsius : Nat)
  /-- THERMAL_RESET (R422). A junction at 115 °C resets the module. -/
  | thermalReset (celsius : Nat)
  /-- I3C_READ (R423). Module management reads temperatures, power and status over I3C. -/
  | i3cRead (item : BitVec 8)
  /-- JTAG_ACCESS (R423). A JTAG boundary-scan or fuse-read operation. -/
  | jtagAccess (internal : Bool)
  /-- ILLEGAL_INSTRUCTION (R50). A crew issues a group whose word has an unassigned opcode, including the all-zero word, and raises Illegal Instruction. -/
  | illegalInstruction (w : Word)
  /-- RESERVED_BIT (R49). A crew issues a word of a listed opcode with a nonzero MBZ field or bit and raises Reserved Bit. -/
  | reservedBit (w : Word)
  /-- ILLEGAL_HINT (R56). A hint word of kind 8–15, or with nonzero reserved payload bits, raises Illegal Hint for its group. -/
  | illegalHint (w : Word)
  /-- DISPLAYPORT_LINK_TRAINING (R394). The DisplayPort link with the sink trains to a UHBR or HBR rate and a lane count. -/
  | displayportLinkTraining (port : Bool) (rate : DpRate) (lanes : Nat)
  /-- PCIE_LINK_TRAINING (R401). The PCIe host link trains, down to a lower rate or width if needed. -/
  | pcieLinkTraining (rate : PcieRate) (width : Nat)
  /-- DCFENCE (R190). Brings lines touched through either view to one state, as an acq-rel fence. -/
  | dcfence
  /-- PREDWAIT (R195). Waits until the launch's predecessor has retired, acquiring its stores. -/
  | predwait
  /-- STARTNEXT (R194). Marks the crew started-next for the early-successor point. -/
  | startnext
  /-- MMODE_OFF (R203). Serialises, releases the weight planes and leaves matrix mode. -/
  | mmodeOff
  /-- WSWAP (R209). Exchanges the front and shadow weight planes. -/
  | wswap
  /-- DONE (R237). Decrements the top frame's join counter as a release and pops the frame. -/
  | done
  /-- RET (R132). Pops each lane's return stack and moves it to the popped PC. -/
  | ret
  /-- EXIT (R133). Sets the exited bit of every lane of the head run. -/
  | exit
  /-- NOP (R134). Changes nothing but the PC and the retired count. -/
  | nop
  /-- YIELD (R134). Makes the crew the most recently issued of its class. -/
  | yield
  /-- RETT (R280). Reinstates the held PC table, restores privilege and clears nesting. -/
  | rett
  /-- BLOCK_PLACEMENT (R340). The dispatcher places a block's parts on a cluster when resources and budgets fit. -/
  | blockPlacement
  /-- LAMP_ROUND_ADVANCE (R345). When every lamp holder is DONE the lamps advance one cluster. -/
  | lampRoundAdvance
  /-- INVALIDATION (R331). An invalidation descriptor takes effect, removing cached translations of its range. -/
  | invalidation
  /-- CTXCREATE (R404). Creates a context with its table base and table area. -/
  | ctxcreate
  /-- CTXDESTROY (R404). Destroys a context once nothing of it is resident. -/
  | ctxdestroy
  /-- REGION_LOAD (R438). Loads or reloads an RCB into a region slot after its checks. -/
  | regionLoad
  /-- REGION_REMOVE (R438). Removes a region slot that is not busy. -/
  | regionRemove
  /-- CHAINLOAD (R348). Loads a chain descriptor and binds its region. -/
  | chainload
  /-- CHAINUNLOAD (R349). Unloads a chain and ends any reservation at once. -/
  | chainunload
  /-- HEAD (R385). Writes a virtual head's registers, enabling or disabling it. -/
  | head
  /-- HEAD_HFILL_ONLY (R385). Writes a head's fill colour alone. -/
  | headHfillOnly
  /-- KEYLOAD (R404). Loads an XTS key into a slot and grants it, or revokes it with zeros. -/
  | keyload
  /-- DBGGRANT (R379). Grants debug rights, setting DBGEN. -/
  | dbggrant
  /-- DBGREVOKE (R379). Revokes debug rights, disarming comparators and records. -/
  | dbgrevoke
  /-- LAMPS (R344). Sets the lamp count, effective at a round boundary. -/
  | lamps
  /-- PREEMPT_LAUNCH (R404). Sends a pre-emption request to every crew of a launch. -/
  | preemptLaunch
  /-- PREEMPT_BLOCK (R404). Sends a pre-emption request to every crew of one block. -/
  | preemptBlock
  /-- PREEMPT_CREW (R404). Sends a pre-emption request to one crew. -/
  | preemptCrew
  /-- FAULTANS_RETRY (R374). Answers a suspended fault token so the crew reissues its group. -/
  | faultansRetry
  /-- FAULTANS_DELIVER (R374). Answers a suspended fault token so the crew takes the trap. -/
  | faultansDeliver
  /-- STAGEIN (R406). Copies host memory into a virtual range of the context. -/
  | stagein
  /-- STAGEIN_TABLE (R406). Copies host memory into the context's table area as plaintext. -/
  | stageinTable
  /-- STAGEOUT (R406). Copies a virtual range of the context into host memory. -/
  | stageout
  /-- STAGEOUT_TABLE (R406). Copies from the context's table area into host memory. -/
  | stageoutTable
  /-- KEYFRAME (R398). Requests a key frame on a head. -/
  | keyframe
  /-- ATTEST (R417). Writes a signed attestation report for a nonce. -/
  | attest
  /-- ECLR_COUNTERS (R421). Writing ECLR bit 0 clears the error counters. -/
  | eclrCounters
  /-- ECLR_UELAST (R421). Writing ECLR bit 1 clears UELAST. -/
  | eclrUelast
  /-- BOOT_GO (R415). Setting GO makes the boot ROM read and verify the firmware image. -/
  | bootGo
  /-- BOOT_VERIFY_COMPLETE (R415). Verification ends and the image runs or BOOTST reads 2. -/
  | bootVerifyComplete
  /-- HELD_RECORD_POST (R402). A record held by a full queue is written once room appears. -/
  | heldRecordPost
  /-- WATCHDOG_RESTART (R414). 100 ms without firmware progress restarts the pithead. -/
  | watchdogRestart
  /-- PITHEAD_RESTART_DONE (R414). The restarted pithead reads the journal and resumes commands. -/
  | pitheadRestartDone
  /-- DEVICE_RESET (R415). A reset restarts the device into the boot ROM. -/
  | deviceReset
  /-- POWER_LOSS (R412). Loss of power clears everything including the always-on region. -/
  | powerLoss
  /-- FETCH_FAULT (R127). A fetch of a group's word on an unmapped or non-executable page faults at the group's address for the lanes standing there. -/
  | fetchFault
  deriving DecidableEq, Repr

end Sys2Proof
end

