-- ==== Sys2Proof/Config.lean ====
section
/-!
DEFINITION. What one device fixes and the spec leaves open. Each opaque constant is a free value: nothing can be proved
of it, and no statement rests on what it is (log entries 1 and 3).
-/

namespace Sys2Proof

/-- The special functions of 04 R104. -/
inductive SpecialFn where
  | rcp | rsq | exp2 | log2 | sin | cos
  deriving DecidableEq, Repr

/-- The result a device computes for a special function inside the bounds of 04 Table 4.11 (R106 leaves it open). -/
opaque Config.special : SpecialFn → Word → Word

/-- The sectors that the encoding of a line's 128 bytes takes, in the bounded view or the lossless one (12 R315). -/
opaque Config.encoded : Bool → List Byte → Nat

/-- Byte `n` of a sector of an encoded line read under a key other than the one it was stored under (12 R315, R320), which the
encoding decides: the keys (0 plaintext, else 1 + the 512-bit key), the sector's number and the line's bytes. -/
opaque Config.foreign : Nat → Nat → Nat → List Byte → Nat → Byte

/-- The stepping field of DEVID (00 R3). -/
opaque Config.step : Byte

/-- The fused SHA-384 of the RSA public key that the part trusts (16 R415). -/
opaque Config.rsaKeyHash : BitVec 384

/-- The fused SHA-384 of its SLH-DSA public key. -/
opaque Config.slhKeyHash : BitVec 384

/-- Byte `n` of the ECDSA signature under the device key of an attestation report (16 R417), from the bytes it signs. -/
opaque Config.attest : List Byte → Nat → Byte

/-- The reference frames that a block may name (15 Table 15.7). -/
inductive RefFrame where
  | last | golden
  deriving DecidableEq, Repr

/-- The intra modes (15 Table 15.7). -/
inductive IntraMode where
  | dc | directional | smooth | paeth | cfl
  deriving DecidableEq, Repr

/-- The inter modes (15 Table 15.7). -/
inductive InterMode where
  | newMv | nearestMv | nearMv | globalMv
  deriving DecidableEq, Repr

/-- The transform kinds (15 Table 15.7). -/
inductive TransformKind where
  | dct | adst | identity
  deriving DecidableEq, Repr

/-- The loop filters (15 Table 15.7). -/
inductive LoopFilter where
  | deblocking | cdef | wiener
  deriving DecidableEq, Repr

/-- The tools that an encoder may use (15 Table 15.7): the references, and how many a block names; the tile columns of a frame and the
superblock rows of a tile row; the intra and inter modes; whether the global motion is the identity and EIGHTTAP the one
interpolation filter; the transforms' sides and kinds; the loop filters. -/
structure CodingTools where
  refs : List RefFrame
  refsPerBlock : Nat
  tileCols : Nat
  rowsPerTile : Nat
  intra : List IntraMode
  inter : List InterMode
  identityMotion : Bool
  eightTap : Bool
  sides : List Nat
  kinds : List TransformKind
  filters : List LoopFilter
  deriving DecidableEq, Repr

/-- What the sequence header of a stream says (15 Table 15.7): the frame's size and the fields that the table fixes. -/
structure SeqHeader where
  width : Nat
  height : Nat
  profile : Nat
  maxLevelIdx : Nat
  bitDepth : Nat
  subsampling : Nat × Nat
  primaries : Nat
  transfer : Nat
  matrix : Nat
  fullRange : Bool
  chromaPosition : Nat
  superblock : Nat
  stillPicture : Bool
  reducedStillPicture : Bool
  filmGrain : Bool
  superres : Bool
  tools : CodingTools
  deriving DecidableEq, Repr

/-- One line of samples that a row codes: samples, or, in an inter frame, blocks with skip = 1 and a zero motion vector from LAST
(15 R397). -/
inductive CodedLine where
  | samples (xs : List Nat)
  | skip
  deriving DecidableEq, Repr

/-- One superblock row as an engine codes it (15 R396-R399): its frame and number, whether the frame is a key frame and whether
it refreshes GOLDEN, the qindex, and its luma and chroma lines. -/
structure CodedRow where
  frame : Nat
  row : Nat
  key : Bool
  golden : Bool
  qindex : Nat
  /-- the tile it is coded as: its column and row -/
  tile : Nat × Nat
  /-- the reference frames that its blocks may name; none in a key frame -/
  refs : List (RefFrame × Nat)
  /-- its frame is shown as it is coded -/
  shown : Bool
  luma : List CodedLine
  chroma : List CodedLine
  deriving DecidableEq, Repr

/-- The bytes of a sequence header OBU that says this (15 R395, R400). -/
opaque Config.seqHeader : SeqHeader → List Byte

/-- The bytes of the tile group OBU of the last of the rows that a head's encoder has coded: a function of the sequence header and
of those rows (15 R397). -/
opaque Config.tileGroup : SeqHeader → List CodedRow → List Byte

/-- Byte i of a slot that no translation reaches any more as a consumer reads it (15 R388): the n-th free slot. -/
opaque Config.slotByte : Nat → Nat → Byte

/-- Byte i of an encoder's state area (15 R398) when a row has been coded: the n-th free area. -/
opaque Config.encoderState : Nat → Nat → Byte

/-- The n-th free choice: which of the translations it may use an access takes, when they differ (12 R329), and how many
fuses are blown when power is lost part-way (16 R416). -/
opaque Config.pick : Nat → Nat

/-- A byte returned by a peer device (12 R333): the n-th free byte. -/
opaque Config.peerByte : Nat → Byte

/-- The firmware's own figures in a crash record: PC, address and capability (16 Table 16.6), n-th record, byte m. -/
opaque Config.crash : Nat → Nat → Byte

/-- Byte n of the certificate in the always-on region's last 4 KiB (16 R412). -/
opaque Config.certificate : Nat → Byte

/-- The fused ceiling of lamps (13 R344, 16 R422). -/
def Config.lampCeiling : Nat := 12

end Sys2Proof
end

