-- ==== Sys2Proof/WellFormed.lean ====
section
/-!
DEFINITION. Which terms of `Instr` an encoding can express: the limits that the types of the operands do not already
say (02 R51).
-/

namespace Sys2Proof

/-- The width in bits of a float format (04 Table 4.1). -/
def FFmt.width : FFmt → Nat
  | .fp32 => 32
  | .fp16 => 16
  | .bf16 => 16
  | .e4m3 => 8
  | .e5m2 => 8
  | .e2m1 => 4

/-- The width in bits of an integer format (04 Table 4.3). -/
def IFmt.width : IFmt → Nat
  | .int32 => 32
  | .uint32 => 32
  | .int16 => 16
  | .uint16 => 16
  | .int8 => 8
  | .uint8 => 8
  | .int4 => 4
  | .uint4 => 4

/-- The width in bits of a PACK element format. -/
def ElemFmt.width : ElemFmt → Nat
  | .float f => f.width
  | .int f => f.width

/-- The RDSTATE and WRSTATE items that 10 Tables 10.7 and 10.8 define: group `g`, index `i`. -/
def stateItemOk (item : BitVec 10) : Bool :=
  let g := (item >>> 6).toNat
  let i := item.toNat % 64
  match g with
  | 0 => decide (i ≤ 28)
  | 1 => decide (i < 32)
  | 2 => decide (i < 32)
  | 3 => decide (i < 32)
  | 4 => decide (i < 32)
  | 5 => decide (i < 28)
  | 6 => decide (i < 32)
  | 7 => true
  | _ => false

/-- The limits of 02 R51 that operand types leave open: a PACK or UNPACK index below 32/width and no rounding mode for
an integer PACK, a defined RDSV id with a vector destination for the per-lane ids, WRSV id 21, a defined state item;
and the widths a link or register access can have. -/
def Instr.wf : Instr → Bool
  | .pack _ _ rm n f =>
    decide (n.toNat * f.width < 32) && (match f with | .float _ => true | .int _ => decide (rm = .rne))
  | .unpack _ _ n f => decide (n.toNat * f.width < 32)
  | .rdsv (.vec _) id => decide (id.toNat ≤ 23)
  | .rdsv (.scal _) id => decide (id.toNat ≤ 23) && !(id == 0 || id == 16 || id == 17)
  | .wrsv _ id => id == 21
  | .rdstate _ item => stateItemOk item
  | .wrstate _ item => stateItemOk item
  | .registerWrite _ size _ => size == 1 || size == 2 || size == 4 || size == 8
  | .displayportLinkTraining _ _ lanes => lanes == 1 || lanes == 2 || lanes == 4
  | .pcieLinkTraining _ width => width == 1 || width == 2 || width == 4
  | _ => true

end Sys2Proof
end

