-- ==== Sys2Proof/Machine/Flags.lean ====
section
/-!
DEFINITION. Numbers (chapter 04): exact values, rounding, conversions, exact sums, the exact accumulator, special
functions, and the sticky flags each raises. A finite value is a sign and a magnitude in units of 2^-298, in which every
value, product and sum of the formats is a whole number.
-/

namespace Sys2Proof.Machine

/-- Sticky flags (04 Table 4.9): NX, UF, OF, DZ, NV, RNGWRAP from bit 0 up. -/
abbrev FFlags := BitVec 6

/-- NX, inexact. -/
def fNX : FFlags := 1
/-- UF, underflow. -/
def fUF : FFlags := 2
/-- OF, overflow. -/
def fOF : FFlags := 4
/-- DZ, division by zero. -/
def fDZ : FFlags := 8
/-- NV, invalid operation. -/
def fNV : FFlags := 16
/-- RNGWRAP. -/
def fRNG : FFlags := 32

/-- An exact value: a NaN, an infinity, or a signed magnitude in units of 2^-298 (a zero keeps its sign, 04 R80). -/
inductive XVal where
  | nan
  | inf (neg : Bool)
  | fin (neg : Bool) (m : Nat)
  deriving DecidableEq, Repr

/-- log2 of the unit: a magnitude m stands for m * 2^-298. -/
def unitExp : Nat := 298

/-- The fraction width of a format (04 Table 4.1). -/
def fracBits : FFmt → Nat
  | .fp32 => 23
  | .fp16 => 10
  | .bf16 => 7
  | .e4m3 => 3
  | .e5m2 => 2
  | .e2m1 => 1

/-- The exponent bias of a format (04 Table 4.1). -/
def biasOf : FFmt → Nat
  | .fp32 => 127
  | .fp16 => 15
  | .bf16 => 127
  | .e4m3 => 7
  | .e5m2 => 15
  | .e2m1 => 1

/-- The magnitude encoding of the largest finite value (04 Table 4.2). -/
def maxEnc : FFmt → Nat
  | .fp32 => 0x7F7FFFFF
  | .fp16 => 0x7BFF
  | .bf16 => 0x7F7F
  | .e4m3 => 0x7E
  | .e5m2 => 0x7B
  | .e2m1 => 0x7

/-- The magnitude encoding of infinity; for a format without one, what stands in its place in 04 Table 4.6 (the NaN of
E4M3, the largest value of E2M1). -/
def infEnc : FFmt → Nat
  | .fp32 => 0x7F800000
  | .fp16 => 0x7C00
  | .bf16 => 0x7F80
  | .e4m3 => 0x7F
  | .e5m2 => 0x7C
  | .e2m1 => 0x7

/-- The canonical NaN (04 Table 4.1); E2M1 has none and gives 0 (R90). -/
def canonNaN : FFmt → Nat
  | .fp32 => 0x7FC00000
  | .fp16 => 0x7E00
  | .bf16 => 0x7FC0
  | .e4m3 => 0x7F
  | .e5m2 => 0x7E
  | .e2m1 => 0

/-- The sign bit of a format, set or clear. -/
def signBit (f : FFmt) (neg : Bool) : Nat := if neg then 2 ^ (f.width - 1) else 0

/-- The exponent, in units, of the least significant bit of a subnormal: 1 - bias - fraction width. -/
def subExp (f : FFmt) : Nat := unitExp + 1 - biasOf f - fracBits f

/-- Value(fmt, b) (04 R77, R78). -/
def valueOf (f : FFmt) (b : Nat) : XVal :=
  let neg := b.testBit (f.width - 1)
  let mag := b % 2 ^ (f.width - 1)
  let frac := mag % 2 ^ fracBits f
  let e := mag / 2 ^ fracBits f
  if (match f with
      | .e4m3 => mag == 0x7F
      | .e2m1 => false
      | _ => decide (mag > infEnc f)) then .nan
  else if (match f with
      | .e4m3 => false
      | .e2m1 => false
      | _ => mag == infEnc f) then .inf neg
  else if e = 0 then .fin neg (frac * 2 ^ subExp f)
  else .fin neg ((2 ^ fracBits f + frac) * 2 ^ (subExp f + e - 1))

/-- The value of an FP32 word. -/
def val32 (w : Word) : XVal := valueOf .fp32 w.toNat

/-! ## Rounding -/

/-- Round the magnitude `m`, plus something below one unit when `sticky`, to a multiple of 2^q units under a mode
(04 R85): the multiple, and whether it differs from the exact value. -/
def roundQ (rm : Rm) (neg : Bool) (m : Nat) (sticky : Bool) (q : Nat) : Nat × Bool :=
  let n := m / 2 ^ q
  let r := m % 2 ^ q
  let half := 2 ^ q / 2
  let inexact := r != 0 || sticky
  let up :=
    match rm with
    | .rne => decide (r > half) || (r == half && decide (0 < half) && (sticky || n % 2 == 1))
    | .rtz => false
    | .rup => inexact && !neg
    | .rdn => inexact && neg
    | .rto => inexact && n % 2 == 0
  (if up then n + 1 else n, inexact)

/-- RoundUnbounded (04 R84, R85) as a magnitude encoding that may pass the format's largest, with inexactness and
tininess before rounding. -/
def roundUnbounded (f : FFmt) (rm : Rm) (neg : Bool) (m : Nat) (sticky : Bool) : Nat × Bool × Bool :=
  let q := max (Nat.log2 m - fracBits f) (subExp f)
  let (n, inexact) := roundQ rm neg m sticky q
  ((q - subExp f) * 2 ^ fracBits f + n, inexact, decide (m < 2 ^ (subExp f + fracBits f)))

/-- The overflow result (04 Table 4.6). -/
def overflowResult (f : FFmt) (rm : Rm) (neg : Bool) : Nat :=
  let toInf :=
    match rm with
    | .rne => true
    | .rtz => false
    | .rup => !neg
    | .rdn => neg
    | .rto => false
  if toInf then (match f with | .e4m3 => canonNaN .e4m3 | _ => infEnc f + signBit f neg)
  else maxEnc f + signBit f neg

/-- RoundTo of a finite magnitude (04 R85): the encoding and the flags NX, OF, UF. -/
def roundFin (f : FFmt) (rm : Rm) (neg : Bool) (m : Nat) (sticky : Bool) : Nat × FFlags :=
  if m = 0 ∧ sticky = false then (signBit f neg, 0)
  else
    let (e, inexact, tiny) := roundUnbounded f rm neg m sticky
    if e > maxEnc f then (overflowResult f rm neg, fOF ||| fNX)
    else (e + signBit f neg, if inexact then (if tiny then fUF ||| fNX else fNX) else 0)

/-- RoundTo(fmt, rm, x) (04 R85). -/
def roundTo (f : FFmt) (rm : Rm) : XVal → Nat × FFlags
  | .nan => (canonNaN f, 0)
  | .inf neg => (infEnc f + signBit f neg, 0)
  | .fin neg m => roundFin f rm neg m false

/-- RoundTo an FP32 word. -/
def round32 (rm : Rm) (x : XVal) : Word × FFlags :=
  let (n, fl) := roundTo .fp32 rm x
  (BitVec.ofNat 32 n, fl)

/-! ## Exact products and sums -/

/-- −x; a NaN stays a NaN (06 R140). -/
def XVal.neg : XVal → XVal
  | .nan => .nan
  | .inf s => .inf (!s)
  | .fin s m => .fin (!s) m

/-- The signed number of units of a finite value. -/
def XVal.toInt : XVal → Int
  | .nan => 0
  | .inf _ => 0
  | .fin s m => if s then -(m : Int) else m

/-- An exact integer as a value: 0 is +0. -/
def XVal.ofInt (i : Int) : XVal := .fin (decide (i < 0)) (i.natAbs * 2 ^ unitExp)

/-- ExactProd(a, b) (04 R96). -/
def exactProd (a b : XVal) : XVal × FFlags :=
  match a, b with
  | .nan, _ => (.nan, 0)
  | _, .nan => (.nan, 0)
  | .inf s, .inf t => (.inf (s != t), 0)
  | .inf s, .fin t m => if m = 0 then (.nan, fNV) else (.inf (s != t), 0)
  | .fin s m, .inf t => if m = 0 then (.nan, fNV) else (.inf (s != t), 0)
  | .fin s m, .fin t n => (.fin (s != t) (m * n / 2 ^ unitExp), 0)

/-- Whether a term is a NaN. -/
def XVal.isNan : XVal → Bool
  | .nan => true
  | .inf _ => false
  | .fin _ _ => false

/-- Whether a term is the infinity of a sign. -/
def XVal.isInf (neg : Bool) : XVal → Bool
  | .nan => false
  | .inf s => s == neg
  | .fin _ _ => false

/-- Whether a term is the zero of a sign. -/
def XVal.isZero (neg : Bool) : XVal → Bool
  | .nan => false
  | .inf _ => false
  | .fin s m => s == neg && m == 0

/-- ExactSum(list) (04 R95), a zero signed by R87 under the mode that will round it. -/
def exactSum (rm : Rm) (xs : List XVal) : XVal × FFlags :=
  if xs.any XVal.isNan then (.nan, 0)
  else if xs.any (XVal.isInf false) && xs.any (XVal.isInf true) then (.nan, fNV)
  else if xs.any (XVal.isInf false) then (.inf false, 0)
  else if xs.any (XVal.isInf true) then (.inf true, 0)
  else
    let t := xs.foldl (fun s x => s + x.toInt) (0 : Int)
    if t = 0 then
      if xs.all (XVal.isZero true) then (.fin true 0, 0)
      else if xs.all (XVal.isZero false) then (.fin false 0, 0)
      else (.fin (decide (rm = .rdn)) 0, 0)
    else (.fin (decide (t < 0)) t.natAbs, 0)

/-! ## FP32 arithmetic (06 R139-R145) -/

/-- FADD, and FSUB of a negated operand. -/
def addX (rm : Rm) (a b : XVal) : Word × FFlags :=
  let (s, f1) := exactSum rm [a, b]
  let (r, f2) := round32 rm s
  (r, f1 ||| f2)

/-- FMUL. -/
def mulX (rm : Rm) (a b : XVal) : Word × FFlags :=
  let (p, f1) := exactProd a b
  let (r, f2) := round32 rm p
  (r, f1 ||| f2)

/-- FMA and FNMA (06 R140), `np` negating the product. -/
def fmaX (rm : Rm) (np : Bool) (a b c : XVal) : Word × FFlags :=
  let (p, f1) := exactProd a b
  let (s, f2) := exactSum rm [if np then p.neg else p, c]
  let (r, f3) := round32 rm s
  (r, f1 ||| f2 ||| f3)

/-- FDIV (06 Table 6.3, 04 R89). -/
def divX (rm : Rm) (a b : XVal) : Word × FFlags :=
  match a, b with
  | .nan, _ => round32 rm .nan
  | _, .nan => round32 rm .nan
  | .inf _, .inf _ => (0x7FC00000, fNV)
  | .inf s, .fin t _ => round32 rm (.inf (s != t))
  | .fin s _, .inf t => round32 rm (.fin (s != t) 0)
  | .fin s m, .fin t n =>
    if n = 0 then (if m = 0 then (0x7FC00000, fNV) else ((round32 rm (.inf (s != t))).1, fDZ))
    else
      let q := m * 2 ^ unitExp
      let (e, fl) := roundFin .fp32 rm (s != t) (q / n) (q % n != 0)
      (BitVec.ofNat 32 e, fl)

/-- The largest r below 2^k whose square is at most n, bit by bit from the top. -/
def isqrtFrom (n : Nat) (r : Nat) : Nat → Nat
  | 0 => r
  | k + 1 =>
    let r' := r + 2 ^ k
    isqrtFrom n (if r' * r' ≤ n then r' else r) k

/-- The integer square root. -/
def isqrt (n : Nat) : Nat := isqrtFrom n 0 (Nat.log2 n / 2 + 1)

/-- FSQRT (06 Table 6.3, 04 R89). -/
def sqrtX (rm : Rm) : XVal → Word × FFlags
  | .nan => round32 rm .nan
  | .inf false => round32 rm (.inf false)
  | .inf true => (0x7FC00000, fNV)
  | .fin s m =>
    if m = 0 then round32 rm (.fin s 0)
    else if s then (0x7FC00000, fNV)
    else
      let n := m * 2 ^ unitExp
      let r := isqrt n
      let (e, fl) := roundFin .fp32 rm false r (r * r != n)
      (BitVec.ofNat 32 e, fl)

/-- The place of an FP32 encoding that is no NaN in the order of values, −0 below +0. -/
def orderKey (w : Word) : Int :=
  let mag : Int := (w.toNat % 2 ^ 31 : Nat)
  if w.getLsbD 31 then -mag - 1 else mag

/-- Whether an FP32 word is a NaN. -/
def isNan32 (w : Word) : Bool := decide (w.toNat % 2 ^ 31 > 0x7F800000)

/-- FMIN and FMAX (06 R141). -/
def minMax32 (least : Bool) (a b : Word) : Word :=
  if isNan32 a || isNan32 b then 0x7FC00000
  else if least then (if orderKey a ≤ orderKey b then a else b)
  else (if orderKey a ≥ orderKey b then a else b)

/-- FCMP's conditions (06 Table 6.4): the bit and the flags. −0 and +0 are equal. -/
def fcmpBit (cc : FpCond) (a b : Word) : Bool × FFlags :=
  let un := isNan32 a || isNan32 b
  let key (w : Word) : Int := if w.toNat % 2 ^ 31 = 0 then 0 else if w.getLsbD 31 then -((w.toNat % 2 ^ 31 : Nat) : Int) else w.toNat
  let x := key a
  let y := key b
  match cc with
  | .eq => (!un && decide (x = y), 0)
  | .ne => (un || decide (x ≠ y), 0)
  | .lt => if un then (false, fNV) else (decide (x < y), 0)
  | .le => if un then (false, fNV) else (decide (x ≤ y), 0)
  | .gt => if un then (false, fNV) else (decide (x > y), 0)
  | .ge => if un then (false, fNV) else (decide (x ≥ y), 0)
  | .un => (un, 0)
  | .ord => (!un, 0)

/-- Round a finite magnitude to a whole number of ones under a mode (04 R91): the whole number and inexactness. -/
def roundInt (rm : Rm) (neg : Bool) (m : Nat) : Nat × Bool := roundQ rm neg m false unitExp

/-- FRINT (06 R144). -/
def frint32 (rm : Rm) (w : Word) : Word × FFlags :=
  match val32 w with
  | .nan => (0x7FC00000, 0)
  | .inf _ => (w, 0)
  | .fin s m =>
    let (n, inexact) := roundInt rm s m
    ((round32 .rtz (.fin s (n * 2 ^ unitExp))).1, if inexact then fNX else 0)

/-- FCLASS (06 Table 6.5). -/
def fclass32 (w : Word) : Word :=
  let neg := w.getLsbD 31
  let mag := w.toNat % 2 ^ 31
  if mag > 0x7F800000 then 0x100
  else if mag = 0x7F800000 then (if neg then 0x001 else 0x080)
  else if mag ≥ 0x00800000 then (if neg then 0x002 else 0x040)
  else if mag > 0 then (if neg then 0x004 else 0x020)
  else (if neg then 0x008 else 0x010)

/-! ## Conversions (04 R90, R91) -/

/-- Whether an integer format is signed. -/
def IFmt.signed : IFmt → Bool
  | .int32 => true
  | .uint32 => false
  | .int16 => true
  | .uint16 => false
  | .int8 => true
  | .uint8 => false
  | .int4 => true
  | .uint4 => false

/-- The least value of an integer format (04 Table 4.3). -/
def intMin (f : IFmt) : Int := if IFmt.signed f then -(2 ^ (f.width - 1) : Nat) else 0

/-- The greatest value of an integer format (04 Table 4.3). -/
def intMax (f : IFmt) : Int := if IFmt.signed f then (2 ^ (f.width - 1) : Nat) - 1 else (2 ^ f.width : Nat) - 1

/-- The integer that the low bits of an encoding stand for. -/
def intVal (f : IFmt) (b : Nat) : Int :=
  let x := b % 2 ^ f.width
  if IFmt.signed f && x.testBit (f.width - 1) then (x : Int) - (2 ^ f.width : Nat) else x

/-- SatInt(ifmt, x) (04 R84). -/
def satInt (f : IFmt) (x : Int) : Int := max (intMin f) (min (intMax f) x)

/-- The low w bits of an integer. -/
def lowBits (w : Nat) (x : Int) : Nat := (x % (2 ^ w : Nat)).toNat

/-- Convert with a float source and destination (04 R90). -/
def convFF (d s : FFmt) (rm : Rm) (sat : Bool) (b : Nat) : Nat × FFlags :=
  if d = s then (if (valueOf s b).isNan then (canonNaN d, 0) else (b % 2 ^ s.width, 0))
  else
    match valueOf s b with
    | .nan => if d = .e2m1 then (0, fNV) else (canonNaN d, 0)
    | .inf neg =>
      let fl : FFlags := if sat || d = .e4m3 || d = .e2m1 then fNV else 0
      if sat || d = .e2m1 then (maxEnc d + signBit d neg, fl)
      else if d = .e4m3 then (canonNaN .e4m3, fl)
      else (infEnc d + signBit d neg, fl)
    | .fin neg m =>
      if sat && m != 0 && decide ((roundUnbounded d rm neg m false).1 > maxEnc d) then
        (maxEnc d + signBit d neg, fOF ||| fNX)
      else roundTo d rm (.fin neg m)

/-- Convert with an integer source and a float destination (04 R90, R91). -/
def convIF (d : FFmt) (rm : Rm) (sat : Bool) (x : Int) : Nat × FFlags :=
  match XVal.ofInt x with
  | .nan => (canonNaN d, 0)
  | .inf neg => (infEnc d + signBit d neg, 0)
  | .fin neg m =>
    if sat && m != 0 && decide ((roundUnbounded d rm neg m false).1 > maxEnc d) then
      (maxEnc d + signBit d neg, fOF ||| fNX)
    else roundTo d rm (.fin neg m)

/-- ToInt (04 R91). -/
def toIntX (f : IFmt) (rm : Rm) : XVal → Int × FFlags
  | .nan => (0, fNV)
  | .inf neg => (if neg then intMin f else intMax f, fNV)
  | .fin neg m =>
    let (n, inexact) := roundInt rm neg m
    let y : Int := if neg then -(n : Int) else n
    if y < intMin f then (intMin f, fNV)
    else if y > intMax f then (intMax f, fNV)
    else (y, if inexact then fNX else 0)

/-! ## The exact accumulator (04 R100-R102) -/

/-- AccAdd on (N, FLAGS) (04 R101). -/
def accAdd (n : Int) (fl : Byte) (b : Word) : Int × Byte :=
  match val32 b with
  | .nan => (n, fl ||| 1)
  | .inf false => (n, fl ||| 2)
  | .inf true => (n, fl ||| 4)
  | .fin s m =>
    let v : Int := (m / 2 ^ 149 : Nat)
    let t := if s then n - v else n + v
    let fl' := if t < -(2 ^ 447 : Nat) ∨ t ≥ (2 ^ 447 : Nat) then fl ||| 8 else fl
    (((t + (2 ^ 447 : Nat)) % (2 ^ 448 : Nat)) - (2 ^ 447 : Nat), fl')

/-- AccRead (04 R101). -/
def accRead (n : Int) (fl : Byte) (rm : Rm) : Word × FFlags :=
  if fl.getLsbD 0 then (0x7FC00000, 0)
  else if fl.getLsbD 3 || (fl.getLsbD 1 && fl.getLsbD 2) then (0x7FC00000, fNV)
  else if fl.getLsbD 1 then (0x7F800000, 0)
  else if fl.getLsbD 2 then (0xFF800000, 0)
  else if n = 0 then (0, 0)
  else round32 rm (.fin (decide (n < 0)) (n.natAbs * 2 ^ 149))

/-! ## Special functions (04 R104-R106)

A result is the device's own (`Config.special`) where it lies within the bound of 04 Table 4.11, and else the FP32 value nearest
the exact one. The exact value is enclosed between two whole numbers of units of 2^-320, each step of the lower one rounded down
and of the upper one up, and a result within the bound of both is within it. -/

/-- Fraction bits of the enclosures. -/
def wp : Nat := 320

/-- n / d rounded down, or up. -/
def quo (up : Bool) (n d : Nat) : Nat := if up then (n + d - 1) / d else n / d

/-- log2 of an ulp at a magnitude of m units of 2^-320 (04 R104). -/
def ulpExp (m : Nat) : Nat := max (Nat.log2 m - 23) (wp - 149)

/-- A bound of exp(x), 0 ≤ x ≤ 1, from its series: the terms that are left out are less than the last one. -/
def expBound (up : Bool) (x : Nat) : Nat :=
  let s := (List.range 80).foldl (fun (acc : Nat × Nat) k =>
    let t := quo up (acc.2 * x) (2 ^ wp * (k + 1))
    (acc.1 + t, t)) (2 ^ wp, 2 ^ wp)
  if up then s.1 + s.2 else s.1

/-- A bound of atanh(n / d), n / d ≤ 1/3, from its series: the terms that are left out are less than the last one. -/
def atanhBound (up : Bool) (n d : Nat) : Nat :=
  let s := (List.range 110).foldl (fun (acc : Nat × Nat) k =>
    (acc.1 + quo up acc.2 (2 * k + 1), quo up (acc.2 * (n * n)) (d * d))) (0, quo up (n * 2 ^ wp) d)
  if up then s.1 + s.2 else s.1

/-- A bound of ln 2 = 2 atanh(1/3). -/
def ln2Bound (up : Bool) : Nat := 2 * atanhBound up 1 3

/-- A bound of 2^f, 0 ≤ f ≤ 1. -/
def exp2Bound (up : Bool) (f : Nat) : Nat := expBound up (quo up (f * ln2Bound up) (2 ^ wp))

/-- A bound of log2(n / d), 1 ≤ n / d ≤ 2: 2 atanh((n - d) / (n + d)) / ln 2. -/
def log2Bound (up : Bool) (n d : Nat) : Nat := quo up (2 * atanhBound up (n - d) (n + d) * 2 ^ wp) (ln2Bound (!up))

/-- A bound of 2π. -/
def twoPiBound (up : Bool) : Nat := 13420802360424337830311681948440006481608388178854297901454212848703426437343610760199000777828079 + if up then 1 else 0

/-- The series of sin(2πf), 0 ≤ f ≤ 1/4, with the terms that add and those that take away bounded each its own way: after an even
number of terms it is below the sine, after an odd number above. -/
def sinBound (up : Bool) (f : Nat) : Nat :=
  let x := fun (u : Bool) => quo u (f * twoPiBound u) (2 ^ wp)
  let term := fun (u : Bool) (t i : Nat) => quo u (t * x u * x u) (2 ^ (2 * wp) * ((2 * i + 2) * (2 * i + 3)))
  let s := (List.range (if up then 41 else 40)).foldl (fun (acc : Int × Nat × Nat) i =>
    let t := if i % 2 == 0 then acc.2.1 else acc.2.2
    (if i % 2 = 0 then acc.1 + t else acc.1 - t, term up acc.2.1 i, term (!up) acc.2.2 i)) (0, x up, x (!up))
  s.1.toNat

/-- The device's result if it is within `tol` of every value from `lo` to `hi`, in units of 2^-320, between which the exact one
lies, else the FP32 value nearest it; NX, and OF or UF as 04 R104 says. -/
def boundedResult (fn : SpecialFn) (w : Word) (lo hi : Int) (tol : Nat) : Word × FFlags :=
  let neg := decide (hi ≤ 0)
  let mag := if neg then hi.natAbs else lo.natAbs
  if (2 ^ 24 - 1) * 2 ^ (wp + 104) ≤ mag then (BitVec.ofNat 32 (infEnc .fp32 + signBit .fp32 neg), fOF ||| fNX)
  else
    let r := Config.special fn w
    let ok :=
      match val32 r with
      | .nan => false
      | .inf _ => false
      | .fin s m =>
        let v := (XVal.fin s m).toInt * 2 ^ (wp - unitExp)
        decide (hi - tol ≤ v ∧ v ≤ lo + tol)
    (if ok then r else BitVec.ofNat 32 (roundFin .fp32 .rne neg (mag / 2 ^ (wp - unitExp)) true).1,
      if mag < 2 ^ (wp - 126) then fUF ||| fNX else fNX)

/-- Whether a magnitude is a power of two. -/
def isPow2 (m : Nat) : Bool := m != 0 && m == 2 ^ Nat.log2 m

/-- A positive enclosure with a sign. -/
def signedResult (fn : SpecialFn) (w : Word) (neg : Bool) (lo hi tol : Nat) : Word × FFlags :=
  if neg then boundedResult fn w (-(hi : Int)) (-(lo : Int)) tol else boundedResult fn w lo hi tol

/-- FRCP of a finite nonzero value: exact for ±2^k whose reciprocal is representable, else within 1 ulp. -/
def rcpFin (w : Word) (neg : Bool) (m : Nat) : Word × FFlags :=
  let q := 2 ^ (2 * unitExp)
  if isPow2 m && q / m ≥ 2 ^ 149 && decide (q / m < 2 ^ (unitExp + 128)) then round32 .rne (.fin neg (q / m))
  else
    let lo := quo false (2 ^ (unitExp + wp)) m
    signedResult .rcp w neg lo (quo true (2 ^ (unitExp + wp)) m) (2 ^ ulpExp lo)

/-- FRSQ of a positive finite value: exact for 4^k, else within 1 ulp. -/
def rsqFin (w : Word) (m : Nat) : Word × FFlags :=
  if isPow2 m && (Nat.log2 m) % 2 == 0 then round32 .rne (.fin false (isqrt (2 ^ (3 * unitExp) / m)))
  else
    let lo := isqrt (2 ^ (unitExp + 2 * wp) / m)
    signedResult .rsq w false lo (lo + 1) (2 ^ ulpExp lo)

/-- FEXP2 of a finite value: exact for an integer whose power is representable, else within 2 ulp; OF above, and the
bound on a vanishing result below. -/
def exp2Fin (w : Word) (neg : Bool) (m : Nat) : Word × FFlags :=
  let ip := m / 2 ^ unitExp
  let f := m % 2 ^ unitExp * 2 ^ (wp - unitExp)
  let near := fun (lo hi : Nat) => signedResult .exp2 w false lo hi (2 ^ (ulpExp lo + 1))
  if neg then
    if 200 ≤ ip then near 0 (2 ^ (wp - 200))
    else if f = 0 then (if ip ≤ 149 then round32 .rne (.fin false (2 ^ (unitExp - ip))) else near (2 ^ (wp - ip)) (2 ^ (wp - ip)))
    else
      -- 2^-(ip + f) = 2^(1 - f) / 2^(ip + 1)
      near (quo false (exp2Bound false (2 ^ wp - f)) (2 ^ (ip + 1))) (quo true (exp2Bound true (2 ^ wp - f)) (2 ^ (ip + 1)))
  else if 128 ≤ ip then (0x7F800000, fOF ||| fNX)
  else if f = 0 then round32 .rne (.fin false (2 ^ (unitExp + ip)))
  else near (exp2Bound false f * 2 ^ ip) (exp2Bound true f * 2 ^ ip)

/-- FLOG2 of a positive finite value: exact for 2^k, within 2 ulp outside [0.5, 2], within 2^-22 inside. -/
def log2Fin (w : Word) (m : Nat) : Word × FFlags :=
  let k : Int := (Nat.log2 m : Int) - unitExp
  if isPow2 m then round32 .rne (XVal.ofInt k)
  else
    let d := 2 ^ Nat.log2 m
    let lo : Int := k * (2 ^ wp : Nat) + (log2Bound false m d : Nat)
    let hi : Int := k * (2 ^ wp : Nat) + (log2Bound true m d : Nat)
    let inside := decide (2 ^ (unitExp - 1) ≤ m ∧ m ≤ 2 ^ (unitExp + 1))
    boundedResult .log2 w lo hi (if inside then 2 ^ (wp - 22) else 2 ^ (ulpExp (min lo.natAbs hi.natAbs) + 1))

/-- The larger magnitude 1 is never passed by FSIN and FCOS. -/
def clampOne (r : Word × FFlags) : Word × FFlags :=
  if r.1.toNat % 2 ^ 31 > 0x3F800000 then ((if r.1.getLsbD 31 then 0xBF800000 else 0x3F800000), r.2) else r

/-- FSIN and FCOS of a finite value in turns: exact at multiples of 1/4, else within 2^-22. -/
def sinCosFin (cos : Bool) (w : Word) (neg : Bool) (m : Nat) : Word × FFlags :=
  let one := 2 ^ unitExp
  let t := m % one
  -- the angle as a fraction of a turn in units, sign folded in, cosine shifted by a quarter
  let u := if neg then (one - t) % one else t
  let v := if cos then (u + one / 4) % one else u
  if v % (one / 4) = 0 then
    if v = 0 ∨ v = one / 2 then (if cos = false ∧ m = 0 then (if neg then 0x80000000 else 0, 0) else (0, 0))
    else if v = one / 4 then (0x3F800000, 0)
    else (0xBF800000, 0)
  else
    -- the sine of a turn's second half is that of its first, negated, and each half turn is its own mirror
    let g := v % (one / 2)
    let f := (if g ≤ one / 4 then g else one / 2 - g) * 2 ^ (wp - unitExp)
    clampOne (signedResult (if cos then .cos else .sin) w (decide (one / 2 ≤ v)) (sinBound false f) (sinBound true f) (2 ^ (wp - 22)))

/-- A special function of an FP32 word: the special operands of 04 Table 4.12, then the finite ones. -/
def special32 (fn : SpecialFn) (w : Word) : Word × FFlags :=
  match fn, val32 w with
  | _, .nan => (0x7FC00000, 0)
  | .rcp, .inf s => (if s then 0x80000000 else 0, 0)
  | .rsq, .inf s => if s then (0x7FC00000, fNV) else (0, 0)
  | .exp2, .inf s => (if s then 0 else 0x7F800000, 0)
  | .log2, .inf s => if s then (0x7FC00000, fNV) else (0x7F800000, 0)
  | .sin, .inf _ => (0x7FC00000, fNV)
  | .cos, .inf _ => (0x7FC00000, fNV)
  | .rcp, .fin s m => if m = 0 then (if s then 0xFF800000 else 0x7F800000, fDZ) else rcpFin w s m
  | .rsq, .fin s m =>
    if m = 0 then (if s then 0xFF800000 else 0x7F800000, fDZ)
    else if s then (0x7FC00000, fNV)
    else rsqFin w m
  | .exp2, .fin s m => if m = 0 then (0x3F800000, 0) else exp2Fin w s m
  | .log2, .fin s m =>
    if m = 0 then (0xFF800000, fDZ)
    else if s then (0x7FC00000, fNV)
    else log2Fin w m
  | .sin, .fin s m => sinCosFin false w s m
  | .cos, .fin s m => sinCosFin true w s m

end Sys2Proof.Machine
end

