-- ==== Sys2Proof/Decode.lean ====
section
/-!
DEFINITION. The decoder, total on any word, and after it the encoder, both written from 02 Tables 2.1 to 2.6; then
`decodeTableWord`, which reads a word numbered as the opcode table numbers its bits.
-/

namespace Sys2Proof

/-- What the decoder says of one word: an instruction; a reserved opcode or field value (Illegal Instruction, 02 R50,
R51); an instruction whose must-be-zero bits are not zero (Reserved Bit, 02 R49); a hint with a reserved kind or
payload (Illegal Hint, 02 R56). -/
inductive Decoded where
  | ok (i : Instr)
  | illegal
  | reserved (i : Instr)
  | badHint
  deriving DecidableEq, Repr

/-! ## Field codes -/

/-- The IntCond of a field value (02 Table 2.2). -/
def IntCond.ofBits (x : BitVec 4) : Option IntCond :=
  if x = 0 then some .eq
  else if x = 1 then some .ne
  else if x = 2 then some .lt
  else if x = 3 then some .le
  else if x = 4 then some .gt
  else if x = 5 then some .ge
  else if x = 6 then some .ltu
  else if x = 7 then some .leu
  else if x = 8 then some .gtu
  else if x = 9 then some .geu
  else none

/-- The field value of a IntCond (02 Table 2.2). -/
def IntCond.toBits : IntCond → BitVec 4
  | .eq => 0
  | .ne => 1
  | .lt => 2
  | .le => 3
  | .gt => 4
  | .ge => 5
  | .ltu => 6
  | .leu => 7
  | .gtu => 8
  | .geu => 9

/-- The FpCond of a field value (02 Table 2.2). -/
def FpCond.ofBits (x : BitVec 4) : Option FpCond :=
  if x = 0 then some .eq
  else if x = 1 then some .ne
  else if x = 2 then some .lt
  else if x = 3 then some .le
  else if x = 4 then some .gt
  else if x = 5 then some .ge
  else if x = 6 then some .un
  else if x = 7 then some .ord
  else none

/-- The field value of a FpCond (02 Table 2.2). -/
def FpCond.toBits : FpCond → BitVec 4
  | .eq => 0
  | .ne => 1
  | .lt => 2
  | .le => 3
  | .gt => 4
  | .ge => 5
  | .un => 6
  | .ord => 7

/-- The DepthCond of a field value (02 Table 2.2). -/
def DepthCond.ofBits (x : BitVec 4) : Option DepthCond :=
  if x = 0 then some .never
  else if x = 1 then some .less
  else if x = 2 then some .equal
  else if x = 3 then some .lequal
  else if x = 4 then some .greater
  else if x = 5 then some .notequal
  else if x = 6 then some .gequal
  else if x = 7 then some .always
  else none

/-- The field value of a DepthCond (02 Table 2.2). -/
def DepthCond.toBits : DepthCond → BitVec 4
  | .never => 0
  | .less => 1
  | .equal => 2
  | .lequal => 3
  | .greater => 4
  | .notequal => 5
  | .gequal => 6
  | .always => 7

/-- The VTest of a field value (05 R128). -/
def VTest.ofBits (x : BitVec 3) : Option VTest :=
  if x = 0 then some .eqz
  else if x = 1 then some .nez
  else if x = 2 then some .ltz
  else if x = 3 then some .gez
  else if x = 4 then some .gtz
  else if x = 5 then some .lez
  else none

/-- The field value of a VTest (05 R128). -/
def VTest.toBits : VTest → BitVec 3
  | .eqz => 0
  | .nez => 1
  | .ltz => 2
  | .gez => 3
  | .gtz => 4
  | .lez => 5

/-- The Width of a field value (02 R49). -/
def Width.ofBits (x : BitVec 2) : Option Width :=
  if x = 0 then some .w4
  else if x = 1 then some .w8
  else if x = 2 then some .w16
  else none

/-- The field value of a Width (02 R49). -/
def Width.toBits : Width → BitVec 2
  | .w4 => 0
  | .w8 => 1
  | .w16 => 2

/-- The SubWidth of a field value (02 Table 2.4). -/
def SubWidth.ofBits (x : BitVec 2) : SubWidth :=
  if x = 0 then .u8
  else if x = 1 then .s8
  else if x = 2 then .u16
  else .s16

/-- The field value of a SubWidth (02 Table 2.4). -/
def SubWidth.toBits : SubWidth → BitVec 2
  | .u8 => 0
  | .s8 => 1
  | .u16 => 2
  | .s16 => 3

/-- The AtomOp of a field value (02 Table 2.5). -/
def AtomOp.ofBits (x : BitVec 3) : AtomOp :=
  if x = 0 then .add
  else if x = 1 then .min
  else if x = 2 then .max
  else if x = 3 then .minu
  else if x = 4 then .maxu
  else if x = 5 then .and
  else if x = 6 then .or
  else .xor

/-- The field value of a AtomOp (02 Table 2.5). -/
def AtomOp.toBits : AtomOp → BitVec 3
  | .add => 0
  | .min => 1
  | .max => 2
  | .minu => 3
  | .maxu => 4
  | .and => 5
  | .or => 6
  | .xor => 7

/-- The RedOp of a field value (02 Table 2.5). -/
def RedOp.ofBits (x : BitVec 3) : RedOp :=
  if x = 0 then .add
  else if x = 1 then .min
  else if x = 2 then .max
  else if x = 3 then .minu
  else if x = 4 then .maxu
  else if x = 5 then .fadd
  else if x = 6 then .fmin
  else .fmax

/-- The field value of a RedOp (02 Table 2.5). -/
def RedOp.toBits : RedOp → BitVec 3
  | .add => 0
  | .min => 1
  | .max => 2
  | .minu => 3
  | .maxu => 4
  | .fadd => 5
  | .fmin => 6
  | .fmax => 7

/-- The Pair2 of a field value (02 Table 2.5). -/
def Pair2.ofBits (x : BitVec 3) : Option Pair2 :=
  if x = 0 then some .fp16
  else if x = 1 then some .bf16
  else none

/-- The field value of a Pair2 (02 Table 2.5). -/
def Pair2.toBits : Pair2 → BitVec 3
  | .fp16 => 0
  | .bf16 => 1

/-- The Pair4 of a field value (02 Table 2.5). -/
def Pair4.ofBits (x : BitVec 3) : Option Pair4 :=
  if x = 0 then some .ss
  else if x = 1 then some .uu
  else if x = 2 then some .su
  else if x = 3 then some .e4e4
  else if x = 4 then some .e5e5
  else if x = 5 then some .e4e5
  else none

/-- The field value of a Pair4 (02 Table 2.5). -/
def Pair4.toBits : Pair4 → BitVec 3
  | .ss => 0
  | .uu => 1
  | .su => 2
  | .e4e4 => 3
  | .e5e5 => 4
  | .e4e5 => 5

/-- The Pair8 of a field value (02 Table 2.5). -/
def Pair8.ofBits (x : BitVec 3) : Option Pair8 :=
  if x = 0 then some .ss
  else if x = 1 then some .uu
  else if x = 2 then some .su
  else if x = 3 then some .e2e2
  else none

/-- The field value of a Pair8 (02 Table 2.5). -/
def Pair8.toBits : Pair8 → BitVec 3
  | .ss => 0
  | .uu => 1
  | .su => 2
  | .e2e2 => 3

/-- The FFmt of a field value (02 Table 2.10). -/
def FFmt.ofBits (x : BitVec 3) : Option FFmt :=
  if x = 0 then some .fp32
  else if x = 1 then some .fp16
  else if x = 2 then some .bf16
  else if x = 3 then some .e4m3
  else if x = 4 then some .e5m2
  else if x = 5 then some .e2m1
  else none

/-- The field value of a FFmt (02 Table 2.10). -/
def FFmt.toBits : FFmt → BitVec 3
  | .fp32 => 0
  | .fp16 => 1
  | .bf16 => 2
  | .e4m3 => 3
  | .e5m2 => 4
  | .e2m1 => 5

/-- The IFmt of a field value (02 Table 2.10). -/
def IFmt.ofBits (x : BitVec 3) : IFmt :=
  if x = 0 then .int32
  else if x = 1 then .uint32
  else if x = 2 then .int16
  else if x = 3 then .uint16
  else if x = 4 then .int8
  else if x = 5 then .uint8
  else if x = 6 then .int4
  else .uint4

/-- The field value of a IFmt (02 Table 2.10). -/
def IFmt.toBits : IFmt → BitVec 3
  | .int32 => 0
  | .uint32 => 1
  | .int16 => 2
  | .uint16 => 3
  | .int8 => 4
  | .uint8 => 5
  | .int4 => 6
  | .uint4 => 7

/-- The Rm of a field value (02 Table 2.10). -/
def Rm.ofBits (x : BitVec 3) : Option Rm :=
  if x = 0 then some .rne
  else if x = 1 then some .rtz
  else if x = 2 then some .rup
  else if x = 3 then some .rdn
  else if x = 4 then some .rto
  else none

/-- The field value of a Rm (02 Table 2.10). -/
def Rm.toBits : Rm → BitVec 3
  | .rne => 0
  | .rtz => 1
  | .rup => 2
  | .rdn => 3
  | .rto => 4

/-- The MFmt of a field value (02 Table 2.5). -/
def MFmt.ofBits (x : BitVec 3) : MFmt :=
  if x = 0 then .int8
  else if x = 1 then .uint8
  else if x = 2 then .e4m3
  else if x = 3 then .e5m2
  else if x = 4 then .int4
  else if x = 5 then .e2m1
  else if x = 6 then .fp16
  else .bf16

/-- The field value of a MFmt (02 Table 2.5). -/
def MFmt.toBits : MFmt → BitVec 3
  | .int8 => 0
  | .uint8 => 1
  | .e4m3 => 2
  | .e5m2 => 3
  | .int4 => 4
  | .e2m1 => 5
  | .fp16 => 6
  | .bf16 => 7

/-- The AccConv of a field value (08 Table 8.6). -/
def AccConv.ofBits (x : BitVec 3) : AccConv :=
  if x = 0 then .raw
  else if x = 1 then .fp16
  else if x = 2 then .bf16
  else if x = 3 then .e4m3
  else if x = 4 then .e5m2
  else if x = 5 then .int8
  else if x = 6 then .uint8
  else .int16

/-- The field value of a AccConv (08 Table 8.6). -/
def AccConv.toBits : AccConv → BitVec 3
  | .raw => 0
  | .fp16 => 1
  | .bf16 => 2
  | .e4m3 => 3
  | .e5m2 => 4
  | .int8 => 5
  | .uint8 => 6
  | .int16 => 7

/-- The TileSt of a field value (02 Table 2.10). -/
def TileSt.ofBits (x : BitVec 2) : TileSt :=
  if x = 0 then .empty
  else if x = 1 then .filling
  else if x = 2 then .ready
  else .draining

/-- The field value of a TileSt (02 Table 2.10). -/
def TileSt.toBits : TileSt → BitVec 2
  | .empty => 0
  | .filling => 1
  | .ready => 2
  | .draining => 3

/-- The Scope of a field value (02 Table 2.10). -/
def Scope.ofBits (x : BitVec 3) : Option Scope :=
  if x = 0 then some .crew
  else if x = 1 then some .block
  else if x = 2 then some .cluster
  else if x = 3 then some .device
  else if x = 4 then some .system
  else none

/-- The field value of a Scope (02 Table 2.10). -/
def Scope.toBits : Scope → BitVec 3
  | .crew => 0
  | .block => 1
  | .cluster => 2
  | .device => 3
  | .system => 4

/-- The FenceOrder of a field value (02 Table 2.4). -/
def FenceOrder.ofBits (x : BitVec 2) : FenceOrder :=
  if x = 0 then .sc
  else if x = 1 then .acquire
  else if x = 2 then .release
  else .acqrel

/-- The field value of a FenceOrder (02 Table 2.4). -/
def FenceOrder.toBits : FenceOrder → BitVec 2
  | .sc => 0
  | .acquire => 1
  | .release => 2
  | .acqrel => 3

/-- The StripH of a field value (02 Table 2.4). -/
def StripH.ofBits (x : BitVec 2) : Option StripH :=
  if x = 0 then some .h8
  else if x = 1 then some .h16
  else if x = 2 then some .h32
  else none

/-- The field value of a StripH (02 Table 2.4). -/
def StripH.toBits : StripH → BitVec 2
  | .h8 => 0
  | .h16 => 1
  | .h32 => 2

/-- The TexMode of a field value (02 Table 2.4). -/
def TexMode.ofBits (x : BitVec 2) : TexMode :=
  if x = 0 then .wrap
  else if x = 1 then .clamp
  else if x = 2 then .mirror
  else .border

/-- The field value of a TexMode (02 Table 2.4). -/
def TexMode.toBits : TexMode → BitVec 2
  | .wrap => 0
  | .clamp => 1
  | .mirror => 2
  | .border => 3

/-- The CopySize of a field value (02 Table 2.5). -/
def CopySize.ofBits (x : BitVec 2) : Option CopySize :=
  if x = 0 then some .c4
  else if x = 1 then some .c8
  else if x = 2 then some .c16
  else none

/-- The field value of a CopySize (02 Table 2.5). -/
def CopySize.toBits : CopySize → BitVec 2
  | .c4 => 0
  | .c8 => 1
  | .c16 => 2

/-- The MemOrder of a field value (02 Table 2.6). -/
def MemOrder.ofBits (x : BitVec 2) : MemOrder :=
  if x = 0 then .plain
  else if x = 1 then .acquire
  else if x = 2 then .release
  else .acqrel

/-- The field value of a MemOrder (02 Table 2.6). -/
def MemOrder.toBits : MemOrder → BitVec 2
  | .plain => 0
  | .acquire => 1
  | .release => 2
  | .acqrel => 3

/-- The CachePolicy of a field value (02 Table 2.6). -/
def CachePolicy.ofBits (x : BitVec 3) : Option CachePolicy :=
  if x = 0 then some .dflt
  else if x = 1 then some .stream
  else if x = 2 then some .l2only
  else if x = 3 then some .retain
  else if x = 4 then some .noalloc
  else none

/-- The field value of a CachePolicy (02 Table 2.6). -/
def CachePolicy.toBits : CachePolicy → BitVec 3
  | .dflt => 0
  | .stream => 1
  | .l2only => 2
  | .retain => 3
  | .noalloc => 4

/-- The element format of PACK and UNPACK: I[3] the kind, I[2:0] the code (06 R153). -/
def ElemFmt.ofBits (x : BitVec 4) : Option ElemFmt :=
  if x.getLsbD 3 then some (.int (IFmt.ofBits (x.extractLsb' 0 3)))
  else (FFmt.ofBits (x.extractLsb' 0 3)).map ElemFmt.float

/-- The kind and format bits of a PACK element format. -/
def ElemFmt.toBits : ElemFmt → BitVec 4
  | .float f => f.toBits.setWidth 4
  | .int f => f.toBits.setWidth 4 ||| 8

/-- PACK's rounding field: a rounding code for a float element, must-be-zero bits for an integer one (06 R153). -/
def packRm (f : ElemFmt) (x : BitVec 3) : Option Rm :=
  match f with
  | .float _ => Rm.ofBits x
  | .int _ => some .rne

/-- BR's condition and register fields (05 R128): C 0-5 test a vector, 6 and 7 a mask register. -/
def brOp (c : BitVec 3) (a : BitVec 7) : BrOp :=
  match VTest.ofBits c with
  | some t => .vec t a
  | none => .mask (c == 6) (a.setWidth 3)

/-- The A field of BR, in place. -/
def brA : BrOp → Word
  | .vec _ a => a.setWidth 32
  | .mask _ k => k.setWidth 32

/-- The C field of BR, in place. -/
def brC : BrOp → Word
  | .vec t _ => t.toBits.setWidth 32
  | .mask true _ => 6
  | .mask false _ => 7

/-- RDSV's destination from I[5] and D (10 R273). -/
def svDest (scal : Bool) (d : BitVec 7) : SvDest := if scal then .scal (d.setWidth 5) else .vec d

/-- The D field of RDSV, in place. -/
def svD : SvDest → Word
  | .vec d => d.setWidth 32
  | .scal d => d.setWidth 32

/-- The I[5] bit of RDSV. -/
def svI : SvDest → Word
  | .vec _ => 0
  | .scal _ => 1

/-- The SCHED payload (02 Table 2.6): P[1:0] 0 none, 1 yield, 2 stall with P[7:2] clocks less one. -/
def schedOf (p : BitVec 20) : Option SchedHint :=
  if p.extractLsb' 8 12 ≠ 0 then none
  else if p.extractLsb' 0 2 = 2 then some (.stall (p.extractLsb' 2 6))
  else if p.extractLsb' 2 6 ≠ 0 then none
  else if p.extractLsb' 0 2 = 0 then some .none
  else if p.extractLsb' 0 2 = 1 then some .yield
  else none

/-- The payload bits of a SCHED hint. -/
def schedBits : SchedHint → Word
  | .none => 0
  | .yield => 1
  | .stall n => (n.setWidth 32 <<< 2) ||| 2

/-! ## The decoder -/

/-- Opcodes 0x01 to 0x22 of 02 Table 2.4; `none` for a reserved opcode or field value. -/
def decodeArith (w : Word) (op : Nat) : Option Instr :=
  match op with
  | 0x01 => some (.add (w.extractLsb' 17 7) (w.extractLsb' 10 7) (w.extractLsb' 3 7) (w.extractLsb' 0 3))
  | 0x02 => some (.sub (w.extractLsb' 17 7) (w.extractLsb' 10 7) (w.extractLsb' 3 7) (w.extractLsb' 0 3))
  | 0x03 => some (.addi (w.extractLsb' 17 7) (w.extractLsb' 10 7) (w.extractLsb' 0 10))
  | 0x04 => some (.mul (w.extractLsb' 17 7) (w.extractLsb' 10 7) (w.extractLsb' 3 7) (w.extractLsb' 0 3))
  | 0x05 => some (.mulhi (w.extractLsb' 17 7) (w.extractLsb' 10 7) (w.extractLsb' 3 7) (w.extractLsb' 0 3))
  | 0x06 => some (.mulhiu (w.extractLsb' 17 7) (w.extractLsb' 10 7) (w.extractLsb' 3 7) (w.extractLsb' 0 3))
  | 0x07 => some (.mad (w.extractLsb' 17 7) (w.extractLsb' 10 7) (w.extractLsb' 3 7) (w.extractLsb' 0 3))
  | 0x08 => some (.div_ (w.extractLsb' 17 7) (w.extractLsb' 10 7) (w.extractLsb' 3 7) (w.extractLsb' 0 3))
  | 0x09 => some (.divu (w.extractLsb' 17 7) (w.extractLsb' 10 7) (w.extractLsb' 3 7) (w.extractLsb' 0 3))
  | 0x0A => some (.rem (w.extractLsb' 17 7) (w.extractLsb' 10 7) (w.extractLsb' 3 7) (w.extractLsb' 0 3))
  | 0x0B => some (.remu (w.extractLsb' 17 7) (w.extractLsb' 10 7) (w.extractLsb' 3 7) (w.extractLsb' 0 3))
  | 0x0C => some (.min_ (w.extractLsb' 17 7) (w.extractLsb' 10 7) (w.extractLsb' 3 7) (w.extractLsb' 0 3))
  | 0x0D => some (.max_ (w.extractLsb' 17 7) (w.extractLsb' 10 7) (w.extractLsb' 3 7) (w.extractLsb' 0 3))
  | 0x0E => some (.minu (w.extractLsb' 17 7) (w.extractLsb' 10 7) (w.extractLsb' 3 7) (w.extractLsb' 0 3))
  | 0x0F => some (.maxu (w.extractLsb' 17 7) (w.extractLsb' 10 7) (w.extractLsb' 3 7) (w.extractLsb' 0 3))
  | 0x10 => some (.and_ (w.extractLsb' 17 7) (w.extractLsb' 10 7) (w.extractLsb' 3 7) (w.extractLsb' 0 3))
  | 0x11 => some (.or_ (w.extractLsb' 17 7) (w.extractLsb' 10 7) (w.extractLsb' 3 7) (w.extractLsb' 0 3))
  | 0x12 => some (.xor_ (w.extractLsb' 17 7) (w.extractLsb' 10 7) (w.extractLsb' 3 7) (w.extractLsb' 0 3))
  | 0x13 => some (.andn (w.extractLsb' 17 7) (w.extractLsb' 10 7) (w.extractLsb' 3 7) (w.extractLsb' 0 3))
  | 0x14 => some (.andi (w.extractLsb' 17 7) (w.extractLsb' 10 7) (w.extractLsb' 0 10))
  | 0x15 => some (.ori (w.extractLsb' 17 7) (w.extractLsb' 10 7) (w.extractLsb' 0 10))
  | 0x16 => some (.xori (w.extractLsb' 17 7) (w.extractLsb' 10 7) (w.extractLsb' 0 10))
  | 0x17 => some (.shl (w.extractLsb' 17 7) (w.extractLsb' 10 7) (w.extractLsb' 3 7) (w.extractLsb' 0 3))
  | 0x18 => some (.shr (w.extractLsb' 17 7) (w.extractLsb' 10 7) (w.extractLsb' 3 7) (w.extractLsb' 0 3))
  | 0x19 => some (.sar (w.extractLsb' 17 7) (w.extractLsb' 10 7) (w.extractLsb' 3 7) (w.extractLsb' 0 3))
  | 0x1A => some (.shli (w.extractLsb' 17 7) (w.extractLsb' 10 7) (w.extractLsb' 0 5))
  | 0x1B => some (.shri (w.extractLsb' 17 7) (w.extractLsb' 10 7) (w.extractLsb' 0 5))
  | 0x1C => some (.sari (w.extractLsb' 17 7) (w.extractLsb' 10 7) (w.extractLsb' 0 5))
  | 0x1D => some (.bfx (w.extractLsb' 17 7) (w.extractLsb' 10 7) (w.extractLsb' 5 5) (w.extractLsb' 0 5))
  | 0x1E => some (.bfxs (w.extractLsb' 17 7) (w.extractLsb' 10 7) (w.extractLsb' 5 5) (w.extractLsb' 0 5))
  | 0x1F => some (.bfi (w.extractLsb' 17 7) (w.extractLsb' 10 7) (w.extractLsb' 5 5) (w.extractLsb' 0 5))
  | 0x20 => some (.popc (w.extractLsb' 17 7) (w.extractLsb' 10 7) (w.extractLsb' 0 3))
  | 0x21 => some (.clz (w.extractLsb' 17 7) (w.extractLsb' 10 7) (w.extractLsb' 0 3))
  | 0x22 => some (.brev (w.extractLsb' 17 7) (w.extractLsb' 10 7) (w.extractLsb' 0 3))
  | _ => none

/-- Opcodes 0x23 to 0x3F of 02 Table 2.4; `none` for a reserved opcode or field value. -/
def decodeScalar (w : Word) (op : Nat) : Option Instr :=
  match op with
  | 0x23 => (IntCond.ofBits (w.extractLsb' 20 4)).bind fun xcc => some (.icmp xcc (w.extractLsb' 17 3) (w.extractLsb' 10 7) (w.extractLsb' 3 7) (w.extractLsb' 0 3))
  | 0x24 => (IntCond.ofBits (w.extractLsb' 20 4)).bind fun xcc => some (.icmpi xcc (w.extractLsb' 17 3) (w.extractLsb' 10 7) (w.extractLsb' 0 10))
  | 0x25 => some (.sel (w.extractLsb' 17 7) (w.extractLsb' 10 7) (w.extractLsb' 3 7) (w.extractLsb' 0 3))
  | 0x26 => some (.kand (w.extractLsb' 17 3) (w.extractLsb' 10 3) (w.extractLsb' 3 3))
  | 0x27 => some (.kor (w.extractLsb' 17 3) (w.extractLsb' 10 3) (w.extractLsb' 3 3))
  | 0x28 => some (.kxor (w.extractLsb' 17 3) (w.extractLsb' 10 3) (w.extractLsb' 3 3))
  | 0x29 => some (.kandn (w.extractLsb' 17 3) (w.extractLsb' 10 3) (w.extractLsb' 3 3))
  | 0x2A => some (.ktov (w.extractLsb' 17 7) (w.extractLsb' 10 3) (w.extractLsb' 0 3))
  | 0x2B => some (.vtok (w.extractLsb' 17 3) (w.extractLsb' 10 7) (w.extractLsb' 0 3))
  | 0x2C => some (.movi (w.extractLsb' 17 7) (w.extractLsb' 0 17))
  | 0x2D => some (.mov (w.extractLsb' 17 7) (w.extractLsb' 10 7) (w.extractLsb' 0 3))
  | 0x2E => some (.bcast (w.extractLsb' 17 7) (w.extractLsb' 10 5) (w.extractLsb' 0 3))
  | 0x2F => some (.getlane (w.extractLsb' 17 5) (w.extractLsb' 10 7) (w.extractLsb' 0 5))
  | 0x30 => some (.add64 (w.extractLsb' 17 7) (w.extractLsb' 10 7) (w.extractLsb' 3 7) (w.extractLsb' 0 3))
  | 0x31 => some (.lea (w.extractLsb' 17 7) (w.extractLsb' 10 7) (w.extractLsb' 3 7) (w.extractLsb' 0 3))
  | 0x34 => some (.sadd (w.extractLsb' 17 5) (w.extractLsb' 10 5) (w.extractLsb' 3 5))
  | 0x35 => some (.ssub (w.extractLsb' 17 5) (w.extractLsb' 10 5) (w.extractLsb' 3 5))
  | 0x36 => some (.saddi (w.extractLsb' 17 5) (w.extractLsb' 10 5) (w.extractLsb' 0 10))
  | 0x37 => some (.smul (w.extractLsb' 17 5) (w.extractLsb' 10 5) (w.extractLsb' 3 5))
  | 0x38 => some (.sand (w.extractLsb' 17 5) (w.extractLsb' 10 5) (w.extractLsb' 3 5))
  | 0x39 => some (.sor (w.extractLsb' 17 5) (w.extractLsb' 10 5) (w.extractLsb' 3 5))
  | 0x3A => some (.sxor (w.extractLsb' 17 5) (w.extractLsb' 10 5) (w.extractLsb' 3 5))
  | 0x3B => some (.sshli (w.extractLsb' 17 5) (w.extractLsb' 10 5) (w.extractLsb' 0 6))
  | 0x3C => some (.sshri (w.extractLsb' 17 5) (w.extractLsb' 10 5) (w.extractLsb' 0 6))
  | 0x3D => some (.smovi (w.extractLsb' 17 5) (w.extractLsb' 0 17))
  | 0x3E => (IntCond.ofBits (w.extractLsb' 20 4)).bind fun xcc => some (.scmp xcc (w.extractLsb' 17 3) (w.extractLsb' 10 5) (w.extractLsb' 3 5))
  | 0x3F => some (.ssari (w.extractLsb' 17 5) (w.extractLsb' 10 5) (w.extractLsb' 0 6))
  | _ => none

/-- Opcodes 0x40 to 0x53 of 02 Table 2.4; `none` for a reserved opcode or field value. -/
def decodeFloat (w : Word) (op : Nat) : Option Instr :=
  match op with
  | 0x40 => some (.fadd (w.extractLsb' 17 7) (w.extractLsb' 10 7) (w.extractLsb' 3 7) (w.extractLsb' 0 3))
  | 0x41 => some (.fsub (w.extractLsb' 17 7) (w.extractLsb' 10 7) (w.extractLsb' 3 7) (w.extractLsb' 0 3))
  | 0x42 => some (.fmul (w.extractLsb' 17 7) (w.extractLsb' 10 7) (w.extractLsb' 3 7) (w.extractLsb' 0 3))
  | 0x43 => some (.fma (w.extractLsb' 17 7) (w.extractLsb' 10 7) (w.extractLsb' 3 7) (w.extractLsb' 0 3))
  | 0x44 => some (.fnma (w.extractLsb' 17 7) (w.extractLsb' 10 7) (w.extractLsb' 3 7) (w.extractLsb' 0 3))
  | 0x45 => some (.fmin (w.extractLsb' 17 7) (w.extractLsb' 10 7) (w.extractLsb' 3 7) (w.extractLsb' 0 3))
  | 0x46 => some (.fmax (w.extractLsb' 17 7) (w.extractLsb' 10 7) (w.extractLsb' 3 7) (w.extractLsb' 0 3))
  | 0x47 => (FpCond.ofBits (w.extractLsb' 20 4)).bind fun xcc => some (.fcmp xcc (w.extractLsb' 17 3) (w.extractLsb' 10 7) (w.extractLsb' 3 7) (w.extractLsb' 0 3))
  | 0x48 => some (.fdiv (w.extractLsb' 17 7) (w.extractLsb' 10 7) (w.extractLsb' 3 7) (w.extractLsb' 0 3))
  | 0x49 => some (.fsqrt (w.extractLsb' 17 7) (w.extractLsb' 10 7) (w.extractLsb' 0 3))
  | 0x4A => some (.frcp (w.extractLsb' 17 7) (w.extractLsb' 10 7) (w.extractLsb' 0 3))
  | 0x4B => some (.frsq (w.extractLsb' 17 7) (w.extractLsb' 10 7) (w.extractLsb' 0 3))
  | 0x4C => some (.fexp2 (w.extractLsb' 17 7) (w.extractLsb' 10 7) (w.extractLsb' 0 3))
  | 0x4D => some (.flog2 (w.extractLsb' 17 7) (w.extractLsb' 10 7) (w.extractLsb' 0 3))
  | 0x4E => some (.fsin (w.extractLsb' 17 7) (w.extractLsb' 10 7) (w.extractLsb' 0 3))
  | 0x4F => some (.fcos (w.extractLsb' 17 7) (w.extractLsb' 10 7) (w.extractLsb' 0 3))
  | 0x50 => some (.fabs (w.extractLsb' 17 7) (w.extractLsb' 10 7) (w.extractLsb' 0 3))
  | 0x51 => some (.fneg (w.extractLsb' 17 7) (w.extractLsb' 10 7) (w.extractLsb' 0 3))
  | 0x52 => some (.frint (w.extractLsb' 17 7) (w.extractLsb' 10 7) (w.extractLsb' 0 3))
  | 0x53 => some (.fclass (w.extractLsb' 17 7) (w.extractLsb' 10 7) (w.extractLsb' 0 3))
  | _ => none

/-- Opcodes 0x54 to 0x67 of 02 Table 2.4; `none` for a reserved opcode or field value. -/
def decodePacked (w : Word) (op : Nat) : Option Instr :=
  match op with
  | 0x54 => some (.hadd2 (w.extractLsb' 17 7) (w.extractLsb' 10 7) (w.extractLsb' 3 7) (w.extractLsb' 0 3))
  | 0x55 => some (.hmul2 (w.extractLsb' 17 7) (w.extractLsb' 10 7) (w.extractLsb' 3 7) (w.extractLsb' 0 3))
  | 0x56 => some (.hfma2 (w.extractLsb' 17 7) (w.extractLsb' 10 7) (w.extractLsb' 3 7) (w.extractLsb' 0 3))
  | 0x57 => some (.bfma2 (w.extractLsb' 17 7) (w.extractLsb' 10 7) (w.extractLsb' 3 7) (w.extractLsb' 0 3))
  | 0x58 => (Pair2.ofBits (w.extractLsb' 0 3)).bind fun xp => some (.dot2 (w.extractLsb' 17 7) (w.extractLsb' 10 7) (w.extractLsb' 3 7) xp)
  | 0x59 => (Pair4.ofBits (w.extractLsb' 0 3)).bind fun xp => some (.dot4 (w.extractLsb' 17 7) (w.extractLsb' 10 7) (w.extractLsb' 3 7) xp)
  | 0x5A => (Pair8.ofBits (w.extractLsb' 0 3)).bind fun xp => some (.dot8 (w.extractLsb' 17 7) (w.extractLsb' 10 7) (w.extractLsb' 3 7) xp)
  | 0x5C => (Rm.ofBits (w.extractLsb' 6 3)).bind fun xrm => (FFmt.ofBits (w.extractLsb' 3 3)).bind fun xfs => (FFmt.ofBits (w.extractLsb' 0 3)).bind fun xfd => some (.cvtf (w.extractLsb' 17 7) (w.extractLsb' 10 7) (w.getLsbD 9) xrm xfs xfd)
  | 0x5D => (Rm.ofBits (w.extractLsb' 6 3)).bind fun xrm => (FFmt.ofBits (w.extractLsb' 3 3)).bind fun xfs => some (.cvtfi (w.extractLsb' 17 7) (w.extractLsb' 10 7) xrm xfs (IFmt.ofBits (w.extractLsb' 0 3)))
  | 0x5E => (Rm.ofBits (w.extractLsb' 6 3)).bind fun xrm => (FFmt.ofBits (w.extractLsb' 0 3)).bind fun xfd => some (.cvtif (w.extractLsb' 17 7) (w.extractLsb' 10 7) (w.getLsbD 9) xrm (IFmt.ofBits (w.extractLsb' 3 3)) xfd)
  | 0x5F => (ElemFmt.ofBits (w.extractLsb' 0 4)).bind fun f => (packRm f (w.extractLsb' 7 3)).bind fun rm => some (.pack (w.extractLsb' 17 7) (w.extractLsb' 10 7) rm (w.extractLsb' 4 3) f)
  | 0x60 => (ElemFmt.ofBits (w.extractLsb' 0 4)).bind fun xf => some (.unpack (w.extractLsb' 17 7) (w.extractLsb' 10 7) (w.extractLsb' 4 3) xf)
  | 0x62 => some (.routeset (w.extractLsb' 17 2) (w.extractLsb' 10 7))
  | 0x63 => some (.route (w.extractLsb' 17 7) (w.extractLsb' 10 7) (w.extractLsb' 3 2) (w.extractLsb' 0 3))
  | 0x64 => some (.shfl (w.extractLsb' 17 7) (w.extractLsb' 10 7) (w.extractLsb' 3 7) (w.extractLsb' 0 3))
  | 0x65 => some (.ballot (w.extractLsb' 17 5) (w.extractLsb' 10 7) (w.extractLsb' 0 3))
  | 0x66 => some (.reduce (w.extractLsb' 17 7) (w.extractLsb' 10 7) (w.extractLsb' 3 3) (RedOp.ofBits (w.extractLsb' 0 3)))
  | 0x67 => if w.getLsbD 6 then some (.xscan (w.extractLsb' 17 7) (w.extractLsb' 10 7) (w.extractLsb' 3 3) (RedOp.ofBits (w.extractLsb' 0 3))) else some (.scan (w.extractLsb' 17 7) (w.extractLsb' 10 7) (w.extractLsb' 3 3) (RedOp.ofBits (w.extractLsb' 0 3)))
  | _ => none

/-- Opcodes 0x80 to 0x8E of 02 Table 2.4; `none` for a reserved opcode or field value. -/
def decodeMem (w : Word) (op : Nat) : Option Instr :=
  match op with
  | 0x80 => (Width.ofBits (w.extractLsb' 3 2)).bind fun xw => some (.ld (w.extractLsb' 17 7) (w.extractLsb' 10 7) (w.extractLsb' 5 5) xw (w.extractLsb' 0 3))
  | 0x81 => some (.ldb (w.extractLsb' 17 7) (w.extractLsb' 10 7) (w.extractLsb' 5 5) (SubWidth.ofBits (w.extractLsb' 3 2)) (w.extractLsb' 0 3))
  | 0x82 => (Width.ofBits (w.extractLsb' 3 2)).bind fun xw => some (.st (w.extractLsb' 17 7) (w.extractLsb' 10 7) (w.extractLsb' 5 5) xw (w.extractLsb' 0 3))
  | 0x83 => some (.stb (w.extractLsb' 17 7) (w.extractLsb' 10 7) (w.extractLsb' 5 5) (w.getLsbD 4) (w.extractLsb' 0 3))
  | 0x84 => (Width.ofBits (w.extractLsb' 3 2)).bind fun xw => some (.ldx (w.extractLsb' 17 7) (w.extractLsb' 10 7) (w.extractLsb' 5 5) xw (w.extractLsb' 0 3))
  | 0x85 => (Width.ofBits (w.extractLsb' 3 2)).bind fun xw => some (.stx (w.extractLsb' 17 7) (w.extractLsb' 10 7) (w.extractLsb' 5 5) xw (w.extractLsb' 0 3))
  | 0x86 => (Width.ofBits (w.extractLsb' 3 2)).bind fun xw => some (.lds (w.extractLsb' 17 7) (w.extractLsb' 10 7) (w.extractLsb' 5 5) xw (w.extractLsb' 0 3))
  | 0x87 => (Width.ofBits (w.extractLsb' 3 2)).bind fun xw => some (.sts (w.extractLsb' 17 7) (w.extractLsb' 10 7) (w.extractLsb' 5 5) xw (w.extractLsb' 0 3))
  | 0x88 => (Width.ofBits (w.extractLsb' 3 2)).bind fun xw => some (.ldt (w.extractLsb' 17 7) (w.extractLsb' 10 7) (w.extractLsb' 5 5) xw (w.extractLsb' 0 3))
  | 0x89 => some (.atom (w.extractLsb' 17 7) (w.extractLsb' 10 7) (w.extractLsb' 5 5) (w.getLsbD 3) (AtomOp.ofBits (w.extractLsb' 0 3)))
  | 0x8A => some (.atom64 (w.extractLsb' 17 7) (w.extractLsb' 10 7) (w.extractLsb' 5 5) (w.getLsbD 3) (AtomOp.ofBits (w.extractLsb' 0 3)))
  | 0x8B => some (.swap (w.extractLsb' 17 7) (w.extractLsb' 10 7) (w.extractLsb' 5 5) (w.getLsbD 4) (w.getLsbD 3) (w.extractLsb' 0 3))
  | 0x8C => some (.cas (w.extractLsb' 17 7) (w.extractLsb' 10 7) (w.extractLsb' 5 5) (w.getLsbD 4) (w.getLsbD 3) (w.extractLsb' 0 3))
  | 0x8D => some (.xadd (w.extractLsb' 17 7) (w.extractLsb' 10 7) (w.extractLsb' 5 5) (w.getLsbD 3) (w.extractLsb' 0 3))
  | 0x8E => if w.getLsbD 4 then some (.xrdc (w.extractLsb' 17 7) (w.extractLsb' 10 7) (w.extractLsb' 5 5) (w.getLsbD 3) (w.extractLsb' 0 3)) else some (.xrd (w.extractLsb' 17 7) (w.extractLsb' 10 7) (w.extractLsb' 5 5) (w.getLsbD 3) (w.extractLsb' 0 3))
  | _ => none

/-- Opcodes 0x90 to 0x9C of 02 Table 2.4; `none` for a reserved opcode or field value. -/
def decodeSync (w : Word) (op : Nat) : Option Instr :=
  match op with
  | 0x90 => (Scope.ofBits (w.extractLsb' 16 3)).bind fun xsc => some (.fence (FenceOrder.ofBits (w.extractLsb' 19 2)) xsc)
  | 0x91 => some (.qfence (w.extractLsb' 16 4))
  | 0x92 => some .dcfence
  | 0x93 => some (.bar (w.extractLsb' 0 4))
  | 0x94 => some (.barrive (w.extractLsb' 0 4))
  | 0x95 => some (.barwait (w.extractLsb' 0 4))
  | 0x96 => some (.tiledef (w.extractLsb' 17 5) (w.extractLsb' 10 5))
  | 0x97 => some (.tileset (w.extractLsb' 17 5) (TileSt.ofBits (w.extractLsb' 0 2)))
  | 0x98 => some (.tileq (w.extractLsb' 17 5) (w.extractLsb' 10 5))
  | 0x99 => some .predwait
  | 0x9A => some .startnext
  | 0x9B => if w.getLsbD 4 then some (.cflush (w.extractLsb' 10 7) (w.extractLsb' 5 5) (w.getLsbD 3) (w.extractLsb' 0 3)) else some (.cclean (w.extractLsb' 10 7) (w.extractLsb' 5 5) (w.getLsbD 3) (w.extractLsb' 0 3))
  | 0x9C => if w.getLsbD 4 then some (.prefetchl2 (w.extractLsb' 10 7) (w.extractLsb' 5 5) (w.getLsbD 3) (w.extractLsb' 0 3)) else some (.prefetch (w.extractLsb' 10 7) (w.extractLsb' 5 5) (w.getLsbD 3) (w.extractLsb' 0 3))
  | _ => none

/-- Opcodes 0xA0 to 0xA8 of 02 Table 2.4; `none` for a reserved opcode or field value. -/
def decodeMatrix (w : Word) (op : Nat) : Option Instr :=
  match op with
  | 0xA0 => if w.getLsbD 16 then some (.mmodeOn (w.extractLsb' 0 3)) else some .mmodeOff
  | 0xA1 => some (.wld (w.extractLsb' 8 2) (w.extractLsb' 3 5) (MFmt.ofBits (w.extractLsb' 0 3)))
  | 0xA2 => some .wswap
  | 0xA3 => some (.mma (w.getLsbD 17) (w.getLsbD 12) (w.getLsbD 11) (w.getLsbD 10) (w.extractLsb' 8 2) (w.extractLsb' 3 5) (MFmt.ofBits (w.extractLsb' 0 3)))
  | 0xA4 => some (.gang (w.extractLsb' 10 5))
  | 0xA5 => some (.accz (w.getLsbD 17))
  | 0xA6 => some (.accst (w.getLsbD 17) (w.extractLsb' 3 5) (AccConv.ofBits (w.extractLsb' 0 3)))
  | 0xA7 => some (.accld (w.getLsbD 17) (w.extractLsb' 3 5) (AccConv.ofBits (w.extractLsb' 0 3)))
  | 0xA8 => some (.accfl (w.extractLsb' 17 5) (w.getLsbD 10))
  | _ => none

/-- Opcodes 0xB0 to 0xBD of 02 Table 2.4; `none` for a reserved opcode or field value. -/
def decodeTask (w : Word) (op : Nat) : Option Instr :=
  match op with
  | 0xB0 => some (.spawn (w.extractLsb' 10 7))
  | 0xB1 => some (.take (w.extractLsb' 17 7))
  | 0xB2 => some .done
  | 0xB3 => (Scope.ofBits (w.extractLsb' 3 3)).bind fun xsc => some (.join (w.extractLsb' 10 5) xsc)
  | 0xB4 => (Scope.ofBits (w.extractLsb' 3 3)).bind fun xsc => some (.joinq (w.extractLsb' 17 5) (w.extractLsb' 10 5) xsc)
  | 0xB5 => some (.depset (w.extractLsb' 10 5) (w.extractLsb' 3 5))
  | 0xB6 => some (.depdec (w.extractLsb' 10 5))
  | 0xB7 => some (.racq (w.extractLsb' 17 5) (w.extractLsb' 10 5))
  | 0xB8 => some (.rcommit (w.extractLsb' 10 5) (w.extractLsb' 3 5))
  | 0xB9 => some (.rpeek (w.extractLsb' 17 5) (w.extractLsb' 10 5))
  | 0xBA => some (.rrel (w.extractLsb' 10 5) (w.extractLsb' 3 5))
  | 0xBB => (CopySize.ofBits (w.extractLsb' 0 2)).bind fun xz => some (.copy (w.extractLsb' 22 2) (w.extractLsb' 17 5) (w.extractLsb' 10 7) (w.extractLsb' 3 7) xz)
  | 0xBC => some (.cbset (w.extractLsb' 10 5))
  | 0xBD => some (.copycb (w.extractLsb' 22 2) (w.extractLsb' 17 5) (w.extractLsb' 10 7) (w.extractLsb' 3 7))
  | _ => none

/-- Opcodes 0xC0 to 0xC9 of 02 Table 2.4; `none` for a reserved opcode or field value. -/
def decodeControl (w : Word) (op : Nat) : Option Instr :=
  match op with
  | 0xC0 => some (.br (brOp (w.extractLsb' 14 3) (w.extractLsb' 17 7)) (w.extractLsb' 0 14))
  | 0xC1 => some (.j (w.extractLsb' 0 24))
  | 0xC2 => some (.jr (w.extractLsb' 10 7) (w.extractLsb' 0 3))
  | 0xC3 => some (.call (w.extractLsb' 0 24))
  | 0xC4 => some (.callr (w.extractLsb' 10 7) (w.extractLsb' 0 3))
  | 0xC5 => some .ret
  | 0xC6 => some .exit
  | 0xC7 => some .nop
  | 0xC8 => some .yield
  | 0xC9 => (VTest.ofBits (w.extractLsb' 14 3)).bind fun xc => some (.brs (w.extractLsb' 17 5) xc (w.extractLsb' 0 14))
  | _ => none

/-- Opcodes 0xD0 to 0xD9 of 02 Table 2.4; `none` for a reserved opcode or field value. -/
def decodeStrip (w : Word) (op : Nat) : Option Instr :=
  match op with
  | 0xD0 => (StripH.ofBits (w.extractLsb' 3 2)).bind fun xw => some (.bin (w.extractLsb' 17 7) (w.extractLsb' 10 7) (w.extractLsb' 5 5) xw (w.extractLsb' 0 3))
  | 0xD1 => some (.cover (w.extractLsb' 17 7) (w.extractLsb' 10 7) (w.extractLsb' 3 7) (w.extractLsb' 0 3))
  | 0xD2 => (DepthCond.ofBits (w.extractLsb' 20 4)).bind fun xcc => some (.ztest xcc (w.extractLsb' 17 3) (w.extractLsb' 10 7) (w.extractLsb' 3 7) (w.extractLsb' 0 3))
  | 0xD3 => some (.texq (w.extractLsb' 17 7) (w.extractLsb' 10 7) (w.extractLsb' 5 5) (TexMode.ofBits (w.extractLsb' 3 2)) (w.extractLsb' 0 3))
  | 0xD4 => some (.texw (w.extractLsb' 17 7) (w.extractLsb' 10 7) (w.extractLsb' 3 7) (w.extractLsb' 0 3))
  | 0xD5 => some (.rate (w.extractLsb' 17 5))
  | 0xD6 => some (.chainq (w.extractLsb' 17 5) (w.extractLsb' 10 5))
  | 0xD7 => some (.progress (w.extractLsb' 0 16))
  | 0xD8 => some (.rng (w.extractLsb' 17 7) (w.extractLsb' 0 3))
  | 0xD9 => some (.rngkey (w.extractLsb' 10 5))
  | _ => none

/-- Opcodes 0xE0 to 0xE9 of 02 Table 2.4; `none` for a reserved opcode or field value. -/
def decodeSystem (w : Word) (op : Nat) : Option Instr :=
  match op with
  | 0xE0 => some (.trap (w.extractLsb' 0 16))
  | 0xE1 => some (.rdsv (svDest (w.getLsbD 5) (w.extractLsb' 17 7)) (w.extractLsb' 0 5))
  | 0xE2 => some (.wrsv (w.extractLsb' 10 5) (w.extractLsb' 0 5))
  | 0xE3 => some (.rdtime (w.extractLsb' 17 5))
  | 0xE4 => some (.waitt (w.extractLsb' 10 5))
  | 0xE5 => 
      if w.getLsbD 16 then (if w.getLsbD 17 then some (.frcflags (w.extractLsb' 0 5)) else some (.fwflags (w.extractLsb' 0 5)))
      else if w.getLsbD 17 then some (.fcflags (w.extractLsb' 0 5)) else some (.frflags (w.extractLsb' 0 5))
  | 0xE6 => some (.rdstate (w.extractLsb' 17 5) (w.extractLsb' 0 10))
  | 0xE7 => some (.wrstate (w.extractLsb' 10 5) (w.extractLsb' 0 10))
  | 0xE8 => some .rett
  | 0xE9 => some (.brk (w.extractLsb' 0 16))
  | _ => none

/-- The instruction of a word that is no hint, its must-be-zero bits ignored; `none` for an unassigned opcode or a
reserved field value (02 R50, R51). -/
def decodeCore (w : Word) : Option Instr :=
  let op := (w >>> 24).toNat
  if 0x01 ≤ op ∧ op ≤ 0x22 then decodeArith w op
  else if 0x23 ≤ op ∧ op ≤ 0x3F then decodeScalar w op
  else if 0x40 ≤ op ∧ op ≤ 0x53 then decodeFloat w op
  else if 0x54 ≤ op ∧ op ≤ 0x67 then decodePacked w op
  else if 0x80 ≤ op ∧ op ≤ 0x8E then decodeMem w op
  else if 0x90 ≤ op ∧ op ≤ 0x9C then decodeSync w op
  else if 0xA0 ≤ op ∧ op ≤ 0xA8 then decodeMatrix w op
  else if 0xB0 ≤ op ∧ op ≤ 0xBD then decodeTask w op
  else if 0xC0 ≤ op ∧ op ≤ 0xC9 then decodeControl w op
  else if 0xD0 ≤ op ∧ op ≤ 0xD9 then decodeStrip w op
  else if 0xE0 ≤ op ∧ op ≤ 0xE9 then decodeSystem w op
  else none

/-- The must-be-zero bits of opcodes 0x01 to 0x22 (02 Table 2.4). -/
def mbzArith (op : Nat) : Word :=
  match op with
  | 0x1A | 0x1B | 0x1C => 0x000003E0
  | 0x20 | 0x21 | 0x22 => 0x000003F8
  | _ => 0

/-- The must-be-zero bits of opcodes 0x23 to 0x3F (02 Table 2.4). -/
def mbzScalar (op : Nat) : Word :=
  match op with
  | 0x2D => 0x000003F8
  | 0x26 | 0x27 | 0x28 | 0x29 => 0x00F1E3C7
  | 0x2A => 0x0001E3F8
  | 0x2B => 0x00F003F8
  | 0x2E => 0x000183F8
  | 0x2F => 0x00C003E0
  | 0x34 | 0x35 | 0x37 | 0x38 | 0x39 | 0x3A => 0x00C18307
  | 0x36 => 0x00C18000
  | 0x3B | 0x3C | 0x3F => 0x00C183C0
  | 0x3D => 0x00C00000
  | 0x3E => 0x00018307
  | _ => 0

/-- The must-be-zero bits of opcodes 0x40 to 0x53 (02 Table 2.4). -/
def mbzFloat (op : Nat) : Word :=
  match op with
  | 0x49 | 0x4A | 0x4B | 0x4C | 0x4D | 0x4E | 0x4F | 0x50 | 0x51 | 0x52 | 0x53 => 0x000003F8
  | _ => 0

/-- The must-be-zero bits of opcodes 0x54 to 0x67 (02 Table 2.4). -/
def mbzPacked (w : Word) (op : Nat) : Word :=
  match op with
  | 0x63 => 0x000003E0
  | 0x5D => 0x00000200
  | 0x5F => if w.getLsbD 3 then 0x00000380 else 0
  | 0x60 | 0x67 => 0x00000380
  | 0x62 => 0x00F803FF
  | 0x65 => 0x00C003F8
  | 0x66 => 0x000003C0
  | _ => 0

/-- The must-be-zero bits of opcodes 0x80 to 0x8E (02 Table 2.4). -/
def mbzMem (op : Nat) : Word :=
  match op with
  | 0x83 => 0x00000008
  | 0x89 | 0x8A | 0x8D => 0x00000010
  | 0x8E => 0x00000000
  | _ => 0

/-- The must-be-zero bits of opcodes 0x90 to 0x9C (02 Table 2.4). -/
def mbzSync (op : Nat) : Word :=
  match op with
  | 0x90 => 0x00E0FFFF
  | 0x91 => 0x00F0FFFF
  | 0x92 | 0x99 | 0x9A => 0x00FFFFFF
  | 0x93 | 0x94 | 0x95 => 0x00FFFFF0
  | 0x96 | 0x98 => 0x00C183FF
  | 0x97 => 0x00C1FFFC
  | 0x9B | 0x9C => 0x00FE0000
  | _ => 0

/-- The must-be-zero bits of opcodes 0xA0 to 0xA8 (02 Table 2.4). -/
def mbzMatrix (w : Word) (op : Nat) : Word :=
  match op with
  | 0xA2 => 0x00FFFFFF
  | 0xA0 => if w.getLsbD 16 then 0x00FEFFF8 else 0x00FEFFFF
  | 0xA1 => 0x00FFFC00
  | 0xA3 => 0x00FDE000
  | 0xA4 => 0x00FF83FF
  | 0xA5 => 0x00FDFFFF
  | 0xA6 | 0xA7 => 0x00FDFF00
  | 0xA8 => 0x00C1FBFF
  | _ => 0

/-- The must-be-zero bits of opcodes 0xB0 to 0xBD (02 Table 2.4). -/
def mbzTask (op : Nat) : Word :=
  match op with
  | 0xB2 => 0x00FFFFFF
  | 0xB7 | 0xB9 => 0x00C183FF
  | 0xB6 | 0xBC => 0x00FF83FF
  | 0xB0 => 0x00FE03FF
  | 0xB1 => 0x0001FFFF
  | 0xB3 => 0x00FF83C7
  | 0xB4 => 0x00C183C7
  | 0xB5 | 0xB8 | 0xBA => 0x00FF8307
  | 0xBB => 0x00000004
  | 0xBD => 0x00000007
  | _ => 0

/-- The must-be-zero bits of opcodes 0xC0 to 0xC9 (02 Table 2.4). -/
def mbzControl (w : Word) (op : Nat) : Word :=
  match op with
  | 0xC9 => 0x00C00000
  | 0xC5 | 0xC6 | 0xC7 | 0xC8 => 0x00FFFFFF
  | 0xC0 => if w.getLsbD 15 && w.getLsbD 16 then 0x00F00000 else 0
  | 0xC2 | 0xC4 => 0x00FE03F8
  | _ => 0

/-- The must-be-zero bits of opcodes 0xD0 to 0xD9 (02 Table 2.4). -/
def mbzStrip (op : Nat) : Word :=
  match op with
  | 0xD6 => 0x00C183FF
  | 0xD9 => 0x00FF83FF
  | 0xD5 => 0x00C1FFFF
  | 0xD7 => 0x00FF0000
  | 0xD8 => 0x0001FFF8
  | _ => 0

/-- The must-be-zero bits of opcodes 0xE0 to 0xE9 (02 Table 2.4). -/
def mbzSystem (w : Word) (op : Nat) : Word :=
  match op with
  | 0xE8 => 0x00FFFFFF
  | 0xE4 => 0x00FF83FF
  | 0xE3 => 0x00C1FFFF
  | 0xE0 | 0xE9 => 0x00FF0000
  | 0xE1 => if w.getLsbD 5 then 0x00C1FFC0 else 0x0001FFC0
  | 0xE2 => 0x00FF83E0
  | 0xE5 => 0x00FCFFE0
  | 0xE6 => 0x00C1FC00
  | 0xE7 => 0x00FF8000
  | _ => 0

/-- The bits of a word that its opcode holds at zero (02 R49). -/
def mbzBits (w : Word) : Word :=
  let op := (w >>> 24).toNat
  if 0x01 ≤ op ∧ op ≤ 0x22 then mbzArith op
  else if 0x23 ≤ op ∧ op ≤ 0x3F then mbzScalar op
  else if 0x40 ≤ op ∧ op ≤ 0x53 then mbzFloat op
  else if 0x54 ≤ op ∧ op ≤ 0x67 then mbzPacked w op
  else if 0x80 ≤ op ∧ op ≤ 0x8E then mbzMem op
  else if 0x90 ≤ op ∧ op ≤ 0x9C then mbzSync op
  else if 0xA0 ≤ op ∧ op ≤ 0xA8 then mbzMatrix w op
  else if 0xB0 ≤ op ∧ op ≤ 0xBD then mbzTask op
  else if 0xC0 ≤ op ∧ op ≤ 0xC9 then mbzControl w op
  else if 0xD0 ≤ op ∧ op ≤ 0xD9 then mbzStrip op
  else if 0xE0 ≤ op ∧ op ≤ 0xE9 then mbzSystem w op
  else 0

/-- A hint word (opcode 0xFF): KIND in [23:20], payload in [19:0], every payload bit that 02 Table 2.6 does not give
zero (R56); `none` for an illegal hint. -/
def decodeHint (w : Word) : Option Instr :=
  let p : BitVec 20 := w.extractLsb' 0 20
  match (w.extractLsb' 20 4).toNat with
  | 0 => some (.hintWide p)
  | 1 => if p.extractLsb' 7 13 = 0 then some (.hintSrc3 (p.extractLsb' 0 7)) else none
  | 2 => some (.hintOff p)
  | 3 =>
    if p.extractLsb' 5 15 = 0 then
      (Scope.ofBits (p.extractLsb' 0 3)).bind fun sc => some (.hintOrder (MemOrder.ofBits (p.extractLsb' 3 2)) sc)
    else none
  | 4 => if p.extractLsb' 3 17 = 0 then (CachePolicy.ofBits (p.extractLsb' 0 3)).bind fun c => some (.hintCache c) else none
  | 5 => if p.extractLsb' 4 16 = 0 then some (.hintLastread (p.extractLsb' 0 4)) else none
  | 6 => if p.extractLsb' 3 17 = 0 then (Rm.ofBits (p.extractLsb' 0 3)).bind fun r => some (.hintRound r) else none
  | 7 => (schedOf p).bind fun s => some (.hintSched s)
  | _ => none

/-- Whether a word is a hint: opcode 0xFF (02 R54). -/
def isHint (w : Word) : Bool := w >>> 24 == 0xFF

/-- Decode one word, in the order of 02 R53: a hint's own payload; the opcode and reserved values; the must-be-zero
bits. -/
def decode (w : Word) : Decoded :=
  if isHint w then
    match decodeHint w with
    | some i => .ok i
    | none => .badHint
  else
    match decodeCore w with
    | none => .illegal
    | some i => if i.wf then (if w &&& mbzBits w = 0 then .ok i else .reserved i) else .illegal

/-- The little-endian word of four bytes (00 R5). -/
def wordOfBytes (b0 b1 b2 b3 : Byte) : Word := b3 ++ b2 ++ b1 ++ b0

/-- Decode the instruction stored in a list of bytes: its word and the bytes after it, or `none` where the decoder
refuses or fewer than four bytes are there. -/
def decodeBytes : List Byte → Option (Instr × List Byte)
  | b0 :: b1 :: b2 :: b3 :: rest =>
    match decode (wordOfBytes b0 b1 b2 b3) with
    | .ok i => some (i, rest)
    | _ => none
  | _ => none

/-- The bytes of a word, lowest address first (00 R5). -/
def bytesOfWord (w : Word) : List Byte :=
  [w.extractLsb' 0 8, w.extractLsb' 8 8, w.extractLsb' 16 8, w.extractLsb' 24 8]

/-! ## The encoder -/

/-- The word of an instruction or hint, from the same tables; `none` for an event or command, which has none. -/
def encode : Instr → Option Word
  | .add d a b k => some (0x01000000#32 ||| (d.setWidth 32 <<< 17) ||| (a.setWidth 32 <<< 10) ||| (b.setWidth 32 <<< 3) ||| (k.setWidth 32 <<< 0))
  | .sub d a b k => some (0x02000000#32 ||| (d.setWidth 32 <<< 17) ||| (a.setWidth 32 <<< 10) ||| (b.setWidth 32 <<< 3) ||| (k.setWidth 32 <<< 0))
  | .addi d a i => some (0x03000000#32 ||| (d.setWidth 32 <<< 17) ||| (a.setWidth 32 <<< 10) ||| (i.setWidth 32 <<< 0))
  | .mul d a b k => some (0x04000000#32 ||| (d.setWidth 32 <<< 17) ||| (a.setWidth 32 <<< 10) ||| (b.setWidth 32 <<< 3) ||| (k.setWidth 32 <<< 0))
  | .mulhi d a b k => some (0x05000000#32 ||| (d.setWidth 32 <<< 17) ||| (a.setWidth 32 <<< 10) ||| (b.setWidth 32 <<< 3) ||| (k.setWidth 32 <<< 0))
  | .mulhiu d a b k => some (0x06000000#32 ||| (d.setWidth 32 <<< 17) ||| (a.setWidth 32 <<< 10) ||| (b.setWidth 32 <<< 3) ||| (k.setWidth 32 <<< 0))
  | .mad d a b k => some (0x07000000#32 ||| (d.setWidth 32 <<< 17) ||| (a.setWidth 32 <<< 10) ||| (b.setWidth 32 <<< 3) ||| (k.setWidth 32 <<< 0))
  | .div_ d a b k => some (0x08000000#32 ||| (d.setWidth 32 <<< 17) ||| (a.setWidth 32 <<< 10) ||| (b.setWidth 32 <<< 3) ||| (k.setWidth 32 <<< 0))
  | .divu d a b k => some (0x09000000#32 ||| (d.setWidth 32 <<< 17) ||| (a.setWidth 32 <<< 10) ||| (b.setWidth 32 <<< 3) ||| (k.setWidth 32 <<< 0))
  | .rem d a b k => some (0x0A000000#32 ||| (d.setWidth 32 <<< 17) ||| (a.setWidth 32 <<< 10) ||| (b.setWidth 32 <<< 3) ||| (k.setWidth 32 <<< 0))
  | .remu d a b k => some (0x0B000000#32 ||| (d.setWidth 32 <<< 17) ||| (a.setWidth 32 <<< 10) ||| (b.setWidth 32 <<< 3) ||| (k.setWidth 32 <<< 0))
  | .min_ d a b k => some (0x0C000000#32 ||| (d.setWidth 32 <<< 17) ||| (a.setWidth 32 <<< 10) ||| (b.setWidth 32 <<< 3) ||| (k.setWidth 32 <<< 0))
  | .max_ d a b k => some (0x0D000000#32 ||| (d.setWidth 32 <<< 17) ||| (a.setWidth 32 <<< 10) ||| (b.setWidth 32 <<< 3) ||| (k.setWidth 32 <<< 0))
  | .minu d a b k => some (0x0E000000#32 ||| (d.setWidth 32 <<< 17) ||| (a.setWidth 32 <<< 10) ||| (b.setWidth 32 <<< 3) ||| (k.setWidth 32 <<< 0))
  | .maxu d a b k => some (0x0F000000#32 ||| (d.setWidth 32 <<< 17) ||| (a.setWidth 32 <<< 10) ||| (b.setWidth 32 <<< 3) ||| (k.setWidth 32 <<< 0))
  | .and_ d a b k => some (0x10000000#32 ||| (d.setWidth 32 <<< 17) ||| (a.setWidth 32 <<< 10) ||| (b.setWidth 32 <<< 3) ||| (k.setWidth 32 <<< 0))
  | .or_ d a b k => some (0x11000000#32 ||| (d.setWidth 32 <<< 17) ||| (a.setWidth 32 <<< 10) ||| (b.setWidth 32 <<< 3) ||| (k.setWidth 32 <<< 0))
  | .xor_ d a b k => some (0x12000000#32 ||| (d.setWidth 32 <<< 17) ||| (a.setWidth 32 <<< 10) ||| (b.setWidth 32 <<< 3) ||| (k.setWidth 32 <<< 0))
  | .andn d a b k => some (0x13000000#32 ||| (d.setWidth 32 <<< 17) ||| (a.setWidth 32 <<< 10) ||| (b.setWidth 32 <<< 3) ||| (k.setWidth 32 <<< 0))
  | .andi d a i => some (0x14000000#32 ||| (d.setWidth 32 <<< 17) ||| (a.setWidth 32 <<< 10) ||| (i.setWidth 32 <<< 0))
  | .ori d a i => some (0x15000000#32 ||| (d.setWidth 32 <<< 17) ||| (a.setWidth 32 <<< 10) ||| (i.setWidth 32 <<< 0))
  | .xori d a i => some (0x16000000#32 ||| (d.setWidth 32 <<< 17) ||| (a.setWidth 32 <<< 10) ||| (i.setWidth 32 <<< 0))
  | .shl d a b k => some (0x17000000#32 ||| (d.setWidth 32 <<< 17) ||| (a.setWidth 32 <<< 10) ||| (b.setWidth 32 <<< 3) ||| (k.setWidth 32 <<< 0))
  | .shr d a b k => some (0x18000000#32 ||| (d.setWidth 32 <<< 17) ||| (a.setWidth 32 <<< 10) ||| (b.setWidth 32 <<< 3) ||| (k.setWidth 32 <<< 0))
  | .sar d a b k => some (0x19000000#32 ||| (d.setWidth 32 <<< 17) ||| (a.setWidth 32 <<< 10) ||| (b.setWidth 32 <<< 3) ||| (k.setWidth 32 <<< 0))
  | .shli d a n => some (0x1A000000#32 ||| (d.setWidth 32 <<< 17) ||| (a.setWidth 32 <<< 10) ||| (n.setWidth 32 <<< 0))
  | .shri d a n => some (0x1B000000#32 ||| (d.setWidth 32 <<< 17) ||| (a.setWidth 32 <<< 10) ||| (n.setWidth 32 <<< 0))
  | .sari d a n => some (0x1C000000#32 ||| (d.setWidth 32 <<< 17) ||| (a.setWidth 32 <<< 10) ||| (n.setWidth 32 <<< 0))
  | .bfx d a len pos => some (0x1D000000#32 ||| (d.setWidth 32 <<< 17) ||| (a.setWidth 32 <<< 10) ||| (len.setWidth 32 <<< 5) ||| (pos.setWidth 32 <<< 0))
  | .bfxs d a len pos => some (0x1E000000#32 ||| (d.setWidth 32 <<< 17) ||| (a.setWidth 32 <<< 10) ||| (len.setWidth 32 <<< 5) ||| (pos.setWidth 32 <<< 0))
  | .bfi d a len pos => some (0x1F000000#32 ||| (d.setWidth 32 <<< 17) ||| (a.setWidth 32 <<< 10) ||| (len.setWidth 32 <<< 5) ||| (pos.setWidth 32 <<< 0))
  | .popc d a k => some (0x20000000#32 ||| (d.setWidth 32 <<< 17) ||| (a.setWidth 32 <<< 10) ||| (k.setWidth 32 <<< 0))
  | .clz d a k => some (0x21000000#32 ||| (d.setWidth 32 <<< 17) ||| (a.setWidth 32 <<< 10) ||| (k.setWidth 32 <<< 0))
  | .brev d a k => some (0x22000000#32 ||| (d.setWidth 32 <<< 17) ||| (a.setWidth 32 <<< 10) ||| (k.setWidth 32 <<< 0))
  | .icmp cc t a b k => some (0x23000000#32 ||| ((IntCond.toBits cc).setWidth 32 <<< 20) ||| (t.setWidth 32 <<< 17) ||| (a.setWidth 32 <<< 10) ||| (b.setWidth 32 <<< 3) ||| (k.setWidth 32 <<< 0))
  | .icmpi cc t a i => some (0x24000000#32 ||| ((IntCond.toBits cc).setWidth 32 <<< 20) ||| (t.setWidth 32 <<< 17) ||| (a.setWidth 32 <<< 10) ||| (i.setWidth 32 <<< 0))
  | .sel d a b k => some (0x25000000#32 ||| (d.setWidth 32 <<< 17) ||| (a.setWidth 32 <<< 10) ||| (b.setWidth 32 <<< 3) ||| (k.setWidth 32 <<< 0))
  | .kand d a b => some (0x26000000#32 ||| (d.setWidth 32 <<< 17) ||| (a.setWidth 32 <<< 10) ||| (b.setWidth 32 <<< 3))
  | .kor d a b => some (0x27000000#32 ||| (d.setWidth 32 <<< 17) ||| (a.setWidth 32 <<< 10) ||| (b.setWidth 32 <<< 3))
  | .kxor d a b => some (0x28000000#32 ||| (d.setWidth 32 <<< 17) ||| (a.setWidth 32 <<< 10) ||| (b.setWidth 32 <<< 3))
  | .kandn d a b => some (0x29000000#32 ||| (d.setWidth 32 <<< 17) ||| (a.setWidth 32 <<< 10) ||| (b.setWidth 32 <<< 3))
  | .ktov d a k => some (0x2A000000#32 ||| (d.setWidth 32 <<< 17) ||| (a.setWidth 32 <<< 10) ||| (k.setWidth 32 <<< 0))
  | .vtok d a k => some (0x2B000000#32 ||| (d.setWidth 32 <<< 17) ||| (a.setWidth 32 <<< 10) ||| (k.setWidth 32 <<< 0))
  | .movi d i => some (0x2C000000#32 ||| (d.setWidth 32 <<< 17) ||| (i.setWidth 32 <<< 0))
  | .mov d a k => some (0x2D000000#32 ||| (d.setWidth 32 <<< 17) ||| (a.setWidth 32 <<< 10) ||| (k.setWidth 32 <<< 0))
  | .bcast d a k => some (0x2E000000#32 ||| (d.setWidth 32 <<< 17) ||| (a.setWidth 32 <<< 10) ||| (k.setWidth 32 <<< 0))
  | .getlane d a lane => some (0x2F000000#32 ||| (d.setWidth 32 <<< 17) ||| (a.setWidth 32 <<< 10) ||| (lane.setWidth 32 <<< 0))
  | .add64 d a b k => some (0x30000000#32 ||| (d.setWidth 32 <<< 17) ||| (a.setWidth 32 <<< 10) ||| (b.setWidth 32 <<< 3) ||| (k.setWidth 32 <<< 0))
  | .lea d a b sh => some (0x31000000#32 ||| (d.setWidth 32 <<< 17) ||| (a.setWidth 32 <<< 10) ||| (b.setWidth 32 <<< 3) ||| (sh.setWidth 32 <<< 0))
  | .sadd d a b => some (0x34000000#32 ||| (d.setWidth 32 <<< 17) ||| (a.setWidth 32 <<< 10) ||| (b.setWidth 32 <<< 3))
  | .ssub d a b => some (0x35000000#32 ||| (d.setWidth 32 <<< 17) ||| (a.setWidth 32 <<< 10) ||| (b.setWidth 32 <<< 3))
  | .saddi d a i => some (0x36000000#32 ||| (d.setWidth 32 <<< 17) ||| (a.setWidth 32 <<< 10) ||| (i.setWidth 32 <<< 0))
  | .smul d a b => some (0x37000000#32 ||| (d.setWidth 32 <<< 17) ||| (a.setWidth 32 <<< 10) ||| (b.setWidth 32 <<< 3))
  | .sand d a b => some (0x38000000#32 ||| (d.setWidth 32 <<< 17) ||| (a.setWidth 32 <<< 10) ||| (b.setWidth 32 <<< 3))
  | .sor d a b => some (0x39000000#32 ||| (d.setWidth 32 <<< 17) ||| (a.setWidth 32 <<< 10) ||| (b.setWidth 32 <<< 3))
  | .sxor d a b => some (0x3A000000#32 ||| (d.setWidth 32 <<< 17) ||| (a.setWidth 32 <<< 10) ||| (b.setWidth 32 <<< 3))
  | .sshli d a n => some (0x3B000000#32 ||| (d.setWidth 32 <<< 17) ||| (a.setWidth 32 <<< 10) ||| (n.setWidth 32 <<< 0))
  | .sshri d a n => some (0x3C000000#32 ||| (d.setWidth 32 <<< 17) ||| (a.setWidth 32 <<< 10) ||| (n.setWidth 32 <<< 0))
  | .smovi d i => some (0x3D000000#32 ||| (d.setWidth 32 <<< 17) ||| (i.setWidth 32 <<< 0))
  | .scmp cc t a b => some (0x3E000000#32 ||| ((IntCond.toBits cc).setWidth 32 <<< 20) ||| (t.setWidth 32 <<< 17) ||| (a.setWidth 32 <<< 10) ||| (b.setWidth 32 <<< 3))
  | .ssari d a n => some (0x3F000000#32 ||| (d.setWidth 32 <<< 17) ||| (a.setWidth 32 <<< 10) ||| (n.setWidth 32 <<< 0))
  | .fadd d a b k => some (0x40000000#32 ||| (d.setWidth 32 <<< 17) ||| (a.setWidth 32 <<< 10) ||| (b.setWidth 32 <<< 3) ||| (k.setWidth 32 <<< 0))
  | .fsub d a b k => some (0x41000000#32 ||| (d.setWidth 32 <<< 17) ||| (a.setWidth 32 <<< 10) ||| (b.setWidth 32 <<< 3) ||| (k.setWidth 32 <<< 0))
  | .fmul d a b k => some (0x42000000#32 ||| (d.setWidth 32 <<< 17) ||| (a.setWidth 32 <<< 10) ||| (b.setWidth 32 <<< 3) ||| (k.setWidth 32 <<< 0))
  | .fma d a b k => some (0x43000000#32 ||| (d.setWidth 32 <<< 17) ||| (a.setWidth 32 <<< 10) ||| (b.setWidth 32 <<< 3) ||| (k.setWidth 32 <<< 0))
  | .fnma d a b k => some (0x44000000#32 ||| (d.setWidth 32 <<< 17) ||| (a.setWidth 32 <<< 10) ||| (b.setWidth 32 <<< 3) ||| (k.setWidth 32 <<< 0))
  | .fmin d a b k => some (0x45000000#32 ||| (d.setWidth 32 <<< 17) ||| (a.setWidth 32 <<< 10) ||| (b.setWidth 32 <<< 3) ||| (k.setWidth 32 <<< 0))
  | .fmax d a b k => some (0x46000000#32 ||| (d.setWidth 32 <<< 17) ||| (a.setWidth 32 <<< 10) ||| (b.setWidth 32 <<< 3) ||| (k.setWidth 32 <<< 0))
  | .fcmp cc t a b k => some (0x47000000#32 ||| ((FpCond.toBits cc).setWidth 32 <<< 20) ||| (t.setWidth 32 <<< 17) ||| (a.setWidth 32 <<< 10) ||| (b.setWidth 32 <<< 3) ||| (k.setWidth 32 <<< 0))
  | .fdiv d a b k => some (0x48000000#32 ||| (d.setWidth 32 <<< 17) ||| (a.setWidth 32 <<< 10) ||| (b.setWidth 32 <<< 3) ||| (k.setWidth 32 <<< 0))
  | .fsqrt d a k => some (0x49000000#32 ||| (d.setWidth 32 <<< 17) ||| (a.setWidth 32 <<< 10) ||| (k.setWidth 32 <<< 0))
  | .frcp d a k => some (0x4A000000#32 ||| (d.setWidth 32 <<< 17) ||| (a.setWidth 32 <<< 10) ||| (k.setWidth 32 <<< 0))
  | .frsq d a k => some (0x4B000000#32 ||| (d.setWidth 32 <<< 17) ||| (a.setWidth 32 <<< 10) ||| (k.setWidth 32 <<< 0))
  | .fexp2 d a k => some (0x4C000000#32 ||| (d.setWidth 32 <<< 17) ||| (a.setWidth 32 <<< 10) ||| (k.setWidth 32 <<< 0))
  | .flog2 d a k => some (0x4D000000#32 ||| (d.setWidth 32 <<< 17) ||| (a.setWidth 32 <<< 10) ||| (k.setWidth 32 <<< 0))
  | .fsin d a k => some (0x4E000000#32 ||| (d.setWidth 32 <<< 17) ||| (a.setWidth 32 <<< 10) ||| (k.setWidth 32 <<< 0))
  | .fcos d a k => some (0x4F000000#32 ||| (d.setWidth 32 <<< 17) ||| (a.setWidth 32 <<< 10) ||| (k.setWidth 32 <<< 0))
  | .fabs d a k => some (0x50000000#32 ||| (d.setWidth 32 <<< 17) ||| (a.setWidth 32 <<< 10) ||| (k.setWidth 32 <<< 0))
  | .fneg d a k => some (0x51000000#32 ||| (d.setWidth 32 <<< 17) ||| (a.setWidth 32 <<< 10) ||| (k.setWidth 32 <<< 0))
  | .frint d a k => some (0x52000000#32 ||| (d.setWidth 32 <<< 17) ||| (a.setWidth 32 <<< 10) ||| (k.setWidth 32 <<< 0))
  | .fclass d a k => some (0x53000000#32 ||| (d.setWidth 32 <<< 17) ||| (a.setWidth 32 <<< 10) ||| (k.setWidth 32 <<< 0))
  | .hadd2 d a b k => some (0x54000000#32 ||| (d.setWidth 32 <<< 17) ||| (a.setWidth 32 <<< 10) ||| (b.setWidth 32 <<< 3) ||| (k.setWidth 32 <<< 0))
  | .hmul2 d a b k => some (0x55000000#32 ||| (d.setWidth 32 <<< 17) ||| (a.setWidth 32 <<< 10) ||| (b.setWidth 32 <<< 3) ||| (k.setWidth 32 <<< 0))
  | .hfma2 d a b k => some (0x56000000#32 ||| (d.setWidth 32 <<< 17) ||| (a.setWidth 32 <<< 10) ||| (b.setWidth 32 <<< 3) ||| (k.setWidth 32 <<< 0))
  | .bfma2 d a b k => some (0x57000000#32 ||| (d.setWidth 32 <<< 17) ||| (a.setWidth 32 <<< 10) ||| (b.setWidth 32 <<< 3) ||| (k.setWidth 32 <<< 0))
  | .dot2 d a b p => some (0x58000000#32 ||| (d.setWidth 32 <<< 17) ||| (a.setWidth 32 <<< 10) ||| (b.setWidth 32 <<< 3) ||| ((Pair2.toBits p).setWidth 32 <<< 0))
  | .dot4 d a b p => some (0x59000000#32 ||| (d.setWidth 32 <<< 17) ||| (a.setWidth 32 <<< 10) ||| (b.setWidth 32 <<< 3) ||| ((Pair4.toBits p).setWidth 32 <<< 0))
  | .dot8 d a b p => some (0x5A000000#32 ||| (d.setWidth 32 <<< 17) ||| (a.setWidth 32 <<< 10) ||| (b.setWidth 32 <<< 3) ||| ((Pair8.toBits p).setWidth 32 <<< 0))
  | .cvtf d a sat rm fs fd => some (0x5C000000#32 ||| (d.setWidth 32 <<< 17) ||| (a.setWidth 32 <<< 10) ||| ((BitVec.ofBool sat).setWidth 32 <<< 9) ||| ((Rm.toBits rm).setWidth 32 <<< 6) ||| ((FFmt.toBits fs).setWidth 32 <<< 3) ||| ((FFmt.toBits fd).setWidth 32 <<< 0))
  | .cvtfi d a rm fs fd => some (0x5D000000#32 ||| (d.setWidth 32 <<< 17) ||| (a.setWidth 32 <<< 10) ||| ((Rm.toBits rm).setWidth 32 <<< 6) ||| ((FFmt.toBits fs).setWidth 32 <<< 3) ||| ((IFmt.toBits fd).setWidth 32 <<< 0))
  | .cvtif d a sat rm fs fd => some (0x5E000000#32 ||| (d.setWidth 32 <<< 17) ||| (a.setWidth 32 <<< 10) ||| ((BitVec.ofBool sat).setWidth 32 <<< 9) ||| ((Rm.toBits rm).setWidth 32 <<< 6) ||| ((IFmt.toBits fs).setWidth 32 <<< 3) ||| ((FFmt.toBits fd).setWidth 32 <<< 0))
  | .pack d a rm n f => some (0x5F000000#32 ||| (d.setWidth 32 <<< 17) ||| (a.setWidth 32 <<< 10) ||| ((Rm.toBits rm).setWidth 32 <<< 7) ||| (n.setWidth 32 <<< 4) ||| ((ElemFmt.toBits f).setWidth 32 <<< 0))
  | .unpack d a n f => some (0x60000000#32 ||| (d.setWidth 32 <<< 17) ||| (a.setWidth 32 <<< 10) ||| (n.setWidth 32 <<< 4) ||| ((ElemFmt.toBits f).setWidth 32 <<< 0))
  | .routeset d a => some (0x62000000#32 ||| (d.setWidth 32 <<< 17) ||| (a.setWidth 32 <<< 10))
  | .route d a b k => some (0x63000000#32 ||| (d.setWidth 32 <<< 17) ||| (a.setWidth 32 <<< 10) ||| (b.setWidth 32 <<< 3) ||| (k.setWidth 32 <<< 0))
  | .shfl d a b k => some (0x64000000#32 ||| (d.setWidth 32 <<< 17) ||| (a.setWidth 32 <<< 10) ||| (b.setWidth 32 <<< 3) ||| (k.setWidth 32 <<< 0))
  | .ballot d a k => some (0x65000000#32 ||| (d.setWidth 32 <<< 17) ||| (a.setWidth 32 <<< 10) ||| (k.setWidth 32 <<< 0))
  | .reduce d a b op => some (0x66000000#32 ||| (d.setWidth 32 <<< 17) ||| (a.setWidth 32 <<< 10) ||| (b.setWidth 32 <<< 3) ||| ((RedOp.toBits op).setWidth 32 <<< 0))
  | .scan d a b op => some (0x67000000#32 ||| (d.setWidth 32 <<< 17) ||| (a.setWidth 32 <<< 10) ||| (b.setWidth 32 <<< 3) ||| ((RedOp.toBits op).setWidth 32 <<< 0))
  | .xscan d a b op => some (0x67000040#32 ||| (d.setWidth 32 <<< 17) ||| (a.setWidth 32 <<< 10) ||| (b.setWidth 32 <<< 3) ||| ((RedOp.toBits op).setWidth 32 <<< 0))
  | .ld d a s w k => some (0x80000000#32 ||| (d.setWidth 32 <<< 17) ||| (a.setWidth 32 <<< 10) ||| (s.setWidth 32 <<< 5) ||| ((Width.toBits w).setWidth 32 <<< 3) ||| (k.setWidth 32 <<< 0))
  | .ldb d a s w k => some (0x81000000#32 ||| (d.setWidth 32 <<< 17) ||| (a.setWidth 32 <<< 10) ||| (s.setWidth 32 <<< 5) ||| ((SubWidth.toBits w).setWidth 32 <<< 3) ||| (k.setWidth 32 <<< 0))
  | .st d a s w k => some (0x82000000#32 ||| (d.setWidth 32 <<< 17) ||| (a.setWidth 32 <<< 10) ||| (s.setWidth 32 <<< 5) ||| ((Width.toBits w).setWidth 32 <<< 3) ||| (k.setWidth 32 <<< 0))
  | .stb d a s half k => some (0x83000000#32 ||| (d.setWidth 32 <<< 17) ||| (a.setWidth 32 <<< 10) ||| (s.setWidth 32 <<< 5) ||| ((BitVec.ofBool half).setWidth 32 <<< 4) ||| (k.setWidth 32 <<< 0))
  | .ldx d a s w k => some (0x84000000#32 ||| (d.setWidth 32 <<< 17) ||| (a.setWidth 32 <<< 10) ||| (s.setWidth 32 <<< 5) ||| ((Width.toBits w).setWidth 32 <<< 3) ||| (k.setWidth 32 <<< 0))
  | .stx d a s w k => some (0x85000000#32 ||| (d.setWidth 32 <<< 17) ||| (a.setWidth 32 <<< 10) ||| (s.setWidth 32 <<< 5) ||| ((Width.toBits w).setWidth 32 <<< 3) ||| (k.setWidth 32 <<< 0))
  | .lds d a s w k => some (0x86000000#32 ||| (d.setWidth 32 <<< 17) ||| (a.setWidth 32 <<< 10) ||| (s.setWidth 32 <<< 5) ||| ((Width.toBits w).setWidth 32 <<< 3) ||| (k.setWidth 32 <<< 0))
  | .sts d a s w k => some (0x87000000#32 ||| (d.setWidth 32 <<< 17) ||| (a.setWidth 32 <<< 10) ||| (s.setWidth 32 <<< 5) ||| ((Width.toBits w).setWidth 32 <<< 3) ||| (k.setWidth 32 <<< 0))
  | .ldt d a t w k => some (0x88000000#32 ||| (d.setWidth 32 <<< 17) ||| (a.setWidth 32 <<< 10) ||| (t.setWidth 32 <<< 5) ||| ((Width.toBits w).setWidth 32 <<< 3) ||| (k.setWidth 32 <<< 0))
  | .atom d a s f op => some (0x89000000#32 ||| (d.setWidth 32 <<< 17) ||| (a.setWidth 32 <<< 10) ||| (s.setWidth 32 <<< 5) ||| ((BitVec.ofBool f).setWidth 32 <<< 3) ||| ((AtomOp.toBits op).setWidth 32 <<< 0))
  | .atom64 d a s f op => some (0x8A000000#32 ||| (d.setWidth 32 <<< 17) ||| (a.setWidth 32 <<< 10) ||| (s.setWidth 32 <<< 5) ||| ((BitVec.ofBool f).setWidth 32 <<< 3) ||| ((AtomOp.toBits op).setWidth 32 <<< 0))
  | .swap d a s wide f k => some (0x8B000000#32 ||| (d.setWidth 32 <<< 17) ||| (a.setWidth 32 <<< 10) ||| (s.setWidth 32 <<< 5) ||| ((BitVec.ofBool wide).setWidth 32 <<< 4) ||| ((BitVec.ofBool f).setWidth 32 <<< 3) ||| (k.setWidth 32 <<< 0))
  | .cas d a s wide f k => some (0x8C000000#32 ||| (d.setWidth 32 <<< 17) ||| (a.setWidth 32 <<< 10) ||| (s.setWidth 32 <<< 5) ||| ((BitVec.ofBool wide).setWidth 32 <<< 4) ||| ((BitVec.ofBool f).setWidth 32 <<< 3) ||| (k.setWidth 32 <<< 0))
  | .xadd d a s f k => some (0x8D000000#32 ||| (d.setWidth 32 <<< 17) ||| (a.setWidth 32 <<< 10) ||| (s.setWidth 32 <<< 5) ||| ((BitVec.ofBool f).setWidth 32 <<< 3) ||| (k.setWidth 32 <<< 0))
  | .xrd d a s f k => some (0x8E000000#32 ||| (d.setWidth 32 <<< 17) ||| (a.setWidth 32 <<< 10) ||| (s.setWidth 32 <<< 5) ||| ((BitVec.ofBool f).setWidth 32 <<< 3) ||| (k.setWidth 32 <<< 0))
  | .xrdc d a s f k => some (0x8E000010#32 ||| (d.setWidth 32 <<< 17) ||| (a.setWidth 32 <<< 10) ||| (s.setWidth 32 <<< 5) ||| ((BitVec.ofBool f).setWidth 32 <<< 3) ||| (k.setWidth 32 <<< 0))
  | .fence o sc => some (0x90000000#32 ||| ((FenceOrder.toBits o).setWidth 32 <<< 19) ||| ((Scope.toBits sc).setWidth 32 <<< 16))
  | .qfence m => some (0x91000000#32 ||| (m.setWidth 32 <<< 16))
  | .dcfence => some (0x92000000#32)
  | .bar b => some (0x93000000#32 ||| (b.setWidth 32 <<< 0))
  | .barrive b => some (0x94000000#32 ||| (b.setWidth 32 <<< 0))
  | .barwait b => some (0x95000000#32 ||| (b.setWidth 32 <<< 0))
  | .tiledef t a => some (0x96000000#32 ||| (t.setWidth 32 <<< 17) ||| (a.setWidth 32 <<< 10))
  | .tileset t st => some (0x97000000#32 ||| (t.setWidth 32 <<< 17) ||| ((TileSt.toBits st).setWidth 32 <<< 0))
  | .tileq d t => some (0x98000000#32 ||| (d.setWidth 32 <<< 17) ||| (t.setWidth 32 <<< 10))
  | .predwait => some (0x99000000#32)
  | .startnext => some (0x9A000000#32)
  | .cclean a s f k => some (0x9B000000#32 ||| (a.setWidth 32 <<< 10) ||| (s.setWidth 32 <<< 5) ||| ((BitVec.ofBool f).setWidth 32 <<< 3) ||| (k.setWidth 32 <<< 0))
  | .cflush a s f k => some (0x9B000010#32 ||| (a.setWidth 32 <<< 10) ||| (s.setWidth 32 <<< 5) ||| ((BitVec.ofBool f).setWidth 32 <<< 3) ||| (k.setWidth 32 <<< 0))
  | .prefetch a s f k => some (0x9C000000#32 ||| (a.setWidth 32 <<< 10) ||| (s.setWidth 32 <<< 5) ||| ((BitVec.ofBool f).setWidth 32 <<< 3) ||| (k.setWidth 32 <<< 0))
  | .prefetchl2 a s f k => some (0x9C000010#32 ||| (a.setWidth 32 <<< 10) ||| (s.setWidth 32 <<< 5) ||| ((BitVec.ofBool f).setWidth 32 <<< 3) ||| (k.setWidth 32 <<< 0))
  | .mmodeOn p => some (0xA0010000#32 ||| (p.setWidth 32 <<< 0))
  | .mmodeOff => some (0xA0000000#32)
  | .wld sb t f => some (0xA1000000#32 ||| (sb.setWidth 32 <<< 8) ||| (t.setWidth 32 <<< 3) ||| ((MFmt.toBits f).setWidth 32 <<< 0))
  | .wswap => some (0xA2000000#32)
  | .mma n tr z g sb t f => some (0xA3000000#32 ||| ((BitVec.ofBool n).setWidth 32 <<< 17) ||| ((BitVec.ofBool tr).setWidth 32 <<< 12) ||| ((BitVec.ofBool z).setWidth 32 <<< 11) ||| ((BitVec.ofBool g).setWidth 32 <<< 10) ||| (sb.setWidth 32 <<< 8) ||| (t.setWidth 32 <<< 3) ||| ((MFmt.toBits f).setWidth 32 <<< 0))
  | .gang a => some (0xA4000000#32 ||| (a.setWidth 32 <<< 10))
  | .accz n => some (0xA5000000#32 ||| ((BitVec.ofBool n).setWidth 32 <<< 17))
  | .accst n t c => some (0xA6000000#32 ||| ((BitVec.ofBool n).setWidth 32 <<< 17) ||| (t.setWidth 32 <<< 3) ||| ((AccConv.toBits c).setWidth 32 <<< 0))
  | .accld n t c => some (0xA7000000#32 ||| ((BitVec.ofBool n).setWidth 32 <<< 17) ||| (t.setWidth 32 <<< 3) ||| ((AccConv.toBits c).setWidth 32 <<< 0))
  | .accfl d n => some (0xA8000000#32 ||| (d.setWidth 32 <<< 17) ||| ((BitVec.ofBool n).setWidth 32 <<< 10))
  | .spawn a => some (0xB0000000#32 ||| (a.setWidth 32 <<< 10))
  | .take d => some (0xB1000000#32 ||| (d.setWidth 32 <<< 17))
  | .done => some (0xB2000000#32)
  | .join a sc => some (0xB3000000#32 ||| (a.setWidth 32 <<< 10) ||| ((Scope.toBits sc).setWidth 32 <<< 3))
  | .joinq d a sc => some (0xB4000000#32 ||| (d.setWidth 32 <<< 17) ||| (a.setWidth 32 <<< 10) ||| ((Scope.toBits sc).setWidth 32 <<< 3))
  | .depset a b => some (0xB5000000#32 ||| (a.setWidth 32 <<< 10) ||| (b.setWidth 32 <<< 3))
  | .depdec a => some (0xB6000000#32 ||| (a.setWidth 32 <<< 10))
  | .racq d a => some (0xB7000000#32 ||| (d.setWidth 32 <<< 17) ||| (a.setWidth 32 <<< 10))
  | .rcommit a b => some (0xB8000000#32 ||| (a.setWidth 32 <<< 10) ||| (b.setWidth 32 <<< 3))
  | .rpeek d a => some (0xB9000000#32 ||| (d.setWidth 32 <<< 17) ||| (a.setWidth 32 <<< 10))
  | .rrel a b => some (0xBA000000#32 ||| (a.setWidth 32 <<< 10) ||| (b.setWidth 32 <<< 3))
  | .copy q c a b z => some (0xBB000000#32 ||| (q.setWidth 32 <<< 22) ||| (c.setWidth 32 <<< 17) ||| (a.setWidth 32 <<< 10) ||| (b.setWidth 32 <<< 3) ||| ((CopySize.toBits z).setWidth 32 <<< 0))
  | .cbset a => some (0xBC000000#32 ||| (a.setWidth 32 <<< 10))
  | .copycb q c a b => some (0xBD000000#32 ||| (q.setWidth 32 <<< 22) ||| (c.setWidth 32 <<< 17) ||| (a.setWidth 32 <<< 10) ||| (b.setWidth 32 <<< 3))
  | .br o off => some (0xC0000000#32 ||| (brA o <<< 17) ||| (brC o <<< 14) ||| off.setWidth 32)
  | .j off => some (0xC1000000#32 ||| (off.setWidth 32 <<< 0))
  | .jr a k => some (0xC2000000#32 ||| (a.setWidth 32 <<< 10) ||| (k.setWidth 32 <<< 0))
  | .call off => some (0xC3000000#32 ||| (off.setWidth 32 <<< 0))
  | .callr a k => some (0xC4000000#32 ||| (a.setWidth 32 <<< 10) ||| (k.setWidth 32 <<< 0))
  | .ret => some (0xC5000000#32)
  | .exit => some (0xC6000000#32)
  | .nop => some (0xC7000000#32)
  | .yield => some (0xC8000000#32)
  | .brs a c off => some (0xC9000000#32 ||| (a.setWidth 32 <<< 17) ||| ((VTest.toBits c).setWidth 32 <<< 14) ||| (off.setWidth 32 <<< 0))
  | .bin d a s w k => some (0xD0000000#32 ||| (d.setWidth 32 <<< 17) ||| (a.setWidth 32 <<< 10) ||| (s.setWidth 32 <<< 5) ||| ((StripH.toBits w).setWidth 32 <<< 3) ||| (k.setWidth 32 <<< 0))
  | .cover d a b k => some (0xD1000000#32 ||| (d.setWidth 32 <<< 17) ||| (a.setWidth 32 <<< 10) ||| (b.setWidth 32 <<< 3) ||| (k.setWidth 32 <<< 0))
  | .ztest cc t a b k => some (0xD2000000#32 ||| ((DepthCond.toBits cc).setWidth 32 <<< 20) ||| (t.setWidth 32 <<< 17) ||| (a.setWidth 32 <<< 10) ||| (b.setWidth 32 <<< 3) ||| (k.setWidth 32 <<< 0))
  | .texq d a s m k => some (0xD3000000#32 ||| (d.setWidth 32 <<< 17) ||| (a.setWidth 32 <<< 10) ||| (s.setWidth 32 <<< 5) ||| ((TexMode.toBits m).setWidth 32 <<< 3) ||| (k.setWidth 32 <<< 0))
  | .texw d a b k => some (0xD4000000#32 ||| (d.setWidth 32 <<< 17) ||| (a.setWidth 32 <<< 10) ||| (b.setWidth 32 <<< 3) ||| (k.setWidth 32 <<< 0))
  | .rate d => some (0xD5000000#32 ||| (d.setWidth 32 <<< 17))
  | .chainq d a => some (0xD6000000#32 ||| (d.setWidth 32 <<< 17) ||| (a.setWidth 32 <<< 10))
  | .progress x => some (0xD7000000#32 ||| (x.setWidth 32 <<< 0))
  | .rng d k => some (0xD8000000#32 ||| (d.setWidth 32 <<< 17) ||| (k.setWidth 32 <<< 0))
  | .rngkey a => some (0xD9000000#32 ||| (a.setWidth 32 <<< 10))
  | .trap x => some (0xE0000000#32 ||| (x.setWidth 32 <<< 0))
  | .rdsv d id => some (0xE1000000#32 ||| (svD d <<< 17) ||| (svI d <<< 5) ||| id.setWidth 32)
  | .wrsv a id => some (0xE2000000#32 ||| (a.setWidth 32 <<< 10) ||| (id.setWidth 32 <<< 0))
  | .rdtime d => some (0xE3000000#32 ||| (d.setWidth 32 <<< 17))
  | .waitt a => some (0xE4000000#32 ||| (a.setWidth 32 <<< 10))
  | .frflags a => some (0xE5000000#32 ||| (a.setWidth 32 <<< 0))
  | .fwflags a => some (0xE5010000#32 ||| (a.setWidth 32 <<< 0))
  | .fcflags a => some (0xE5020000#32 ||| (a.setWidth 32 <<< 0))
  | .frcflags a => some (0xE5030000#32 ||| (a.setWidth 32 <<< 0))
  | .rdstate d item => some (0xE6000000#32 ||| (d.setWidth 32 <<< 17) ||| (item.setWidth 32 <<< 0))
  | .wrstate a item => some (0xE7000000#32 ||| (a.setWidth 32 <<< 10) ||| (item.setWidth 32 <<< 0))
  | .rett => some (0xE8000000#32)
  | .brk x => some (0xE9000000#32 ||| (x.setWidth 32 <<< 0))
  | .hintWide p => some (0xFF000000#32 ||| (p.setWidth 32 <<< 0))
  | .hintSrc3 r => some (0xFF100000#32 ||| (r.setWidth 32 <<< 0))
  | .hintOff p => some (0xFF200000#32 ||| (p.setWidth 32 <<< 0))
  | .hintOrder o sc => some (0xFF300000#32 ||| ((MemOrder.toBits o).setWidth 32 <<< 3) ||| ((Scope.toBits sc).setWidth 32 <<< 0))
  | .hintCache p => some (0xFF400000#32 ||| ((CachePolicy.toBits p).setWidth 32 <<< 0))
  | .hintLastread p => some (0xFF500000#32 ||| (p.setWidth 32 <<< 0))
  | .hintRound r => some (0xFF600000#32 ||| ((Rm.toBits r).setWidth 32 <<< 0))
  | .hintSched p => some (0xFF700000#32 ||| schedBits p)
  | .schedStallExpiry _ => none
  | .doorbell _ _ => none
  | .launchReady _ => none
  | .blockPlacement => none
  | .launchBlocking _ => none
  | .crewStartComplete _ => none
  | .waitResolved _ => none
  | .loadReturn _ => none
  | .storeEventPerform _ => none
  | .l1DirtyExpiry _ => none
  | .wcLineExpiry _ => none
  | .blockRetire _ => none
  | .preemptionEntry _ => none
  | .preemptionRetry _ => none
  | .crewResume _ => none
  | .gangTimeout _ => none
  | .mmaStreamEnd _ _ => none
  | .wldComplete _ _ => none
  | .accstComplete _ _ => none
  | .copyComplete _ _ => none
  | .lampHoldExpiry _ => none
  | .lampBurstExpiry _ => none
  | .lampBurstIdle _ => none
  | .lampDrainDone _ => none
  | .lampRoundAdvance => none
  | .invalidation => none
  | .invalidationComplete _ => none
  | .chainRelease _ => none
  | .reservationGrant _ => none
  | .chainReserveDeadline _ => none
  | .progressReport _ => none
  | .chainLate _ => none
  | .stripDue _ => none
  | .displayReadingEnd _ => none
  | .encoderRow _ => none
  | .ctxcreate => none
  | .ctxdestroy => none
  | .regionLoad => none
  | .regionRemove => none
  | .chainload => none
  | .chainunload => none
  | .head => none
  | .headHfillOnly => none
  | .keyload => none
  | .dbggrant => none
  | .dbgrevoke => none
  | .lamps => none
  | .preemptLaunch => none
  | .preemptBlock => none
  | .preemptCrew => none
  | .faultansRetry => none
  | .faultansDeliver => none
  | .stagein => none
  | .stageinTable => none
  | .stageout => none
  | .stageoutTable => none
  | .keyframe => none
  | .attest => none
  | .isubmit _ => none
  | .eclrCounters => none
  | .eclrUelast => none
  | .bootGo => none
  | .bootVerifyComplete => none
  | .fabidWrite _ => none
  | .pwrcapWrite _ => none
  | .registerWrite _ _ _ => none
  | .heldRecordPost => none
  | .sample _ => none
  | .ptpMessage _ => none
  | .fabricFrame _ _ => none
  | .fabricRetransmit _ => none
  | .peerUnreachable _ => none
  | .correctedError _ _ => none
  | .uncorrectableError _ _ => none
  | .watchdogRestart => none
  | .pitheadRestartDone => none
  | .powerThrottle _ => none
  | .thermalThrottle _ => none
  | .thermalReset _ => none
  | .deviceReset => none
  | .powerLoss => none
  | .i3cRead _ => none
  | .jtagAccess _ => none
  | .illegalInstruction _ => none
  | .reservedBit _ => none
  | .illegalHint _ => none
  | .fetchFault => none
  | .displayportLinkTraining _ _ _ => none
  | .pcieLinkTraining _ _ => none

/-- The instruction the decoder reads from an instruction of the opcode table whose bits are `w`, numbered as the
table numbers them: one 32-bit word, laid out as stored. -/
def decodeTableWord (nbits w : Nat) : Option Instr :=
  if nbits = 0 then none
  else (decodeBytes (bytesOfWord (BitVec.ofNat 32 (w % 2 ^ nbits)))).map (·.1)

end Sys2Proof
end

