-- ==== Sys2Proof/Machine/State.lean ====
section
/-!
DEFINITION. The state of the machine as plain data: everything the spec gives the device, unit by unit, and
`State.reset`. INVENTORY.md lists each piece with its rule and its reset value.
-/

namespace Sys2Proof.Machine

/-! ## Crews -/

/-- One lane's return stack: the on-chip entries with the oldest first, the depth D, the spill count the 32-bit field
reports, the spill slot pointer modulo E, and the overflow flag (01 R24, R26). -/
structure RStack where
  chip : List PC
  depth : Nat
  count : Word
  ptr : Nat
  ovf : Bool
  deriving DecidableEq, Repr

/-- A byte of a store event at its physical address. -/
structure StoreByte where
  pa : Nat
  byte : Byte
  deriving DecidableEq, Repr

/-- What a store event does when it is performed. -/
inductive StoreKind where
  /-- write the bytes -/
  | write
  /-- clean the lines of the bytes' addresses -/
  | clean
  /-- clean and invalidate them -/
  | flush
  deriving DecidableEq, Repr

/-- The tag under which a cache line is held beside its address: view, key id, home device (12 R308, R333) and the
page attribute that made the access. -/
structure MemTag where
  attr : BitVec 3
  key : BitVec 8
  home : BitVec 4
  deriving DecidableEq, Repr

/-- One store event (07 R169): its number in issue order, its crew, the virtual address of its lowest lane, its release scope if it is a
release store (07 R170), its CACHE hint (12 R311), the bytes of each lane, and the lanes' bytes in lane order. -/
structure StoreEvent where
  seq : Nat
  crew : Nat
  addr : DWord
  kind : StoreKind
  release : Option Scope
  cache : CachePolicy
  width : Nat
  bytes : List (MemTag × StoreByte)
  deriving DecidableEq, Repr

/-- Where a crew stands in its life (01 R19, Table 1.4). TRAPPED is `ready` or `waiting` with the nesting bit set. -/
inductive Phase where
  | starting
  | ready
  | waiting (reason : Nat)
  | saved
  | exited
  deriving DecidableEq, Repr

/-- TRAPST: cause, nesting, saved privilege, detail (10 Table 10.8). -/
structure TrapSt where
  cause : BitVec 8
  nesting : Bool
  spriv : Bool
  detail : BitVec 16
  deriving DecidableEq, Repr

/-- A copy as the journal records it (14 R369). -/
structure CopyJob where
  crew : Nat
  queue : Nat
  codebook : Bool
  size : Nat
  word : DWord
  cache : CachePolicy
  lanes : List (Nat × DWord × DWord)
  /-- the translations taken at issue: per lane, the source and destination bytes' places (09 R247) -/
  units : List (List (MemTag × Nat) × List (MemTag × Nat))
  /-- its number in the queues' order, and the number of its first issue (14 R370) -/
  seq : Nat
  origin : Nat
  /-- its data has moved, and it completes once the peers have performed their part (09 R251, 11 R305) -/
  moved : Bool
  deriving DecidableEq, Repr

/-- A host-assisted suspension (14 R374): its token, the trap record with its TIME, and whether it concerns a copy's
replay. -/
structure Suspension where
  token : Word
  time : DWord
  code : BitVec 8
  lanes : LaneMask
  detail : BitVec 16
  level : BitVec 8
  addr : DWord
  replay : Bool
  deriving DecidableEq, Repr

/-- A destination still being returned by memory, the bank, a tile or a queue (05 R109, 07 R198): its vector, scalar and mask
registers, whether it is the return stacks' refill (05 R132), the outstanding requests it holds, its place in issue order (12 R331), the group that issued it if that reaches peers,
and the address of an access of it that a peer's loss ended (12 R333). -/
structure Returning where
  regs : List Nat
  sregs : List Nat
  kregs : List Nat
  stack : Bool
  requests : Nat
  issued : Nat
  group : Nat
  lost : Option DWord
  deriving DecidableEq, Repr

/-- The registers and hidden state of a crew (01 R21, R24). Vector registers live in the part's bank window (R29). -/
structure Crew where
  launch : Nat
  block : Nat
  index : Nat
  part : Nat
  core : Nat
  partition : Nat
  slot : Nat
  phase : Phase
  stallEnd : Nat
  /-- the WLD the crew waits in has passed its first checks, and has taken the planes (08 R208) -/
  begunWld : Bool
  tookPlanes : Bool
  pcs : List PC
  exited : LaneMask
  heldPcs : List PC
  heldExited : LaneMask
  rstk : Sparse RStack
  sregs : Sparse DWord
  kregs : Sparse LaneMask
  qregs : Sparse (BitVec 144)
  mode : DWord
  flags : BitVec 6
  rngKey : DWord
  rngSel : Bool
  rngIdx : Sparse DWord
  retired : BitVec 48
  retStop : BitVec 48
  retStopEn : Bool
  stalls : Sparse Word
  deriving DecidableEq, Repr

/-- The values of its launch region that a crew keeps from its start (01 R38): class, fault domain, PAGER, the trap table, and
the save area with its region slot and its number of frames. -/
structure Started where
  cls : Nat
  fdom : Nat
  pager : Bool
  trapTab : Option DWord
  saveArea : DWord
  saveSlot : Option Nat
  saveFrames : Nat
  deriving DecidableEq, Repr

/-- The rest of a crew's hidden state: traps, queues, frames, barriers, thread-local memory (01 R24, R28; 07 R191,
R194; 09 R235; 10 R278; 14 R363, R371, R374, R376). -/
structure CrewAux where
  trap : TrapSt
  trapRec : DWord
  sel : DWord
  storeQ : List StoreEvent
  returning : List Returning
  frames : List (BitVec 256)
  arrived : BitVec 16
  hold : BitVec 16
  /-- the holds taken since the handler that runs was entered (07 R192) -/
  holdIn : BitVec 16
  startedNext : Bool
  tlsBase : DWord
  tlsLane : Nat
  rsEnt : Nat
  preempt : Option (BitVec 16)
  /-- the clk at which the pending request arrived (08 R222) -/
  preemptClk : Nat
  retryAt : Nat
  susp : Option Suspension
  exempt : Bool
  frame : Option Nat
  /-- the address of that save frame, and the region slot whose save area holds it (14 R365) -/
  frameAt : DWord
  frameSlot : Option Nat
  started : Started
  /-- the region slots of the frames on the stack that a SAVED crew's restore routine has yet to bring back (01 R438) -/
  heldSlots : List Nat
  /-- the addresses of stores that a peer's loss ended and no group has yet reported (12 R333) -/
  lostStores : List DWord
  /-- the same of copies' accesses, each with its queue and, of a fill, its tile -/
  lostCopies : List (Nat × Option Nat × DWord)
  replay : List CopyJob
  restored : Bool
  /-- the lines the crew's accesses have touched (12 R315), by cache key of the line -/
  touched : Sparse Bool
  deriving DecidableEq, Repr

/-! ## Blocks, launches -/

/-- A tile-table entry (07 Table 7.3). -/
structure TileEntry where
  offset : BitVec 22
  size : BitVec 16
  swz : BitVec 4
  state : TileSt
  pend : BitVec 16
  deriving DecidableEq, Repr

/-- One part of a block (01 R16, R29): its core, its bank window as 32-bit words by window offset / 4, its tile table,
its race-detection shadow (writer, epoch) by scratchpad word (14 R380). -/
structure Part where
  core : Nat
  bank : Sparse Word
  tiles : Sparse TileEntry
  shadow : Sparse (Option (Nat × Nat))
  deriving DecidableEq, Repr

/-- A placed block (01 R16, R17; 07 R191; 14 R381). -/
structure Block where
  launch : Nat
  bl : Nat
  spread : Nat
  cluster : Nat
  parts : Tbl Part
  gens : Sparse Nat
  epoch : Nat
  stalls : Sparse Nat
  tplace : DWord
  charged : Nat
  deriving DecidableEq, Repr

/-- A launch packet (13 Table 13.1). -/
structure Packet where
  entry : DWord
  args : DWord
  gridX : Word
  gridY : BitVec 16
  gridZ : BitVec 16
  crews : Byte
  regs8 : Byte
  spreadP : Byte
  spreadF : Byte
  bankKib : BitVec 16
  tiles : Byte
  lflags : Byte
  start : DWord
  region : DWord
  pred : Word
  handle : Word
  seed : DWord
  deriving DecidableEq, Repr

/-- An accepted launch that has not retired (13 R337-R342). -/
structure Launch where
  packet : Packet
  ctx : Nat
  subseq : Nat
  pred : Option Nat
  ready : Bool
  next : Nat
  passed : Option DWord
  blocking : Bool
  /-- the number of its blocks that have retired -/
  retiredBlocks : Nat
  /-- its fault domain has ended, and its retirement waits for the peers' acknowledgements (01 R39, 11 R305) -/
  ending : Bool
  /-- the stores of its ended crews that await those crews' loads from peers, with the core and whether the block spanned cores
  (01 R39, 11 R287) -/
  left : List (Nat × Bool × StoreEvent)
  deriving DecidableEq, Repr

/-! ## Cores and partitions -/

/-- A weight plane (08 Table 8.1). -/
structure Plane where
  bytes : Sparse Byte
  fmt : BitVec 3
  valid : Bool
  deriving DecidableEq, Repr

/-- A read of a tile that is under way (08 R207): the crew that reads, the tile's block and part, its entry at issue, the logical
offset at which the read begins, and the bytes it has met. -/
structure TileRead where
  crew : Nat
  block : Nat
  part : Nat
  entry : TileEntry
  lo : Nat
  bytes : List Byte
  deriving DecidableEq, Repr

/-- What an MMA multiplies and adds to (08 R212): the activations' format and transpose bit, the front plane, the accumulator's
elements and event flags before it, and its read of the activations. -/
structure StreamWork where
  fmt : MFmt
  tr : Bool
  plane : Plane
  before : List Word
  events : Byte
  read : TileRead
  deriving DecidableEq, Repr

/-- An MMA streaming on a partition (08 R205, R212): its crew, accumulator, the clk of its issue and what it works on. -/
structure Stream where
  crew : Nat
  acc : Bool
  start : Nat
  work : StreamWork
  deriving DecidableEq, Repr

/-- An ACCLD whose read of its tile is under way (08 R207, R216). -/
structure AccLoad where
  crew : Nat
  acc : Bool
  conv : AccConv
  start : Nat
  read : TileRead
  deriving DecidableEq, Repr

/-- An ACCST whose bank writes are not done (08 R216). -/
structure AccStore where
  crew : Nat
  acc : Bool
  block : Nat
  part : Nat
  tile : Nat
  start : Nat
  deriving DecidableEq, Repr

/-- The state of one partition (08 Table 8.1; 13 R343), with the crew whose group it last issued and the clk at which that
group's words end (02 R55). -/
structure Partition where
  recency : List Nat
  issuer : Option Nat
  issueEnd : Nat
  acc : Sparse Word
  events : Sparse Byte
  owners : Tbl Nat
  planeOwner : Option Nat
  front : Plane
  shadow : Plane
  streams : List Stream
  wld : Option (Nat × Nat)
  /-- the read of that WLD (08 R207) -/
  wldRead : Option TileRead
  accst : List AccStore
  accld : List AccLoad
  deriving DecidableEq, Repr

/-- An arrival in a rendezvous latch (08 R221): the crew, its gang register and its MMA's fields, with its group's
address, the address after it and its SCHED hint. -/
structure Arrival where
  crew : Nat
  gang : BitVec 48
  fmt : MFmt
  tr : Bool
  acc : Bool
  zero : Bool
  sb : BitVec 2
  tile : TReg
  addr : PC
  next : PC
  sched : SchedHint
  deriving DecidableEq, Repr

/-- A rendezvous latch of one leader (08 R221, R222): its arrivals, the clk at which its timer started, and the clk at which
every member stood in it. -/
structure Latch where
  arrivals : List Arrival
  start : Nat
  completed : Option Nat
  deriving DecidableEq, Repr

/-- One byte of a cache line: its value and whether it is dirty. -/
structure CByte where
  val : Byte
  dirty : Bool
  deriving DecidableEq, Repr

/-- A line of the write-combining buffer (12 R312): its address divided by 128, its bytes by physical address, the clk
of its first store, the number of its oldest, and the crews that stored to it, each with the address of a store. -/
structure WcLine where
  line : Nat
  tag : MemTag
  bytes : Sparse (Option Byte)
  start : Nat
  seq : Nat
  sources : List (Nat × DWord)
  deriving DecidableEq, Repr

/-- An instruction-cache line (12 R314). -/
structure ILine where
  ctx : Nat
  vline : Nat
  bytes : List Byte
  deriving DecidableEq, Repr

/-- A spill chunk in a view's list (09 R230): the region slot whose area holds it, the area's base, the chunk number
and the slots whose frames are still the view's, oldest first, with the region slots that those frames name (01 R438). -/
structure Chunk where
  rslot : Nat
  base : DWord
  number : Nat
  slots : List Nat
  rslots : List Nat
  deriving DecidableEq, Repr

/-- A view: the frames of one context in one class deque of one core (09 R229), newest frame last. -/
structure View where
  chunks : List Chunk
  chip : List (BitVec 256)
  deriving DecidableEq, Repr

/-- A parked frame (09 R233, R234): the counter it is parked on, and whether that counter has released it and its push has yet
to succeed (09 R231). -/
structure Parked where
  ctr : Nat
  released : Bool
  ctx : Nat
  frame : BitVec 256
  deriving DecidableEq, Repr

/-- A dependence counter (09 R232). -/
structure Counter where
  value : Word
  ctx : Option Nat
  deriving DecidableEq, Repr

/-- A codebook slot (09 R252). -/
structure Codebook where
  block : Nat
  entries : Sparse Byte
  deriving DecidableEq, Repr

/-- One core (09 R229-R252; 12 R309, R312, R314, R321; 14 R382). The L1 lists its bytes by cache key, and beside them the
clk at which each dirty sector first became dirty and the sectors with an uncorrectable error. Views are numbered
4 * context + class. -/
structure Core where
  l1 : Sparse (Option CByte)
  l1At : Sparse (Option Nat)
  l1Poison : List Nat
  wc : List WcLine
  icache : List ILine
  views : Tbl View
  park : List Parked
  ctrs : Tbl Counter
  queues : Tbl (List CopyJob)
  books : Tbl Codebook
  deriving DecidableEq, Repr

/-! ## Contexts -/

/-- A region control block as the region cache holds it (01 Table 1.10), with its hardware-maintained figures, the
spill chunks allocated (09 R230) and the save frames held (14 R365). -/
structure Region where
  va : DWord
  parent : DWord
  override : Word
  cls : Byte
  fdom : Byte
  rflags : Byte
  deqcap : Byte
  crews : Word
  bankKib : Word
  parts : BitVec 16
  rsent : BitVec 16
  tlsLane : Word
  saveArea : DWord
  trapTab : DWord
  spillBase : DWord
  spillFrames : Word
  tlsPool : DWord
  tlsPoolSize : DWord
  crewsUsed : Nat
  bankUsed : Nat
  partsUsed : Nat
  chunks : List Nat
  saves : List Nat
  deriving DecidableEq, Repr

/-- A context (01 R40; 12 R322; 16 R404). -/
structure Context where
  tableBase : BitVec 48
  area : BitVec 48
  areaSize : Nat
  slots : Tbl Region
  deriving DecidableEq, Repr

/-- A queue's registers (16 R403). -/
structure Queue where
  base : DWord
  log2n : Word
  prod : Word
  cons : Word
  deriving DecidableEq, Repr

/-- A context window (16 Table 16.5). -/
structure Window where
  base : DWord
  len : DWord
  rd : Bool
  wr : Bool
  valid : Bool
  deriving DecidableEq, Repr

/-- A context control page (16 Table 16.5), with the event and fault records held (16 R402, R414). -/
structure CtlPage where
  idesc : BitVec 256
  subcnt : Word
  evdrop : Word
  evq : Queue
  fltq : Queue
  wins : Tbl Window
  heldEvents : List (List Byte)
  heldFaults : List (List Byte)
  deriving DecidableEq, Repr

/-- A record buffer of the debug window (14 Table 14.5). -/
structure RecBuf where
  base : DWord
  count : Word
  wr : Word
  rd : Word
  drop : Word
  deriving DecidableEq, Repr

/-- A watchpoint comparator (14 Table 14.8). -/
structure WatchPt where
  addr : DWord
  en : Bool
  r : Bool
  w : Bool
  logsz : BitVec 5
  deriving DecidableEq, Repr

/-- A sample of one crew as its clk began (14 R382): the sample's number and clk, the core, partition and slot with the crew, the
head run's PC and lanes, the flags, and the reason its clk was charged to, once that has passed. -/
structure SampleNote where
  n : Nat
  clk : Nat
  crew : Nat
  core : Nat
  partition : Nat
  slot : Nat
  pc : PC
  lanes : LaneMask
  flg : Nat
  index : Nat
  handle : Word
  bl : Nat
  reason : Option Nat
  deriving DecidableEq, Repr

/-- A debug window (14 Table 14.5); `sampStart` is the clk at which SAMPEN became 1 (14 R382), and `notes` are the samples taken
and not yet written. -/
structure DebugWin where
  dbgen : Bool
  bpen : Bool
  wpen : Bool
  sampen : Bool
  blkrec : Bool
  racedet : Bool
  splog : BitVec 5
  samples : RecBuf
  blocks : RecBuf
  bps : Tbl (Bool × BitVec 55)
  wps : Tbl WatchPt
  sampStart : Nat
  notes : List SampleNote
  deriving DecidableEq, Repr

/-- An invalidation that has taken effect and whose completion is due (12 R331): from a context's window or, with
none, the host's queue. Accesses whose issue numbers are below `before` hold it back. -/
structure Inval where
  done : DWord
  src : Option Nat
  ctx : Nat
  before : Nat
  deriving DecidableEq, Repr

/-! ## Scheduling -/

/-- Lamp states of a cluster (13 Table 13.3). -/
inductive Lamp where
  | dark
  | hold (since : Nat)
  | burst (since lastMma : Nat)
  | drain
  | done
  deriving DecidableEq, Repr

/-- The lamp ring (13 R344, R345): L, the L asked for, the rotation k, the clusters' states, and the clk at which a
running advance ends. -/
structure LampRing where
  count : Nat
  next : Nat
  k : Nat
  clusters : Tbl Lamp
  advance : Option Nat
  deriving DecidableEq, Repr

/-- Chain states (13 Table 13.6). -/
inductive ChainState where
  | idle | reserving | running | late
  deriving DecidableEq, Repr

/-- A strip chain (13 R348-R356): its descriptor, its hardware-maintained fields, the next instance, the prediction
base, the reports not yet processed as (stamp, units), the partitions held as 32 * core + partition, and the level before the last
step with the clk of that step (R353). -/
structure Chain where
  ctx : Nat
  va : DWord
  release0 : DWord
  period : DWord
  drel : Word
  guard : Word
  work : Word
  rparts : Nat
  ncore : Nat
  core0 : Nat
  frame : BitVec 256
  level : Nat
  pin : Bool
  rslot : Nat
  state : ChainState
  levelNow : Nat
  overruns : Word
  pred : DWord
  inst : DWord
  count : Word
  next : Nat
  base : DWord × Word
  reports : List (DWord × Nat)
  held : List Nat
  levelWas : Nat
  levelClk : Nat
  deriving DecidableEq, Repr

/-! ## Heads -/

/-- The registers of a virtual head (15 Table 15.1). -/
structure HeadRegs where
  hctl : DWord
  epoch : DWord
  fper : DWord
  lper : DWord
  geom : DWord
  due : DWord
  ring : DWord
  fill : Word
  consumed : Word
  missed : Word
  estate : DWord
  erate : DWord
  eqp : DWord
  egop : DWord
  ertp : DWord
  ertp2 : DWord
  deriving DecidableEq, Repr

/-- What a display serialiser emits for the lines of a strip (15 R394): the slot's luma and chroma samples, line by line, or the
fill colour of a missed strip and of frames before F0 (R387). -/
inductive Shown where
  | lines (luma chroma : List (List Nat))
  | fill (y cb cr : Nat)
  deriving DecidableEq, Repr

/-- The pixel encoding that the VSC SDP signals (15 Table 15.6). -/
structure PixelEncoding where
  subsampling : Nat × Nat
  bitsPerComponent : Nat
  bt709 : Bool
  limitedRange : Bool
  deriving DecidableEq, Repr

/-- A strip that a DisplayPort port has emitted (15 R394): the head, the port, the encoding signalled, the frame, the strip and its
lines. -/
structure Emission where
  head : Nat
  port : Bool
  encoding : PixelEncoding
  frame : Nat
  strip : Nat
  shown : Shown
  deriving DecidableEq, Repr

/-- One strip index as the engine keeps it until L passes it (15 R392): the absolute index f * NS + s, whether it was
missed, its pending or passed mark, and whether its display and encoder readings have ended. -/
structure StripMark where
  idx : Nat
  missed : Bool
  pending : Bool
  passed : Bool
  done : Bool
  dispDone : Bool
  encDone : Bool
  deriving DecidableEq, Repr

/-- The engine state of an enabled head (15 R391-R400). `due` counts strips due since frame F0; `disp` is the absolute index of
the strip that the serialiser emits next; `lastKey` and `golden` are the frames of the last key frame and of GOLDEN; `coded` is
what its encoder has coded so far, of which the bitstream is a function (R397); `fills` lists the values of HFILL with the TIME
at which each was written, oldest first (R385). -/
structure Engine where
  due : Nat
  marks : List StripMark
  row : Nat
  disp : Nat
  full : Nat
  seq : BitVec 16
  keyReq : Bool
  lastKey : Nat
  golden : Nat
  coded : List CodedRow
  fills : List (Nat × Word)
  deriving DecidableEq, Repr

/-- A virtual head. -/
structure Head where
  regs : HeadRegs
  eng : Engine
  deriving DecidableEq, Repr

/-- An egress filter entry (16 Table 16.7) with its IPv4 identification count. -/
structure Egress where
  dmac : BitVec 48
  valid : Bool
  v6 : Bool
  dscp : BitVec 6
  sip : BitVec 128
  dip : BitVec 128
  sport : BitVec 16
  dport : BitVec 16
  drops : Word
  ident : BitVec 16
  deriving DecidableEq, Repr

/-- An RTP packet handed to an Ethernet port (15 R400, 16 R419): the head and the port, the filter entry whose addresses and
IPv4 identification its IP and UDP headers take, the RTP header and the payload. -/
structure RtpPacket where
  head : Nat
  port : BitVec 3
  entry : Egress
  ssrc : Word
  payloadType : BitVec 7
  seq : BitVec 16
  stamp : Word
  marker : Bool
  payload : List Byte
  /-- the DF bit of its IPv4 header -/
  df : Bool
  /-- its UDP checksum -/
  checksum : BitVec 16
  deriving DecidableEq, Repr

/-- A DisplayPort link (15 R394). -/
structure DpLink where
  rate : Option DpRate
  lanes : Nat
  deriving DecidableEq, Repr

/-! ## Pithead, boot, fabric -/

/-- BOOTST (16 R415). -/
inductive BootSt where
  | idle | verifying | failed | running
  deriving DecidableEq, Repr

/-- Boot and fuses (16 R415-R417, R423): the rollback count, the hashes of the two public keys and the JTAG lock are fused; the
SHA-384 of M is that of the image that runs. -/
structure Boot where
  addr : DWord
  go : Bool
  status : BootSt
  fwver : Word
  svn : Word
  rollback : Nat
  rsaHash : BitVec 384
  slhHash : BitVec 384
  jtagLocked : Bool
  imageHash : BitVec 384
  deriving DecidableEq, Repr

/-- What the command at the head of the queue awaits of peers: the number its frames were sent under, whether it is committed (a STAGEIN
that has written) or only asks, whether a peer was lost with a frame unanswered, and whether the pithead has restarted since. -/
structure Staging where
  group : Nat
  sent : Bool
  lost : Bool
  again : Bool
  deriving DecidableEq, Repr

/-- The pithead (16 R402, R411-R414): whether it takes work, its command journal and the always-on counts and records,
and the completion records held. -/
structure Pithead where
  up : Bool
  journal : Word
  restarts : Word
  crashes : DWord
  records : Sparse Byte
  held : List (List Byte)
  /-- doorbells rung while the pithead takes none, as (page, slot), oldest first (16 R414) -/
  bells : List (Nat × Nat)
  /-- the firmware's next command or packet meets a bad capability, with this cause (16 R411) -/
  badCap : Option Byte
  /-- a firmware core has halted, and the watchdog has yet to restart the pithead (16 R411) -/
  halted : Bool
  /-- the watchdog trips before the next command's record is written (16 R414) -/
  trip : Bool
  /-- the command at the head of the queue is committed and its record not yet written (16 R414) -/
  committed : Bool
  /-- the frames to peers that the command at the head of the queue awaits (11 R305, 16 R406) -/
  staged : Option Staging
  deriving DecidableEq, Repr

/-- A frame sent to a peer and not yet acknowledged (16 R420): its sequence number, what it carries, and, for accesses of crews, the
crews with their virtual addresses and the number of the group, store event, buffered line or copy (12 R331, R333). -/
structure Flight where
  seq : Word
  req : FabricReq
  sources : List (Nat × DWord)
  group : Nat
  deriving DecidableEq, Repr

/-- A fabric frame as a port sends it (16 R420): the devices, the port, the sequence number, the cumulative acknowledgement
and what its flits carry. -/
structure FabricFrame where
  src : BitVec 4
  dst : BitVec 4
  port : Option Nat
  seq : Word
  ack : Word
  req : FabricReq
  deriving DecidableEq, Repr

/-- A fabric peer (16 R420): the table entry, the reachability, the number of the next frame each way, the frames not yet
acknowledged, and TIME when the oldest of them went out or the peer last acknowledged one. -/
structure Peer where
  mac : BitVec 48
  ports : BitVec 8
  valid : Bool
  up : Bool
  txSeq : Word
  rxSeq : Word
  unacked : List Flight
  since : DWord
  deriving DecidableEq, Repr

/-- A Delay_Req that the device has sent (16 R418): its port, transport and sequence id, and TIME as it left. -/
structure PtpSent where
  port : BitVec 3
  transport : PtpTransport
  seq : BitVec 16
  time : DWord
  deriving DecidableEq, Repr

/-- PTP state (16 R418): the servo's figures; the part of a nanosecond by which slewing is behind, in millionths; the Sync that
awaits its Follow_Up, with the TIME of its receipt; and the request that awaits its answer, with the times of the Sync before
it. -/
structure Ptp where
  locked : Bool
  syncLost : Bool
  offset : DWord
  slew : Int
  frac : Nat
  syncAt : Option (BitVec 16 × DWord)
  asked : Option (PtpSent × DWord × DWord)
  nextSeq : BitVec 16
  sent : List PtpSent
  deriving DecidableEq, Repr

/-- The error log, the power registers, the last figures of the sensors, the host link, and what I3C and JTAG last read
(16 R401, R421-R423). -/
structure Health where
  cecnt : Word
  uecnt : Word
  uelast : DWord
  pwrcap : Nat
  mhz : Nat
  watts : Nat
  celsius : Nat
  pcie : Option (PcieRate × Nat)
  i3c : List Byte
  jtag : List Byte
  deriving DecidableEq, Repr

/-! ## The issue group in progress and the agents' choices -/

/-- A hint of the group, as its word has been checked (02 R56). -/
inductive Hint where
  | wide (p : BitVec 20)
  | src3 (r : VReg)
  | off (p : BitVec 20)
  | order (o : MemOrder) (sc : Scope)
  | cache (p : CachePolicy)
  | lastread (p : BitVec 4)
  | round (r : Rm)
  | sched (p : SchedHint)
  deriving DecidableEq, Repr

/-- The issue group part-way through (02 R54, R55): its crew, its address, the address of its next word, the hints
issued so far and the words left. -/
structure Issue where
  crew : Nat
  addr : PC
  next : PC
  hints : List Hint
  words : List Word
  deriving DecidableEq, Repr

/-- What the world outside the machine's own rules decides: which agent moves, and what the host and the links do. -/
inductive Input where
  /-- partition `part` of core `core` has its selection clock (13 R343) -/
  | clock (core part : Nat)
  /-- an event or command of the opcode table takes place -/
  | event (i : Instr)
  /-- clocks and nanoseconds pass -/
  | elapse (clks ns : Nat)
  /-- the host writes its own memory -/
  | hostStore (addr : Nat) (bytes : List Byte)
  /-- the host writes packet bytes into BAR2 -/
  | bar2Store (off : Nat) (bytes : List Byte)
  /-- a core's L1 replaces the line of an address (12 R309) -/
  | evictL1 (core : Nat) (tag : MemTag) (pa : Nat)
  /-- the L2 replaces a line (12 R310) -/
  | evictL2 (tag : MemTag) (pa : Nat)
  /-- an instruction cache replaces a line (12 R314) -/
  | evictCode (core ctx vline : Nat)
  /-- the firmware's next access in a command or packet goes through a bad capability, cause 1-4 (16 R411) -/
  | badCapability (cause : Byte)
  /-- the firmware meets a bad capability, cause 1-4, outside command and packet handling (16 R411) -/
  | firmwareFault (cause : Byte)
  /-- the watchdog will trip between the next command's commit and its record (16 R414) -/
  | tripAtCommand
  deriving DecidableEq, Repr

/-! ## The machine -/

/-- A leaf translation that a cluster's or a core's TLB may hold (12 R329): its context, the range it covers, the leaf's
level, the place of its entry, the entry without its A and D bits, the physical address of the range, and the 4 KiB
pages of it through which D is known to be set. -/
structure TlbEntry where
  ctx : Nat
  lo : Nat
  size : Nat
  level : Nat
  entry : Nat
  pte : DWord
  pa : Nat
  dirty : List Nat
  deriving DecidableEq, Repr

/-- A non-leaf entry that a cluster's walk cache may hold (12 R329): its context, the levels left below it, the range it
covers, divided by the range's size, and the table it names. -/
structure WalkEntry where
  ctx : Nat
  left : Nat
  index : Nat
  table : Nat
  deriving DecidableEq, Repr

/-- The translations cached in a cluster (12 R329): its TLB's leaves, its walk cache's entries, and its cores' TLBs, by core. -/
structure XCache where
  tlb : List TlbEntry
  walks : List WalkEntry
  cores : Tbl (List TlbEntry)
  deriving DecidableEq, Repr

/-- How the L2 holds a line (12 R308, R311). -/
inductive L2Mark where
  | plain | evictFirst | retained
  deriving DecidableEq, Repr

/-- A line of the L2 beside its bytes (12 R311, R315): its mark, its place in the order in which the lines of its set took
their marks, and whether its last write came through the bounded view. -/
structure L2Line where
  mark : L2Mark
  since : Nat
  bounded : Bool
  deriving DecidableEq, Repr

/-- The form in which LPDDR6 holds a line, with the sectors an encoding takes (12 R315). -/
inductive LineForm where
  | plain
  | lossless (sectors : Nat)
  | bounded (sectors : Nat)
  deriving DecidableEq, Repr

/-- Memory and caches shared by the device (12 R306-R321; 16 R402). Poisoned sectors are listed by address / 32; cached
translations by cluster. -/
structure Memory where
  phys : List Host.Cell
  /-- per 32-byte sector, what it was last written under: 0 plaintext, else 1 + the 512-bit key -/
  keys : Sparse Nat
  /-- per line, the form its metadata records (12 R315) -/
  forms : Sparse LineForm
  poison : List Nat
  /-- the bytes of the sectors resident in the L2, by cache key (12 R308, R310) -/
  l2 : Sparse (Option CByte)
  /-- the lines resident in the L2, by the cache key of the line (12 R311) -/
  lines : Tbl L2Line
  xlats : Tbl XCache
  host : List Host.Cell
  bar2 : List Host.Cell
  deriving DecidableEq, Repr

/-- Figures of the part that never change (00 R1-R3): whether it is a 9612, and the enabled cores of each cluster. -/
structure PartNo where
  full : Bool
  sizes : List Nat
  deriving DecidableEq, Repr

/-- The 9612. -/
def PartNo.p9612 : PartNo := { full := true, sizes := [8, 8, 8, 8, 8, 8, 8, 8, 8, 8, 8, 8] }

/-- The host interface beside host memory (16 R402-R409). -/
structure HostIf where
  cmdq : Queue
  invq : Queue
  cplq : Queue
  ctl : Tbl CtlPage
  dbg : Tbl DebugWin
  msix : List Nat
  keys : Tbl (List Byte)
  grants : List (Nat × Nat)
  /-- invalidation descriptors submitted through ISUBMIT and not yet in effect, with their context (12 R330) -/
  isubs : List (Nat × BitVec 256)
  deriving DecidableEq, Repr

/-- Heads, ports and links (15, 16 R418-R420). -/
structure Links where
  heads : Tbl Head
  dp : Tbl DpLink
  shown : List Emission
  sent : List RtpPacket
  egress : Tbl Egress
  fabid : BitVec 4
  peers : Tbl Peer
  outgoing : List FabricFrame
  ptp : Ptp
  deriving DecidableEq, Repr

/-- The state of the machine. -/
structure State where
  partNo : PartNo
  clk : Nat
  time : DWord
  mem : Memory
  crews : Tbl Crew
  aux : Tbl CrewAux
  blocks : Tbl Block
  launches : Tbl Launch
  cores : Tbl Core
  partitions : Tbl Partition
  latches : Tbl Latch
  ctxs : Tbl Context
  invals : List Inval
  lamps : LampRing
  chains : Tbl Chain
  hostIf : HostIf
  links : Links
  boot : Boot
  pithead : Pithead
  health : Health
  lastCluster : Option Nat
  nextId : Nat
  nextToken : Word
  issue : Option Issue
  inputs : List Input
  turn : Nat
  fresh : Nat
  deriving DecidableEq, Repr

/-! ## Stops -/

/-- The reasons a step can stop with a fault. The device's own faults are traps, which are next states (14 R360). -/
inductive Fault where
  /-- Raised by `exec` of an instruction of a crew when no issue group is part-way through: there is no crew to run it
  for. Safe: `step` never calls `exec` so. -/
  | noIssuer
  deriving DecidableEq, Repr

/-- The reasons a step can be refused. -/
inductive Refusal where
  /-- Answered by an arm of `exec` whose instruction has no meaning yet. Safe: the machine stops. -/
  | notModelled (mnemonic : String)
  deriving DecidableEq, Repr

/-! ## Reset -/

/-- A queue whose registers are zero (log entry 6). -/
def Queue.zero : Queue := { base := 0, log2n := 0, prod := 0, cons := 0 }

/-- A part right after reset: the boot ROM waits for GO (16 R415), no context, launch or crew exists, and nothing is listed in
memory. Log entries 1 to 7, 14 and 17 name the values the spec does not give. -/
def State.resetOf (part : PartNo) : State :=
  { partNo := part
    clk := 0
    time := 0
    mem := { phys := [], keys := [], forms := [], poison := [], l2 := [], lines := [], xlats := [], host := [], bar2 := [] }
    crews := [], aux := [], blocks := [], launches := [], cores := [], partitions := [], latches := []
    ctxs := [], invals := []
    lamps := { count := 10, next := 10, k := 0, clusters := [], advance := none }
    chains := []
    hostIf :=
      { cmdq := Queue.zero, invq := Queue.zero, cplq := Queue.zero, ctl := [], dbg := [], msix := [], keys := [],
        grants := [], isubs := [] }
    links :=
      { heads := [], dp := [], shown := [], sent := [], egress := [], fabid := 0, peers := [], outgoing := []
        ptp :=
          { locked := false, syncLost := false, offset := 0, slew := 0, frac := 0, syncAt := none, asked := none, nextSeq := 0,
            sent := [] } }
    boot :=
      { addr := 0, go := false, status := .idle, fwver := 0, svn := 0, rollback := 0, rsaHash := Config.rsaKeyHash
        slhHash := Config.slhKeyHash, jtagLocked := true, imageHash := 0 }
    pithead :=
      { up := false, journal := 0, restarts := 0, crashes := 0, records := [], held := [], bells := [], badCap := none,
        halted := false, trip := false, committed := false, staged := none }
    health :=
      { cecnt := 0, uecnt := 0, uelast := 0, pwrcap := 1400, mhz := 940, watts := 0, celsius := 0, pcie := none, i3c := [],
        jtag := [] }
    lastCluster := none
    nextId := 1
    nextToken := 1
    issue := none
    inputs := []
    turn := 0
    fresh := 0 }

/-- The machine right after reset: the 9612 (log entry 7); `State.resetOf` is that of any part. -/
def State.reset : State := State.resetOf PartNo.p9612

end Sys2Proof.Machine
end

