-- ==== Sys2Proof/Machine/Access.lean ====
section
/-!
DEFINITION. Reading and writing the state: crews and their registers, the PC table and head run, blocks and bank
windows, cores and partitions, contexts and the region values in force.
-/

namespace Sys2Proof.Machine

/-! ## Parts (00 R1, R2) -/

/-- Whether the figures are those of a part that ships (00 R1, R2): 12 clusters of 8 cores on the 9612; on the 9610 80 cores, in
12 clusters of 4 to 8 of which at least four have 8, the harvest rule. -/
def PartNo.wf (p : PartNo) : Bool :=
  p.sizes.length == 12
    && (if p.full then p.sizes.all (· == 8)
      else p.sizes.all (fun n => decide (4 ≤ n) && decide (n ≤ 8)) && decide (4 ≤ (p.sizes.filter (· == 8)).length)
        && p.sizes.sum == 80)

/-! ## Lanes -/

/-- The lanes 0-31. -/
def allLanes : List Nat := List.range 32

/-- The lanes of a mask, ascending. -/
def lanesOf (m : LaneMask) : List Nat := allLanes.filter fun l => m.getLsbD l

/-- The mask of the lanes that satisfy a test. -/
def maskOf (p : Nat → Bool) : LaneMask := allLanes.foldl (fun m l => if p l then m ||| (1#32 <<< l) else m) 0

/-! ## Crews -/

/-- The values of a region that sets nothing. -/
def Started.blank : Started :=
  { cls := 3, fdom := 0, pager := true, trapTab := none, saveArea := 0, saveSlot := none, saveFrames := 0 }

/-- Hidden state of a crew before it is set (01 R24). -/
def CrewAux.blank : CrewAux :=
  { trap := { cause := 0, nesting := false, spriv := false, detail := 0 }
    trapRec := 0, sel := 0, storeQ := [], returning := [], frames := [], arrived := 0, hold := 0, holdIn := 0
    startedNext := false, tlsBase := 0, tlsLane := 0, rsEnt := 0, preempt := none, preemptClk := 0, retryAt := 0, susp := none
    exempt := false, frame := none, frameAt := 0, frameSlot := none, started := Started.blank, heldSlots := [], lostStores := [], lostCopies := [], replay := []
    restored := false, touched := [] }

/-- The hidden state of crew `c`. -/
def State.auxOf (s : State) (c : Nat) : CrewAux := (s.aux.find c).getD CrewAux.blank

/-- Set the registers of crew `c`. -/
def State.putCrew (s : State) (c : Nat) (r : Crew) : State := { s with crews := s.crews.put c r }

/-- Set the hidden state of crew `c`. -/
def State.putAux (s : State) (c : Nat) (a : CrewAux) : State := { s with aux := s.aux.put c a }

/-- Change the registers of crew `c`, if it exists. -/
def State.onCrew (s : State) (c : Nat) (f : Crew → Crew) : State := { s with crews := s.crews.upd c f }

/-- Change the hidden state of crew `c`. -/
def State.onAux (s : State) (c : Nat) (f : CrewAux → CrewAux) : State := s.putAux c (f (s.auxOf c))

/-- Whether a crew holds a slot (01 R19). -/
def Crew.resident (r : Crew) : Bool := r.phase != .saved && r.phase != .exited

/-- The number of a partition among all: 32 * core + partition. -/
def partKey (core part : Nat) : Nat := 32 * core + part

/-- The crew slot number (01 R28). -/
def slotNumber (core part slot : Nat) : Nat := 256 * core + 8 * part + slot

/-! ### Mode word (01 Table 1.7) -/

/-- M: the crew is in matrix mode. -/
def Crew.matrix (r : Crew) : Bool := r.mode.getLsbD 0
/-- PAIR: the accumulator pair last bound. -/
def Crew.pair (r : Crew) : Nat := (r.mode.extractLsb' 1 3).toNat
/-- PRIV: the privilege bit. -/
def Crew.priv (r : Crew) : Bool := r.mode.getLsbD 4
/-- G0-G5: the gang register. -/
def Crew.gang (r : Crew) : BitVec 48 := r.mode.extractLsb' 8 48

/-- A mode word from its fields; reserved bits are 0. -/
def modeWord (m : Bool) (pair : BitVec 3) (priv : Bool) (gang : BitVec 48) : DWord :=
  (BitVec.ofBool m).setWidth 64 ||| (pair.setWidth 64 <<< 1) ||| ((BitVec.ofBool priv).setWidth 64 <<< 4)
    ||| (gang.setWidth 64 <<< 8)

/-- Set the privilege bit. -/
def Crew.setPriv (r : Crew) (p : Bool) : Crew :=
  { r with mode := modeWord r.matrix (r.mode.extractLsb' 1 3) p r.gang }

/-! ### PC table (01 R11) -/

/-- The PC of lane `l`. -/
def Crew.pc (r : Crew) (l : Nat) : PC := r.pcs.getD l 0

/-- The live lanes. -/
def Crew.live (r : Crew) : LaneMask := ~~~ r.exited

/-- The lowest live PC, none when every lane has exited. -/
def Crew.lowest (r : Crew) : Option PC :=
  (lanesOf r.live).foldl (fun best l =>
    match best with
    | none => some (r.pc l)
    | some p => if r.pc l < p then some (r.pc l) else some p) none

/-- The head run: the live lanes at the lowest live PC. -/
def Crew.head (r : Crew) : LaneMask :=
  match r.lowest with
  | none => 0
  | some p => maskOf fun l => r.live.getLsbD l && r.pc l == p

/-- The address the crew issues at. -/
def Crew.headPc (r : Crew) : PC := (r.lowest).getD 0

/-- Every live lane stands at the head run's PC (01 R14). -/
def Crew.converged (r : Crew) : Bool := r.head == r.live

/-- Set the PCs of the lanes of a mask. -/
def Crew.setPcs (r : Crew) (m : LaneMask) (f : Nat → PC) : Crew :=
  { r with pcs := allLanes.map fun l => if m.getLsbD l then f l else r.pc l }

/-! ### Scalar, mask, route registers (01 R21) -/

/-- S(n): s0 reads 0. -/
def Crew.sreg (r : Crew) (n : SReg) : DWord := if n = 0 then 0 else Sparse.get 0 r.sregs n.toNat

/-- Write S(n); a write to s0 is discarded. -/
def Crew.setS (r : Crew) (n : SReg) (v : DWord) : Crew :=
  if n = 0 then r else { r with sregs := Sparse.put 0 r.sregs n.toNat v }

/-- K(n): k0 reads all ones. -/
def Crew.kreg (r : Crew) (n : KReg) : LaneMask := if n = 0 then 0xFFFFFFFF else Sparse.get 0 r.kregs n.toNat

/-- Write K(n); a write to k0 is discarded. -/
def Crew.setK (r : Crew) (n : KReg) (v : LaneMask) : Crew :=
  if n = 0 then r else { r with kregs := Sparse.put 0 r.kregs n.toNat v }

/-- Q(n). -/
def Crew.qreg (r : Crew) (n : QReg) : BitVec 144 := Sparse.get 0 r.qregs n.toNat

/-- Write Q(n). -/
def Crew.setQ (r : Crew) (n : QReg) (v : BitVec 144) : Crew := { r with qregs := Sparse.put 0 r.qregs n.toNat v }

/-- An empty return stack (01 R24). -/
def RStack.empty : RStack := { chip := [], depth := 0, count := 0, ptr := 0, ovf := false }

/-- The return stack of lane `l`. -/
def Crew.rstack (r : Crew) (l : Nat) : RStack := Sparse.get RStack.empty r.rstk l

/-- Set the return stack of lane `l`. -/
def Crew.setStack (r : Crew) (l : Nat) (k : RStack) : Crew := { r with rstk := Sparse.put RStack.empty r.rstk l k }

/-! ## Launches and blocks -/

/-- A packet of zeros, for a launch that is not there. -/
def Packet.blank : Packet :=
  { entry := 0, args := 0, gridX := 0, gridY := 0, gridZ := 0, crews := 0, regs8 := 0, spreadP := 0, spreadF := 0,
    bankKib := 0, tiles := 0, lflags := 0, start := 0, region := 0, pred := 0, handle := 0, seed := 0 }

/-- The packet of a crew's launch. -/
def State.packetOf (s : State) (r : Crew) : Packet :=
  match s.launches.find r.launch with
  | some l => l.packet
  | none => Packet.blank

/-- The context of a crew's launch. -/
def State.ctxOf (s : State) (r : Crew) : Nat :=
  match s.launches.find r.launch with
  | some l => l.ctx
  | none => 0

/-- The register window W (01 R21). -/
def Packet.window (p : Packet) : Nat := 8 * p.regs8.toNat

/-- The barrier count (13 Table 13.1, LFLAGS [5:1]). -/
def Packet.barriers (p : Packet) : Nat := (p.lflags.extractLsb' 1 5).toNat

/-- EARLY (LFLAGS bit 0). -/
def Packet.early (p : Packet) : Bool := p.lflags.getLsbD 0

/-- The launch's region slot. -/
def Packet.rslot (p : Packet) : Nat := (p.region.extractLsb' 0 8).toNat

/-- The number of blocks of the grid. -/
def Packet.blocks (p : Packet) : Nat := p.gridX.toNat * p.gridY.toNat * p.gridZ.toNat

/-- Crews per part, Q = ceil(C / S) (01 R16). -/
def perPart (crews spread : Nat) : Nat := (crews + spread - 1) / spread

/-- The number of crews on part `j` (01 R16). -/
def crewsOn (crews spread j : Nat) : Nat := min (perPart crews spread) (crews - j * perPart crews spread)

/-- The block of a crew. -/
def State.blockOf (s : State) (r : Crew) : Option Block := s.blocks.find r.block

/-- The spread of a crew's block. -/
def State.spreadOf (s : State) (r : Crew) : Nat :=
  match s.blockOf r with
  | some b => b.spread
  | none => 1

/-- The crew's local index on its part (01 R16). -/
def State.localOf (s : State) (r : Crew) : Nat := r.index % perPart (s.packetOf r).crews.toNat (s.spreadOf r)

/-- REGBASE(c) in 4-byte words: 256 * B + 32 * W * c (01 Table 1.8). -/
def State.regBase (s : State) (r : Crew) : Nat :=
  256 * (s.packetOf r).bankKib.toNat + 32 * (s.packetOf r).window * s.localOf r

/-- An empty tile-table entry (07 R175). -/
def TileEntry.zero : TileEntry := { offset := 0, size := 0, swz := 0, state := .empty, pend := 0 }

/-- A part with nothing in it. -/
def Part.blank : Part := { core := 0, bank := [], tiles := [], shadow := [] }

/-- Part `j` of block `b`. -/
def State.partOf (s : State) (b j : Nat) : Part :=
  match s.blocks.find b with
  | some k => (k.parts.find j).getD Part.blank
  | none => Part.blank

/-- Change part `j` of block `b`. -/
def State.onPart (s : State) (b j : Nat) (f : Part → Part) : State :=
  { s with blocks := s.blocks.upd b fun k => { k with parts := k.parts.upd j f } }

/-- Word `i` of a part's bank window. -/
def State.bankGet (s : State) (b j i : Nat) : Word := Sparse.get 0 (s.partOf b j).bank i

/-- Write word `i` of a part's bank window. -/
def State.bankPut (s : State) (b j i : Nat) (v : Word) : State :=
  s.onPart b j fun p => { p with bank := Sparse.put 0 p.bank i v }

/-- The size in bytes of part `j`'s window (01 Table 1.8). -/
def State.windowSize (s : State) (r : Crew) (j : Nat) : Nat :=
  1024 * (s.packetOf r).bankKib.toNat
    + 128 * (s.packetOf r).window * crewsOn (s.packetOf r).crews.toNat (s.spreadOf r) j

/-- Tile `t` of the crew's part. -/
def State.tile (s : State) (r : Crew) (t : Nat) : TileEntry :=
  Sparse.get TileEntry.zero (s.partOf r.block r.part).tiles t

/-- Set tile `t` of part `j` of block `b`. -/
def State.putTile (s : State) (b j t : Nat) (e : TileEntry) : State :=
  s.onPart b j fun p => { p with tiles := Sparse.put TileEntry.zero p.tiles t e }

/-! ## Partitions and cores -/

/-- An invalid plane: every weight byte reads 0 (08 R201). The spec gives it no format; it takes code 0 (log entry 77). -/
def Plane.none : Plane := { bytes := [], fmt := 0, valid := false }

/-- A partition at reset (08 Table 8.1). -/
def Partition.blank : Partition :=
  { recency := [], issuer := Option.none, issueEnd := 0, acc := [], events := [], owners := [], planeOwner := Option.none, front := Plane.none,
    shadow := Plane.none, streams := [], wld := Option.none, wldRead := Option.none, accst := [], accld := [] }

/-- Partition number `k` (32 * core + partition). -/
def State.pn (s : State) (k : Nat) : Partition := (s.partitions.find k).getD Partition.blank

/-- Set partition number `k`. -/
def State.putPn (s : State) (k : Nat) (p : Partition) : State := { s with partitions := s.partitions.put k p }

/-- Change partition number `k`. -/
def State.onPn (s : State) (k : Nat) (f : Partition → Partition) : State := s.putPn k (f (s.pn k))

/-- The partition number of a crew. -/
def Crew.pkey (r : Crew) : Nat := partKey r.core r.partition

/-- A core at reset. -/
def Core.blank : Core :=
  { l1 := [], l1At := [], l1Poison := [], wc := [], icache := [], views := [], park := [], ctrs := [], queues := [], books := [] }

/-- Core `k`. -/
def State.coreOf (s : State) (k : Nat) : Core := (s.cores.find k).getD Core.blank

/-- Set core `k`. -/
def State.putCore (s : State) (k : Nat) (c : Core) : State := { s with cores := s.cores.put k c }

/-- Change core `k`. -/
def State.onCore (s : State) (k : Nat) (f : Core → Core) : State := s.putCore k (f (s.coreOf k))

/-- The number of enabled cores N (00 R2). -/
def State.ncores (s : State) : Nat := s.partNo.sizes.foldl (· + ·) 0

/-- The first logical core of cluster `c` (00 R2). -/
def clusterBase (sizes : List Nat) (c : Nat) : Nat := (sizes.take c).foldl (· + ·) 0

/-- The logical cores of cluster `c`. -/
def State.clusterCores (s : State) (c : Nat) : List Nat :=
  (List.range (s.partNo.sizes.getD c 0)).map (clusterBase s.partNo.sizes c + ·)

/-- The logical cluster of a core (00 R2). -/
def State.clusterOf (s : State) (core : Nat) : Nat :=
  ((List.range s.partNo.sizes.length).filter fun c => decide (clusterBase s.partNo.sizes c ≤ core)).foldl max 0

/-! ## Vector registers (01 R21, R29; 08 R202) -/

/-- The accumulator word that v_n names in matrix mode, n ≥ 64: tile * 1024 + row * 32 + lane. -/
def accIndex (pair n l : Nat) : Nat := (2 * pair + (n - 64) / 32) * 1024 + (n % 32) * 32 + l

/-- V(n, l). -/
def State.getV (s : State) (r : Crew) (n l : Nat) : Word :=
  if r.matrix && decide (64 ≤ n) then Sparse.get 0 (s.pn r.pkey).acc (accIndex r.pair n l)
  else s.bankGet r.block r.part (s.regBase r + 32 * n + l)

/-- Write V(n, l). -/
def State.putV (s : State) (r : Crew) (n l : Nat) (v : Word) : State :=
  if r.matrix && decide (64 ≤ n) then
    s.onPn r.pkey fun p => { p with acc := Sparse.put 0 p.acc (accIndex r.pair n l) v }
  else s.bankPut r.block r.part (s.regBase r + 32 * n + l) v

/-- Write V(n, l) for the lanes of a list. -/
def State.putLanes (s : State) (r : Crew) (n : Nat) (ls : List Nat) (f : Nat → Word) : State :=
  ls.foldl (fun t l => t.putV r n l (f l)) s

/-- VPair(n, l): the low word in v_n. -/
def State.getV2 (s : State) (r : Crew) (n l : Nat) : DWord := s.getV r (n + 1) l ++ s.getV r n l

/-- Write VPair(n, l). -/
def State.putV2 (s : State) (r : Crew) (n l : Nat) (v : DWord) : State :=
  (s.putV r n l (v.extractLsb' 0 32)).putV r (n + 1) l (v.extractLsb' 32 32)

/-! ## Contexts and regions (01 R35-R40) -/

/-- The region a slot of a context maps. -/
def State.region (s : State) (ctx slot : Nat) : Option Region :=
  match s.ctxs.find ctx with
  | some c => c.slots.find slot
  | none => none

/-- Change the region a slot maps. -/
def State.onRegion (s : State) (ctx slot : Nat) (f : Region → Region) : State :=
  { s with ctxs := s.ctxs.upd ctx fun c => { c with slots := c.slots.upd slot f } }

/-- The slot of a context whose region's RCB lies at an address. Two slots may map one RCB, on which the spec is silent: each keeps values
and USED figures of its own, and an address names the first such slot (log entry 96). -/
def slotAt (slots : Tbl Region) (va : DWord) : Option Nat := (slots.find? fun p => p.2.va == va).map (·.1)

/-- The slots from a region's slot up to the root (01 R37), at most `n`. -/
def chainFrom (slots : Tbl Region) (slot : Nat) : Nat → List Nat
  | 0 => []
  | n + 1 =>
    match slots.find slot with
    | none => []
    | some g =>
      slot :: (if g.parent = 0 then []
        else match slotAt slots g.parent with
          | none => []
          | some up => chainFrom slots up n)

/-- The region chain of a slot, the region first, the root last. -/
def State.regionChain (s : State) (ctx slot : Nat) : List Nat :=
  match s.ctxs.find ctx with
  | some c => chainFrom c.slots slot 17
  | none => []

/-- The slot whose value of inheritable field `bit` is in force for a region (01 R36). -/
def State.inForce (s : State) (ctx slot bit : Nat) : Option Region :=
  ((s.regionChain ctx slot).filterMap fun k => s.region ctx k).find? fun g => g.override.getLsbD bit

/-- The slot whose value of an inheritable field is in force for a region. -/
def State.inForceSlot (s : State) (ctx slot bit : Nat) : Option Nat :=
  (s.regionChain ctx slot).find? fun k =>
    match s.region ctx k with
    | some g => g.override.getLsbD bit
    | none => false

/-- The slot of the region a crew works under: its top frame's RSLOT, else its launch region (01 R40). -/
def State.rslotOf (s : State) (c : Nat) (r : Crew) : Nat :=
  match (s.auxOf c).frames.getLast? with
  | some f => (f.extractLsb' 240 8).toNat
  | none => (s.packetOf r).rslot

/-- The CLASS in force for a region (01 Table 1.11); class 3 where there is none. -/
def State.classOf (s : State) (ctx slot : Nat) : Nat :=
  match s.inForce ctx slot 0 with
  | some g => g.cls.toNat
  | none => 3

/-- The values of a launch region that a crew placed now starts with (01 R38). -/
def State.startedOf (s : State) (ctx slot : Nat) : Started :=
  { cls := s.classOf ctx slot
    fdom := ((s.inForce ctx slot 1).map (·.fdom.toNat)).getD 0
    pager := ((s.inForce ctx slot 2).map fun g => g.rflags.getLsbD 1).getD true
    trapTab := (s.inForce ctx slot 10).map (·.trapTab)
    saveArea := ((s.inForce ctx slot 9).map (·.saveArea)).getD 0
    saveSlot := s.inForceSlot ctx slot 9
    saveFrames := ((s.inForce ctx slot 4).map (·.crews.toNat)).getD 0 }

/-- A crew's class (13 R343): of its top frame's region, else of its launch region as the crew started with it (01 R38); a crew
between pre-emption entry and SAVED issues as class 0 (14 R363). -/
def State.crewClass (s : State) (c : Nat) (r : Crew) : Nat :=
  let a := s.auxOf c
  if a.trap.nesting && a.trap.cause == 0x20 && !a.restored then 0
  else if a.frames.isEmpty then a.started.cls
  else s.classOf (s.ctxOf r) (s.rslotOf c r)

/-- The fault domain of the region a crew works under. -/
def State.crewDomain (s : State) (c : Nat) (r : Crew) : Nat :=
  if (s.auxOf c).frames.isEmpty then (s.auxOf c).started.fdom
  else ((s.inForce (s.ctxOf r) (s.rslotOf c r) 1).map (·.fdom.toNat)).getD 0

/-- The trap table of the region a crew works under. -/
def State.crewTable (s : State) (c : Nat) (r : Crew) : Option DWord :=
  if (s.auxOf c).frames.isEmpty then (s.auxOf c).started.trapTab
  else (s.inForce (s.ctxOf r) (s.rslotOf c r) 10).map (·.trapTab)

/-- A control page at reset (16 Table 16.5). -/
def CtlPage.zero : CtlPage :=
  { idesc := 0, subcnt := 0, evdrop := 0, evq := Queue.zero, fltq := Queue.zero, wins := [],
    heldEvents := [], heldFaults := [] }

/-- The control page of a context. -/
def State.ctlOf (s : State) (ctx : Nat) : CtlPage := (s.hostIf.ctl.find ctx).getD CtlPage.zero

/-- Set the control page of a context. -/
def State.putCtl (s : State) (ctx : Nat) (p : CtlPage) : State :=
  { s with hostIf := { s.hostIf with ctl := s.hostIf.ctl.put ctx p } }

/-- A record buffer at reset. -/
def RecBuf.zero : RecBuf := { base := 0, count := 0, wr := 0, rd := 0, drop := 0 }

/-- A debug window at reset (14 Tables 14.5-14.8): SPLOG 8, watch sizes 2. -/
def DebugWin.zero : DebugWin :=
  { dbgen := false, bpen := false, wpen := false, sampen := false, blkrec := false, racedet := false, splog := 8,
    samples := RecBuf.zero, blocks := RecBuf.zero, bps := [], wps := [], sampStart := 0, notes := [] }

/-- The debug window of a context. -/
def State.dbgOf (s : State) (ctx : Nat) : DebugWin := (s.hostIf.dbg.find ctx).getD DebugWin.zero

/-- Set the debug window of a context. -/
def State.putDbg (s : State) (ctx : Nat) (d : DebugWin) : State :=
  { s with hostIf := { s.hostIf with dbg := s.hostIf.dbg.put ctx d } }

end Sys2Proof.Machine
end

