-- ==== Sys2Proof/Machine/Crypto.lean ====
section
/-!
DEFINITION. The ciphers and hashes that the spec names by their standards: AES-256 in XTS mode (12 R319, IEEE 1619), and
SHA-256, SHA-384 and SHA-512 with the two signature schemes of a firmware image (16 R415). The spec names the standards
and does not repeat them; log entry 76.
-/

namespace Sys2Proof.Machine

/-! ## AES-256 (12 R319) -/

/-- Doubling in the field of AES. -/
def gfDouble (a : Byte) : Byte := (a <<< 1) ^^^ (if a.getLsbD 7 then 0x1B else 0)

/-- A product in the field of AES, over the n low bits of the second factor. -/
def gfMulN : Nat → Byte → Byte → Byte
  | 0, _, _ => 0
  | n + 1, a, b => (if b.getLsbD 0 then a else 0) ^^^ gfMulN n (gfDouble a) (b >>> 1)

/-- A product in the field of AES. -/
def gfMul (a b : Byte) : Byte := gfMulN 8 a b

/-- The 254th power: the inverse, and 0 of 0. -/
def gfInv (a : Byte) : Byte :=
  let a2 := gfMul a a
  let a3 := gfMul a2 a
  let a12 := gfMul (gfMul a3 a3) (gfMul a3 a3)
  let a15 := gfMul a12 a3
  let a30 := gfMul a15 a15
  let a60 := gfMul a30 a30
  let a120 := gfMul a60 a60
  let a126 := gfMul a120 (gfMul a3 a3)
  let a127 := gfMul a126 a
  gfMul a127 a127

/-- The substitution of AES. -/
def aesSub (a : Byte) : Byte :=
  let b := gfInv a
  b ^^^ b.rotateLeft 1 ^^^ b.rotateLeft 2 ^^^ b.rotateLeft 3 ^^^ b.rotateLeft 4 ^^^ 0x63

/-- The inverse substitution of AES. -/
def aesSubInv (a : Byte) : Byte := gfInv (a.rotateLeft 1 ^^^ a.rotateLeft 3 ^^^ a.rotateLeft 6 ^^^ 0x05)

/-- The exclusive-or of byte strings, byte by byte. -/
def xorBytes (a b : List Byte) : List Byte := (a.zip b).map fun p => p.1 ^^^ p.2

/-- The round constant of word i / 8 of the key schedule. -/
def aesRcon : Nat → Byte
  | 0 => 0x8D
  | n + 1 => gfDouble (aesRcon n)

/-- Word i of the key schedule, from the eight words before it, newest first. -/
def aesNextWord (i : Nat) (ws : List (List Byte)) : List Byte :=
  let prev := ws.headD []
  let back := ws.getD 7 []
  if i % 8 = 0 then xorBytes back (xorBytes (((prev.drop 1) ++ prev.take 1).map aesSub) [aesRcon (i / 8), 0, 0, 0])
  else if i % 8 = 4 then xorBytes back (prev.map aesSub)
  else xorBytes back prev

/-- The key schedule of AES-256: 15 round keys of 16 bytes. -/
def aesKeys (key : List Byte) : List (List Byte) :=
  let w0 := ((List.range 8).map fun i => (key.drop (4 * i)).take 4).reverse
  let ws := ((List.range 52).foldl (fun ws i => aesNextWord (i + 8) ws :: ws) w0).reverse
  (List.range 15).map fun r => ((ws.drop (4 * r)).take 4).flatten

/-- One column of MixColumns with the coefficients of a row. -/
def aesMix (m : List Byte) (col : List Byte) : List Byte :=
  (List.range 4).map fun r =>
    (List.range 4).foldl (fun x c => x ^^^ gfMul (m.getD ((c + 4 - r) % 4) 0) (col.getD c 0)) 0

/-- MixColumns with the coefficients of a row. -/
def aesMixAll (m : List Byte) (b : List Byte) : List Byte :=
  (List.range 4).flatMap fun c => aesMix m ((b.drop (4 * c)).take 4)

/-- ShiftRows by k columns a row. -/
def aesShift (k : Nat) (b : List Byte) : List Byte :=
  (List.range 16).map fun i => b.getD ((i + 4 * k * (i % 4)) % 16) 0

/-- The encryption of a 16-byte block under round keys. -/
def aesEnc (ks : List (List Byte)) (b : List Byte) : List Byte :=
  let mid := (List.range 13).foldl (fun x r =>
    xorBytes (aesMixAll [2, 3, 1, 1] (aesShift 1 (x.map aesSub))) (ks.getD (r + 1) [])) (xorBytes b (ks.getD 0 []))
  xorBytes (aesShift 1 (mid.map aesSub)) (ks.getD 14 [])

/-- The decryption of a 16-byte block under round keys. -/
def aesDec (ks : List (List Byte)) (b : List Byte) : List Byte :=
  let mid := (List.range 13).foldl (fun x r =>
    aesMixAll [0x0E, 0x0B, 0x0D, 0x09] (xorBytes ((aesShift 3 x).map aesSubInv) (ks.getD (13 - r) [])))
    (xorBytes b (ks.getD 14 []))
  xorBytes ((aesShift 3 mid).map aesSubInv) (ks.getD 0 [])

/-! ## XTS (IEEE 1619): a data unit of two blocks -/

/-- A tweak doubled for the next block. -/
def xtsNext (t : List Byte) : List Byte :=
  (List.range 16).map fun i =>
    (t.getD i 0 <<< 1) ^^^ (if i = 0 then (if (t.getD 15 0).getLsbD 7 then (0x87 : Byte) else 0) else (t.getD (i - 1) 0) >>> 7)

/-- The tweaks of a sector's two blocks under a 512-bit key, given as bytes: the sector's number encrypted under the
key's second half, and its double. -/
def xtsTweaks (key : List Byte) (sector : Nat) : List (List Byte) :=
  let t := aesEnc (aesKeys (key.drop 32)) ((List.range 16).map fun i => BitVec.ofNat 8 (sector / 256 ^ i))
  [t, xtsNext t]

/-- The two blocks of a 32-byte sector through a block cipher, whitened by the tweaks. -/
def xtsBlocks (f : List Byte → List Byte) (ts : List (List Byte)) (bs : List Byte) : List Byte :=
  (List.range 2).flatMap fun i =>
    let t := ts.getD i []
    xorBytes (f (xorBytes ((bs.drop (16 * i)).take 16) t)) t

/-- A sector's ciphertext (12 R319). -/
def xtsEnc (key : List Byte) (sector : Nat) (bs : List Byte) : List Byte :=
  xtsBlocks (aesEnc (aesKeys (key.take 32))) (xtsTweaks key sector) bs

/-- A sector's plaintext (12 R319). -/
def xtsDec (key : List Byte) (sector : Nat) (bs : List Byte) : List Byte :=
  xtsBlocks (aesDec (aesKeys (key.take 32))) (xtsTweaks key sector) bs

/-! ## SHA-2 (FIPS 180-4) -/

/-- The n bytes of a number, most significant first. -/
def beBytes (n v : Nat) : List Byte := (List.range n).map fun i => BitVec.ofNat 8 (v / 256 ^ (n - 1 - i))

/-- The number that bytes stand for, most significant first. -/
def beVal (bs : List Byte) : Nat := bs.foldl (fun v b => 256 * v + b.toNat) 0

/-- The prime numbers below 410: the first 80. -/
def shaPrimes : List Nat := (List.range 410).filter fun p => decide (2 ≤ p) && (List.range p).all fun d => decide (d < 2) || p % d != 0

/-- The k-th root of a number below 2^(67k), rounded down. -/
def rootFloor (k n : Nat) : Nat :=
  (List.range 67).foldl (fun r i => if (r + 2 ^ (66 - i)) ^ k ≤ n then r + 2 ^ (66 - i) else r) 0

/-- The first 64 bits of the fraction of the k-th root of a prime. -/
def rootBits (k p : Nat) : Nat := rootFloor k (p * 2 ^ (64 * k)) % 2 ^ 64

/-- What differs between SHA-256 and SHA-512: the rounds, the round constants, and the amounts of the four sigma functions. -/
structure Sha2 (w : Nat) where
  rounds : Nat
  consts : List (BitVec w)
  big0 : Nat × Nat × Nat
  big1 : Nat × Nat × Nat
  small0 : Nat × Nat × Nat
  small1 : Nat × Nat × Nat

/-- SHA-256's figures. -/
def sha256Fig : Sha2 32 :=
  { rounds := 64, consts := (shaPrimes.take 64).map fun p => BitVec.ofNat 32 (rootBits 3 p / 2 ^ 32)
    big0 := (2, 13, 22), big1 := (6, 11, 25), small0 := (7, 18, 3), small1 := (17, 19, 10) }

/-- SHA-384's and SHA-512's figures. -/
def sha512Fig : Sha2 64 :=
  { rounds := 80, consts := shaPrimes.map fun p => BitVec.ofNat 64 (rootBits 3 p)
    big0 := (28, 34, 39), big1 := (14, 18, 41), small0 := (1, 8, 7), small1 := (19, 61, 6) }

/-- Three rotations together. -/
def shaBig {w : Nat} (t : Nat × Nat × Nat) (x : BitVec w) : BitVec w :=
  x.rotateRight t.1 ^^^ x.rotateRight t.2.1 ^^^ x.rotateRight t.2.2

/-- Two rotations and a shift together. -/
def shaSmall {w : Nat} (t : Nat × Nat × Nat) (x : BitVec w) : BitVec w :=
  x.rotateRight t.1 ^^^ x.rotateRight t.2.1 ^^^ x >>> t.2.2

/-- The message schedule, newest word first. -/
def Sha2.schedule {w : Nat} (f : Sha2 w) (block : List (BitVec w)) : List (BitVec w) :=
  (List.range (f.rounds - 16)).foldl (fun ws _ =>
    (shaSmall f.small1 (ws.getD 1 0) + ws.getD 6 0 + shaSmall f.small0 (ws.getD 14 0) + ws.getD 15 0) :: ws) block.reverse

/-- One round on the eight working words. -/
def Sha2.round {w : Nat} (f : Sha2 w) (v : List (BitVec w)) (kw : BitVec w) : List (BitVec w) :=
  let a := v.getD 0 0
  let b := v.getD 1 0
  let c := v.getD 2 0
  let e := v.getD 4 0
  let t1 := v.getD 7 0 + shaBig f.big1 e + ((e &&& v.getD 5 0) ^^^ (~~~ e &&& v.getD 6 0)) + kw
  [t1 + shaBig f.big0 a + ((a &&& b) ^^^ (a &&& c) ^^^ (b &&& c)), a, b, c, v.getD 3 0 + t1, e, v.getD 5 0, v.getD 6 0]

/-- Absorb a block. -/
def Sha2.block {w : Nat} (f : Sha2 w) (h block : List (BitVec w)) : List (BitVec w) :=
  let v := (((f.schedule block).reverse.zip f.consts).map fun p => p.1 + p.2).foldl f.round h
  (h.zip v).map fun p => p.1 + p.2

/-- The words of n blocks of bytes. -/
def shaBlocks (w : Nat) : Nat → List Byte → List (List (BitVec w))
  | 0, _ => []
  | n + 1, bs =>
    ((List.range 16).map fun i => BitVec.ofNat w (beVal ((bs.drop (w / 8 * i)).take (w / 8)))) :: shaBlocks w n (bs.drop (2 * w))

/-- A message padded to whole blocks of 2w bytes. -/
def shaPad (w : Nat) (m : List Byte) : List Byte :=
  m ++ 0x80 :: List.replicate ((2 * w - (m.length + 1 + w / 4) % (2 * w)) % (2 * w)) 0 ++ beBytes (w / 4) (8 * m.length)

/-- The first n bytes of the hash of a message from initial words. -/
def Sha2.hash {w : Nat} (f : Sha2 w) (init : List (BitVec w)) (n : Nat) (m : List Byte) : List Byte :=
  let p := shaPad w m
  (((shaBlocks w (p.length / (2 * w)) p).foldl f.block init).flatMap fun x => beBytes (w / 8) x.toNat).take n

/-- SHA-256. -/
def sha256 (m : List Byte) : List Byte :=
  sha256Fig.hash ((shaPrimes.take 8).map fun p => BitVec.ofNat 32 (rootBits 2 p / 2 ^ 32)) 32 m

/-- SHA-384. -/
def sha384 (m : List Byte) : List Byte :=
  sha512Fig.hash (((shaPrimes.drop 8).take 8).map fun p => BitVec.ofNat 64 (rootBits 2 p)) 48 m

/-- SHA-512. -/
def sha512 (m : List Byte) : List Byte :=
  sha512Fig.hash ((shaPrimes.take 8).map fun p => BitVec.ofNat 64 (rootBits 2 p)) 64 m

/-- The mask generation function of RFC 8017: n bytes from a seed, with a hash of `size` bytes. -/
def mgf1 (hash : List Byte → List Byte) (size n : Nat) (seed : List Byte) : List Byte :=
  ((List.range ((n + size - 1) / size)).flatMap fun i => hash (seed ++ beBytes 4 i)).take n

/-! ## RSASSA-PSS (RFC 8017), SHA-384 throughout, a salt of 48 bytes -/

/-- Whether an encoded message of `bits` bits is one of a message (EMSA-PSS-VERIFY). -/
def pssOk (bits : Nat) (em m : List Byte) : Bool :=
  let len := (bits + 7) / 8
  let top := 8 * len - bits
  let masked := em.take (len - 49)
  let h := (em.drop (len - 49)).take 48
  let db := beBytes (len - 49) (beVal (xorBytes masked (mgf1 sha384 48 (len - 49) h)) % 2 ^ (8 * (len - 49) - top))
  decide (98 ≤ len) && em.getLast? == some 0xBC && decide ((em.headD 0).toNat < 2 ^ (8 - top))
    && (db.take (len - 98)).all (· == 0) && (db.drop (len - 98)).head? == some 0x01
    && sha384 (List.replicate 8 0 ++ sha384 m ++ db.drop (len - 97)) == h

/-- Whether a signature of a message verifies under a modulus with exponent 65537. -/
def rsaPssOk (modulus : Nat) (sig m : List Byte) : Bool :=
  let bits := Nat.log2 modulus
  let s := beVal sig
  let v := (List.range 16).foldl (fun x _ => x * x % modulus) s * s % modulus
  decide (s < modulus) && decide (v < 2 ^ (8 * ((bits + 7) / 8))) && pssOk bits (beBytes ((bits + 7) / 8) v) m

/-! ## SLH-DSA-SHA2-192s (FIPS 205): n = 24, h = 63, d = 7, a = 14, k = 17, w = 16 -/

/-- A compressed address: layer, tree, type, key pair, chain or height, hash or index. -/
def slhAdrs (layer tree type pair height index : Nat) : List Byte :=
  beBytes 1 layer ++ beBytes 8 tree ++ beBytes 1 type ++ beBytes 4 pair ++ beBytes 4 height ++ beBytes 4 index

/-- F: the hash of one value. -/
def slhF (seed adrs x : List Byte) : List Byte := (sha256 (seed ++ List.replicate 40 0 ++ adrs ++ x)).take 24

/-- H and T: the hash of several values. -/
def slhH (seed adrs x : List Byte) : List Byte := (sha512 (seed ++ List.replicate 104 0 ++ adrs ++ x)).take 24

/-- The first k groups of b bits of bytes, most significant first. -/
def base2b (bs : List Byte) (b k : Nat) : List Nat :=
  (List.range k).map fun i => beVal bs / 2 ^ (8 * bs.length - b * (i + 1)) % 2 ^ b

/-- Value i of 24 bytes. -/
def slhAt (bs : List Byte) (i : Nat) : List Byte := (bs.drop (24 * i)).take 24

/-- The root above a leaf along an authentication path of n values: `adrs` gives the address of a node from its height and
index. -/
def slhRoot (seed : List Byte) (adrs : Nat → Nat → List Byte) (auth : List Byte) (n leaf idx : Nat) (node : List Byte) : List Byte :=
  (List.range n).foldl (fun x j =>
    slhH seed (adrs (j + 1) (idx / 2 ^ (j + 1)))
      (if leaf / 2 ^ j % 2 = 0 then x ++ slhAt auth j else slhAt auth j ++ x)) node

/-- The FORS public key of a signature of 17 trees of height 14. -/
def forsKey (seed sig md : List Byte) (tree pair : Nat) : List Byte :=
  let ix := base2b md 14 17
  slhH seed (slhAdrs 0 tree 4 pair 0 0) ((List.range 17).flatMap fun i =>
    let s := (sig.drop (360 * i)).take 360
    let leaf := ix.getD i 0
    let at' := 16384 * i + leaf
    slhRoot seed (slhAdrs 0 tree 3 pair) (s.drop 24) 14 leaf at' (slhF seed (slhAdrs 0 tree 3 pair 0 at') (slhAt s 0)))

/-- The WOTS+ public key of a signature of a 24-byte value. -/
def wotsKey (seed sig m : List Byte) (layer tree pair : Nat) : List Byte :=
  let ds := base2b m 4 48
  let sum := ds.foldl (fun c d => c + (15 - d)) 0
  let all := ds ++ base2b (beBytes 2 (16 * sum)) 4 3
  slhH seed (slhAdrs layer tree 1 pair 0 0) ((List.range 51).flatMap fun i =>
    let d := all.getD i 0
    (List.range (15 - d)).foldl (fun x j => slhF seed (slhAdrs layer tree 0 pair i (d + j)) x) (slhAt sig i))

/-- The XMSS root of a signature: 51 chains and a path of 9. -/
def xmssKey (seed sig m : List Byte) (layer tree leaf : Nat) : List Byte :=
  slhRoot seed (slhAdrs layer tree 2 0) (sig.drop 1224) 9 leaf leaf (wotsKey seed sig m layer tree leaf)

/-- Whether a pure signature of a message, with an empty context string, verifies under a 48-byte public key. -/
def slhDsaOk (key sig m : List Byte) : Bool :=
  let seed := key.take 24
  let r := sig.take 24
  let digest := mgf1 sha512 64 39 (r ++ seed ++ sha512 (r ++ key ++ [0, 0] ++ m))
  let tree := beVal ((digest.drop 30).take 7) % 2 ^ 54
  let leaf := beVal (digest.drop 37) % 2 ^ 9
  let fors := forsKey seed ((sig.drop 24).take 6120) (digest.take 30) tree leaf
  sig.length == 16224 && key.length == 48 && (List.range 7).foldl (fun x j =>
    xmssKey seed ((sig.drop (6144 + 1440 * j)).take 1440) x j (tree / 2 ^ (9 * j))
      (if j = 0 then leaf else tree / 2 ^ (9 * (j - 1)) % 2 ^ 9)) fors == key.drop 24

end Sys2Proof.Machine
end

