-- ==== Sys2Proof/Machine/Mem.lean ====
section
/-!
DEFINITION. Memory below the instructions: the physical map, encryption, the L2 and its views, the L1, the
write-combining buffer, the store queue, address translation, the control pages as MMIO, and the checks that every
lane of a memory instruction makes (07 R166-R169, 11, 12, 14 R358).
-/

namespace Sys2Proof.Machine

/-! ## Bytes -/

/-- The n bytes of a number, least significant first (00 R5). -/
def leBytes : Nat → Nat → List Byte
  | 0, _ => []
  | n + 1, v => BitVec.ofNat 8 v :: leBytes n (v / 256)

/-- The number that bytes stand for, least significant first. -/
def leVal : List Byte → Nat
  | [] => 0
  | b :: t => b.toNat + 256 * leVal t

/-! ## The physical map (12 R307) -/

/-- The ranges of Table 12.2. -/
inductive PRange where
  | lpddr | strip | mmio | hole
  deriving DecidableEq, Repr

/-- The range a physical address falls in. -/
def rangeOf (pa : Nat) : PRange :=
  if pa < 0x018000000000 then .lpddr
  else if 0xF00000000000 ≤ pa ∧ pa < 0xF00004000000 then .strip
  else if 0xFF0000000000 ≤ pa ∧ pa < 0xFF0004000000 then .mmio
  else .hole

/-- The view of an attribute: compressed for codes 4 and 5 (12 R308). -/
def MemTag.view (t : MemTag) : Bool := t.attr == 4 || t.attr == 5

/-- Whether two tags name the same line at one address: view, key id and home agree (12 R308). -/
def MemTag.same (a b : MemTag) : Bool := a.view == b.view && a.key == b.key && a.home == b.home

/-- The number under which a cache holds a byte: address, view, key id. -/
def cacheKey (view : Bool) (key : BitVec 8) (pa : Nat) : Nat := pa * 512 + (if view then 256 else 0) + key.toNat

/-- The cache key of a byte under a tag. -/
def MemTag.ckey (t : MemTag) (pa : Nat) : Nat := cacheKey t.view t.key pa

/-! ## The backing store and encryption (12 R319-R321) -/

/-- The bytes of a physical sector's key: 0 for plaintext, else 1 + the 512-bit key of the slot. -/
def State.keyMat (s : State) (key : BitVec 8) : Nat :=
  if key = 0 then 0 else 1 + leVal ((s.hostIf.keys.find key.toNat).getD [])

/-- The byte stored at a physical address, as plaintext under the key it was written with. -/
def State.physGet (s : State) (pa : Nat) : Byte := Sparse.get 0 s.mem.phys pa

/-- Store a byte at a physical address. -/
def State.physPut (s : State) (pa : Nat) (b : Byte) : State :=
  { s with mem := { s.mem with phys := Sparse.put 0 s.mem.phys pa b } }

/-- The bytes from an address on, as plaintext under the keys they were written with. -/
def State.physBytes (s : State) (pa n : Nat) : List Byte := (List.range n).map fun i => s.physGet (pa + i)

/-- The ciphertext of a sector's bytes under a key, or the bytes themselves in plaintext (12 R319). -/
def sectorEnc (mat sector : Nat) (bs : List Byte) : List Byte :=
  if mat = 0 then bs else xtsEnc (leBytes 64 (mat - 1)) sector bs

/-- The bytes that a sector's ciphertext decrypts to under a key (12 R319). -/
def sectorDec (mat sector : Nat) (bs : List Byte) : List Byte :=
  if mat = 0 then bs else xtsDec (leBytes 64 (mat - 1)) sector bs

/-- The form in which LPDDR6 holds a line (12 R315). -/
def State.formOf (s : State) (line : Nat) : LineForm := Sparse.get LineForm.plain s.mem.forms line

/-- The bytes of a sector filled under a key: those written, or the XTS decryption of what another key left (12 R320); of an
encoded line under another key, what the encoding makes of them. -/
def State.fillSector (s : State) (key : BitVec 8) (sector : Nat) : List Byte :=
  let w := Sparse.get 0 s.mem.keys sector
  let bs := s.physBytes (32 * sector) 32
  if w = s.keyMat key then bs
  else if s.formOf (sector / 4) = .plain then sectorDec (s.keyMat key) sector (sectorEnc w sector bs)
  else (List.range 32).map fun i => Config.foreign w (s.keyMat key) sector (s.physBytes (sector / 4 * 128) 128) i

/-- A byte of LPDDR6 filled under a key. -/
def State.backGet (s : State) (key : BitVec 8) (pa : Nat) : Byte :=
  if Sparse.get 0 s.mem.keys (pa / 32) = s.keyMat key then s.physGet pa else (s.fillSector key (pa / 32)).getD (pa % 32) 0

/-- Store a sector's bytes under a key. -/
def State.putSector (s : State) (key : BitVec 8) (sector : Nat) (vals : List Byte) : State :=
  let t := (List.range 32).foldl (fun t i => t.physPut (32 * sector + i) (vals.getD i 0)) s
  { t with mem := { t.mem with keys := Sparse.put 0 t.mem.keys sector (s.keyMat key) } }

/-- Turn a sector into one stored under a key: what it does not hold under the key is read, decrypted and encrypted again, with the
whole line where that is encoded. -/
def State.rekey (s : State) (key : BitVec 8) (sector : Nat) : State :=
  let qs := if s.formOf (sector / 4) = .plain then [sector] else (List.range 4).map (4 * (sector / 4) + ·)
  (qs.filter fun q => Sparse.get 0 s.mem.keys q ≠ s.keyMat key).foldl (fun t q => t.putSector key q (s.fillSector key q)) s

/-- Write a byte back to LPDDR6 under a key. -/
def State.backPut (s : State) (key : BitVec 8) (pa : Nat) (b : Byte) : State := (s.rekey key (pa / 32)).physPut pa b

/-- The form a line takes when it is written back from a view: its encoding where that takes at most 3 sectors (12 R315). -/
def formFor (view bounded : Bool) (bs : List Byte) : LineForm :=
  if !view then .plain
  else if 3 < Config.encoded bounded bs then .plain
  else if bounded then .bounded (Config.encoded bounded bs) else .lossless (Config.encoded bounded bs)

/-- Record the form of a line written back under a key from a view (12 R315): a line that is, or was, encoded is stored whole. -/
def State.reform (s : State) (line : Nat) (key : BitVec 8) (view bounded : Bool) : State :=
  if !view && s.formOf line == .plain then s
  else
    let t := (List.range 4).foldl (fun u j => u.rekey key (4 * line + j)) s
    { t with mem := { t.mem with
        forms := Sparse.put LineForm.plain t.mem.forms line (formFor view bounded (t.physBytes (128 * line) 128)) } }

/-- Whether any sector of a range is poisoned (12 R321). -/
def State.poisoned (s : State) (pa n : Nat) : Bool :=
  s.mem.poison.any fun q => decide (q * 32 < pa + n) && decide (pa < q * 32 + 32)

/-- A write clears the poison of every sector it covers whole (12 R321). -/
def State.cleanse (s : State) (pas : List Nat) : State :=
  if s.mem.poison.isEmpty then s
  else { s with mem := { s.mem with
    poison := s.mem.poison.filter fun q => !((List.range 32).all fun i => pas.contains (q * 32 + i)) } }

/-! ## The L2 (12 R308, R310, R311) -/

/-- Mark a byte clean. -/
def CByte.clean (b : CByte) : CByte := { b with dirty := false }

/-- The cache key of the line that a byte's cache key lies in. -/
def lineKey (k : Nat) : Nat := k / 512 / 128 * 512 + k % 512

/-- The cache key of byte i of a line. -/
def byteKey (lk i : Nat) : Nat := (lk / 512 * 128 + i) * 512 + lk % 512

/-- The number of a free choice among n, taken once. -/
def State.choose (s : State) (n : Nat) : Nat × State := (Config.pick s.fresh % n, { s with fresh := s.fresh + 1 })

/-- How an access allocates in the L2: not at all, or with a mark (12 Tables 12.3, 12.4). -/
def l2How (attr : BitVec 3) (p : CachePolicy) : Option L2Mark :=
  if attr == 1 || attr == 2 then none
  else if attr == 5 then some .plain
  else match p with
    | .dflt => some (if attr == 3 then .evictFirst else .plain)
    | .l2only => some (if attr == 3 then .evictFirst else .plain)
    | .stream => some .evictFirst
    | .retain => some .retained
    | .noalloc => none

/-- Set or drop a byte of the L2. -/
def State.l2Put (s : State) (k : Nat) (b : Option CByte) : State :=
  { s with mem := { s.mem with l2 := Sparse.put none s.mem.l2 k b } }

/-- Whether byte i of a line is dirty in the L2. -/
def State.l2Dirty (s : State) (lk i : Nat) : Bool :=
  match Sparse.get none s.mem.l2 (byteKey lk i) with
  | some b => b.dirty
  | none => false

/-- Write byte i of a line back, clean from then on. -/
def State.l2Back (s : State) (lk i : Nat) : State :=
  match Sparse.get none s.mem.l2 (byteKey lk i) with
  | some b => (s.l2Put (byteKey lk i) (some b.clean)).backPut (BitVec.ofNat 8 (lk % 256)) (lk / 512 * 128 + i) b.val
  | none => s

/-- Write a line's dirty sectors of the L2 back to LPDDR6, clean from then on (12 R310, R315). -/
def State.l2WriteBack (s : State) (lk : Nat) : State :=
  let qs := (List.range 4).filter fun j => (List.range 32).any fun i => s.l2Dirty lk (32 * j + i)
  if qs.isEmpty then s
  else
    (qs.foldl (fun u j => (List.range 32).foldl (fun u i => u.l2Back lk (32 * j + i)) u) s).reform (lk / 512)
      (BitVec.ofNat 8 (lk % 256)) (decide (256 ≤ lk % 512)) (((s.mem.lines.find lk).map (·.bounded)).getD false)

/-- Drop a line from the L2. -/
def State.l2Drop (s : State) (lk : Nat) : State :=
  let t := (List.range 128).foldl (fun u i => u.l2Put (byteKey lk i) none) s
  { t with mem := { t.mem with lines := t.mem.lines.del lk } }

/-- The L2 replaces a line. -/
def State.l2Evict (s : State) (lk : Nat) : State := (s.l2WriteBack lk).l2Drop lk

/-- The lines of a line's set in the L2: 24 slices of 2048 sets (12 Table 12.1). -/
def State.l2Set (s : State) (lk : Nat) : Tbl L2Line := s.mem.lines.filter fun e => e.1 / 512 % 49152 == lk / 512 % 49152

/-- The lines a full set gives up first: those marked evict-first, then those not retained (12 R311). -/
def l2Victims (ls : Tbl L2Line) : List Nat :=
  let first := ls.filter fun e => e.2.mark == .evictFirst
  let rest := ls.filter fun e => e.2.mark != .retained
  if !first.isEmpty then Tbl.keys first else if !rest.isEmpty then Tbl.keys rest else ls.keys

/-- The L2 gives a line up of its own accord: not a retained one while a way of its set is free (12 R311). -/
def State.l2Give (s : State) (lk : Nat) : State :=
  if (s.mem.lines.find lk).map (·.mark) = some .retained ∧ (s.l2Set lk).length < 16 then s else s.l2Evict lk

/-- Make room for a line in its set of 16 ways; which line goes is a free choice among those that may. -/
def State.l2Room (s : State) (lk : Nat) : State :=
  let ls := s.l2Set lk
  if ls.length < 16 then s
  else
    let vs := l2Victims ls
    let c := s.choose vs.length
    c.2.l2Evict (vs.getD c.1 0)

/-- The oldest retained line of a set. -/
def oldestRetained (ls : Tbl L2Line) : Option Nat :=
  ((ls.filter fun e => e.2.mark == .retained).foldl (fun best e =>
    match best with
    | none => some e
    | some b => if e.2.since < b.2.since then some e else some b) (none : Option (Nat × L2Line))).map (·.1)

/-- Give a line a mark: a ninth retained line of a set first clears the mark of the oldest (12 R311). -/
def State.l2SetMark (s : State) (lk : Nat) (m : L2Mark) (bounded : Bool) : State :=
  let ls := s.l2Set lk
  let since := ls.foldl (fun n e => max n (e.2.since + 1)) 0
  let old := if m == .retained && decide (8 ≤ (ls.filter fun e => e.2.mark == .retained).length) then oldestRetained ls else none
  let lines := match old with
    | some k => s.mem.lines.upd k fun l => { l with mark := .plain }
    | none => s.mem.lines
  { s with mem := { s.mem with lines := lines.put lk { mark := m, since := since, bounded := bounded } } }

/-- Allocate a line: one that is resident keeps its mark, but for a retained access. -/
def State.l2Alloc (s : State) (lk : Nat) (m : L2Mark) : State :=
  match s.mem.lines.find lk with
  | some l => if m == .retained && l.mark != .retained then s.l2SetMark lk m l.bounded else s
  | none => (s.l2Room lk).l2SetMark lk m false

/-- A byte of local memory as its slice holds it. MMIO and holes read 0. -/
def State.sliceGet (s : State) (t : MemTag) (pa : Nat) : Byte :=
  match rangeOf pa with
  | .lpddr =>
    match Sparse.get none s.mem.l2 (t.ckey pa) with
    | some b => b.val
    | none => s.backGet t.key pa
  | .strip => s.physGet pa
  | .mmio => 0
  | .hole => 0

/-- Fill bytes into a cache, clean, but those of it that stay. -/
def fillBytes (stays : CByte → Bool) (m : Sparse (Option CByte)) (bs : List (Nat × Byte)) : Sparse (Option CByte) :=
  bs.foldl (fun m e =>
    match Sparse.get none m e.1 with
    | some b => if stays b then m else Sparse.put none m e.1 (some { val := e.2, dirty := false })
    | none => Sparse.put none m e.1 (some { val := e.2, dirty := false })) m

/-- Fill the sector of a byte of LPDDR6 into the L2, allocating its line; what is resident stays (12 R310). -/
def State.l2Fill (s : State) (t : MemTag) (m : L2Mark) (pa : Nat) : State :=
  let u := s.l2Alloc (t.ckey (pa / 128)) m
  if (Sparse.get none u.mem.l2 (t.ckey pa)).isSome then u
  else
    let vals := u.fillSector t.key (pa / 32)
    let bs := (List.range 32).map fun i => (t.ckey (pa / 32 * 32 + i), vals.getD i 0)
    { u with mem := { u.mem with l2 := fillBytes (fun _ => true) u.mem.l2 bs } }

/-- A read or a write of a byte at its slice allocates as the access does. -/
def State.sliceFill (s : State) (t : MemTag) (how : Option L2Mark) (pa : Nat) : State :=
  match how with
  | some m => if rangeOf pa == .lpddr then s.l2Fill t m pa else s
  | none => s

/-- Note which of the two encodings a line of the compressed view was last written through. -/
def State.noteView (s : State) (t : MemTag) (pa : Nat) : State :=
  if t.view then
    { s with mem := { s.mem with lines := s.mem.lines.upd (t.ckey (pa / 128)) fun l => { l with bounded := t.attr == 5 } } }
  else s

/-- Write a byte at its slice: in the L2 where its sector is or is to be resident, else in LPDDR6 (12 R308, R311). -/
def State.slicePut (s : State) (t : MemTag) (how : Option L2Mark) (pa : Nat) (b : Byte) : State :=
  match rangeOf pa with
  | .lpddr =>
    let u := s.sliceFill t how pa
    if (Sparse.get none u.mem.l2 (t.ckey pa)).isSome then (u.l2Put (t.ckey pa) (some { val := b, dirty := true })).noteView t pa
    else (u.backPut t.key pa b).reform (pa / 128) t.key t.view (t.attr == 5)
  | .strip => s.physPut pa b
  | .mmio => s
  | .hole => s

/-- The quantised value of a byte of a channel with minimum m (12 R317). -/
def quantByte (m x : Nat) : Nat := min (m + 5 * ((x - m + 2) / 5)) 255

/-- Quantise the four channels of a line's 128 bytes (12 R317). -/
def quantLine (xs : List Byte) : List Byte :=
  let mins := (List.range 4).map fun c =>
    (List.range 32).foldl (fun m i => min m (xs.getD (4 * i + c) 0).toNat) 255
  (List.range 128).map fun k => BitVec.ofNat 8 (quantByte (mins.getD (k % 4) 0) (xs.getD k 0).toNat)

/-- Quantise the bounded-view line of an address. -/
def State.quantise (s : State) (t : MemTag) (line : Nat) : State :=
  let xs := (List.range 128).map fun i => s.sliceGet t (line * 128 + i)
  let ys := quantLine xs
  (List.range 128).foldl (fun u i => u.slicePut t (some .plain) (line * 128 + i) (ys.getD i 0)) s

/-- The lines, each once, that addresses fall in. -/
def linesOf (pas : List Nat) : List Nat := (pas.map (· / 128)).eraseDups

/-- Whether the device itself is a page's home (12 R333). -/
def State.isLocal (s : State) (t : MemTag) : Bool := t.home == s.links.fabid

/-! ## Frames to peers (16 R420) -/

/-- The port that a frame takes: the ports of the mask in turn, by sequence number. -/
def portOf (mask : BitVec 8) (seq : Word) : Option Nat :=
  let ps := (List.range 8).filter fun i => mask.getLsbD i
  ps[seq.toNat % ps.length]?

/-- The EtherType of fabric frames (16 R420). -/
def fabricEtherType : Nat := 0x88B5

/-- The data that a request's flits carry after its first. -/
def flitData : FabricReq → Nat
  | .read _ _ _ _ => 0
  | .write _ _ _ bs => bs.length
  | .atomic _ _ _ _ _ x => x.length
  | .response bs => bs.length
  | .ack _ => 0

/-- The flits of 32 bytes of a request: the first with the operation, address, size and key id, the others with its data. -/
def flitsOf (q : FabricReq) : Nat := 1 + (flitData q + 31) / 32

/-- The 16-byte header of a fabric frame (16 R420). -/
def FabricFrame.header (f : FabricFrame) : List Byte :=
  [1, f.src.setWidth 8, f.dst.setWidth 8, BitVec.ofNat 8 (flitsOf f.req - 1)] ++ leBytes 4 f.seq.toNat ++ leBytes 4 f.ack.toNat
    ++ leBytes 4 0

/-- The frame that carries a request to a peer, with the number of the last frame received in order as its acknowledgement. -/
def State.linkFrame (s : State) (d : Nat) (p : Peer) (seq : Word) (q : FabricReq) : FabricFrame :=
  { src := s.links.fabid, dst := BitVec.ofNat 4 d, port := portOf p.ports seq, seq := seq, ack := p.rxSeq - 1, req := q }

/-- Send a request to a peer in the table (16 R420); one without a valid entry gets none. -/
def State.sendPeer (s : State) (peer : BitVec 4) (q : FabricReq) : State :=
  match s.links.peers.find peer.toNat with
  | none => s
  | some p =>
    if !p.valid then s
    else
      { s with links := { s.links with
          peers := s.links.peers.put peer.toNat { p with
            txSeq := p.txSeq + 1
            unacked := p.unacked ++ [{ seq := p.txSeq, req := q, sources := [], group := 0 }]
            since := if p.unacked.isEmpty then s.time else p.since }
          outgoing := s.links.outgoing ++ [s.linkFrame peer.toNat p p.txSeq q] } }

/-- Note of the frames sent to peers since a state, and not noted before, whose accesses they carry: the crews with the addresses,
and the number of the group, store event, buffered line or copy (12 R331, R333). -/
def State.noteFlights (s before : State) (sources : List (Nat × DWord)) (group : Nat) : State :=
  if s.links.peers.isEmpty then s
  else { s with links := { s.links with peers := s.links.peers.map fun e =>
    let n := ((before.links.peers.find e.1).map (·.unacked.length)).getD 0
    (e.1, { e.2 with unacked := e.2.unacked.take n ++ (e.2.unacked.drop n).map fun f =>
      if f.group = 0 then { f with sources := sources, group := group } else f }) } }

/-- Note a crew's access. -/
def State.claim (s before : State) (c : Nat) (addr : DWord) (group : Nat) : State := s.noteFlights before [(c, addr)] group

/-- Perform one write of bytes at the home of its page, as one instant. -/
def State.homeWrite (s : State) (t : MemTag) (how : Option L2Mark) (ws : List (Nat × Byte)) : State :=
  if s.isLocal t then
    let u := ws.foldl (fun u w => u.slicePut t how w.1 w.2) s
    let v := if t.attr == 5 then (linesOf (ws.map (·.1))).foldl (fun v n => v.quantise t n) u else u
    v.cleanse (ws.map (·.1))
  else
    (linesOf (ws.map (·.1))).foldl (fun u n =>
      u.sendPeer t.home (.write (BitVec.ofNat 48 (n * 128)) t.attr t.key
        ((List.range 128).map fun i => (ws.filter fun w => w.1 == n * 128 + i).getLast?.map (·.2)))) s

/-- Read n bytes at the home of their page; a peer's bytes are free values (log entry 1), asked for line by
line. -/
def State.homeRead (s : State) (t : MemTag) (how : Option L2Mark) (pa n : Nat) : List Byte × State :=
  if s.isLocal t then
    ((List.range n).map fun i => s.sliceGet t (pa + i), (List.range n).foldl (fun u i => u.sliceFill t how (pa + i)) s)
  else
    ((List.range n).map fun i => Config.peerByte (s.fresh + i),
      (linesOf ((List.range n).map (pa + ·))).foldl (fun u k =>
        let lo := max pa (k * 128)
        u.sendPeer t.home (.read (BitVec.ofNat 48 lo) (min (pa + n) (k * 128 + 128) - lo) t.attr t.key))
        { s with fresh := s.fresh + n })

/-! ## The L1 (12 R309) -/

/-- Whether the L1 may hold a byte: a local write-back or lossless-view page in LPDDR6. -/
def State.l1Able (s : State) (t : MemTag) (pa : Nat) : Bool :=
  s.isLocal t && (t.attr == 0 || t.attr == 4) && rangeOf pa == .lpddr

/-- Whether a CACHE hint keeps an access out of the L1 (12 Table 12.4). -/
def skipsL1 : CachePolicy → Bool
  | .dflt => false
  | .retain => false
  | .stream => true
  | .l2only => true
  | .noalloc => true

/-- The tag under which the L1 writes a byte of a cache key to the L2. -/
def State.tagOfKey (s : State) (k : Nat) : MemTag :=
  { attr := if 256 ≤ k % 512 then 4 else 0, key := BitVec.ofNat 8 (k % 256), home := s.links.fabid }

/-- The sector key of a byte's cache key. -/
def sectorKey (k : Nat) : Nat := k / 512 / 32 * 512 + k % 512

/-- Whether an L1 entry is dirty. -/
def l1Dirty (e : Nat × Option CByte) : Bool := (e.2.map (·.dirty)).getD false

/-- An L1's bytes once the dirty ones that a test picks have been written back: these stay, clean, and the others of their sectors go,
so that what a sector holds clean is of one instant (11 R291). -/
def l1Settled (l1 : Sparse (Option CByte)) (pick : Nat → Bool) : Sparse (Option CByte) :=
  let qs := ((l1.filter fun e => pick e.1 && l1Dirty e).map fun e => sectorKey e.1).eraseDups
  l1.filterMap fun e =>
    if !qs.contains (sectorKey e.1) then some e else if l1Dirty e then some (e.1, e.2.map CByte.clean) else none

/-- Write L1 entries' dirty bytes to the L2. -/
def State.toL2 (s : State) (es : Sparse (Option CByte)) : State :=
  let t := es.foldl (fun u e =>
    match e.2 with
    | some b => if b.dirty then u.slicePut (u.tagOfKey e.1) (some .plain) (e.1 / 512) b.val else u
    | none => u) s
  t.cleanse ((es.filter l1Dirty).map fun e => e.1 / 512)

/-- The L1's sectors with an uncorrectable error whose dirty bytes go to the L2 poison them there (12 R321). -/
def State.poisonOut (s : State) (ps : List Nat) (es : Sparse (Option CByte)) : State :=
  let qs := ps.filter fun q => es.any fun e => l1Dirty e && e.1 / 512 / 32 == q / 512 && e.1 % 512 == q % 512
  if qs.isEmpty then s
  else { s with mem := { s.mem with poison := (s.mem.poison ++ qs.map (· / 512)).eraseDups } }

/-- Write a line's dirty bytes to the L2 and drop the line from a core's L1. -/
def State.l1EvictKey (s : State) (core lk : Nat) : State :=
  let c := s.coreOf core
  let es := c.l1.filter fun e => lineKey e.1 == lk
  if es.isEmpty then s
  else
    ((s.toL2 es).poisonOut c.l1Poison es).onCore core fun c =>
      { c with l1 := c.l1.filter fun e => lineKey e.1 != lk
               l1At := c.l1At.filter fun e => !(e.1 / 512 / 4 == lk / 512 && e.1 % 512 == lk % 512)
               l1Poison := c.l1Poison.filter fun q => !(q / 512 / 4 == lk / 512 && q % 512 == lk % 512) }

/-- The same for the line of an address under a tag. -/
def State.l1Evict (s : State) (core : Nat) (t : MemTag) (pa : Nat) : State := s.l1EvictKey core (t.ckey (pa / 128))

/-- Write a line's dirty bytes of a core's L1 to the L2; they stay, clean. -/
def State.l1CleanKey (s : State) (core lk : Nat) : State :=
  let c := s.coreOf core
  let es := c.l1.filter fun e => lineKey e.1 == lk
  if es.isEmpty then s
  else
    ((s.toL2 es).poisonOut c.l1Poison es).onCore core fun c =>
      { c with l1 := l1Settled c.l1 fun k => lineKey k == lk
               l1At := c.l1At.filter fun e => !(e.1 / 512 / 4 == lk / 512 && e.1 % 512 == lk % 512) }

/-- Write every dirty byte of a core's L1 to the L2; they stay, clean. -/
def State.l1WriteBack (s : State) (core : Nat) : State :=
  let c := s.coreOf core
  ((s.toL2 c.l1).poisonOut c.l1Poison c.l1).onCore core fun c =>
    { c with l1 := l1Settled c.l1 fun _ => true, l1At := [] }

/-- Drop every sector of a core's L1 that is not dirty (the Acquire rule of 12 R309). -/
def State.l1DropClean (s : State) (core : Nat) : State :=
  s.onCore core fun c =>
    let l1 := c.l1.filter l1Dirty
    { c with l1 := l1
             l1Poison := c.l1Poison.filter fun q => l1.any fun e => e.1 / 512 / 32 == q / 512 && e.1 % 512 == q % 512 }

/-- The lines of a line's set in a core's L1: 256 sets (12 Table 12.1). -/
def Core.l1Set (c : Core) (lk : Nat) : List Nat :=
  ((c.l1.map fun e => lineKey e.1).eraseDups).filter fun k => k / 512 % 256 == lk / 512 % 256

/-- Make room for a line in its set of 12 ways; which line goes is a free choice. -/
def State.l1Room (s : State) (core lk : Nat) : State :=
  if (s.coreOf core).l1.any fun e => lineKey e.1 == lk then s
  else
    let ls := (s.coreOf core).l1Set lk
    if ls.length < 12 then s
    else
      let c := s.choose ls.length
      c.2.l1EvictKey core (ls.getD c.1 0)

/-- Put one byte in a core's L1. -/
def State.l1Put (s : State) (core : Nat) (k : Nat) (b : CByte) : State :=
  (s.l1Room core (lineKey k)).onCore core fun c => { c with l1 := Sparse.put none c.l1 k (some b) }

/-- Store one byte in the L1, dirty. -/
def State.l1Store (s : State) (core : Nat) (t : MemTag) (pa : Nat) (b : Byte) : State :=
  let k := t.ckey (pa / 32)
  (s.l1Put core (t.ckey pa) { val := b, dirty := true }).onCore core fun c =>
    if (Sparse.get none c.l1At k).isSome then c else { c with l1At := Sparse.put none c.l1At k (some s.clk) }

/-- A store clears the errors of the L1 sectors it covers whole (12 R321). -/
def State.l1Cleanse (s : State) (core : Nat) (t : MemTag) (pas : List Nat) : State :=
  if (s.coreOf core).l1Poison.isEmpty then s
  else s.onCore core fun c => { c with
    l1Poison := c.l1Poison.filter fun q =>
      !(q % 512 == t.ckey 0 % 512 && (List.range 32).all fun i => pas.contains (q / 512 * 32 + i)) }

/-- Fill the sector of a byte: every byte of it that is not dirty in the L1 comes from the L2, clean. -/
def State.l1Fill (s : State) (core : Nat) (t : MemTag) (how : Option L2Mark) (pa : Nat) : State :=
  let u := (s.l1Room core (t.ckey (pa / 128))).sliceFill t how pa
  u.onCore core fun c => { c with
    l1 := fillBytes (·.dirty) c.l1 ((List.range 32).map fun i => (t.ckey (pa / 32 * 32 + i), u.sliceGet t (pa / 32 * 32 + i))) }

/-- The sectors that n bytes touch. -/
def sectorsOf (pa n : Nat) : List Nat := ((List.range n).map fun i => (pa + i) / 32).eraseDups

/-- Whether a core's L1 holds every one of n bytes. -/
def State.l1Holds (s : State) (core : Nat) (t : MemTag) (pa n : Nat) : Bool :=
  (List.range n).all fun i => (Sparse.get none (s.coreOf core).l1 (t.ckey (pa + i))).isSome

/-- A byte that a load of a core takes from its L1 where it is dirty, or where the load hits, else from the slice. -/
def State.l1Byte (s : State) (core : Nat) (t : MemTag) (hit : Bool) (pa : Nat) : Byte :=
  match Sparse.get none (s.coreOf core).l1 (t.ckey pa) with
  | some b => if hit || b.dirty then b.val else s.sliceGet t pa
  | none => s.sliceGet t pa

/-- n bytes as a plain load of a core finds them below the store queue (12 R309, R311): all in the L1, else filled from the L2, so
that a unit's clean bytes are of one instant (11 R291). A load that does not allocate in the L1 takes its lines out of it, so that none
of the crew's later loads finds older bytes there (11 R290). -/
def State.l1Load (s : State) (core : Nat) (t : MemTag) (cache : CachePolicy) (pa n : Nat) : List Byte × State :=
  let hit := s.l1Holds core t pa n
  ((List.range n).map fun i => s.l1Byte core t hit (pa + i),
    if hit then s
    else (sectorsOf pa n).foldl (fun u q =>
      if skipsL1 cache then (u.l1Evict core t (32 * q)).sliceFill t (l2How t.attr cache) (32 * q)
      else u.l1Fill core t (l2How t.attr cache) (32 * q)) s)

/-! ## The write-combining buffer (12 R312) -/

/-- Write a line of a core's buffer to its slice, as one access; the copy that the core's L1 may have filled since goes (11 R290). -/
def State.wcWrite (s : State) (core : Nat) (w : WcLine) : State :=
  ((s.l1Evict core w.tag (w.line * 128)).homeWrite w.tag none (w.bytes.filterMap fun e => e.2.map fun b => (e.1, b))).noteFlights s w.sources w.seq

/-- Write every line of a core's buffer, oldest first. -/
def State.wcFlush (s : State) (core : Nat) : State :=
  ((s.coreOf core).wc.foldl (fun u w => u.wcWrite core w) s).onCore core fun c => { c with wc := [] }

/-- Write the buffer's lines of an address under a tag, before a newer write of the line that does not merge, or a load that must not
miss them (11 R290). -/
def State.wcYield (s : State) (core : Nat) (t : MemTag) (pa : Nat) : State :=
  let hit := fun (w : WcLine) => w.line == pa / 128 && w.tag.same t
  if (s.coreOf core).wc.any hit then
    (((s.coreOf core).wc.filter hit).foldl (fun u w => u.wcWrite core w) s).onCore core fun c =>
      { c with wc := c.wc.filter fun w => !hit w }
  else s

/-- Merge one byte of a store event into a core's buffer; a ninth line first writes the oldest out: which one, the spec leaves open
(log entry 94). -/
def State.wcStore (s : State) (core : Nat) (e : StoreEvent) (t : MemTag) (pa : Nat) (b : Byte) : State :=
  let hit := fun (w : WcLine) => w.line == pa / 128 && w.tag == t
  let c := s.coreOf core
  if c.wc.any hit then
    s.putCore core { c with
      wc := c.wc.map fun w =>
        if hit w then
          { w with
            bytes := Sparse.put none w.bytes pa (some b), seq := min w.seq e.seq
            sources := if w.sources.any fun x => x.1 == e.crew then w.sources else w.sources ++ [(e.crew, e.addr)] }
        else w }
  else
    let fresh : WcLine := { line := pa / 128, tag := t, bytes := [(pa, some b)], start := s.clk, seq := e.seq, sources := [(e.crew, e.addr)] }
    match c.wc with
    | w :: rest =>
      if c.wc.length < 8 then s.putCore core { c with wc := c.wc ++ [fresh] }
      else (s.wcWrite core w).onCore core fun c => { c with wc := rest ++ [fresh] }
    | [] => s.putCore core { c with wc := [fresh] }

/-! ## The control pages as MMIO (12 R313, 16 R409) -/

/-- Byte o of a queue's register block (16 R403). -/
def queueByte (q : Queue) (o : Nat) : Byte :=
  (leBytes 8 q.base.toNat ++ leBytes 4 q.log2n.toNat ++ leBytes 4 q.prod.toNat ++ leBytes 4 q.cons.toNat).getD o 0

/-- A window before it is written. -/
def Window.zero : Window := { base := 0, len := 0, rd := false, wr := false, valid := false }

/-- The flag byte of a window. -/
def Window.flagByte (w : Window) : Byte :=
  (BitVec.ofBool w.rd).setWidth 8 ||| ((BitVec.ofBool w.wr).setWidth 8 <<< 1) ||| ((BitVec.ofBool w.valid).setWidth 8 <<< 2)

/-- Byte o of a window's registers (16 Table 16.5). -/
def windowByte (w : Window) (o : Nat) : Byte :=
  (leBytes 8 w.base.toNat ++ leBytes 8 w.len.toNat ++ [w.flagByte]).getD o 0

/-- Set byte o of a 64-bit register. -/
def setByte64 (v : DWord) (o : Nat) (b : Byte) : DWord :=
  (v &&& ~~~ (0xFF#64 <<< (8 * o))) ||| (b.setWidth 64 <<< (8 * o))

/-- Set byte o of a 32-bit register. -/
def setByte32 (v : Word) (o : Nat) (b : Byte) : Word :=
  (v &&& ~~~ (0xFF#32 <<< (8 * o))) ||| (b.setWidth 32 <<< (8 * o))

/-- Write byte o of a window. -/
def Window.setByte (w : Window) (o : Nat) (b : Byte) : Window :=
  if o < 8 then { w with base := setByte64 w.base o b &&& 0x01FFFFFFFFFFFFFF }
  else if o < 16 then { w with len := setByte64 w.len (o - 8) b }
  else if o = 16 then { w with rd := b.getLsbD 0, wr := b.getLsbD 1, valid := b.getLsbD 2 }
  else w

/-- Write byte o of a queue's registers as the host does: BASE and LOG2N only while PROD = CONS (16 R403). -/
def Queue.setByte (q : Queue) (o : Nat) (b : Byte) : Queue :=
  if o < 8 then (if q.prod = q.cons then { q with base := setByte64 q.base o b } else q)
  else if o < 12 then (if q.prod = q.cons then { q with log2n := setByte32 q.log2n (o - 8) b } else q)
  else if o < 16 then { q with prod := setByte32 q.prod (o - 12) b }
  else if o < 20 then { q with cons := setByte32 q.cons (o - 16) b }
  else q

/-- Byte o of a control page as the host reads it. -/
def CtlPage.byte (p : CtlPage) (o : Nat) : Byte :=
  if o < 0x20 then p.idesc.extractLsb' (8 * o) 8
  else if 0x40 ≤ o ∧ o < 0x44 then p.subcnt.extractLsb' (8 * (o - 0x40)) 8
  else if 0x44 ≤ o ∧ o < 0x48 then p.evdrop.extractLsb' (8 * (o - 0x44)) 8
  else if 0x60 ≤ o ∧ o < 0x80 then queueByte p.evq (o - 0x60)
  else if 0x80 ≤ o ∧ o < 0xA0 then queueByte p.fltq (o - 0x80)
  else if 0x100 ≤ o ∧ o < 0x200 then windowByte ((p.wins.find ((o - 0x100) / 32)).getD Window.zero) (o % 32)
  else 0

/-- Byte o as a crew reads it: IDESC and ISUBMIT are write-only for crews (16 Table 16.5). -/
def CtlPage.crewByte (p : CtlPage) (o : Nat) : Byte := if o < 0x20 then 0 else p.byte o

/-- Write byte o of a control page, as the host or as a crew. -/
def CtlPage.setByte (p : CtlPage) (host : Bool) (o : Nat) (b : Byte) : CtlPage :=
  if o < 0x20 then
    { p with idesc := (p.idesc &&& ~~~ (0xFF#256 <<< (8 * o))) ||| (b.setWidth 256 <<< (8 * o)) }
  else if 0x100 ≤ o ∧ o < 0x200 then
    let i := (o - 0x100) / 32
    { p with wins := p.wins.put i (((p.wins.find i).getD Window.zero).setByte (o % 32) b) }
  else if host then
    if 0x44 ≤ o ∧ o < 0x48 then { p with evdrop := setByte32 p.evdrop (o - 0x44) b }
    else if 0x60 ≤ o ∧ o < 0x80 then { p with evq := p.evq.setByte (o - 0x60) b }
    else if 0x80 ≤ o ∧ o < 0xA0 then { p with fltq := p.fltq.setByte (o - 0x80) b }
    else p
  else p

/-- The context whose control page a physical address lies in, and the offset. -/
def ctlAt (pa : Nat) : Option (Nat × Nat) :=
  if 0xFF0000400000 ≤ pa ∧ pa < 0xFF0000440000 then some ((pa - 0xFF0000400000) / 4096, pa % 4096) else none

/-- Submit a context's invalidation descriptor (16 Table 16.5, ISUBMIT). -/
def State.submitInval (s : State) (ctx : Nat) : State :=
  { s with hostIf := { s.hostIf with isubs := s.hostIf.isubs ++ [(ctx, (s.ctlOf ctx).idesc)] } }

/-- A crew's read of n MMIO bytes (12 R313, 16 R409). -/
def State.mmioRead (s : State) (pa n : Nat) : List Byte :=
  (List.range n).map fun i =>
    match ctlAt (pa + i) with
    | some (ctx, o) => (s.ctlOf ctx).crewByte o
    | none => 0

/-- A crew's write of MMIO bytes. -/
def State.mmioWrite (s : State) (ws : List (Nat × Byte)) : State :=
  let t := ws.foldl (fun u w =>
    match ctlAt w.1 with
    | some (ctx, o) => u.putCtl ctx ((u.ctlOf ctx).setByte false o w.2)
    | none => u) s
  match ws.findSome? fun w => (ctlAt w.1).bind fun co => if 0x20 ≤ co.2 ∧ co.2 < 0x24 then some co.1 else none with
  | some ctx => t.submitInval ctx
  | none => t

/-! ## Store events (07 R169, 11 R286-R289) -/

/-- Whether the instance of a scope holds crews of more than one core, for a crew whose block spans cores or does not (11 R283, 12 R309;
log entry 12). -/
def wideScope (spans : Bool) : Scope → Bool
  | .crew => false
  | .block => spans
  | .cluster => true
  | .device => true
  | .system => true

/-- The same for a crew. -/
def State.wide (s : State) (r : Crew) (sc : Scope) : Bool := wideScope (decide (1 < s.spreadOf r)) sc

/-- What a release does before it is performed (12 R309, R312). -/
def State.releaseAt (s : State) (core : Nat) (wide : Bool) : State :=
  let t := s.wcFlush core
  if wide then t.l1WriteBack core else t

/-- Whether a place is a register of this device. -/
def State.onDevice (s : State) (t : MemTag) (pa : Nat) : Bool := s.isLocal t && rangeOf pa == .mmio

/-- Perform one write of bytes under one tag: those of MMIO at the registers, the others at their home. -/
def State.tagWrite (s : State) (t : MemTag) (how : Option L2Mark) (ws : List (Nat × Byte)) : State :=
  let dev := ws.filter fun w => s.onDevice t w.1
  let mem := ws.filter fun w => !s.onDevice t w.1
  let u := if dev.isEmpty then s else s.mmioWrite dev
  if mem.isEmpty then u else u.homeWrite t how mem

/-- What an acquire does before the crew's next load (12 R309). -/
def State.acquireAt (s : State) (core : Nat) (wide : Bool) : State := if wide then s.l1DropClean core else s

/-- Perform the bytes of one page of a plain store event: in the L1 where it may hold them, in the write-combining
buffer, else at the home. An older store to the line that waits in the buffer goes first (11 R290). A store with policy retain that
the L1 takes marks its lines in the L2 (12 R311). -/
def State.perform (s : State) (core : Nat) (e : StoreEvent) (t : MemTag) (ws : List (Nat × Byte)) : State :=
  if t.attr == 2 then
    ws.foldl (fun u w => (u.l1Evict core t w.1).wcStore core e t w.1 w.2) s
  else
    let u := (linesOf (ws.map (·.1))).foldl (fun u n => u.wcYield core t (n * 128)) s
    if !skipsL1 e.cache && ws.all (fun w => s.l1Able t w.1) then
      let v := if e.cache == .retain then (linesOf (ws.map (·.1))).foldl (fun v n => v.l2Alloc (t.ckey n) .retained) u else u
      (ws.foldl (fun v w => v.l1Store core t w.1 w.2) v).l1Cleanse core t (ws.map (·.1))
    else
      ((linesOf (ws.map (·.1))).foldl (fun u n => u.l1Evict core t (n * 128)) u).homeWrite t (l2How t.attr e.cache) ws

/-- Clean the line of an address in a core's L1 and in the L2 (07 R196); a peer's line and an uncached one have no copy here. -/
def State.cleanLine (s : State) (core : Nat) (t : MemTag) (pa : Nat) : State :=
  if t.attr == 1 || !s.isLocal t then s
  else (s.l1CleanKey core (t.ckey (pa / 128))).l2WriteBack (t.ckey (pa / 128))

/-- Clean the line of an address and drop it from the core's L1 and from the L2 (07 R196). -/
def State.flushLine (s : State) (core : Nat) (t : MemTag) (pa : Nat) : State :=
  if t.attr == 1 || !s.isLocal t then s
  else (s.l1EvictKey core (t.ckey (pa / 128))).l2Evict (t.ckey (pa / 128))

/-- The bytes of writes in lane order, the last to a location alone (07 R169): pages of different attributes may name one
location. -/
def lastWrites {α : Type} (bs : List ((MemTag × Nat) × α)) : List ((MemTag × Nat) × α) :=
  bs.foldr (fun b acc => if acc.any fun x => x.1.1.same b.1.1 && x.1.2 == b.1.2 then acc else b :: acc) []

/-- Writes at places, the bytes of each page attribute together, as `f` performs them. -/
def State.byTag (s : State) (bs : List ((MemTag × Nat) × Byte)) (f : State → MemTag → List (Nat × Byte) → State) : State :=
  let tags := (bs.map (·.1.1)).eraseDups
  let ws := if tags.length ≤ 1 then bs else lastWrites bs
  tags.foldl (fun u t => f u t ((ws.filter fun b => b.1.1 == t).map fun b => (b.1.2, b.2))) s

/-- The lanes of a store event. -/
def StoreEvent.lanes (e : StoreEvent) : List (List (MemTag × StoreByte)) :=
  (List.range (e.bytes.length / e.width)).map fun i => (e.bytes.drop (e.width * i)).take e.width

/-- The writes of an event that fall on this device's registers: each lane is an access of its own, in lane order (11 R305). -/
def State.performDevice (s : State) (e : StoreEvent) : State :=
  (e.lanes.filter fun l => l.any fun b => s.onDevice b.1 b.2.pa).foldl (fun u l =>
    u.mmioWrite (l.map fun b => (b.2.pa, b.2.byte))) s

/-- Perform a store event of crew `r`'s core as one event (07 R169, R170, R196). -/
def State.performEvent (s : State) (core : Nat) (wide : Scope → Bool) (e : StoreEvent) : State :=
  let s1 := match e.release with
    | some sc => s.releaseAt core (wide sc)
    | none => s
  match e.kind with
  | .write =>
    (s1.performDevice e).byTag ((e.bytes.filter fun b => !s1.onDevice b.1 b.2.pa).map fun b => ((b.1, b.2.pa), b.2.byte))
      fun u t ws => u.perform core e t ws
  | .clean => e.bytes.foldl (fun u b => u.cleanLine core b.1 b.2.pa) s1
  | .flush => e.bytes.foldl (fun u b => u.flushLine core b.1 b.2.pa) s1

/-- Perform an event of crew `c`'s store queue. -/
def State.drainEvent (s : State) (c : Nat) (r : Crew) (e : StoreEvent) : State :=
  (s.performEvent r.core (s.wide r) e).claim s c e.addr e.seq

/-- Whether a destination that a crew awaits can arrive: no peer's answer to its group is missing, and none was lost (12 R333). -/
def State.arrives (s : State) (c : Nat) (t : Returning) : Bool :=
  t.lost.isNone && (t.group == 0
    || !s.links.peers.any fun p => p.2.unacked.any fun f => f.group == t.group && f.sources.any fun x => x.1 == c)

/-- Whether a load or atomic of a crew, issued before a number, has a peer's answer to await: no later write of the crew may be seen
before it has returned (11 R287). -/
def State.owedBefore (s : State) (c n : Nat) : Bool :=
  (s.auxOf c).returning.any fun t => t.group != 0 && decide (t.group < n) && t.lost.isNone && !s.arrives c t

/-- The same of any load or atomic issued so far. -/
def State.owed (s : State) (c : Nat) : Bool := s.owedBefore c s.nextId

/-- Perform the oldest event of a crew's store queue, once no earlier load is owed (11 R287). -/
def State.drainOne (s : State) (c : Nat) (r : Crew) : State :=
  match (s.auxOf c).storeQ with
  | [] => s
  | e :: rest => if s.owedBefore c e.seq then s else (s.drainEvent c r e).onAux c fun a => { a with storeQ := rest }

/-- Perform a crew's whole store queue in order. -/
def State.drainAll (s : State) (c : Nat) (r : Crew) : State :=
  (((s.auxOf c).storeQ).foldl (fun u e => u.drainEvent c r e) s).onAux c fun a => { a with storeQ := [] }

/-- The newest pending byte of a crew's store queue at a location (11 R286); write-combining stores do not forward. -/
def forwarded (q : List StoreEvent) (t : MemTag) (pa : Nat) : Option Byte :=
  q.foldl (fun best e =>
    if e.kind == .write then
      e.bytes.foldl (fun best b =>
        if b.1.same t && b.2.pa == pa && b.1.attr != 2 && b.1.attr != 5 then some b.2.byte else best) best
    else best) none

/-- Whether a load of n bytes follows stores that wait in its crew's queue: one from MMIO or through the bounded view follows all, any
other those to its bytes that do not forward to it (11 R290, R305; 12 R308, R318). One from a write-combining page waits itself for its
crew's stores to such pages (`State.ownWc`). -/
def mustFollow (q : List StoreEvent) (dev : Bool) (t : MemTag) (pa n : Nat) : Bool :=
  if dev || t.attr == 5 then !q.isEmpty
  else q.any fun e => e.kind == .write && e.bytes.any fun b =>
    b.1.same t && decide (pa ≤ b.2.pa) && decide (b.2.pa < pa + n) && (b.1.attr == 5 || (b.1.attr == 2) != (t.attr == 2))

/-- Whether a crew's own store to a write-combining page, to one of n bytes, has yet to be performed: it stands in the crew's queue or
in its core's buffer. A load of those bytes from such a page waits until it has been, for it does not see the buffer (12 R312) and returns
nothing older than its crew's own write (11 R290). -/
def State.ownWc (s : State) (c : Nat) (r : Crew) (t : MemTag) (pa n : Nat) : Bool :=
  t.attr == 2
    && (((s.auxOf c).storeQ.any fun e => e.kind == .write && e.bytes.any fun b =>
        b.1.attr == 2 && b.1.same t && decide (pa ≤ b.2.pa) && decide (b.2.pa < pa + n))
      || (s.coreOf r.core).wc.any fun w => w.tag.same t && (w.sources.any fun x => x.1 == c)
        && (List.range n).any fun i => (Sparse.get none w.bytes (pa + i)).isSome)

/-- Whether a load of n bytes at a place must wait: for stores of its crew that it follows and that must themselves await an earlier load
(11 R287), or for the crew's own writes to a write-combining page. -/
def State.loadHeldAt (s : State) (c : Nat) (r : Crew) (t : MemTag) (pa n : Nat) : Bool :=
  (s.owed c && mustFollow (s.auxOf c).storeQ (s.onDevice t pa) t pa n) || s.ownWc c r t pa n

/-- Note that a crew has touched the line of an address (12 R315). -/
def State.touch (s : State) (c : Nat) (t : MemTag) (pa : Nat) : State :=
  if s.isLocal t && rangeOf pa == .lpddr then
    s.onAux c fun a => { a with touched := Sparse.put false a.touched (t.ckey (pa / 128)) true }
  else s

/-! ## The page table (12 R322-R328) -/

/-- The kinds of access that R327 tells apart. Atomics and ring headers are writes with attributes of their own (07
R187, 09 R242); cache maintenance is checked as a read that returns no data. -/
inductive AccKind where
  | read | write | fetch | atomic | ring | maint
  deriving DecidableEq, Repr

/-- Whether a kind of access writes. -/
def AccKind.writes (k : AccKind) : Bool := k == .write || k == .atomic || k == .ring

/-- A translation fault: fault code and level code. -/
structure XFault where
  code : BitVec 8
  level : BitVec 8
  deriving DecidableEq, Repr

/-- Translation (0x06) at a level. -/
def xTranslation (lvl : Nat) : XFault := { code := 0x06, level := BitVec.ofNat 8 lvl }
/-- Permission (0x07) at a level. -/
def xPermission (lvl : Nat) : XFault := { code := 0x07, level := BitVec.ofNat 8 lvl }
/-- Reserved Bit (0x08) at a level. -/
def xReserved (lvl : Nat) : XFault := { code := 0x08, level := BitVec.ofNat 8 lvl }

/-- What a walk finds: the leaf's level, its address and value, the physical address. -/
structure Leaf where
  level : Nat
  entry : Nat
  pte : DWord
  pa : Nat
  deriving DecidableEq, Repr

/-- The tag of walk reads: plaintext physical reads at the local L2 (12 R322). -/
def State.walkTag (s : State) : MemTag := { attr := 0, key := 0, home := s.links.fabid }

/-- An 8-byte page-table entry. -/
def State.entryAt (s : State) (ea : Nat) : DWord :=
  BitVec.ofNat 64 (leVal ((List.range 8).map fun i => s.sliceGet s.walkTag (ea + i)))

/-- A field of an entry. -/
def pteField (e : DWord) (lo len : Nat) : Nat := (e.extractLsb' lo len).toNat

/-- Whether the 16 entries of a group form a 64 KiB page (12 R326). -/
def groupOk (es : List DWord) : Bool :=
  let e0 := es.getD 0 0
  es.all (fun e => e.getLsbD 0 && e.getLsbD 1 && e.getLsbD 8)
    && pteField e0 12 4 == 0
    && ((List.range 16).all fun i => pteField (es.getD i 0) 12 36 == pteField e0 12 36 + i)
    && es.all fun e => pteField e 0 9 == pteField e0 0 9 && e.getLsbD 11 == e0.getLsbD 11 && pteField e 48 16 == pteField e0 48 16

/-- The leaf rules of R324-R326 at a level, giving the physical address. A group with a valid C = 1 entry beside one with C = 0 fails
the group's conditions, whichever entry is addressed (R326). -/
def State.leafPa (s : State) (va lvl ea : Nat) (e : DWord) : Except XFault Nat :=
  if pteField e 60 4 ≠ 0 ∨ 6 ≤ pteField e 5 3 then .error (xReserved lvl)
  else if lvl = 3 then
    if e.getLsbD 8 ∨ pteField e 12 18 ≠ 0 then .error (xReserved lvl)
    else .ok (pteField e 30 18 * 2 ^ 30 + va % 2 ^ 30)
  else if lvl = 4 then
    if e.getLsbD 8 ∨ pteField e 12 9 ≠ 0 then .error (xReserved lvl)
    else .ok (pteField e 21 27 * 2 ^ 21 + va % 2 ^ 21)
  else if lvl = 5 then
    let es := (List.range 16).map fun i => s.entryAt (ea / 128 * 128 + 8 * i)
    if e.getLsbD 8 then
      if groupOk es then .ok (pteField (es.getD 0 0) 16 32 * 2 ^ 16 + va % 2 ^ 16) else .error (xReserved 5)
    else if es.any fun x => x.getLsbD 0 && x.getLsbD 8 then .error (xReserved 5)
    else .ok (pteField e 12 36 * 2 ^ 12 + va % 2 ^ 12)
  else .error (xReserved lvl)

/-- The walk from the table at `base` with n levels left (12 R322-R327). -/
def State.walk (s : State) (va base : Nat) : Nat → Except XFault Leaf
  | 0 => .error (xReserved 5)
  | n + 1 =>
    let lvl := 5 - n
    let ea := base + 8 * (va / 2 ^ (12 + 9 * n) % 512)
    if rangeOf ea ≠ .lpddr then .error (xTranslation 6)
    else
      let e := s.entryAt ea
      if !e.getLsbD 0 then .error (xTranslation lvl)
      else if e.getLsbD 1 then (s.leafPa va lvl ea e).map fun pa => { level := lvl, entry := ea, pte := e, pa := pa }
      else if lvl = 5 ∨ pteField e 2 10 ≠ 0 ∨ pteField e 48 16 ≠ 0 then .error (xReserved lvl)
      else s.walk va (pteField e 12 36 * 4096) n

/-- The page attribute, key id and home of a leaf. -/
def Leaf.tag (l : Leaf) : MemTag :=
  { attr := l.pte.extractLsb' 5 3, key := l.pte.extractLsb' 48 8, home := l.pte.extractLsb' 56 4 }

/-- Whether an attribute may be used in a range for a kind of access (12 Tables 12.2, 12.3). -/
def attrOk (attr : BitVec 3) (kind : AccKind) (rg : PRange) : Bool :=
  (!(kind == .fetch || kind == .atomic) || attr == 0 || attr == 1 || attr == 3)
    && (kind != .ring || attr == 0 || attr == 1)
    && match rg with
      | .lpddr => true
      | .strip => attr == 0 || attr == 1
      | .mmio => attr == 1
      | .hole => true

/-- Whether an offset of BAR0 lies in none of the blocks of 16 Table 16.1. -/
def unplaced (o : Nat) : Bool :=
  !(decide (o < 4) || (decide (0x100 ≤ o) && decide (o < 0x200)) || (decide (0x1000 ≤ o) && decide (o < 0x1200))
    || (decide (0x2000 ≤ o) && decide (o < 0x2100)) || (decide (0x3000 ≤ o) && decide (o < 0x3200))
    || (decide (0x10000 ≤ o) && decide (o < 0x11000)) || (decide (0x100000 ≤ o) && decide (o < 0x140000))
    || (decide (0x200000 ≤ o) && decide (o < 0x202000)) || (decide (0x300000 ≤ o) && decide (o < 0x310000))
    || (decide (0x400000 ≤ o) && decide (o < 0x440000)))

/-- Whether crews of a context, privileged or not, may reach an MMIO address: their own control page, and what the map leaves
empty, which reads zero and ignores writes (12 R313; 16 R401, R409; log entry 15). -/
def mmioOk (ctx : Nat) (priv : Bool) (pa : Nat) : Bool :=
  match ctlAt pa with
  | some (c, _) => c == ctx && priv
  | none => unplaced (pa - 0xFF0000000000)

/-- The checks at the leaf, in the order of R327; a peer's map is this device's (16 R420: every device is one of these parts), and
none of a peer's registers may be reached, which the spec does not settle (log entry 94). -/
def State.leafFault (s : State) (ctx : Nat) (priv : Bool) (kind : AccKind) (l : Leaf) : Option XFault :=
  let t := l.tag
  let here := s.isLocal t
  let rg := rangeOf l.pa
  let up := match s.links.peers.find t.home.toNat with
    | some p => p.valid && p.up
    | none => false
  if l.pte.getLsbD 4 && !priv then some (xPermission l.level)
  else if kind.writes && !l.pte.getLsbD 2 then some (xPermission l.level)
  else if kind == .fetch && !l.pte.getLsbD 3 then some (xPermission l.level)
  else if !attrOk t.attr kind rg then some (xPermission l.level)
  else if t.key != 0 && (rg != .lpddr || !s.hostIf.grants.contains (t.key.toNat, ctx)) then some (xPermission l.level)
  else if rg == .mmio && !(here && mmioOk ctx priv l.pa) then some (xPermission l.level)
  else if !here && !up then some (xTranslation 7)
  else if rg == .hole then some (xTranslation 6)
  else none

/-- Set A, and D for a write, in the entry (12 R328). -/
def State.setAD (s : State) (kind : AccKind) (l : Leaf) : State :=
  let e' := l.pte ||| 0x200 ||| (if kind.writes then 0x400 else 0)
  if e' = l.pte then s
  else (List.range 8).foldl (fun u i => u.slicePut u.walkTag (some .plain) (l.entry + i) (e'.extractLsb' (8 * i) 8)) s

/-- Whether a virtual address is canonical (12 R322). -/
def canonical (va : DWord) : Bool := va == (va.setWidth 57).signExtend 64

/-- The root of a context's page table. -/
def State.rootOf (s : State) (ctx : Nat) : Nat :=
  match s.ctxs.find ctx with
  | some c => c.tableBase.toNat
  | none => 0

/-! ## Cached translations (12 R328, R329) -/

/-- Whether a leaf is an entry of a 64 KiB page. -/
def Leaf.group (l : Leaf) : Bool := l.level == 5 && l.pte.getLsbD 8

/-- The bytes a leaf's translation covers. -/
def Leaf.span (l : Leaf) : Nat :=
  if l.group then 2 ^ 16 else if l.level = 3 then 2 ^ 30 else if l.level = 4 then 2 ^ 21 else 2 ^ 12

/-- The 4 KiB page of a 64 KiB page that an address lies in; 0 for the other sizes. -/
def Leaf.page (l : Leaf) (va : Nat) : Nat := if l.group then va % 2 ^ 16 / 2 ^ 12 else 0

/-- What the entries of one translation have in common: all but A, D and the page within a 64 KiB page. -/
def Leaf.norm (l : Leaf) : DWord := l.pte &&& ~~~ (if l.group then 0xF600#64 else 0x600#64)

/-- The translation of a leaf as a TLB holds it, with nothing known of D. -/
def TlbEntry.ofLeaf (ctx va : Nat) (l : Leaf) : TlbEntry :=
  { ctx := ctx, lo := va / l.span * l.span, size := l.span, level := l.level, entry := l.entry - 8 * l.page va, pte := l.norm,
    pa := l.pa - va % l.span, dirty := [] }

/-- The leaf that a TLB entry stands for at an address: A set, D as known. -/
def TlbEntry.leaf (e : TlbEntry) (va : Nat) : Leaf :=
  let i := if e.size = 2 ^ 16 then (va - e.lo) / 2 ^ 12 else 0
  { level := e.level, entry := e.entry + 8 * i,
    pte := e.pte ||| 0x200 ||| (if e.dirty.contains i then 0x400 else 0) ||| BitVec.ofNat 64 (4096 * i),
    pa := e.pa + (va - e.lo) }

/-- Whether a cached leaf and the leaf that a walk finds have the same effect for an access. -/
def Leaf.agrees (kind : AccKind) (c l : Leaf) : Bool :=
  c.level == l.level && c.entry == l.entry && c.pa == l.pa && c.norm == l.norm && l.pte.getLsbD 9
    && (!kind.writes || l.pte.getLsbD 10 || !c.pte.getLsbD 10)

/-- The non-leaf entries that a walk passes: the levels left below each, and the table it names. -/
def State.tables (s : State) (va base : Nat) : Nat → List (Nat × Nat)
  | 0 => []
  | n + 1 =>
    let e := s.entryAt (base + 8 * (va / 2 ^ (12 + 9 * n) % 512))
    if !e.getLsbD 0 || e.getLsbD 1 then []
    else (n, pteField e 12 36 * 4096) :: s.tables va (pteField e 12 36 * 4096) n

/-- The translations cached in a cluster. -/
def State.xcache (s : State) (cluster : Nat) : XCache := (s.mem.xlats.find cluster).getD { tlb := [], walks := [], cores := [] }

/-- The leaves in a core's TLB. -/
def XCache.coreTlb (x : XCache) (core : Nat) : List TlbEntry := (x.cores.find core).getD []

/-- Put an element in a cache of n: which one goes from a full cache is the k-th choice. -/
def cachePut {α : Type} (n k : Nat) (l : List α) (x : α) : List α :=
  if l.length < n then l ++ [x] else (l.eraseIdx (k % l.length)) ++ [x]

/-- Put a leaf in a TLB of n entries; one already held learns through which pages D is set. -/
def tlbPut (n k : Nat) (l : List TlbEntry) (e : TlbEntry) : List TlbEntry :=
  let same := fun (y : TlbEntry) => { y with dirty := [] } == { e with dirty := [] }
  if l.any same then l.map fun y => if same y then { y with dirty := (y.dirty ++ e.dirty).eraseDups } else y
  else cachePut n k l e

/-- Whether any of a cluster's caches for a core is full, so that an entry may have to go. -/
def XCache.full (x : XCache) (core : Nat) : Bool :=
  decide (256 ≤ (x.coreTlb core).length) || decide (8192 ≤ x.tlb.length) || decide (252 ≤ x.walks.length)

/-- Cache, in the core an access comes from and in its cluster, the entries its walk passes and the leaf it takes (12 R329): 256 leaves
in a core, 8192 leaves and 256 non-leaf entries in a cluster. A walk is done within its step, so the bound of 16 walks at once
always holds. -/
def State.remember (s : State) (via : Option Nat) (ctx va : Nat) (l : Leaf) : State :=
  match via with
  | none => s
  | some core =>
    let k := s.clusterOf core
    let x := s.xcache k
    let ws := (s.tables va (s.rootOf ctx) 5).map fun t =>
      ({ ctx := ctx, left := t.1, index := va / 2 ^ (12 + 9 * t.1), table := t.2 } : WalkEntry)
    let e := { TlbEntry.ofLeaf ctx va l with dirty := if l.pte.getLsbD 10 then [l.page va] else [] }
    let n := Config.pick s.fresh
    let y : XCache :=
      { tlb := tlbPut 8192 n x.tlb e
        walks := (ws.filter fun w => !x.walks.contains w).foldl (cachePut 256 n) x.walks
        cores := x.cores.put core (tlbPut 256 n (x.coreTlb core) e) }
    { s with mem := { s.mem with xlats := s.mem.xlats.put k y }, fresh := if x.full core then s.fresh + 1 else s.fresh }

/-- The outcomes other than the walk's that cached entries of a core and its cluster offer an access. -/
def State.cachedLeaves (s : State) (via : Option Nat) (ctx va : Nat) (kind : AccKind) (root : Except XFault Leaf) :
    List (Except XFault Leaf) :=
  match via with
  | none => []
  | some core =>
    let x := s.xcache (s.clusterOf core)
    let hits := ((x.coreTlb core ++ x.tlb).filter fun e => e.ctx == ctx && decide (e.lo ≤ va) && decide (va < e.lo + e.size)).map (·.leaf va)
    let stale := hits.filter fun c => match root with
      | .ok l => !c.agrees kind l
      | .error _ => true
    let walks := (x.walks.filter fun w => w.ctx == ctx && w.index == va / 2 ^ (12 + 9 * w.left)).map fun w =>
      s.walk va w.table w.left
    stale.map (fun l => .ok l) ++ walks.filter fun w => match w, root with
      | .ok a, .ok b => a != b
      | .error a, .error b => a != b
      | _, _ => true

/-- The leaf an access uses: where cached entries offer others than the walk from the root, a free choice; a cached one
whose A or D must be set and whose entry has changed gives way to the walk. -/
def State.findLeaf (s : State) (via : Option Nat) (ctx va : Nat) (kind : AccKind) : Except XFault Leaf × State :=
  let root := s.walk va (s.rootOf ctx) 5
  match s.cachedLeaves via ctx va kind root with
  | [] => (root, s)
  | c :: cs =>
    let pick := ((root :: c :: cs)[Config.pick s.fresh % (cs.length + 2)]?).getD root
    let s1 := { s with fresh := s.fresh + 1 }
    match pick with
    | .error f => (.error f, s1)
    | .ok l =>
      let set := l.pte ||| 0x200 ||| (if kind.writes then 0x400 else 0)
      if set ≠ l.pte ∧ s.entryAt l.entry ≠ l.pte then (root, s1) else (.ok l, s1)

/-- Translate an address for a context, through the translations cached in the cluster of a core, if one is given. -/
def State.xlate (s : State) (via : Option Nat) (ctx : Nat) (priv : Bool) (kind : AccKind) (va : DWord) :
    Except XFault (MemTag × Nat) × State :=
  if !canonical va then (.error (xTranslation 0), s)
  else
    let v := (va.setWidth 57).toNat
    match s.findLeaf via ctx v kind with
    | (.error f, t) => (.error f, t)
    | (.ok l, t) =>
      match t.leafFault ctx priv kind l with
      | some f => (.error f, if l.pte.getLsbD 9 then t.remember via ctx v l else t)
      | none =>
        let l' : Leaf := { l with pte := l.pte ||| 0x200 ||| (if kind.writes then 0x400 else 0) }
        (.ok (l.tag, l.pa), (t.setAD kind l).remember via ctx v l')

/-- The core whose caches a crew's accesses go through. -/
def viaOf (r : Crew) : Option Nat := some r.core

/-! ## The checks of a lane (07 R166-R168, 14 R358, R377) -/

/-- A lane's fault: code, level, address, detail. -/
structure LaneFault where
  code : BitVec 8
  level : BitVec 8
  addr : DWord
  detail : BitVec 16
  deriving DecidableEq, Repr

/-- What a group reports when lanes fail: the code, every lane that raised it, and the lowest of those lanes' level,
address and detail. -/
structure LaneTrap where
  lanes : LaneMask
  fault : LaneFault
  deriving DecidableEq, Repr

/-- The order between fault codes (14 R358). -/
def faultRank (code : BitVec 8) : Nat :=
  ([0x05, 0x06, 0x08, 0x07, 0x09, 0x0A, 0x0B, 0x0F, 0x10, 0x11, 0x14] : List (BitVec 8)).idxOf code

/-- The trap that lanes' faults make together, none where no lane failed. -/
def worstOf (fs : List (Nat × LaneFault)) : Option LaneTrap :=
  match fs with
  | [] => none
  | f :: rest =>
    let best := rest.foldl (fun b g => if faultRank g.2.code < faultRank b.2.code then g else b) f
    some { lanes := maskOf fun l => fs.any fun g => g.1 == l && g.2.code == best.2.code, fault := best.2 }

/-- The lowest armed watchpoint that matches an access of n bytes (14 R377). -/
def State.watchHit (s : State) (ctx : Nat) (va : DWord) (n : Nat) (rd wr : Bool) : Option Nat :=
  let d := s.dbgOf ctx
  if !d.wpen then none
  else
    let a := (va.setWidth 57).toNat
    (List.range 8).find? fun i =>
      match d.wps.find i with
      | some w =>
        w.en && decide (2 ≤ w.logsz.toNat) && decide (w.logsz.toNat ≤ 12) && ((w.r && rd) || (w.w && wr))
          && decide (w.addr.toNat < a + n) && decide (a < w.addr.toNat + 2 ^ w.logsz.toNat)
      | none => false

/-- What one lane accesses: its address, size in bytes, alignment, kind, the watchpoint kinds it can match, and whether a
read takes place at the L2 (11 R289). -/
structure LaneAcc where
  va : DWord
  size : Nat
  align : Nat
  kind : AccKind
  wr : Bool
  ww : Bool
  atL2 : Bool
  deriving DecidableEq, Repr

/-- Whether a read of n bytes meets an uncorrectable error where it finds them: in the core's L1, else at the home (12 R321). -/
def State.readPoison (s : State) (via : Option Nat) (atL2 : Bool) (t : MemTag) (pa n : Nat) : Bool :=
  match via with
  | none => s.poisoned pa n
  | some core =>
    let c := s.coreOf core
    if c.l1.isEmpty then s.poisoned pa n
    else (List.range n).any fun i =>
      match Sparse.get none c.l1 (t.ckey (pa + i)) with
      | some b => if atL2 && !b.dirty then s.poisoned (pa + i) 1 else c.l1Poison.contains (t.ckey ((pa + i) / 32))
      | none => s.poisoned (pa + i) 1

/-- Check one lane's access in the order of R168. -/
def State.checkLane (s : State) (via : Option Nat) (ctx : Nat) (priv : Bool) (q : LaneAcc) : Except LaneFault (MemTag × Nat) × State :=
  if q.va.toNat % q.align ≠ 0 then (.error { code := 0x05, level := 0, addr := q.va, detail := 0 }, s)
  else
    match s.xlate via ctx priv q.kind q.va with
    | (.error f, t) => (.error { code := f.code, level := f.level, addr := q.va, detail := 0 }, t)
    | (.ok (g, pa), t) =>
      if q.kind != .write && q.kind != .maint && t.isLocal g && t.readPoison via (q.atL2 || q.kind != .read) g pa q.size then
        (.error { code := 0x06, level := 8, addr := q.va, detail := 0 }, t)
      else
        match t.watchHit ctx q.va q.size q.wr q.ww with
        | some i => (.error { code := 0x14, level := 0, addr := q.va, detail := BitVec.ofNat 16 i }, t)
        | none => (.ok (g, pa), t)

/-- Check the accesses of lanes: the faults found, and where the bytes of the lanes that passed are. -/
def State.gatherLanes (s : State) (via : Option Nat) (ctx : Nat) (priv : Bool) (qs : List (Nat × LaneAcc)) :
    List (Nat × LaneFault) × List (Nat × MemTag × Nat) × State :=
  qs.foldl (fun (acc : List (Nat × LaneFault) × List (Nat × MemTag × Nat) × State) q =>
    match acc.2.2.checkLane via ctx priv q.2 with
    | (.error f, t) => (acc.1 ++ [(q.1, f)], acc.2.1, t)
    | (.ok p, t) => (acc.1, acc.2.1 ++ [(q.1, p.1, p.2)], t)) ([], [], s)

/-- Check the accesses of the active lanes, lanes ascending; with no fault, where each lane's bytes are. -/
def State.checkLanes (s : State) (via : Option Nat) (ctx : Nat) (priv : Bool) (qs : List (Nat × LaneAcc)) :
    Except LaneTrap (List (Nat × MemTag × Nat)) × State :=
  let r := s.gatherLanes via ctx priv qs
  match worstOf r.1 with
  | some w => (.error w, r.2.2)
  | none => (.ok r.2.1, r.2.2)

/-! ## Accesses of a crew -/

/-- What a load does before it reads: the stores of its crew that it must follow are performed, and its core's buffer gives up the
line to any load that is not from a write-combining page (11 R290, R305; 12 R312, R318). -/
def State.beforeLoad (s : State) (c : Nat) (r : Crew) (t : MemTag) (pa n : Nat) : State :=
  let u := if mustFollow (s.auxOf c).storeQ (s.onDevice t pa) t pa n then s.drainAll c r else s
  (if t.attr == 2 then u else u.wcYield r.core t pa).touch c t pa

/-- The bytes a plain or acquire load of crew `c` returns for one lane (07 R169, 11 R286, R289, 12 R309-R313, R318). An acquire
load reads the L2 at every scope (log entry 12). -/
def State.loadLane (s : State) (c : Nat) (r : Crew) (t : MemTag) (pa n : Nat) (acq : Bool) (cache : CachePolicy) :
    List Byte × State :=
  let s1 := s.beforeLoad c r t pa n
  if s1.onDevice t pa then (s1.mmioRead pa n, s1)
  else
    let able := s1.l1Able t pa
    let s2 := if !able || acq then s1.l1Evict r.core t pa else s1
    let base := if able then s2.l1Load r.core t cache pa n else s2.homeRead t (l2How t.attr cache) pa n
    if t.attr == 2 || t.attr == 5 then base
    else
      let q := (base.2.auxOf c).storeQ
      ((List.range n).map fun i => (forwarded q t (pa + i)).getD (base.1.getD i 0), base.2)

/-- Put a store event of `width` bytes in each lane in a crew's store queue. -/
def State.storeEvent (s : State) (c : Nat) (kind : StoreKind) (release : Option Scope) (cache : CachePolicy) (addr : DWord)
    (width : Nat) (lanes : List (MemTag × Nat × List Byte)) : State :=
  let s1 := lanes.foldl (fun u x => u.touch c x.1 x.2.1) s
  if lanes.isEmpty then s1
  else
    let e : StoreEvent :=
      { seq := s1.nextId, crew := c, addr := addr, kind := kind, release := release, cache := cache, width := width
        bytes := lanes.flatMap fun x =>
          (List.range x.2.2.length).map fun i => (x.1, ({ pa := x.2.1 + i, byte := x.2.2.getD i 0 } : StoreByte)) }
    ({ s1 with nextId := s1.nextId + 1 }).onAux c fun a => { a with storeQ := a.storeQ ++ [e] }

/-- A read-modify-write of n bytes at the slice or at a peer (07 R185, 11 R286, R290, R297): the crew's earlier stores are
performed before it, and the core's own copies of every line it touches go to the L2. The new bytes are a function of the
old, none where it stores nothing. -/
def State.atomicLane (s : State) (c : Nat) (r : Crew) (t : MemTag) (cache : CachePolicy) (pa n : Nat)
    (f : List Byte → Option (List Byte)) (req : FabricReq) : List Byte × State :=
  let s1 := (linesOf ((List.range n).map (pa + ·))).foldl (fun u k =>
    ((u.wcYield r.core t (k * 128)).l1Evict r.core t (k * 128)).touch c t (k * 128)) (s.drainAll c r)
  if s1.isLocal t then
    if rangeOf pa == .mmio then
      let old := s1.mmioRead pa n
      (old, match f old with
        | some new => s1.mmioWrite ((List.range n).map fun i => (pa + i, new.getD i 0))
        | none => s1)
    else
      let old := (List.range n).map fun i => s1.sliceGet t (pa + i)
      (old, match f old with
        | some new => s1.homeWrite t (l2How t.attr cache) ((List.range n).map fun i => (pa + i, new.getD i 0))
        | none => (List.range n).foldl (fun u i => u.sliceFill t (l2How t.attr cache) (pa + i)) s1)
  else
    ((List.range n).map fun i => Config.peerByte (s1.fresh + i),
      ({ s1 with fresh := s1.fresh + n }).sendPeer t.home req)

/-! ## Accesses of the engines and the firmware -/

/-- Read n bytes of a context's memory at the L2, page by page, privileged; none where any byte faults. -/
def State.devRead (s : State) (ctx : Nat) (va : DWord) (n : Nat) : Option (List Byte) × State :=
  (List.range n).foldl (fun (acc : Option (List Byte) × State) i =>
    match acc.1 with
    | none => acc
    | some bs =>
      match acc.2.xlate none ctx true .read (va + BitVec.ofNat 64 i) with
      | (.error _, t) => (none, t)
      | (.ok (g, pa), t) =>
        if t.isLocal g && t.poisoned pa 1 then (none, t)
        else
          let x := if t.isLocal g && rangeOf pa == .mmio then (t.mmioRead pa 1, t) else t.homeRead g (l2How g.attr .dflt) pa 1
          (some (bs ++ x.1), x.2)) (some [], s)

/-- Whether a place holds a byte of a control page's windows, which only the host and crews write (16 R410; log entry 102). -/
def State.windowAt (s : State) (t : MemTag) (pa : Nat) : Bool :=
  s.onDevice t pa && match ctlAt pa with
    | some (_, o) => decide (0x100 ≤ o) && decide (o < 0x200)
    | none => false

/-- Translate the bytes of a range for writing, privileged; none where any of them faults or lies in a window. -/
def State.devPlaces (s : State) (ctx : Nat) (va : DWord) (n : Nat) : Option (List (MemTag × Nat)) × State :=
  (List.range n).foldl (fun (acc : Option (List (MemTag × Nat)) × State) i =>
    match acc.1 with
    | none => acc
    | some ps =>
      match acc.2.xlate none ctx true .write (va + BitVec.ofNat 64 i) with
      | (.error _, t) => (none, t)
      | (.ok p, t) => if t.windowAt p.1 p.2 then (none, t) else (some (ps ++ [p]), t)) (some [], s)

/-- Write bytes at translated places at their homes: the bytes of one page attribute together. -/
def State.placeWrite (s : State) (ps : List (MemTag × Nat)) (bs : List Byte) : State :=
  s.byTag (ps.zip bs) fun u t ws => u.tagWrite t (l2How t.attr .dflt) ws

/-- Write bytes to a context's memory at the L2, privileged; nothing is written where any byte faults. -/
def State.devWrite (s : State) (ctx : Nat) (va : DWord) (bs : List Byte) : Bool × State :=
  match s.devPlaces ctx va bs.length with
  | (none, t) => (false, t)
  | (some ps, t) => (true, t.placeWrite ps bs)

/-! ## Instruction fetch (12 R314, 05 R127) -/

/-- Put a line in a core's instruction cache of 1024 lines (12 Table 12.1); which line goes from a full one is a free choice. -/
def State.codeFill (s : State) (core : Nat) (l : ILine) : State :=
  let n := (s.coreOf core).icache.length
  if n < 1024 then s.onCore core fun c => { c with icache := c.icache ++ [l] }
  else
    let v := s.choose (n - 1)
    v.2.onCore core fun c => { c with icache := (c.icache.eraseIdx v.1) ++ [l] }

/-- Fetch the word at an address through a core's instruction cache; a line with an uncorrectable error is not kept. A control page
that is mapped executable gives words of zero, which the spec leaves open (log entry 94). -/
def State.fetchWord (s : State) (core ctx : Nat) (priv : Bool) (pc : PC) : Except LaneFault Word × State :=
  let va := pc.signExtend 64
  match s.xlate (some core) ctx priv .fetch va with
  | (.error f, t) => (.error { code := f.code, level := f.level, addr := va, detail := 0 }, t)
  | (.ok (g, pa), t) =>
    let vline := pc.toNat / 128
    let word := fun (bs : List Byte) => BitVec.ofNat 32 (leVal ((bs.drop (pc.toNat % 128)).take 4))
    match (t.coreOf core).icache.find? fun l => l.ctx == ctx && l.vline == vline with
    | some l => (.ok (word l.bytes), t)
    | none =>
      if t.isLocal g && t.poisoned pa 4 then (.error { code := 0x06, level := 8, addr := va, detail := 0 }, t)
      else
        let x := t.homeRead g (l2How g.attr .dflt) (pa / 128 * 128) 128
        (.ok (word x.1),
          if t.isLocal g && t.poisoned (pa / 128 * 128) 128 then x.2
          else x.2.codeFill core { ctx := ctx, vline := vline, bytes := x.1 })

end Sys2Proof.Machine
end

