-- ==== Sys2Proof/Machine/Ops.lean ====
section
/-!
DEFINITION. The operations that instructions and events share: records to the host, budgets, the end of crews, blocks
and launches, barrier generations, taking a trap and returning from one, and the completion of an issue group.
-/

namespace Sys2Proof.Machine

/-! ## Host memory and queues (16 R402-R404) -/

/-- A byte of host memory. -/
def State.hostGet (s : State) (a : Nat) : Byte := Sparse.get 0 s.mem.host a

/-- Write bytes to host memory. -/
def State.hostPut (s : State) (a : Nat) (bs : List Byte) : State :=
  { s with mem := { s.mem with
    host := (List.range bs.length).foldl (fun m i => Sparse.put 0 m (a + i) (bs.getD i 0)) s.mem.host } }

/-- Read n bytes of host memory. -/
def State.hostRead (s : State) (a n : Nat) : List Byte := (List.range n).map fun i => s.hostGet (a + i)

/-- The number of entries a queue holds at most. -/
def Queue.size (q : Queue) : Nat := 2 ^ q.log2n.toNat

/-- Whether a queue is full. -/
def Queue.full (q : Queue) : Bool := (q.prod - q.cons).toNat == q.size

/-- The address of entry k of a queue with entries of `sz` bytes. -/
def Queue.entryAddr (q : Queue) (sz : Nat) (k : Word) : Nat := q.base.toNat + sz * (k.toNat % q.size)

/-- Raise an MSI-X vector (16 Table 16.3). -/
def State.msix (s : State) (v : Nat) : State := { s with hostIf := { s.hostIf with msix := s.hostIf.msix ++ [v] } }

/-- Post a completion record: held, in order, while the queue is full, records wait before it, or the pithead is down. -/
def State.postCompletion (s : State) (rec : List Byte) : State :=
  let q := s.hostIf.cplq
  if !s.pithead.up || !s.pithead.held.isEmpty || q.full then
    { s with pithead := { s.pithead with held := s.pithead.held ++ [rec] } }
  else
    let t := s.hostPut (q.entryAddr 32 q.prod) rec
    ({ t with hostIf := { t.hostIf with cplq := { q with prod := q.prod + 1 } } }).msix 0

/-- A 32-bit count that saturates. -/
def satInc (w : Word) : Word := if w = 0xFFFFFFFF then w else w + 1

/-- Write a record to a context's event queue: dropped and counted when it is full (16 Table 16.2). -/
def State.pushEvent (s : State) (ctx : Nat) (rec : List Byte) : State :=
  let p := s.ctlOf ctx
  if p.evq.full then s.putCtl ctx { p with evdrop := satInc p.evdrop }
  else
    ((s.hostPut (p.evq.entryAddr 32 p.evq.prod) rec).putCtl ctx
      { p with evq := { p.evq with prod := p.evq.prod + 1 } }).msix 1

/-- Post a record to a context's event queue: held, in order, while the pithead is down. -/
def State.postEvent (s : State) (ctx : Nat) (rec : List Byte) : State :=
  let p := s.ctlOf ctx
  if !s.pithead.up || !p.heldEvents.isEmpty then s.putCtl ctx { p with heldEvents := p.heldEvents ++ [rec] }
  else s.pushEvent ctx rec

/-- Post a record to a context's fault queue: held when it is full. -/
def State.postFault (s : State) (ctx : Nat) (rec : List Byte) : State :=
  let p := s.ctlOf ctx
  if !s.pithead.up || !p.heldFaults.isEmpty || p.fltq.full then s.putCtl ctx { p with heldFaults := p.heldFaults ++ [rec] }
  else
    ((s.hostPut (p.fltq.entryAddr 64 p.fltq.prod) rec).putCtl ctx
      { p with fltq := { p.fltq with prod := p.fltq.prod + 1 } }).msix 2

/-- The completion record of 16 R406. -/
def completionRec (kind status ctx : Nat) (id : Word) (subseq : Nat) (time detail : DWord) : List Byte :=
  [BitVec.ofNat 8 kind, BitVec.ofNat 8 status, BitVec.ofNat 8 ctx, 0] ++ leBytes 4 id.toNat ++ leBytes 4 subseq
    ++ leBytes 4 0 ++ leBytes 8 time.toNat ++ leBytes 8 detail.toNat

/-- Write a crash record (16 R412, Table 16.6); the firmware's own figures are free values (log entry 1), but for the address
that a refused access names. -/
def State.crashRecord (s : State) (cause src idx : Nat) (addr : Option DWord := none) : State :=
  let k := s.pithead.crashes.toNat
  let free := fun (m : Nat) => Config.crash k m
  let time := if s.links.ptp.locked then s.time.toNat else 0
  let rec1 := leBytes 8 k ++ leBytes 8 time ++ [free 0 &&& 3, BitVec.ofNat 8 cause] ++ leBytes 2 src ++ leBytes 4 idx
    ++ (List.range 8).map (fun m => free (1 + m))
    ++ (match addr with
      | some a => leBytes 8 a.toNat
      | none => (List.range 8).map fun m => free (9 + m))
    ++ (List.range 16).map (fun m => free (17 + m)) ++ leBytes 4 s.boot.fwver.toNat ++ leBytes 4 s.boot.svn.toNat
    ++ List.replicate 64 0
  let base := 128 + 128 * (k % 479)
  ({ s with pithead := { s.pithead with
      records := (List.range 128).foldl (fun m i => Sparse.put 0 m (base + i) (rec1.getD i 0)) s.pithead.records
      crashes := s.pithead.crashes + 1 } }).msix 3

/-! ## Regions and budgets (01 R36, R37) -/

/-- Whether n bytes lie wholly within one valid window of a context with a permission (16 R410): a window's base is the 57 bits
of a canonical address. -/
def State.windowOk (s : State) (ctx : Nat) (va : DWord) (n : Nat) (wr : Bool) : Bool :=
  (s.ctlOf ctx).wins.vals.any fun w =>
    w.valid && (if wr then w.wr else w.rd) && canonical va && decide (w.base.toNat ≤ (va.setWidth 57).toNat)
      && decide ((va.setWidth 57).toNat + n ≤ w.base.toNat + w.len.toNat)

/-- Write a region's USED fields back to its RCB; a write-back that cannot be performed is dropped. -/
def State.writeUsed (s : State) (ctx slot : Nat) : State :=
  match s.region ctx slot with
  | none => s
  | some g =>
    if s.windowOk ctx (g.va + 0x50) 10 true then
      (s.devWrite ctx (g.va + 0x50) (leBytes 4 g.crewsUsed ++ leBytes 4 g.bankUsed ++ leBytes 2 g.partsUsed)).2
    else s

/-- Change the used figures along a region chain and write them back. -/
def State.chargeChain (s : State) (ctx slot : Nat) (f : Region → Region) : State :=
  (s.regionChain ctx slot).foldl (fun u k => (u.onRegion ctx k f).writeUsed ctx k) s

/-- Whether a charge fits every budget set along a chain. -/
def State.fits (s : State) (ctx slot crews bank parts : Nat) : Bool :=
  (s.regionChain ctx slot).all fun k =>
    match s.region ctx k with
    | none => true
    | some g =>
      (!g.override.getLsbD 4 || decide (g.crewsUsed + crews ≤ g.crews.toNat))
        && (!g.override.getLsbD 5 || decide (g.bankUsed + bank ≤ g.bankKib.toNat))
        && (!g.override.getLsbD 6 || decide (g.partsUsed + parts ≤ g.parts.toNat))

/-! ## The end of crews, blocks and launches -/

/-- The accumulator words of pair p. -/
def inPair (p i : Nat) : Bool := i / 2048 == p

/-- Release what a crew owns in its partition: its pair, zeroed, and the planes, invalid (08 R200, R201). -/
def Partition.release (p : Partition) (c : Nat) : Partition :=
  let mine := (p.owners.filter fun o => o.2 == c).map (·.1)
  let p1 := { p with
    acc := p.acc.filter fun e => !mine.any fun q => inPair q e.1
    events := p.events.filter fun e => !mine.contains (e.1 / 2)
    owners := p.owners.filter fun o => o.2 != c }
  if p.planeOwner = some c then { p1 with planeOwner := none, front := Plane.none, shadow := Plane.none } else p1

/-- Copies in the order of their first issue (14 R370). -/
def inIssueOrder (jobs : List CopyJob) : List CopyJob :=
  jobs.foldl (fun acc j => (acc.filter fun x => decide (x.origin < j.origin)) ++ [j]
    ++ acc.filter fun x => decide (j.origin < x.origin)) []

/-- Drop a crew's copies from its core's queues (14 R370); the copies it had, oldest first. -/
def State.discardCopies (s : State) (c core : Nat) : List CopyJob × State :=
  let k := s.coreOf core
  let jobs := k.queues.vals.flatten.filter fun j => j.crew == c
  (inIssueOrder jobs, s.putCore core { k with queues := k.queues.map fun q => (q.1, q.2.filter fun j => j.crew != c) })

/-- The members of a gang register. -/
def gangMembers (g : BitVec 48) : List Nat :=
  ((List.range 6).map fun i => (g.extractLsb' (8 * i) 8).toNat).filter (· != 0xFF)

/-- Whether every crew that the leader's gang register names has arrived (08 R221). -/
def Latch.complete (l : Latch) (leader : Nat) : Bool :=
  match l.arrivals.find? fun a => a.crew == leader with
  | none => false
  | some a => (gangMembers a.gang).all fun i => l.arrivals.any fun b => b.crew == leader / 128 * 128 + i

/-- Withdraw a crew's arrivals (08 R222); the timer of a latch runs until it empties. So does that of a rendezvous that was complete and
awaited its lamp, whose latch 08 Table 8.9 shows empty: the spec does not say from where it runs then (log entry 26). -/
def State.withdraw (s : State) (c : Nat) : State :=
  let ls : Tbl Latch := s.latches.map fun l =>
    if l.2.arrivals.any fun a => a.crew == c then
      (l.1, { l.2 with arrivals := l.2.arrivals.filter fun a => a.crew != c, completed := none })
    else l
  { s with latches := ls.filter fun l => !l.2.arrivals.isEmpty }

/-- Free a crew's slot: its partition's state, its recency place, its latch arrivals (01 R17, 14 R366). -/
def State.vacate (s : State) (c : Nat) (r : Crew) : State :=
  (s.onPn r.pkey fun p =>
    { (p.release c) with
      recency := p.recency.filter (· != c)
      wld := if p.wld.map (·.1) = some c then none else p.wld
      wldRead := if p.wld.map (·.1) = some c then none else p.wldRead
      accld := p.accld.filter fun x => x.crew != c }).withdraw c

/-- Charge n clocks to a stall counter, saturating. -/
def Crew.charge (r : Crew) (reason n : Nat) : Crew :=
  { r with stalls := Sparse.put 0 r.stalls reason (BitVec.ofNat 32 (min (2 ^ 32 - 1) ((Sparse.get 0 r.stalls reason).toNat + n))) }

/-- The clocks that the words of a crew's group in progress still take (02 R55). -/
def State.issueLeft (s : State) (c : Nat) (r : Crew) : Nat :=
  if (s.pn r.pkey).issuer = some c then (s.pn r.pkey).issueEnd - s.clk else 0

/-- Add a crew's stall counters to its block's totals (14 R366, R381), with the clocks that its last group takes to issue. -/
def State.addStalls (s : State) (c : Nat) (r : Crew) : State :=
  { s with blocks := s.blocks.upd r.block fun b =>
      { b with stalls := (r.charge 0 (s.issueLeft c r)).stalls.foldl (fun m e =>
          Sparse.put 0 m e.1 (Sparse.get 0 m e.1 + e.2.toNat)) b.stalls } }

/-- The crews of a block. -/
def State.crewsOf (s : State) (b : Nat) : Tbl Crew := s.crews.filter fun e => e.2.block == b

/-- Complete every barrier generation that every crew has arrived in or exited from (07 R191). -/
def State.settle (s : State) (b : Nat) : State :=
  let cs := s.crewsOf b
  let n := match s.blocks.find b with
    | some k => match s.launches.find k.launch with
      | some l => l.packet.barriers
      | none => 0
    | none => 0
  (List.range n).foldl (fun u i =>
    let some? := cs.any fun e => (u.auxOf e.1).arrived.getLsbD i
    let all? := cs.all fun e => e.2.phase == .exited || (u.auxOf e.1).arrived.getLsbD i
    if some? && all? then
      let off := ~~~ (1#16 <<< i)
      let v := cs.foldl (fun v e => (v.acquireAt e.2.core (v.wide e.2 .block)).onAux e.1 fun a =>
        { a with arrived := a.arrived &&& off, hold := a.hold &&& off, holdIn := a.holdIn &&& off }) u
      { v with blocks := v.blocks.upd b fun k =>
          { k with gens := Sparse.put 0 k.gens i (Sparse.get 0 k.gens i + 1), epoch := k.epoch + 1 } }
    else u) s

/-- The last live lane of a crew exits: the slot becomes FREE (01 R19, 05 R133). -/
def State.endCrew (s : State) (c : Nat) : State :=
  match s.crews.find c with
  | none => s
  | some r =>
    let t := ((s.vacate c r).addStalls c r).putCrew c { r with phase := .exited, exited := 0xFFFFFFFF }
    (t.onAux c fun a =>
      { a with frames := [], heldSlots := [], trap := { a.trap with nesting := false }, preempt := none }).settle r.block

/-- Free the save frame index that a crew holds in its save area (14 R365). -/
def State.freeFrame (s : State) (ctx : Nat) (a : CrewAux) : State :=
  match a.frame, a.frameSlot with
  | some f, some k => s.onRegion ctx k fun g => { g with saves := g.saves.filter (· != f) }
  | _, _ => s

/-- Whether a peer has yet to acknowledge a frame of this device (11 R305). -/
def State.awaiting (s : State) : Bool := s.links.peers.any fun p => p.2.up && !p.2.unacked.isEmpty

/-- Retire a launch (13 R342): its completion record, KIND 0. -/
def State.retireLaunch (s : State) (l : Nat) (status : Nat) : State :=
  match s.launches.find l with
  | none => s
  | some k =>
    ({ s with launches := s.launches.del l }).postCompletion
      (completionRec 0 status k.ctx k.packet.handle k.subseq s.time 0)

/-- The bank KiB of part j of a block (01 R18). -/
def partKib (p : Packet) (spread j : Nat) : Nat :=
  p.bankKib.toNat + (crewsOn p.crews.toNat spread j * p.window * 128 + 1023) / 1024

/-- The bank KiB of a whole block. -/
def blockKib (p : Packet) (spread : Nat) : Nat := (List.range spread).foldl (fun n j => n + partKib p spread j) 0

/-- Remove a block with its crews and release its charges, codebook slots and save frames (01 R17, R37, 09 R252). -/
def State.removeBlock (s : State) (b : Nat) : State :=
  match s.blocks.find b with
  | none => s
  | some k =>
    let cs := s.crewsOf b
    let l := s.launches.find k.launch
    let ctx := (l.map (·.ctx)).getD 0
    let slot := (l.map (·.packet.rslot)).getD 0
    let crews := (l.map (·.packet.crews.toNat)).getD 0
    let s1 := cs.foldl (fun u e => u.freeFrame ctx (u.auxOf e.1)) s
    let s2 : State := { s1 with
      crews := s1.crews.filter (fun e => e.2.block != b)
      aux := s1.aux.filter (fun e => !cs.any (fun x => x.1 == e.1))
      blocks := s1.blocks.del b
      cores := s1.cores.map (fun e => (e.1, { e.2 with books := e.2.books.filter (fun x => x.2.block != b) })) }
    s2.chargeChain ctx slot fun g => { g with crewsUsed := g.crewsUsed - crews, bankUsed := g.bankUsed - k.charged }

/-- Whether a launch belongs to a fault domain: its crews' regions as they started with them, or its region's own value while it
has no crew (01 R38, R39). -/
def State.inDomain (s : State) (ctx fdom : Nat) (e : Nat × Launch) : Bool :=
  let cs := s.crews.filter fun r => r.2.launch == e.1
  e.2.ctx == ctx && if cs.isEmpty then (s.startedOf ctx e.2.packet.rslot).fdom == fdom
    else cs.any fun r => (s.auxOf r.1).started.fdom == fdom

/-- Perform the stores that the ended crews of a launch left queued, and write out what their cores hold of them. -/
def State.drainLeft (s : State) (l : Nat) : State :=
  let xs := ((s.launches.find l).map (·.left)).getD []
  let t := xs.foldl (fun u x => (u.performEvent x.1 (wideScope x.2.1) x.2.2).claim u x.2.2.crew x.2.2.addr x.2.2.seq) s
  let u := ((xs.map (·.1)).eraseDups).foldl (fun u k => u.releaseAt k true) t
  { u with launches := u.launches.upd l fun k => { k with left := [] } }

/-- Retire the launches of ended domains once no peer has a frame to acknowledge (01 R39, 11 R305): STATUS 1. What their crews left queued
is performed first, and awaited in turn. -/
def State.retireEnding (s : State) : State :=
  if s.awaiting then s
  else
    let ls := (s.launches.filter fun e => e.2.ending).map (·.1)
    let t := ls.foldl (fun u l => u.drainLeft l) s
    if t.awaiting then t else ls.foldl (fun u l => u.retireLaunch l 1) t

/-- The queued stores of a crew whose domain ends drain; while a load of the crew is owed by a peer they are left to its launch, for they
may not be seen before it has returned (11 R287). -/
def State.leaveStores (s : State) (c : Nat) (r : Crew) : State :=
  if s.owed c then
    { s with launches := s.launches.upd r.launch fun k => { k with
        left := k.left ++ (s.auxOf c).storeQ.map fun e => (r.core, decide (1 < s.spreadOf r), e) } }
  else s.drainAll c r

/-- End a fault domain (01 R39): every launch of the context whose region's FDOM is `fdom` ends without save routines; stores
queued drain, and what their cores hold of them is written out, the SYSTEM release of a retirement (11 R303). -/
def State.endDomain (s : State) (ctx fdom : Nat) : State :=
  let ls := (s.launches.filter (s.inDomain ctx fdom)).map (·.1)
  let cs := (s.crews.filter fun e => ls.contains e.2.launch)
  let s1 := cs.foldl (fun u e => ((u.leaveStores e.1 e.2).discardCopies e.1 e.2.core).2.vacate e.1 e.2) s
  let bs := (s1.blocks.filter fun e => ls.contains e.2.launch).map (·.1)
  let s2 := ((s1.blocks.filter fun e => ls.contains e.2.launch).flatMap fun e => e.2.parts.vals.map (·.core)).eraseDups.foldl
    (fun u k => u.releaseAt k true) s1
  let s3 := bs.foldl (fun u b => u.removeBlock b) s2
  ({ s3 with launches := s3.launches.map fun (e : Nat × Launch) =>
      if ls.contains e.1 then (e.1, { e.2 with ending := true, next := e.2.packet.blocks }) else (e.1, e.2) }).retireEnding

/-! ## Releases and acquires of a crew (11 R292) -/

/-- A release at a scope: the crew's stores are performed and what R309 and R312 name is written back. -/
def State.release (s : State) (c : Nat) (r : Crew) (sc : Scope) : State := (s.drainAll c r).releaseAt r.core (s.wide r sc)

/-- An acquire at a scope. -/
def State.acquire (s : State) (r : Crew) (sc : Scope) : State := s.acquireAt r.core (s.wide r sc)

/-! ## Traps (14 R357-R362) -/

/-- What a group or an event raises: the code, the marked lanes, the detail and level, the address, the group's PC, the
retired count before it, the extra FLG bits, and the token field. -/
structure TrapReq where
  code : BitVec 8
  lanes : LaneMask
  detail : BitVec 16
  level : BitVec 8
  addr : DWord
  pc : PC
  retired : BitVec 48
  flg : Byte
  token : Word
  /-- the TIME of a record already posted (14 R374) -/
  time : Option DWord := none
  deriving DecidableEq, Repr

/-- The trap record (14 Table 14.3). -/
def State.trapRecord (s : State) (c : Nat) (r : Crew) (q : TrapReq) : List Byte :=
  let a := s.auxOf c
  let p := s.packetOf r
  let ovf := (lanesOf r.live).any fun l => (r.rstack l).ovf
  let flg := q.flg ||| (BitVec.ofBool r.priv).setWidth 8 ||| ((BitVec.ofBool r.matrix).setWidth 8 <<< 1)
    ||| ((BitVec.ofBool a.trap.nesting).setWidth 8 <<< 2)
  let bl := ((s.blockOf r).map (·.bl)).getD 0
  [q.code, q.level] ++ leBytes 2 q.detail.toNat ++ leBytes 4 q.lanes.toNat ++ leBytes 8 q.pc.toNat
    ++ leBytes 8 q.addr.toNat ++ leBytes 8 (q.retired.toNat + (if ovf then 2 ^ 48 else 0))
    ++ leBytes 2 r.core ++ [BitVec.ofNat 8 r.partition, BitVec.ofNat 8 r.index, BitVec.ofNat 8 (s.rslotOf c r),
        BitVec.ofNat 8 (s.ctxOf r), BitVec.ofNat 8 r.part, flg]
    ++ leBytes 8 bl ++ leBytes 8 (q.time.getD s.time).toNat ++ leBytes 4 p.handle.toNat ++ leBytes 4 q.token.toNat

/-- Queue a record behind a crew's stores, as a release store at DEVICE scope. -/
def State.queueRecord (s : State) (c : Nat) (va : DWord) (ps : List (MemTag × Nat)) (bs : List Byte) : State :=
  let e : StoreEvent :=
    { seq := s.nextId, crew := c, addr := va, kind := .write, release := some .device, cache := .dflt, width := bs.length
      bytes := (ps.zip bs).map fun x => (x.1.1, { pa := x.1.2, byte := x.2 }) }
  ({ s with nextId := s.nextId + 1 }).onAux c fun a => { a with storeQ := a.storeQ ++ [e] }

/-- Write a record for a crew at the L2, a DEVICE-scope release (14 R360): the crew's earlier stores are performed and written
out first, and its core's L1 copies of the record's lines are dropped. While a load of the crew is owed by a peer, none of its stores may
be seen (11 R287): the record then stands behind them in its queue, before the stores of the handler. -/
def State.writeRecord (s : State) (c : Nat) (r : Crew) (va : DWord) (bs : List Byte) : Bool × State :=
  match s.devPlaces (s.ctxOf r) va bs.length with
  | (none, t) => (false, t)
  | (some ps, t) =>
    if t.owed c then (true, t.queueRecord c va ps bs)
    else (true, ((ps.foldl (fun u p => (u.wcYield r.core p.1 p.2).l1Evict r.core p.1 p.2) (t.release c r .device))).placeWrite ps bs)

/-- The fault domain that a trap of a crew ends: of its launch region for the pre-emption and restore entries, else of the region
it works under (01 R39, 14 R359; log entry 18). -/
def State.trapDomain (s : State) (c : Nat) (r : Crew) (code : BitVec 8) : Nat :=
  if code == 0x20 || code == 0x21 then (s.auxOf c).started.fdom else s.crewDomain c r

/-- Terminate (14 R360): the record at `place`, the end of the fault domain, a completion record of KIND 3. A crew that faults inside
a frame of another fault domain, while its own launch is not in the domain that ends, stays at its group and issues it again: the
spec is silent on it (log entry 18). -/
def State.terminate (s : State) (c : Nat) (r : Crew) (q : TrapReq) (place : DWord) : State :=
  let ctx := s.ctxOf r
  let w := s.writeRecord c r place (s.trapRecord c r q)
  let detail := if w.1 then place else 0
  let l := w.2.launches.find r.launch
  let t := w.2.postCompletion (completionRec 3 q.code.toNat ctx (s.packetOf r).handle ((l.map (·.subseq)).getD 0) s.time detail)
  { (t.endDomain ctx (s.trapDomain c r q.code)) with issue := none }

/-- Entry `code` of a trap table of a context: the handler's PC and its privilege, none where it is absent (14 R359). -/
def State.tableEntry (s : State) (ctx : Nat) (tab : Option DWord) (code : Nat) : Option (PC × Bool) × State :=
  match tab with
  | none => (none, s)
  | some va =>
    match s.devRead ctx (va + BitVec.ofNat 64 (8 * code)) 8 with
    | (none, t) => (none, t)
    | (some bs, t) =>
      let e : DWord := BitVec.ofNat 64 (leVal bs)
      if !e.getLsbD 57 || e.extractLsb' 59 5 != 0 || e.extractLsb' 0 2 != 0 then (none, t)
      else (some (e.setWidth 57, e.getLsbD 58), t)

/-- The trap-table entry of a code for a crew: pre-emption uses the table of its launch region, every other code that of the region
it works under. -/
def State.trapEntryOf (s : State) (c : Nat) (r : Crew) (code : Nat) : Option (PC × Bool) × State :=
  s.tableEntry (s.ctxOf r) (if code = 0x20 then (s.auxOf c).started.trapTab else s.crewTable c r) code

/-- TrapEntry (14 R360), the one way a crew takes a trap. The PC table is held as it stands: the restart PCs are the
lanes' own. -/
def State.trapEntry (s : State) (c : Nat) (q : TrapReq) (place : DWord) : State :=
  match s.crews.find c with
  | none => s
  | some r =>
    let a := s.auxOf c
    if a.trap.nesting then s.terminate c r { q with code := 0x18, detail := q.code.setWidth 16, level := 0 } a.trapRec
    else
      match s.trapEntryOf c r q.code.toNat with
      | (none, t) => t.terminate c r q place
      | (some e, t) =>
        match t.writeRecord c r place (t.trapRecord c r q) with
        | (false, u) => u.terminate c r q place
        | (true, u) =>
          let r' := (({ r with
              heldPcs := r.pcs, heldExited := r.exited, phase := .ready, begunWld := false, tookPlanes := false }).setPriv e.2).setPcs r.live
            fun _ => e.1
          ((u.withdraw c).putCrew c r').onAux c fun a =>
            { a with trap := { cause := q.code, nesting := true, spriv := r.priv, detail := q.detail }
                     holdIn := 0
                     exempt := a.exempt && q.code == 0x20 }

/-- Return from a trap (10 R280): the held PC table, the saved privilege, the nesting bit clear; a save frame held for a
restore routine is freed (14 R365), and so is that of a save routine that ends with RETT, which the spec does not speak of (log entry 94).
A held table in which WRSTATE has marked every lane exited leaves the crew ready with no live
lane, which the spec does not settle (log entry 94). -/
def State.returnFromTrap (s : State) (c : Nat) : State :=
  match s.crews.find c with
  | none => s
  | some r =>
    let a := s.auxOf c
    let r' := ({ r with pcs := r.heldPcs, exited := r.heldExited }).setPriv a.trap.spriv
    let t := (s.putCrew c r').onAux c fun a =>
      { a with trap := { a.trap with nesting := false }, holdIn := 0, frame := none, restored := false, exempt := true, heldSlots := [] }
    t.freeFrame (s.ctxOf r) a

/-- Whether a fault suspends its crew instead of trapping it: host-assisted paging, Translation at levels 1-5 or
Permission (14 R373, R374). -/
def State.hostAssisted (s : State) (c : Nat) (q : TrapReq) : Bool :=
  !(s.auxOf c).started.pager && (q.code == 0x07 || (q.code == 0x06 && decide (1 ≤ q.level.toNat) && decide (q.level.toNat ≤ 5)))

/-- Suspend a crew on a fault and post its record to the fault queue (14 R374). -/
def State.suspend (s : State) (c : Nat) (r : Crew) (q : TrapReq) (replay : Bool) : State :=
  let tok := s.nextToken
  let next := if tok + 1 = 0 then 1 else tok + 1
  let q' := { q with flg := q.flg ||| 0x10, token := tok }
  let u : Suspension :=
    { token := tok, time := s.time, code := q.code, lanes := q.lanes, detail := q.detail, level := q.level, addr := q.addr,
      replay := replay }
  let t := (({ s with nextToken := next }).putCrew c { r with phase := .waiting 15 }).onAux c fun a =>
    { a with susp := some u }
  t.postFault (s.ctxOf r) (s.trapRecord c r q')

/-- A fault of a crew: it traps, or suspends under host-assisted paging unless a handler runs (14 R360, R362, R374). -/
def State.raise (s : State) (c : Nat) (q : TrapReq) (replay : Bool) : State :=
  match s.crews.find c with
  | none => s
  | some r =>
    let a := s.auxOf c
    if !a.trap.nesting && s.hostAssisted c q then s.suspend c r q replay else s.trapEntry c q a.trapRec

/-! ## The completion of an issue group -/

/-- How an instruction's meaning ends: the lanes of the head run go on, or stand where the meaning put them; the group
traps, with the state that checking left; it completes and then traps (14 Table 14.1, Software); or the crew waits under
a stall reason. -/
inductive Res where
  | next (s : State)
  | moved (s : State)
  | trap (code : BitVec 8) (lanes : LaneMask) (detail : BitVec 16) (level : BitVec 8) (addr : DWord) (s : State)
  | after (code : BitVec 8) (detail : BitVec 16) (s : State)
  | wait (reason : Nat) (s : State)
  deriving DecidableEq, Repr

/-- Raise(code): the marked lanes are the head run's. -/
def Res.raise (r : Crew) (s : State) (code : BitVec 8) : Res := .trap code r.head 0 0 0 s

/-- RaiseLanes for what the lane checks found. -/
def Res.lanes (s : State) (t : LaneTrap) : Res := .trap t.fault.code t.lanes t.fault.detail t.fault.level t.fault.addr s

/-- The request of a group's trap. -/
def groupTrap (g : Issue) (r : Crew) (code : BitVec 8) (lanes : LaneMask) (detail : BitVec 16) (level : BitVec 8)
    (addr : DWord) : TrapReq :=
  { code := code, lanes := lanes, detail := detail, level := level, addr := addr, pc := g.addr, retired := r.retired,
    flg := if code == 0x14 then 0x20 else 0, token := 0 }

/-- Make a crew the most recently issued of its partition (13 R343). -/
def State.moveRecent (s : State) (c : Nat) (r : Crew) : State :=
  s.onPn r.pkey fun p => { p with recency := (p.recency.filter (· != c)) ++ [c] }

/-- The SCHED hint of a group. -/
def schedOfGroup (hs : List Hint) : SchedHint :=
  match hs.findSome? fun h => match h with
    | .sched p => some p
    | _ => none with
  | some p => p
  | none => .none

/-- The clk at which the words of a crew's group end (02 R55). -/
def State.groupEnd (s : State) (r : Crew) : Nat := max (s.pn r.pkey).issueEnd (s.clk + 1)

/-- The effect of SCHED after a group (02 R58): a stall of P[7:2] + 1 clocks begins where the group's words end. -/
def State.afterSched (s : State) (c : Nat) (hs : List Hint) : State :=
  match s.crews.find c with
  | none => s
  | some r =>
    if r.phase != .ready then s
    else
      match schedOfGroup hs with
      | .none => s
      | .yield => s.moveRecent c r
      | .stall n => s.putCrew c { r with phase := .waiting 15, stallEnd := s.groupEnd r + n.toNat + 1 }

/-- Whether a hold stands before a crew's next issue (07 R192): a handler is held by the BARs that it has issued itself, and those
from before it hold the crew again once it has returned. -/
def CrewAux.held (a : CrewAux) : Bool := (if a.trap.nesting then a.holdIn else a.hold) != 0

/-- A crew whose BAR hold is set waits under reason 5 before its next issue (07 R192). -/
def State.holdCrew (s : State) (c : Nat) : State :=
  if (s.auxOf c).held then s.onCrew c fun r => { r with phase := .waiting 5 } else s

/-- A group completes: it counts in RETIRED, SCHED acts, and the retired-count stop is checked (01 R24, 14 R376, R378).
`before` is the crew before the group, `nested` its nesting bit then, `rett` whether the group was a RETT. -/
def State.complete (s : State) (g : Issue) (before : Crew) (nested rett : Bool) : State :=
  let c := g.crew
  let s1 := { s with issue := none }
  match s1.crews.find c with
  | none => s1
  | some r =>
    if !r.resident then s1
    else
      let n := r.retired + 1
      let stop := !nested && r.retStopEn && n == r.retStop
      let r' := { r with retired := n, retStopEn := r.retStopEn && !stop }
      let s2 := (s1.putCrew c r').onAux c fun a => { a with exempt := rett }
      if stop then
        (s2.raise c { groupTrap g before 0x15 before.head 0 0 0 with flg := 0x40 } false).afterSched c g.hints
      else (s2.afterSched c g.hints).holdCrew c

/-- Close a group with its meaning's result. -/
def Issue.close (g : Issue) (r : Crew) (nested rett : Bool) : Res → State
  | .next s =>
    let t := match s.crews.find g.crew with
      | some r' => s.putCrew g.crew (r'.setPcs (r.head &&& r'.live) fun _ => g.next)
      | none => s
    t.complete g r nested rett
  | .moved s => s.complete g r nested rett
  | .trap code lanes detail level addr s =>
    ({ s with issue := none }).raise g.crew (groupTrap g r code lanes detail level addr) false
  | .after code detail s =>
    match s.crews.find g.crew with
    | some r' =>
      let n := r.retired + 1
      let stop := !nested && r.retStopEn && n == r.retStop
      let u := { r' with retired := n, retStopEn := r.retStopEn && !stop }
      ((({ s with issue := none }).putCrew g.crew (u.setPcs (r.head &&& u.live) fun _ => g.next)).trapEntry g.crew
        { groupTrap g r code r.head detail 0 0 with flg := if stop then 0x40 else 0 } (s.auxOf g.crew).trapRec).afterSched
        g.crew g.hints
    | none => { s with issue := none }
  | .wait n s =>
    match s.crews.find g.crew with
    | some r' => { (s.putCrew g.crew { r' with phase := .waiting n }) with issue := none }
    | none => { s with issue := none }

end Sys2Proof.Machine
end

