-- ==== Sys2Proof/Machine/Operands.lean ====
section
/-!
DEFINITION. Operand forms and the checks at issue: active lanes, hints and immediates, addresses, the vector registers an
instruction names, the order of 02 R53, the waits every instruction shares, and `runGroup`, which every meaning of an
instruction goes through.
-/

namespace Sys2Proof

/-! ## Fields -/

/-- Whether an order acquires. -/
def MemOrder.acq (o : MemOrder) : Bool := o == .acquire || o == .acqrel

/-- Whether an order releases. -/
def MemOrder.rel (o : MemOrder) : Bool := o == .release || o == .acqrel

/-- The bytes of a width. -/
def Width.bytes : Width → Nat
  | .w4 => 4
  | .w8 => 8
  | .w16 => 16

/-- The registers of a width. -/
def Width.regs (w : Width) : Nat := w.bytes / 4

/-- The bytes of a sub-word width. -/
def SubWidth.bytes : SubWidth → Nat
  | .u8 => 1
  | .s8 => 1
  | .u16 => 2
  | .s16 => 2

/-- Whether a sub-word load sign-extends. -/
def SubWidth.signed : SubWidth → Bool
  | .u8 => false
  | .s8 => true
  | .u16 => false
  | .s16 => true

end Sys2Proof

namespace Sys2Proof.Machine

/-! ## Hints of a group (02 R56-R58) -/

/-- The kind of a hint. -/
def Hint.kind : Hint → Nat
  | .wide _ => 0
  | .src3 _ => 1
  | .off _ => 2
  | .order _ _ => 3
  | .cache _ => 4
  | .lastread _ => 5
  | .round _ => 6
  | .sched _ => 7

/-- WIDE's payload. -/
def wideOf (hs : List Hint) : Option (BitVec 20) :=
  hs.findSome? fun h => match h with
    | .wide p => some p
    | _ => none

/-- SRC3's register. -/
def src3Of (hs : List Hint) : Option VReg :=
  hs.findSome? fun h => match h with
    | .src3 r => some r
    | _ => none

/-- OFF's displacement, 0 without it. -/
def offOf (hs : List Hint) : DWord :=
  (hs.findSome? fun h => match h with
    | .off p => some (p.signExtend 64)
    | _ => none).getD 0

/-- ORDER's order and scope, the given default without it (02 R58). -/
def orderOf (hs : List Hint) (dflt : MemOrder × Scope) : MemOrder × Scope :=
  (hs.findSome? fun h => match h with
    | .order o sc => some (o, sc)
    | _ => none).getD dflt

/-- CACHE's policy. -/
def cacheOf (hs : List Hint) : CachePolicy :=
  (hs.findSome? fun h => match h with
    | .cache p => some p
    | _ => none).getD .dflt

/-- RM(): ROUND's mode, or RNE. -/
def rmOf (hs : List Hint) : Rm :=
  (hs.findSome? fun h => match h with
    | .round m => some m
    | _ => none).getD .rne

/-! ## Immediates (02 R47, R58) -/

/-- imm10, or 30 bits under WIDE, sign-extended. -/
def imm10 (hs : List Hint) (i : BitVec 10) : DWord :=
  match wideOf hs with
  | none => i.signExtend 64
  | some p => (p ++ i).signExtend 64

/-- imm17, or 37 bits under WIDE, sign-extended. -/
def imm17 (hs : List Hint) (i : BitVec 17) : DWord :=
  match wideOf hs with
  | none => i.signExtend 64
  | some p => (p ++ i).signExtend 64

/-- The target of a transfer at word address `w`: w + 4 + 4 * OFF modulo 2^57 (05 R127). -/
def target (w : PC) (off : DWord) : PC := w + 4 + (off <<< 2).setWidth 57

/-- OFF of BRC, or 34 bits under WIDE. -/
def off14 (hs : List Hint) (o : BitVec 14) : DWord :=
  match wideOf hs with
  | none => o.signExtend 64
  | some p => (p ++ o).signExtend 64

/-- OFF of JMP, or 44 bits under WIDE. -/
def off24 (hs : List Hint) (o : BitVec 24) : DWord :=
  match wideOf hs with
  | none => o.signExtend 64
  | some p => (p ++ o).signExtend 64

/-- The address of the group's instruction word. -/
def Issue.wordAddr (g : Issue) : PC := g.next - 4

/-! ## Active lanes and addresses (01 R12, 02 Table 2.9) -/

/-- The active lanes of a masked instruction. -/
def Crew.active (r : Crew) (k : KReg) : LaneMask := r.head &&& r.kreg k

/-- Address S + A of a lane. -/
def State.addrSA (s : State) (r : Crew) (hs : List Hint) (a : VReg) (b : SReg) (l : Nat) : DWord :=
  r.sreg b + (s.getV r a.toNat l).setWidth 64 + offOf hs

/-- Address A pair + S of a lane. -/
def State.addrPair (s : State) (r : Crew) (hs : List Hint) (a : VReg) (b : SReg) (l : Nat) : DWord :=
  s.getV2 r a.toNat l + r.sreg b + offOf hs

/-- The address of a lane under W[0]: `true` is A pair + S. -/
def State.addrForm (s : State) (r : Crew) (hs : List Hint) (f : Bool) (a : VReg) (b : SReg) (l : Nat) : DWord :=
  if f then s.addrPair r hs a b l else s.addrSA r hs a b l

/-- The registers of an address vector: a pair for form A pair + S. -/
def formRegs (f : Bool) : Nat := if f then 2 else 1

/-- The 4n bytes of the registers v_d to v_(d+n-1) of a lane, the low word in v_d. -/
def State.regBytes (s : State) (r : Crew) (d n l : Nat) : List Byte :=
  (List.range n).flatMap fun i => leBytes 4 (s.getV r (d + i) l).toNat

/-- Write registers of a lane from bytes, four to a register. -/
def State.putBytes (s : State) (r : Crew) (d : Nat) (l : Nat) (bs : List Byte) : State :=
  (List.range (bs.length / 4)).foldl (fun u i =>
    u.putV r (d + i) l (BitVec.ofNat 32 (leVal ((bs.drop (4 * i)).take 4)))) s

/-! ## The vector registers an instruction names (02 Table 2.4) -/

/-- A vector operand: its field (0 A, 1 B, 2 SRC3, 3 D), the first register, how many, and whether it is read and
written. -/
structure VecUse where
  role : Nat
  reg : VReg
  size : Nat
  rd : Bool
  wr : Bool
  deriving DecidableEq, Repr

/-- Field A, read. -/
def va (r : VReg) (n : Nat) : VecUse := { role := 0, reg := r, size := n, rd := true, wr := false }
/-- Field B, read. -/
def vb (r : VReg) (n : Nat) : VecUse := { role := 1, reg := r, size := n, rd := true, wr := false }
/-- Field D, written. -/
def vw (r : VReg) (n : Nat) : VecUse := { role := 3, reg := r, size := n, rd := false, wr := true }
/-- Field D, read. -/
def vr (r : VReg) (n : Nat) : VecUse := { role := 3, reg := r, size := n, rd := true, wr := false }
/-- Field D, read and written. -/
def vrw (r : VReg) (n : Nat) : VecUse := { role := 3, reg := r, size := n, rd := true, wr := true }

/-- The vector operands of an instruction without hints. -/
def vecFields : Instr → List VecUse
  | .add d a b _ | .sub d a b _ | .mul d a b _ | .mulhi d a b _ | .mulhiu d a b _ | .div_ d a b _ | .divu d a b _
  | .rem d a b _ | .remu d a b _ | .min_ d a b _ | .max_ d a b _ | .minu d a b _ | .maxu d a b _ | .and_ d a b _
  | .or_ d a b _ | .xor_ d a b _ | .andn d a b _ | .shl d a b _ | .shr d a b _ | .sar d a b _ | .sel d a b _
  | .fadd d a b _ | .fsub d a b _ | .fmul d a b _ | .fmin d a b _ | .fmax d a b _ | .fdiv d a b _ | .hadd2 d a b _
  | .hmul2 d a b _ | .shfl d a b _ | .texw d a b _ => [vw d 1, va a 1, vb b 1]
  | .mad d a b _ | .fma d a b _ | .fnma d a b _ | .hfma2 d a b _ | .bfma2 d a b _ | .dot2 d a b _ | .dot4 d a b _
  | .dot8 d a b _ | .cover d a b _ => [vrw d 1, va a 1, vb b 1]
  | .popc d a _ | .clz d a _ | .brev d a _ | .mov d a _ | .fsqrt d a _ | .frcp d a _ | .frsq d a _ | .fexp2 d a _
  | .flog2 d a _ | .fsin d a _ | .fcos d a _ | .fabs d a _ | .fneg d a _ | .frint d a _ | .fclass d a _ =>
    [vw d 1, va a 1]
  | .addi d a _ | .andi d a _ | .ori d a _ | .xori d a _ | .shli d a _ | .shri d a _ | .sari d a _ =>
    [vw d 1, va a 1]
  | .bfx d a _ _ | .bfxs d a _ _ => [vw d 1, va a 1]
  | .bfi d a _ _ => [vrw d 1, va a 1]
  | .icmp _ _ a b _ => [va a 1, vb b 1]
  | .fcmp _ _ a b _ => [va a 1, vb b 1]
  | .ztest _ _ a b _ => [va a 1, vb b 1]
  | .icmpi _ _ a _ => [va a 1]
  | .ktov d _ _ => [vw d 1]
  | .vtok _ a _ => [va a 1]
  | .movi d _ => [vw d 1]
  | .bcast d _ _ => [vw d 1]
  | .getlane _ a _ => [va a 1]
  | .add64 d a b _ | .lea d a b _ => [vw d 2, va a 2, vb b 1]
  | .cvtf d a _ _ _ _ => [vw d 1, va a 1]
  | .cvtfi d a _ _ _ => [vw d 1, va a 1]
  | .cvtif d a _ _ _ _ => [vw d 1, va a 1]
  | .pack d a _ _ _ => [vrw d 1, va a 1]
  | .unpack d a _ _ => [vw d 1, va a 1]
  | .routeset _ a => [va a 1]
  | .route d a _ _ => [vw d 1, va a 1]
  | .ballot _ a _ => [va a 1]
  | .reduce d a _ _ | .scan d a _ _ | .xscan d a _ _ => [vw d 1, va a 1]
  | .ld d a _ w _ | .lds d a _ w _ => [vw d w.regs, va a 1]
  | .ldt d a _ w _ => [vw d w.regs, va a 1]
  | .ldb d a _ _ _ => [vw d 1, va a 1]
  | .st d a _ w _ | .sts d a _ w _ => [vr d w.regs, va a 1]
  | .stb d a _ _ _ => [vr d 1, va a 1]
  | .ldx d a _ w _ => [vw d w.regs, va a 2]
  | .stx d a _ w _ => [vr d w.regs, va a 2]
  | .atom d a _ f _ => [vrw d 1, va a (formRegs f)]
  | .atom64 d a _ f _ => [vrw d 2, va a (formRegs f)]
  | .swap d a _ w f _ => [vrw d (if w then 2 else 1), va a (formRegs f)]
  | .cas d a _ w f _ => [vrw d (if w then 4 else 2), va a (formRegs f)]
  | .xadd d a _ f _ => [vr d 1, va a (formRegs f)]
  | .xrd d a _ f _ | .xrdc d a _ f _ => [vw d 1, va a (formRegs f)]
  | .cclean a _ f _ | .cflush a _ f _ | .prefetch a _ f _ | .prefetchl2 a _ f _ => [va a (formRegs f)]
  | .spawn a => [va a 1]
  | .take d => [vw d 1]
  | .copy _ _ a b _ => [va a 2, vb b 2]
  | .copycb _ _ a b => [va a 2, vb b 2]
  | .br o _ =>
    match o with
    | .vec _ a => [va a 1]
    | .mask _ _ => []
  | .jr a _ | .callr a _ => [va a 2]
  | .bin d a _ _ _ => [vr d 1, va a 1]
  | .texq d a _ _ _ => [vw d 4, va a 1]
  | .rng d _ => [vw d 4]
  | .rdsv d _ =>
    match d with
    | .vec d => [vw d 1]
    | .scal _ => []
  | _ => []

/-- The instructions of 08 R205 that a streaming MMA holds up beside ACCZ, ACCST and ACCLD. -/
def vectorOp : Instr → Bool
  | .add _ _ _ _ | .add64 _ _ _ _ | .addi _ _ _ | .and_ _ _ _ _ | .andi _ _ _ | .andn _ _ _ _ | .ballot _ _ _
  | .bcast _ _ _ | .bfi _ _ _ _ | .bfma2 _ _ _ _ | .bfx _ _ _ _ | .bfxs _ _ _ _ | .brev _ _ _ | .clz _ _ _
  | .cover _ _ _ _ | .cvtf _ _ _ _ _ _ | .cvtfi _ _ _ _ _ | .cvtif _ _ _ _ _ _ | .div_ _ _ _ _ | .divu _ _ _ _
  | .dot2 _ _ _ _ | .dot4 _ _ _ _ | .dot8 _ _ _ _ | .fabs _ _ _ | .fadd _ _ _ _ | .fclass _ _ _ | .fcmp _ _ _ _ _
  | .fcos _ _ _ | .fdiv _ _ _ _ | .fexp2 _ _ _ | .flog2 _ _ _ | .fma _ _ _ _ | .fmax _ _ _ _ | .fmin _ _ _ _
  | .fmul _ _ _ _ | .fneg _ _ _ | .fnma _ _ _ _ | .frcp _ _ _ | .frint _ _ _ | .frsq _ _ _ | .fsin _ _ _
  | .fsqrt _ _ _ | .fsub _ _ _ _ | .getlane _ _ _ | .hadd2 _ _ _ _ | .hfma2 _ _ _ _ | .hmul2 _ _ _ _
  | .icmp _ _ _ _ _ | .icmpi _ _ _ _ | .ktov _ _ _ | .lea _ _ _ _ | .mad _ _ _ _ | .max_ _ _ _ _ | .maxu _ _ _ _
  | .min_ _ _ _ _ | .minu _ _ _ _ | .mov _ _ _ | .movi _ _ | .mul _ _ _ _ | .mulhi _ _ _ _ | .mulhiu _ _ _ _
  | .or_ _ _ _ _ | .ori _ _ _ | .pack _ _ _ _ _ | .popc _ _ _ | .reduce _ _ _ _ | .rem _ _ _ _ | .remu _ _ _ _
  | .rng _ _ | .route _ _ _ _ | .routeset _ _ | .sar _ _ _ _ | .sari _ _ _ | .scan _ _ _ _ | .sel _ _ _ _
  | .shfl _ _ _ _ | .shl _ _ _ _ | .shli _ _ _ | .shr _ _ _ _ | .shri _ _ _ | .sub _ _ _ _ | .texw _ _ _ _
  | .unpack _ _ _ _ | .vtok _ _ _ | .xor_ _ _ _ _ | .xori _ _ _ | .xscan _ _ _ _ | .ztest _ _ _ _ _ => true
  | _ => false

/-- The crew-level instructions (01 R14). -/
def crewLevel : Instr → Bool
  | .mma _ _ _ _ _ _ _ | .wld _ _ _ | .wswap | .mmodeOn _ | .mmodeOff | .gang _ | .spawn _ | .take _ | .done
  | .join _ _ | .bar _ | .racq _ _ | .rcommit _ _ | .rpeek _ _ | .rrel _ _ | .copy _ _ _ _ _ | .cbset _
  | .copycb _ _ _ _ | .tiledef _ _ | .tileset _ _ => true
  | _ => false

/-- The privileged instructions (01 R33). -/
def privileged : Instr → Bool
  | .rdstate _ _ | .wrstate _ _ | .wrsv _ _ | .rett => true
  | _ => false

/-- The instructions WIDE may precede (02 Table 2.7). -/
def admitsWide : Instr → Bool
  | .addi _ _ _ | .andi _ _ _ | .ori _ _ _ | .xori _ _ _ | .icmpi _ _ _ _ | .saddi _ _ _ | .movi _ _ | .smovi _ _
  | .br _ _ | .brs _ _ _ | .j _ | .call _ => true
  | _ => false

/-- The instructions SRC3 may precede. -/
def admitsSrc3 : Instr → Bool
  | .mad _ _ _ _ | .fma _ _ _ _ | .fnma _ _ _ _ | .hfma2 _ _ _ _ | .bfma2 _ _ _ _ | .dot2 _ _ _ _ | .dot4 _ _ _ _
  | .dot8 _ _ _ _ => true
  | _ => false

/-- The instructions OFF may precede. -/
def admitsOff : Instr → Bool
  | .ld _ _ _ _ _ | .ldb _ _ _ _ _ | .st _ _ _ _ _ | .stb _ _ _ _ _ | .ldx _ _ _ _ _ | .stx _ _ _ _ _
  | .lds _ _ _ _ _ | .sts _ _ _ _ _ | .ldt _ _ _ _ _ | .atom _ _ _ _ _ | .atom64 _ _ _ _ _ | .swap _ _ _ _ _ _
  | .cas _ _ _ _ _ _ | .xadd _ _ _ _ _ | .xrd _ _ _ _ _ | .xrdc _ _ _ _ _ | .cclean _ _ _ _ | .cflush _ _ _ _
  | .prefetch _ _ _ _ | .prefetchl2 _ _ _ _ => true
  | _ => false

/-- The instructions CACHE may precede. -/
def admitsCache : Instr → Bool
  | .ld _ _ _ _ _ | .ldb _ _ _ _ _ | .st _ _ _ _ _ | .stb _ _ _ _ _ | .ldx _ _ _ _ _ | .stx _ _ _ _ _
  | .atom _ _ _ _ _ | .atom64 _ _ _ _ _ | .swap _ _ _ _ _ _ | .cas _ _ _ _ _ _ | .xadd _ _ _ _ _ | .xrd _ _ _ _ _
  | .xrdc _ _ _ _ _ | .prefetch _ _ _ _ | .prefetchl2 _ _ _ _ | .copy _ _ _ _ _ | .copycb _ _ _ _ => true
  | _ => false

/-- Loads to ORDER. -/
def orderedLoad : Instr → Bool
  | .ld _ _ _ _ _ | .ldb _ _ _ _ _ | .ldx _ _ _ _ _ | .lds _ _ _ _ _ => true
  | _ => false

/-- Stores to ORDER. -/
def orderedStore : Instr → Bool
  | .st _ _ _ _ _ | .stb _ _ _ _ _ | .stx _ _ _ _ _ | .sts _ _ _ _ _ => true
  | _ => false

/-- Atomics that take any order. -/
def orderedAtomic : Instr → Bool
  | .atom _ _ _ _ _ | .atom64 _ _ _ _ _ | .swap _ _ _ _ _ _ | .cas _ _ _ _ _ _ | .xadd _ _ _ _ _ => true
  | _ => false

/-- XRD, plain or acquire. -/
def orderedRead : Instr → Bool
  | .xrd _ _ _ _ _ | .xrdc _ _ _ _ _ => true
  | _ => false

/-- The instructions ROUND may precede. FRINT takes no RTO. -/
def admitsRound (i : Instr) (m : Rm) : Bool :=
  match i with
  | .frint _ _ _ => m != .rto
  | .fadd _ _ _ _ | .fsub _ _ _ _ | .fmul _ _ _ _ | .fma _ _ _ _ | .fnma _ _ _ _ | .fdiv _ _ _ _ | .fsqrt _ _ _
  | .hadd2 _ _ _ _ | .hmul2 _ _ _ _ | .hfma2 _ _ _ _ | .bfma2 _ _ _ _ | .xrd _ _ _ _ _ | .xrdc _ _ _ _ _ => true
  | .dot2 _ _ _ _ => true
  | .dot4 _ _ _ p => p == .e4e4 || p == .e5e5 || p == .e4e5
  | .dot8 _ _ _ p => p == .e2e2
  | .reduce _ _ _ op | .scan _ _ _ op | .xscan _ _ _ op => op == .fadd
  | _ => false

/-- The vector operands of an instruction of a group: SRC3 is read in the place of D (02 R58). -/
def vecUses (hs : List Hint) (i : Instr) : List VecUse :=
  match src3Of hs with
  | none => vecFields i
  | some r =>
    { role := 2, reg := r, size := 1, rd := true, wr := false } ::
      (vecFields i).map fun u => if u.role == 3 then { u with rd := false } else u

/-! ## The checks at issue (02 R53) -/

/-- Whether a hint may stand before an instruction (02 Table 2.7). -/
def hintOk (hs : List Hint) (i : Instr) : Hint → Bool
  | .wide _ => admitsWide i
  | .src3 _ => admitsSrc3 i
  | .off _ => admitsOff i
  | .order o sc =>
    (orderedLoad i && ((o == .plain && sc == .crew) || o == .acquire))
      || (orderedStore i && ((o == .plain && sc == .crew) || o == .release))
      || orderedAtomic i || (orderedRead i && (o == .plain || o == .acquire))
  | .cache _ => admitsCache i
  | .lastread p => (List.range 4).all fun b => !p.getLsbD b || (vecUses hs i).any fun u => u.role == b && u.rd
  | .round m => admitsRound i m
  | .sched _ => true

/-- Whether hints of one group are of distinct kinds (02 R54). -/
def distinctKinds (hs : List Hint) : Bool := decide ((hs.map Hint.kind).Nodup)

/-- Whether a vector operand keeps its limits (02 Table 2.3). -/
def regOk (w : Nat) (u : VecUse) : Bool := u.reg.toNat % u.size == 0 && decide (u.reg.toNat + u.size ≤ w)

/-- Whether an instruction names a barrier that its block does not have (02 R51, 07 R193). -/
def badBarrier (n : Nat) : Instr → Bool
  | .bar b => decide (n ≤ b.toNat)
  | .barrive b => decide (n ≤ b.toNat)
  | .barwait b => decide (n ≤ b.toNat)
  | _ => false

/-- The class of a matrix format: 8-, 4- or 16-bit (08 R211). -/
def matClass (f : BitVec 3) : Nat := if f.toNat < 4 then 0 else if f.toNat < 6 then 1 else 2

/-- The pair a crew owns (08 R200). -/
def Partition.pairOf (p : Partition) (c : Nat) : Option Nat := (p.owners.find? fun o => o.2 == c).map (·.1)

/-- The Mode faults of RDSTATE and WRSTATE: group 1 outside a handler, group 7 without the planes, a write of EVFLAGS or
PLANES in vector mode (10 R277, R278). -/
def stateMode (s : State) (c : Nat) (r : Crew) (item : BitVec 10) (write : Bool) : Bool :=
  let g := item.toNat / 64
  (g == 1 && !(s.auxOf c).trap.nesting) || (g == 7 && (s.pn r.pkey).planeOwner != some c)
    || (write && !r.matrix && (item == 9 || item == 10))

/-- The Mode faults (0x0C) of an instruction (01 R23, 08 R200-R214, 10 R280). -/
def modeFault (s : State) (c : Nat) (r : Crew) : Instr → Bool
  | .mmodeOn p =>
    (s.packetOf r).window != 128 || r.matrix || (match (s.pn r.pkey).pairOf c with
      | some q => q != p.toNat
      | none => false)
  | .mmodeOff => !r.matrix
  | .wld _ _ _ => !r.matrix
  | .wswap => !r.matrix || (s.pn r.pkey).planeOwner != some c
  | .mma _ _ _ g _ _ f =>
    let p := s.pn r.pkey
    !r.matrix || p.planeOwner != some c || !p.front.valid || matClass p.front.fmt != matClass f.toBits
      || (g && r.gang.extractLsb' 0 8 == 0xFF)
  | .accz _ => !r.matrix
  | .accst _ _ _ => !r.matrix
  | .accld _ _ _ => !r.matrix
  | .accfl _ _ => !r.matrix
  | .rett => !(s.auxOf c).trap.nesting
  | .rdstate _ item => stateMode s c r item false
  | .wrstate _ item => stateMode s c r item true
  | _ => false

/-- The fault code an issue group raises at issue, in the order of R53; its hints' own payloads and its word's opcode and
MBZ bits have been checked as they were decoded. -/
def issueFault (s : State) (c : Nat) (r : Crew) (hs : List Hint) (i : Instr) : Option (BitVec 8) :=
  if badBarrier (s.packetOf r).barriers i then some 0x01
  else if !distinctKinds hs || !hs.all (hintOk hs i) then some 0x02
  else if !(vecUses hs i).all (regOk (s.packetOf r).window) then some 0x03
  else if privileged i && !r.priv then some 0x04
  else if modeFault s c r i then some 0x0C
  else if crewLevel i && !r.converged then some 0x17
  else none

/-! ## Waits that instructions share -/

/-- The registers of an operand. -/
def VecUse.regs (u : VecUse) : List Nat := (List.range u.size).map (u.reg.toNat + ·)

/-- The accumulators that operands of a crew in matrix mode touch (08 R202). -/
def accsOf (r : Crew) (us : List VecUse) : List Bool :=
  if r.matrix then ((us.flatMap VecUse.regs).filter (64 ≤ ·)).map fun n => decide (96 ≤ n) else []

/-- Whether an MMA of the crew on an accumulator is still finishing (08 R204). -/
def Partition.mmaBusy (p : Partition) (c : Nat) (acc : Bool) : Bool := p.streams.any fun x => x.crew == c && x.acc == acc

/-- Whether an ACCST of the crew still reads an accumulator. -/
def Partition.accstBusy (p : Partition) (c : Nat) (acc : Bool) : Bool := p.accst.any fun x => x.crew == c && x.acc == acc

/-- The clocks that an ACCLD takes to read its tile (08 Table 8.10). -/
def accldTime : Nat := 40

/-- Whether an ACCLD of the crew still writes an accumulator. -/
def Partition.accldBusy (p : Partition) (c clk : Nat) (acc : Bool) : Bool :=
  p.accld.any fun x => x.crew == c && x.acc == acc && decide (clk < x.start + accldTime)

/-- ACCZ, ACCST and ACCLD also wait for a streaming MMA (08 R205). -/
def accMove : Instr → Bool
  | .accz _ => true
  | .accst _ _ _ => true
  | .accld _ _ _ => true
  | _ => false

/-- The scalar registers an instruction reads. -/
def sregReads : Instr → List SReg
  | .bcast _ a _ => [a]
  | .sadd _ a b | .ssub _ a b | .smul _ a b | .sand _ a b | .sor _ a b | .sxor _ a b => [a, b]
  | .saddi _ a _ => [a]
  | .sshli _ a _ | .sshri _ a _ | .ssari _ a _ => [a]
  | .scmp _ _ a b => [a, b]
  | .ld _ _ a _ _ | .ldb _ _ a _ _ | .st _ _ a _ _ | .stb _ _ a _ _ | .ldx _ _ a _ _ | .stx _ _ a _ _ | .lds _ _ a _ _
  | .sts _ _ a _ _ => [a]
  | .atom _ _ a _ _ | .atom64 _ _ a _ _ | .swap _ _ a _ _ _ | .cas _ _ a _ _ _ | .xadd _ _ a _ _ | .xrd _ _ a _ _
  | .xrdc _ _ a _ _ => [a]
  | .tiledef _ a | .gang a => [a]
  | .cclean _ a _ _ | .cflush _ a _ _ | .prefetch _ a _ _ | .prefetchl2 _ a _ _ => [a]
  | .join a _ => [a]
  | .joinq _ a _ => [a]
  | .depset a b | .rcommit a b | .rrel a b => [a, b]
  | .depdec a => [a]
  | .racq _ a | .rpeek _ a => [a]
  | .copy _ a _ _ _ | .copycb _ a _ _ => [a]
  | .cbset a => [a]
  | .brs a _ _ => [a]
  | .bin _ _ a _ _ | .texq _ _ a _ _ => [a]
  | .chainq _ a => [a]
  | .rngkey a | .wrsv a _ | .waitt a | .frflags a | .fwflags a | .fcflags a | .frcflags a | .wrstate a _ => [a]
  | _ => []

/-- The mask registers an instruction of a crew reads: a target whose bits for inactive lanes stay is read (05 R118, R121), and a copy
names its own in its completion word (09 Table 9.9). -/
def kregReads (r : Crew) : Instr → List KReg
  | .add _ _ _ k | .sub _ _ _ k | .mul _ _ _ k | .mulhi _ _ _ k | .mulhiu _ _ _ k | .mad _ _ _ k | .div_ _ _ _ k
  | .divu _ _ _ k | .rem _ _ _ k | .remu _ _ _ k | .min_ _ _ _ k | .max_ _ _ _ k | .minu _ _ _ k | .maxu _ _ _ k
  | .and_ _ _ _ k | .or_ _ _ _ k | .xor_ _ _ _ k | .andn _ _ _ k | .shl _ _ _ k | .shr _ _ _ k | .sar _ _ _ k
  | .sel _ _ _ k | .add64 _ _ _ k => [k]
  | .popc _ _ k | .clz _ _ k | .brev _ _ k | .mov _ _ k | .bcast _ _ k => [k]
  | .vtok d _ k => [d, k]
  | .icmp _ t _ _ k | .fcmp _ t _ _ k | .ztest _ t _ _ k => [t, k]
  | .icmpi _ t _ _ => [t]
  | .kand _ a b | .kor _ a b | .kxor _ a b | .kandn _ a b => [a, b]
  | .ktov _ a k => [a, k]
  | .fadd _ _ _ k | .fsub _ _ _ k | .fmul _ _ _ k | .fma _ _ _ k | .fnma _ _ _ k | .fmin _ _ _ k | .fmax _ _ _ k
  | .fdiv _ _ _ k | .hadd2 _ _ _ k | .hmul2 _ _ _ k | .hfma2 _ _ _ k | .bfma2 _ _ _ k | .shfl _ _ _ k | .texw _ _ _ k
  | .cover _ _ _ k | .route _ _ _ k => [k]
  | .dot2 _ _ _ _ | .dot4 _ _ _ _ | .dot8 _ _ _ _ => []
  | .fsqrt _ _ k | .frcp _ _ k | .frsq _ _ k | .fexp2 _ _ k | .flog2 _ _ k | .fsin _ _ k | .fcos _ _ k | .fabs _ _ k
  | .fneg _ _ k | .frint _ _ k | .fclass _ _ k | .ballot _ _ k => [k]
  | .reduce _ _ k _ | .scan _ _ k _ | .xscan _ _ k _ => [k]
  | .ld _ _ _ _ k | .ldb _ _ _ _ k | .st _ _ _ _ k | .stb _ _ _ _ k | .ldx _ _ _ _ k | .stx _ _ _ _ k | .lds _ _ _ _ k
  | .sts _ _ _ _ k | .ldt _ _ _ _ k => [k]
  | .swap _ _ _ _ _ k | .cas _ _ _ _ _ k => [k]
  | .xadd _ _ _ _ k | .xrd _ _ _ _ k | .xrdc _ _ _ _ k => [k]
  | .cclean _ _ _ k | .cflush _ _ _ k | .prefetch _ _ _ k | .prefetchl2 _ _ _ k => [k]
  | .jr _ k | .callr _ k | .rng _ k => [k]
  | .bin _ _ _ _ k | .texq _ _ _ _ k => [k]
  | .br (.mask _ k) _ => [k]
  | .copy _ c _ _ _ | .copycb _ c _ _ => [(r.sreg c).extractLsb' 20 3]
  | _ => []

/-- Whether a group reads a destination that is still being returned; RET pops the return stacks. -/
def readsOf (r : Crew) (us : List VecUse) (i : Instr) (t : Returning) : Bool :=
  ((us.filter (·.rd)).any fun u => u.regs.any t.regs.contains) || ((sregReads i).any fun n => t.sregs.contains n.toNat)
    || ((kregReads r i).any fun n => t.kregs.contains n.toNat) || (t.stack && i == .ret)

/-- The instructions that act on memory as they issue, or perform the crew's earlier stores then: no write of theirs may be seen
before every earlier load of the crew has returned (11 R287). A plain store waits in its queue instead. -/
def actsAtOnce (hs : List Hint) : Instr → Bool
  | .atom _ _ _ _ _ | .atom64 _ _ _ _ _ | .swap _ _ _ _ _ _ | .cas _ _ _ _ _ _ | .xadd _ _ _ _ _ | .xrd _ _ _ _ _
  | .xrdc _ _ _ _ _ | .bin _ _ _ _ _ => true
  | .racq _ _ | .rcommit _ _ | .rpeek _ _ | .rrel _ _ | .spawn _ | .done | .depset _ _ | .depdec _ => true
  | .copy _ _ _ _ _ | .copycb _ _ _ _ | .cbset _ | .tileset _ _ | .accst _ _ _ | .bar _ | .barrive _ => true
  | _ => (orderOf hs (.plain, .crew)).1.rel

/-- The waits on registers, on the loads that a write follows and on the matrix array (05 R109, 08 R204, R205, 11 R287): the lowest
reason that holds (14 R384). -/
def sharedWait (s : State) (c : Nat) (r : Crew) (hs : List Hint) (i : Instr) : Option Nat :=
  let us := vecUses hs i
  let p := s.pn r.pkey
  let busy := (accsOf r us).any (fun n => p.mmaBusy c n || p.accldBusy c s.clk n)
    || (accsOf r (us.filter (·.wr))).any (p.accstBusy c)
  if busy then some 2
  else if (s.auxOf c).returning.any (readsOf r us i) || (actsAtOnce hs i && s.owed c) then some 3
  else if ((vectorOp i && !us.isEmpty) || accMove i) && !p.streams.isEmpty then some 11
  else none

/-! ## Running a group -/

/-- An instruction's own wait: the stall reason it waits under, none when it can issue. -/
abbrev WaitFn := State → Issue → Crew → Option Nat

/-- An instruction's effect. -/
abbrev BodyFn := State → Issue → Crew → Res

/-- Whether a release at a scope waits for the peers' acknowledgements (11 R305). -/
def State.unsettled (s : State) (sc : Scope) : Bool := sc == .system && s.awaiting

/-- A release at SYSTEM scope waits while a peer has yet to acknowledge an earlier write (11 R305). -/
def releaseWait (dflt : MemOrder × Scope) : WaitFn := fun s g _ =>
  let o := orderOf g.hints dflt
  if o.1.rel && s.unsettled o.2 then some 4 else none

/-- What a releasing group does first: the release, and then its effect, once no acknowledgement is due (11 R305). -/
def State.releasing (s : State) (c : Nat) (r : Crew) (rel : Bool) (sc : Scope) (k : State → Res) : Res :=
  if !rel then k s
  else
    let t := s.release c r sc
    if t.unsettled sc then .wait 4 t else k t

/-- An instruction with no wait of its own. -/
def noWait : WaitFn := fun _ _ _ => none

/-- The lower of two stall reasons: the one charged where two waits hold (14 R384). -/
def lesser (a b : Option Nat) : Option Nat :=
  match a, b with
  | none, y => y
  | x, none => x
  | some x, some y => some (min x y)

/-- Whether a group waits for the crew's earlier stores and loads: a fence, a release, the EXIT that ends a save routine. -/
def waitsOnAll (a : CrewAux) (hs : List Hint) : Instr → Bool
  | .fence _ _ => true
  | .dcfence => true
  | .exit => a.trap.nesting && a.trap.cause == 0x20 && !a.restored
  | _ => (orderOf hs (.plain, .crew)).1.rel

/-- Whether a group waits on a copy of a queue that fills a tile, if any: QFENCE of the queue, or a read of the tile (07 R181, R189; 08
R207). -/
def waitsOnCopy (r : Crew) (queue : Nat) (tile : Option Nat) : Instr → Bool
  | .qfence m => m.getLsbD queue
  | .ldt _ _ t _ _ => tile == some t.toNat
  | .wld _ t _ => tile == some t.toNat
  | .accld _ t _ => tile == some t.toNat
  | .mma _ _ _ g _ t _ => tile == some t.toNat && (!g || (r.gang.extractLsb' 0 8).toNat == r.index)
  | _ => false

/-- The address of an access that a peer's loss ended and on which a group waits (12 R333). -/
def lostAccess (s : State) (c : Nat) (r : Crew) (hs : List Hint) (i : Instr) : Option DWord :=
  let a := s.auxOf c
  let lost := a.returning.findSome? fun t => if waitsOnAll a hs i || readsOf r (vecUses hs i) i t then t.lost else none
  match lost with
  | some va => some va
  | none =>
    if waitsOnAll a hs i then a.lostStores.head?
    else (a.lostCopies.find? fun x => waitsOnCopy r x.1 x.2.1 i).map (·.2.2)

/-- A reported loss is reported once. -/
def State.dropLost (s : State) (c : Nat) (va : DWord) : State :=
  s.onAux c fun a =>
    { a with returning := a.returning.filter fun t => t.lost != some va, lostStores := a.lostStores.filter (· != va)
             lostCopies := a.lostCopies.filter fun x => x.2.2 != va }

/-- What holds an instruction back: nothing while it would fault at issue, or report an access that a peer's loss ended. -/
def groupWait (i : Instr) (wait : WaitFn) (s : State) (g : Issue) (r : Crew) : Option Nat :=
  match issueFault s g.crew r g.hints i, lostAccess s g.crew r g.hints i with
  | none, none => lesser (sharedWait s g.crew r g.hints i) (wait s g r)
  | _, _ => none

/-- Run the instruction that ends the group in progress: the checks at issue, the waits, the effect, the completion. -/
def runGroup (i : Instr) (s : State) (wait : WaitFn) (body : BodyFn) : Host.Outcome State Fault Refusal :=
  match s.issue with
  | none => .fault .noIssuer
  | some g =>
    match s.crews.find g.crew with
    | none => .fault .noIssuer
    | some r =>
      let nested := (s.auxOf g.crew).trap.nesting
      match issueFault s g.crew r g.hints i with
      | some code => .next (g.close r nested false (Res.raise r s code))
      | none =>
        match lostAccess s g.crew r g.hints i with
        | some va => .next (g.close r nested false (.trap 0x06 r.head 0 7 va (s.dropLost g.crew va)))
        | none =>
          match groupWait i wait s g r with
          | some n => .next (g.close r nested false (.wait n s))
          | none => .next (g.close r nested (i == .rett) (body s g r))

/-- Issue a hint word of the group in progress. -/
def runHint (s : State) (h : Hint) : Host.Outcome State Fault Refusal :=
  match s.issue with
  | none => .fault .noIssuer
  | some g => .next { s with issue := some { g with hints := g.hints ++ [h] } }

/-- Close the group in progress with a fault found while it was fetched or decoded. -/
def runFault (s : State) (body : BodyFn) : Host.Outcome State Fault Refusal :=
  match s.issue with
  | none => .fault .noIssuer
  | some g =>
    match s.crews.find g.crew with
    | none => .fault .noIssuer
    | some r => .next (g.close r (s.auxOf g.crew).trap.nesting false (body s g r))

/-! ## Shapes of effects -/

/-- Write one vector register in the lanes of a mask from each lane's value. -/
def State.mapLanes (s : State) (r : Crew) (d : VReg) (m : LaneMask) (f : Nat → Word) : State :=
  s.putLanes r d.toNat (lanesOf m) f

/-- Set bits of a mask register in the lanes of a mask. -/
def Crew.setLanes (r : Crew) (t : KReg) (m : LaneMask) (f : Nat → Bool) : Crew :=
  r.setK t (maskOf fun l => if m.getLsbD l then f l else (r.kreg t).getLsbD l)

/-- A one-operand vector effect under a mask. -/
def vec1 (d a : VReg) (k : KReg) (f : Word → Word) : BodyFn := fun s _ r =>
  .next (s.mapLanes r d (r.active k) fun l => f (s.getV r a.toNat l))

/-- A two-operand vector effect under a mask. -/
def vec2 (d a b : VReg) (k : KReg) (f : Word → Word → Word) : BodyFn := fun s _ r =>
  .next (s.mapLanes r d (r.active k) fun l => f (s.getV r a.toNat l) (s.getV r b.toNat l))

/-- A vector effect with an immediate, on the head run. -/
def vecI (d a : VReg) (f : Word → Word) : BodyFn := vec1 d a 0 f

/-- A scalar effect, once for the crew (05 R108). -/
def scalarTo (d : SReg) (f : State → Crew → DWord) : BodyFn := fun s g r =>
  .next (s.putCrew g.crew (r.setS d (f s r)))

/-- A mask effect, once for the crew. -/
def maskTo (d : KReg) (f : Crew → LaneMask) : BodyFn := fun s g r => .next (s.putCrew g.crew (r.setK d (f r)))

end Sys2Proof.Machine
end

