-- ==== Sys2Proof/Machine/Array.lean ====
section
/-!
DEFINITION. The matrix array's arithmetic, its reads of tiles, and the stores that race with them (02 Table 2.5; 07 R176; 08 R207,
R211-R213, R216, R217).
-/

namespace Sys2Proof.Machine

/-! ## Accumulators and planes -/

/-- Replace the n entries from `lo` of a sparse map by the values of a function. -/
def Sparse.setRange {α : Type} [DecidableEq α] (d : α) (m : Sparse α) (lo n : Nat) (f : Nat → α) : Sparse α :=
  m.filter (fun e => decide (e.1 < lo)) ++
    ((List.range n).filterMap fun i => if f i = d then none else some (lo + i, f i)) ++
    m.filter fun e => decide (lo + n ≤ e.1)

/-- The physical tile of accN for a crew: 2p + N (08 R202). -/
def Crew.accTile (r : Crew) (n : Bool) : Nat := 2 * r.pair + if n then 1 else 0

/-- Element [m][n] of a physical accumulator tile. -/
def Partition.elem (p : Partition) (t m n : Nat) : Word := Sparse.get 0 p.acc (1024 * t + 32 * m + n)

/-- Write all 1024 elements of a physical tile, in row order. -/
def Partition.setTile (p : Partition) (t : Nat) (f : Nat → Word) : Partition :=
  { p with acc := Sparse.setRange 0 p.acc (1024 * t) 1024 f }

/-- Record events of a physical tile (08 R217). -/
def Partition.event (p : Partition) (t : Nat) (b : Byte) : Partition :=
  { p with events := Sparse.put 0 p.events t (Sparse.get 0 p.events t ||| b) }

/-- The event bits of arithmetic flags: NX, UF, OF, NV. -/
def eventBits (f : FFlags) : Byte := (f &&& 0b010111).setWidth 8

/-- WRAP. -/
def evWrap : Byte := 0x40
/-- SAT. -/
def evSat : Byte := 0x80

/-! ## Formats (02 Table 2.5, 08 R211) -/

/-- The element format: float or integer. -/
def matElem : MFmt → ElemFmt
  | .int8 => .int .int8
  | .uint8 => .int .uint8
  | .e4m3 => .float .e4m3
  | .e5m2 => .float .e5m2
  | .int4 => .int .int4
  | .e2m1 => .float .e2m1
  | .fp16 => .float .fp16
  | .bf16 => .float .bf16

/-- The format of a plane's code. -/
def matOfBits (b : BitVec 3) : MFmt :=
  match b.toNat with
  | 0 => .int8
  | 1 => .uint8
  | 2 => .e4m3
  | 3 => .e5m2
  | 4 => .int4
  | 5 => .e2m1
  | 6 => .fp16
  | _ => .bf16

/-- The value of an element's bits. -/
def matValue (f : ElemFmt) (b : Nat) : XVal :=
  match f with
  | .float f => valueOf f b
  | .int f => XVal.ofInt (intVal f b)

/-- The integer value of an element's bits; 0 for a float format. -/
def matInt (f : ElemFmt) (b : Nat) : Int :=
  match f with
  | .float _ => 0
  | .int f => intVal f b

/-- Whether a format is an integer format. -/
def matIsInt : ElemFmt → Bool
  | .float _ => false
  | .int _ => true

/-- K: 32, 64 or 16 (04 R99). -/
def matK (f : MFmt) : Nat :=
  match matClass f.toBits with
  | 0 => 32
  | 1 => 64
  | _ => 16

/-- The bits of weight w[j][n] (08 Table 8.3). -/
def weightBits (f : MFmt) (byte : Nat → Byte) (j n : Nat) : Nat :=
  match matClass f.toBits with
  | 0 => (byte (32 * j + n)).toNat
  | 1 => (byte (16 * j + n / 2)).toNat / 16 ^ (n % 2) % 16
  | _ => (byte (64 * j + 2 * n)).toNat + 256 * (byte (64 * j + 2 * n + 1)).toNat

/-- The bits of activation a[m][j]; `tr` is the transpose bit (08 Table 8.3). -/
def actBits (f : MFmt) (tr : Bool) (byte : Nat → Byte) (m j : Nat) : Nat :=
  match matClass f.toBits with
  | 0 => (byte (if tr then 32 * j + m else 32 * m + j)).toNat
  | 1 =>
    if tr then (byte (16 * j + m / 2)).toNat / 16 ^ (m % 2) % 16
    else (byte (32 * m + j / 2)).toNat / 16 ^ (j % 2) % 16
  | _ =>
    let o := if tr then 64 * j + 2 * m else 32 * m + 2 * j
    (byte o).toNat + 256 * (byte (o + 1)).toNat

/-- One step of an element (04 R99, 08 R212): the new value and the events. -/
def mmaStep (fw fa : ElemFmt) (ws as : List Nat) (x : Word) : Word × Byte :=
  if matIsInt fw && matIsInt fa then
    let s := (ws.zip as).foldl (fun s p => s + matInt fw p.1 * matInt fa p.2) x.toInt
    (BitVec.ofInt 32 s, if s < -(2 ^ 31 : Nat) ∨ s ≥ (2 ^ 31 : Nat) then evWrap else 0)
  else
    let ps := (ws.zip as).map fun p => exactProd (matValue fw p.1) (matValue fa p.2)
    let t := exactSum .rne (ps.map (·.1) ++ [val32 x])
    let y := round32 .rne t.1
    (y.1, eventBits (ps.foldl (fun f p => f ||| p.2) (t.2 ||| y.2)))

/-! ## Tiles (07 R176) -/

/-- The bank offset of a tile's logical offset (07 R176). -/
def TileEntry.place (e : TileEntry) (o : Nat) : Nat :=
  let row := o / 128
  let x := if e.swz = 0 then 0 else if e.swz = 1 then row % 8 else if e.swz = 2 then row / 2 % 8 else row / 4 % 8
  e.offset.toNat + 128 * row + 16 * ((o / 16 % 8) ^^^ x) + o % 16

/-! ## Conversions (08 Table 8.6) -/

/-- The width in bytes of a conversion (08 Table 8.6). -/
def convBytes : AccConv → Nat
  | .raw => 4
  | .fp16 => 2
  | .bf16 => 2
  | .e4m3 => 1
  | .e5m2 => 1
  | .int8 => 1
  | .uint8 => 1
  | .int16 => 2

/-- ACCLD's conversion of a tile element. -/
def accLoad (c : AccConv) (b : Nat) : Word :=
  match c with
  | .raw => BitVec.ofNat 32 b
  | .fp16 => BitVec.ofNat 32 (convFF .fp32 .fp16 .rne false b).1
  | .bf16 => BitVec.ofNat 32 (convFF .fp32 .bf16 .rne false b).1
  | .e4m3 => BitVec.ofNat 32 (convFF .fp32 .e4m3 .rne false b).1
  | .e5m2 => BitVec.ofNat 32 (convFF .fp32 .e5m2 .rne false b).1
  | .int8 => BitVec.ofInt 32 (intVal .int8 b)
  | .uint8 => BitVec.ofNat 32 b
  | .int16 => BitVec.ofInt 32 (intVal .int16 b)

/-! ## What an MMA computes (08 R212) -/

/-- The 1024 elements of an MMA, with their events. -/
def StreamWork.out (w : StreamWork) : List (Word × Byte) :=
  let fw := matOfBits w.plane.fmt
  let ks := List.range (matK w.fmt)
  let wcols := (List.range 32).map fun n => ks.map fun j => weightBits fw (fun i => Sparse.get 0 w.plane.bytes i) j n
  let arows := (List.range 32).map fun m => ks.map fun j => actBits w.fmt w.tr (fun i => w.read.bytes.getD i 0) m j
  (List.range 32).flatMap fun m => (List.range 32).map fun n =>
    mmaStep (matElem fw) (matElem w.fmt) (wcols.getD n []) (arows.getD m []) (w.before.getD (32 * m + n) 0)

/-- Leave what an MMA computes in a physical tile and its event flags. -/
def Partition.putWork (p : Partition) (t : Nat) (w : StreamWork) : Partition :=
  let out := w.out
  { (p.setTile t fun i => (out.getD i (0, 0)).1) with
    events := Sparse.put 0 p.events t (w.events ||| out.foldl (fun e x => e ||| x.2) 0) }

/-- Leave what an ACCLD loads in a physical tile. -/
def Partition.putLoad (p : Partition) (t : Nat) (c : AccConv) (bs : List Byte) : Partition :=
  let n := convBytes c
  p.setTile t fun i => accLoad c (leVal ((bs.drop (i * n)).take n))

/-! ## Races (08 R207) -/

/-- The bank offsets of the 16-byte chunks of a read, in its order. -/
def TileRead.chunks (x : TileRead) : List Nat := (List.range (x.bytes.length / 16)).map fun i => x.entry.place (x.lo + 16 * i)

/-- The kinds of read that are told apart in a race: an MMA's, a WLD's, an ACCLD's. -/
inductive ReadKind where
  | mma | wld | accld
  deriving DecidableEq, Repr

/-- One read: its kind, the crew that reads, the clk of its issue. The members of a gang share their leader's. -/
abbrev ReadKey := ReadKind × Nat × Nat

/-- A read whose chunks that a store has changed, and that it now meets, are new. -/
def TileRead.meet (x : TileRead) (bank : Nat → Byte) (new : Nat → Bool) : TileRead :=
  { x with bytes := (x.chunks.zipIdx).flatMap fun c =>
      (List.range 16).map fun i => if new c.1 then bank (c.1 + i) else x.bytes.getD (16 * c.2 + i) 0 }

/-- Whether a store of crew `c` to part `j` of a block can race with a read: another crew reads a tile of that part. -/
def TileRead.exposed (x : TileRead) (c b j : Nat) : Bool := x.crew != c && x.block == b && x.part == j

/-- The reads of a partition that are under way at a clk: 32 clk of an MMA or a WLD, 40 of an ACCLD. -/
def Partition.reads (p : Partition) (clk : Nat) : List (ReadKey × TileRead) :=
  ((p.streams.filter fun x => decide (clk < x.start + 32)).map fun x => ((.mma, x.work.read.crew, x.start), x.work.read))
    ++ (match p.wld, p.wldRead with
      | some w, some x => if clk < w.2 + 32 then [((.wld, x.crew, w.2), x)] else []
      | _, _ => [])
    ++ (p.accld.filter fun x => decide (clk < x.start + accldTime)).map fun x => ((.accld, x.read.crew, x.start), x.read)

/-- The physical tile of an accumulator of a crew that owns a pair. -/
def Partition.tileOf (p : Partition) (c : Nat) (acc : Bool) : Option Nat :=
  (p.pairOf c).map fun q => 2 * q + if acc then 1 else 0

/-- Change the reads of a partition that are under way, and what they have written follows. -/
def Partition.reread (p : Partition) (clk : Nat) (f : ReadKey → TileRead → TileRead) : Partition :=
  let p1 : Partition := { p with
    streams := p.streams.map fun x =>
      if clk < x.start + 32 then { x with work := { x.work with read := f (.mma, x.work.read.crew, x.start) x.work.read } } else x
    wldRead := match p.wld, p.wldRead with
      | some w, some x => if clk < w.2 + 32 then some (f (.wld, x.crew, w.2) x) else some x
      | _, x => x
    accld := p.accld.map fun x =>
      if clk < x.start + accldTime then { x with read := f (.accld, x.read.crew, x.start) x.read } else x }
  let p2 := p1.streams.foldl (fun q x =>
    match q.tileOf x.crew x.acc with
    | some t => if clk < x.start + 32 then q.putWork t x.work else q
    | none => q) p1
  let p3 := p1.accld.foldl (fun q x =>
    match q.tileOf x.crew x.acc with
    | some t => if clk < x.start + accldTime then q.putLoad t x.conv x.read.bytes else q
    | none => q) p2
  match p3.wld, p3.wldRead with
  | some w, some x =>
    if clk < w.2 + 32 then { p3 with shadow := { p3.shadow with bytes := Sparse.setRange 0 [] 0 1024 fun i => x.bytes.getD i 0 } } else p3
  | _, _ => p3

/-- A byte of a part's bank. -/
def State.bankByte (s : State) (b j a : Nat) : Byte := (s.bankGet b j (a / 4)).extractLsb' (8 * (a % 4)) 8

/-- Crew `c` has stored at some bank addresses of its block: each 16-byte chunk that another crew's WLD, MMA or ACCLD is reading there
is read old or new, a free choice for each chunk and read (R207). -/
def State.raceTiles (s : State) (c : Nat) (r : Crew) (vas : List DWord) : State :=
  let spots := (vas.map fun va => ((va.extractLsb' 22 3).toNat, (va.extractLsb' 0 22).toNat / 16 * 16)).eraseDups
  let hit := fun (x : TileRead) => spots.any fun q => x.exposed c r.block q.1 && x.chunks.contains q.2
  let keys := ((s.partitions.flatMap fun p => p.2.reads s.clk).filter fun x => hit x.2).map (·.1) |>.eraseDups
  if keys.isEmpty then s
  else
    let new := fun (k : ReadKey) (x : TileRead) (a : Nat) =>
      spots.any fun q => q.2 == a && x.exposed c r.block q.1
        && Config.pick (s.fresh + spots.length * keys.idxOf k + spots.idxOf q) % 2 == 1
    { s with
      partitions := s.partitions.map fun p =>
        if (p.2.reads s.clk).any fun x => hit x.2 then
          (p.1, p.2.reread s.clk fun k x => if hit x then x.meet (s.bankByte x.block x.part) (new k x) else x)
        else p
      fresh := s.fresh + spots.length * keys.length }

end Sys2Proof.Machine
end

