-- ==== Sys2Proof/Machine/Memory.lean ====
section
/-!
DEFINITION. The memory instructions: loads and stores, the bank, tiles, atomics, fences, barriers, the early successor,
cache maintenance and prefetch (07).
-/

namespace Sys2Proof.Machine

/-! ## Shapes -/

/-- The accesses of the lanes of a mask. -/
def lanesAcc (m : LaneMask) (addr : Nat → DWord) (size align : Nat) (kind : AccKind) (wr ww : Bool) (atL2 : Bool := false) :
    List (Nat × LaneAcc) :=
  (lanesOf m).map fun l =>
    (l, { va := addr l, size := size, align := align, kind := kind, wr := wr, ww := ww, atL2 := atL2 })

/-- A crew waits while its store queue holds 16 events (07 R169); a release store at SYSTEM scope also for the peers (11 R305). -/
def queueWait : WaitFn := fun s g r =>
  if 16 ≤ (s.auxOf g.crew).storeQ.length then some 4 else releaseWait (.plain, .crew) s g r

/-- The lines that lanes address, one outstanding request each (07 R198). -/
def requestsOf (vas : List DWord) : Nat := ((vas.map fun va => va.toNat / 128).eraseDups).length

/-- The outstanding requests of a partition. -/
def State.outstanding (s : State) (k : Nat) : Nat :=
  s.crews.foldl (fun n e =>
    if e.2.pkey == k && e.2.resident then (s.auxOf e.1).returning.foldl (fun n t => n + t.requests) n else n) 0

/-- A load or atomic that finds no free outstanding request among its partition's 128 waits (07 R198). -/
def requestWait (m : Crew → LaneMask) (addr : State → Issue → Crew → Nat → DWord) : WaitFn := fun s g r =>
  let n := requestsOf ((lanesOf (m r)).map (addr s g r))
  if n ≠ 0 ∧ 128 < s.outstanding r.pkey + n then some 3 else none

/-- An atomic's waits: a free request, and the peers' acknowledgements before a release at SYSTEM scope. -/
def atomicWait (m : Crew → LaneMask) (addr : State → Issue → Crew → Nat → DWord) : WaitFn := fun s g r =>
  lesser (requestWait m addr s g r) (releaseWait (.plain, .device) s g r)

/-- An instruction with one result that takes one outstanding request waits for it (07 R198). -/
def oneRequest : WaitFn := fun s _ r => if 128 < s.outstanding r.pkey + 1 then some 3 else none

/-- Note that a destination is still being returned, or a request outstanding (05 R109, 07 R198). -/
def State.returns (s : State) (c : Nat) (x : Returning) : State :=
  if x.regs.isEmpty && x.sregs.isEmpty && x.kregs.isEmpty && !x.stack && x.requests == 0 then s
  else s.onAux c fun a => { a with returning := a.returning ++ [x] }

/-- The same of vector and scalar registers, of which s0 is always ready (01 R21). -/
def State.return (s : State) (c : Nat) (regs sregs : List Nat) (requests group : Nat) : State :=
  s.returns c
    { regs := regs, sregs := sregs.filter (· != 0), kregs := [], stack := false, requests := requests, issued := s.nextId, group := group, lost := none }

/-- The same of mask registers, of which k0 is always ready (01 R21). -/
def State.returnMask (s : State) (c : Nat) (kregs : List Nat) : State :=
  s.returns c
    { regs := [], sregs := [], kregs := kregs.filter (· != 0), stack := false, requests := 0, issued := s.nextId, group := 0, lost := none }

/-- The same of the return stacks, where the refill is a group that reaches peers (05 R132). -/
def State.returnStack (s : State) (c group requests : Nat) : State :=
  if group = 0 then s
  else s.returns c
    { regs := [], sregs := [], kregs := [], stack := true, requests := requests, issued := s.nextId, group := group, lost := none }

/-- The registers from v_d. -/
def regsFrom (d n : Nat) : List Nat := (List.range n).map (d + ·)

/-- The number of a group that reaches peers, 0 for one that does not, and the state that has taken it. -/
def State.groupNo (s : State) (ps : List (Nat × MemTag × Nat)) : Nat × State :=
  if ps.all fun p => s.isLocal p.2.1 then (0, s) else (s.nextId, { s with nextId := s.nextId + 1 })

/-- The wait of a load of n bytes at places for what must be performed before it (`State.loadHeldAt`), under reason 3. -/
def State.loadHeld (s : State) (c : Nat) (r : Crew) (n : Nat) (ps : List (MemTag × Nat)) : Option Nat :=
  if ps.any fun p => s.loadHeldAt c r p.1 p.2 n then some 3 else none

/-- A load's waits: a free request, and what must be performed before it. -/
def loadWait (n : Nat) (k : KReg) (addr : State → Issue → Crew → Nat → DWord) : WaitFn := fun s g r =>
  let free := requestWait (fun r => r.active k) addr s g r
  if (s.auxOf g.crew).storeQ.isEmpty && (s.coreOf r.core).wc.isEmpty then free
  else
    match s.checkLanes (viaOf r) (s.ctxOf r) r.priv
        (lanesAcc (r.active k) (addr s g r) n n .read true false (orderOf g.hints (.plain, .crew)).1.acq) with
    | (.error _, _) => free
    | (.ok ps, t) => lesser (t.loadHeld g.crew r n (ps.map (·.2))) free

/-- A load of n bytes in the active lanes of a mask into `regs` registers from v_d, each lane's bytes widened by `ext`
(07 R173). -/
def loadBody (n regs : Nat) (d : VReg) (k : KReg) (addr : State → Issue → Crew → Nat → DWord)
    (ext : List Byte → List Byte) : BodyFn := fun s g r =>
  let m := r.active k
  let o := orderOf g.hints (.plain, .crew)
  match s.checkLanes (viaOf r) (s.ctxOf r) r.priv (lanesAcc m (addr s g r) n n .read true false o.1.acq) with
  | (.error w, t) => Res.lanes t w
  | (.ok ps, t) =>
    let t1 := if o.1.acq then t.acquire r o.2 else t
    let no := t1.groupNo ps
    let u := ps.foldl (fun u p =>
      let x := u.loadLane g.crew r p.2.1 p.2.2 n o.1.acq (cacheOf g.hints)
      (x.2.claim u g.crew (addr s g r p.1) no.1).putBytes r d.toNat p.1 (ext x.1)) no.2
    .next (u.return g.crew (if m = 0 then [] else regsFrom d.toNat regs) [] (requestsOf ((lanesOf m).map (addr s g r))) no.1)

/-- A store of n bytes in the active lanes of a mask, one store event (07 R169, R173). The release of a store of SYSTEM scope comes
before it enters the queue (11 R305). Any other is performed with its event; what the L1 and the write-combining buffer hold is
written out as the store issues, too (12 R309, R312). -/
def storeBody (n : Nat) (k : KReg) (addr : State → Issue → Crew → Nat → DWord)
    (data : State → Crew → Nat → List Byte) : BodyFn := fun s g r =>
  match s.checkLanes (viaOf r) (s.ctxOf r) r.priv (lanesAcc (r.active k) (addr s g r) n n .write false true) with
  | (.error w, t) => Res.lanes t w
  | (.ok ps, t) =>
    let o := orderOf g.hints (.plain, .crew)
    t.releasing g.crew r (o.1.rel && o.2 == .system) o.2 fun u =>
      let v := if o.1.rel then u.releaseAt r.core (u.wide r o.2) else u
      .next (v.storeEvent g.crew .write (if o.1.rel then some o.2 else none) (cacheOf g.hints)
        (((lanesOf (r.active k)).head?.map (addr s g r)).getD 0) n (ps.map fun p => (p.2.1, p.2.2, data s r p.1)))

/-- Form S + A. -/
def formSA (a : VReg) (b : SReg) : State → Issue → Crew → Nat → DWord := fun s g r l => s.addrSA r g.hints a b l

/-- Form A pair + S. -/
def formPair (a : VReg) (b : SReg) : State → Issue → Crew → Nat → DWord := fun s g r l => s.addrPair r g.hints a b l

/-- The form that W[0] selects. -/
def formOf (f : Bool) (a : VReg) (b : SReg) : State → Issue → Crew → Nat → DWord := fun s g r l =>
  s.addrForm r g.hints f a b l

/-- The low n bytes of the registers from v_d. -/
def regData (d : VReg) (n : Nat) : State → Crew → Nat → List Byte := fun s r l =>
  (s.regBytes r d.toNat ((n + 3) / 4) l).take n

/-- Widen 1 or 2 bytes to a register. -/
def widen (signed : Bool) (bs : List Byte) : List Byte :=
  let v := leVal bs
  let n := 8 * bs.length
  leBytes 4 (if signed && decide (2 ^ (n - 1) ≤ v) then 2 ^ 32 - 2 ^ n + v else v)

/-! ## Loads and stores (07 R173) -/

/-- LD. -/
def execLd (d a : VReg) (b : SReg) (w : Width) (k : KReg) (s : State) : Host.Outcome State Fault Refusal :=
  runGroup (.ld d a b w k) s (loadWait w.bytes k (formSA a b)) (loadBody w.bytes w.regs d k (formSA a b) id)

/-- LDB. -/
def execLdb (d a : VReg) (b : SReg) (w : SubWidth) (k : KReg) (s : State) : Host.Outcome State Fault Refusal :=
  runGroup (.ldb d a b w k) s (loadWait w.bytes k (formSA a b)) (loadBody w.bytes 1 d k (formSA a b) (widen w.signed))

/-- LDX. -/
def execLdx (d a : VReg) (b : SReg) (w : Width) (k : KReg) (s : State) : Host.Outcome State Fault Refusal :=
  runGroup (.ldx d a b w k) s (loadWait w.bytes k (formPair a b)) (loadBody w.bytes w.regs d k (formPair a b) id)

/-- ST. -/
def execSt (d a : VReg) (b : SReg) (w : Width) (k : KReg) (s : State) : Host.Outcome State Fault Refusal :=
  runGroup (.st d a b w k) s queueWait (storeBody w.bytes k (formSA a b) (regData d w.bytes))

/-- STB. -/
def execStb (d a : VReg) (b : SReg) (half : Bool) (k : KReg) (s : State) : Host.Outcome State Fault Refusal :=
  runGroup (.stb d a b half k) s queueWait
    (storeBody (if half then 2 else 1) k (formSA a b) (regData d (if half then 2 else 1)))

/-- STX. -/
def execStx (d a : VReg) (b : SReg) (w : Width) (k : KReg) (s : State) : Host.Outcome State Fault Refusal :=
  runGroup (.stx d a b w k) s queueWait (storeBody w.bytes k (formPair a b) (regData d w.bytes))

/-! ## The bank (01 R30-R32, 07 R174, 14 R380) -/

/-- The fault of a bank access of n bytes at a computed address. -/
def State.bankFault (s : State) (r : Crew) (va : DWord) (n : Nat) : Option LaneFault :=
  let j := (va.extractLsb' 22 3).toNat
  if va.toNat % n ≠ 0 then some { code := 0x05, level := 0, addr := va, detail := 0 }
  else if 2 ^ 25 ≤ va.toNat ∨ s.spreadOf r ≤ j ∨ s.windowSize r j < (va.extractLsb' 0 22).toNat + n then
    some { code := 0x09, level := 0, addr := va, detail := 0 }
  else none

/-- The faults of the bank accesses of the lanes of a mask. -/
def State.bankFaults (s : State) (r : Crew) (m : LaneMask) (addr : Nat → DWord) (n : Nat) : List (Nat × LaneFault) :=
  (lanesOf m).filterMap fun l => (s.bankFault r (addr l) n).map fun f => (l, f)

/-- Read n registers' words at a bank address. -/
def State.bankWords (s : State) (r : Crew) (va : DWord) (n : Nat) : List Word :=
  (List.range n).map fun i => s.bankGet r.block (va.extractLsb' 22 3).toNat ((va.extractLsb' 0 22).toNat / 4 + i)

/-- Write words at a bank address. -/
def State.putBankWords (s : State) (r : Crew) (va : DWord) (ws : List Word) : State :=
  (List.range ws.length).foldl (fun u i =>
    u.bankPut r.block (va.extractLsb' 22 3).toNat ((va.extractLsb' 0 22).toNat / 4 + i) (ws.getD i 0)) s

/-- The race record of 14 Table 14.9. -/
def raceRecord (s : State) (g : Issue) (r : Crew) (write : Bool) (j w writer : Nat) : List Byte :=
  leBytes 8 s.time.toNat ++ leBytes 2 0xFFFF ++ [5, if write then 1 else 0] ++ leBytes 4 (j * 2 ^ 22 + 4 * w)
    ++ leBytes 8 g.addr.toNat ++ [BitVec.ofNat 8 r.index, BitVec.ofNat 8 writer] ++ leBytes 2 0
    ++ leBytes 4 (s.packetOf r).handle.toNat

/-- Race detection for one word of part j (14 R380). -/
def State.raceWord (s : State) (g : Issue) (r : Crew) (write : Bool) (jw : Nat × Nat) : State :=
  if 256 * (s.packetOf r).bankKib.toNat ≤ jw.2 then s
  else
    let epoch := ((s.blockOf r).map (·.epoch)).getD 0
    let s1 := match Sparse.get none (s.partOf r.block jw.1).shadow jw.2 with
      | some (w, e) =>
        if w != r.index && e == epoch then s.postEvent (s.ctxOf r) (raceRecord s g r write jw.1 jw.2 w) else s
      | none => s
    if write then
      s1.onPart r.block jw.1 fun p => { p with shadow := Sparse.put none p.shadow jw.2 (some (r.index, epoch)) }
    else s1

/-- Race detection for the words that lanes access, each once. -/
def State.races (s : State) (g : Issue) (r : Crew) (write : Bool) (vas : List DWord) (n : Nat) : State :=
  if !(s.dbgOf (s.ctxOf r)).racedet then s
  else
    let ws := (vas.flatMap fun va => (List.range n).map fun i =>
      ((va.extractLsb' 22 3).toNat, (va.extractLsb' 0 22).toNat / 4 + i)).eraseDups
    ws.foldl (fun u w => u.raceWord g r write w) s

/-- LDS (07 R174). -/
def execLds (d a : VReg) (b : SReg) (w : Width) (k : KReg) (s : State) : Host.Outcome State Fault Refusal :=
  runGroup (.lds d a b w k) s noWait fun s g r =>
    let m := r.active k
    let addr := fun l => s.addrSA r g.hints a b l
    match worstOf (s.bankFaults r m addr w.bytes) with
    | some t => Res.lanes s t
    | none =>
      let o := orderOf g.hints (.plain, .crew)
      let s1 := s.races g r false ((lanesOf m).map addr) w.regs
      let s2 := (lanesOf m).foldl (fun u l =>
        let ws := s.bankWords r (addr l) w.regs
        (List.range w.regs).foldl (fun u i => u.putV r (d.toNat + i) l (ws.getD i 0)) u) s1
      let s3 := s2.return g.crew (if m = 0 then [] else regsFrom d.toNat w.regs) [] 0 0
      .next (if o.1.acq then s3.acquire r o.2 else s3)

/-- STS (07 R174). -/
def execSts (d a : VReg) (b : SReg) (w : Width) (k : KReg) (s : State) : Host.Outcome State Fault Refusal :=
  runGroup (.sts d a b w k) s (releaseWait (.plain, .crew)) fun s g r =>
    let m := r.active k
    let addr := fun l => s.addrSA r g.hints a b l
    match worstOf (s.bankFaults r m addr w.bytes) with
    | some t => Res.lanes s t
    | none =>
      let o := orderOf g.hints (.plain, .crew)
      s.releasing g.crew r o.1.rel o.2 fun s0 =>
        let s1 := s0.races g r true ((lanesOf m).map addr) w.regs
        .next (((lanesOf m).foldl (fun u l =>
          u.putBankWords r (addr l) ((List.range w.regs).map fun i => s.getV r (d.toNat + i) l)) s1).raceTiles g.crew r
          ((lanesOf m).map addr))

/-! ## Tiles (07 R175-R181) -/

/-- The number of tiles of a crew's part. -/
def State.tileCount (s : State) (r : Crew) : Nat := (s.packetOf r).tiles.toNat

/-- The size of a tile in bytes. -/
def TileEntry.bytes (e : TileEntry) : Nat := 128 * e.size.toNat

/-- Whether LDT finds its tile unusable (07 R181). -/
def State.ldtBad (s : State) (r : Crew) (t : TReg) : Bool :=
  let e := s.tile r t.toNat
  decide (s.tileCount r ≤ t.toNat) || e.state == .empty || e.size == 0

/-- A read of a tile waits while it fills or drains (07 R181). -/
def ldtWait (t : TReg) : WaitFn := fun s _ r =>
  let e := s.tile r t.toNat
  if !s.ldtBad r t && (e.state == .filling || e.state == .draining) then some 6 else none

/-- The fault of a lane of LDT at a logical offset. -/
def ldtFault (e : TileEntry) (o : DWord) (n : Nat) : Option LaneFault :=
  if o.toNat % n ≠ 0 then some { code := 0x05, level := 0, addr := o, detail := 0 }
  else if o.slt 0 ∨ e.bytes < o.toNat + n then some { code := 0x09, level := 0, addr := o, detail := 0 }
  else none

/-- LDT (07 R181). -/
def execLdt (d a : VReg) (t : TReg) (w : Width) (k : KReg) (s : State) : Host.Outcome State Fault Refusal :=
  runGroup (.ldt d a t w k) s (ldtWait t) fun s g r =>
    let m := r.active k
    let e := s.tile r t.toNat
    let off := fun l => (s.getV r a.toNat l).setWidth 64 + offOf g.hints
    if s.ldtBad r t then .trap 0x0A m 0 0 0 s
    else
      match worstOf ((lanesOf m).filterMap fun l => (ldtFault e (off l) w.bytes).map fun f => (l, f)) with
      | some f => Res.lanes s f
      | none =>
        let s1 := s.acquireAt r.core true
        .next (((lanesOf m).foldl (fun u l =>
          (List.range w.regs).foldl (fun u i =>
            u.putV r (d.toNat + i) l (s.bankGet r.block r.part (e.place ((off l).toNat + 4 * i) / 4))) u) s1).return g.crew
          (if m = 0 then [] else regsFrom d.toNat w.regs) [] 0 0)

/-- The code that a tile descriptor raises at TILEDEF, in the order of 07 R177's table. -/
def State.tiledefFault (s : State) (r : Crew) (t : TReg) (v : DWord) : Option (BitVec 8) :=
  let e := s.tile r t.toNat
  let off := (v.extractLsb' 0 22).toNat
  let size := (v.extractLsb' 22 16).toNat
  if v.extractLsb' 42 22 ≠ 0 ∨ 4 ≤ (v.extractLsb' 38 4).toNat then some 0x08
  else if off % 128 ≠ 0 then some 0x05
  else if size = 0 ∨ 1024 * (s.packetOf r).bankKib.toNat < off + 128 * size then some 0x09
  else if s.tileCount r ≤ t.toNat ∨ e.state = .filling ∨ e.state = .draining ∨ e.pend ≠ 0 then some 0x0A
  else none

/-- TILEDEF (07 R177). -/
def execTiledef (t : TReg) (a : SReg) (s : State) : Host.Outcome State Fault Refusal :=
  runGroup (.tiledef t a) s noWait fun s _ r =>
    let v := r.sreg a
    match s.tiledefFault r t v with
    | some code => Res.raise r s code
    | none =>
      .next (s.putTile r.block r.part t.toNat
        { offset := v.extractLsb' 0 22, size := v.extractLsb' 22 16, swz := v.extractLsb' 38 4, state := .empty, pend := 0 })

/-- TILESET (07 R178): to READY it is a release at BLOCK scope (11 Table 11.3). -/
def execTileset (t : TReg) (st : TileSt) (s : State) : Host.Outcome State Fault Refusal :=
  runGroup (.tileset t st) s noWait fun s g r =>
    let e := s.tile r t.toNat
    if s.tileCount r ≤ t.toNat ∨ e.pend ≠ 0 ∨ e.size = 0 then Res.raise r s 0x0A
    else .next ((if st == .ready then s.release g.crew r .block else s).putTile r.block r.part t.toNat { e with state := st })

/-- The 64 bits of a tile-table entry (07 Table 7.3). -/
def TileEntry.bits (e : TileEntry) : DWord :=
  let st : Nat := match e.state with
    | .empty => 0
    | .filling => 1
    | .ready => 2
    | .draining => 3
  e.offset.setWidth 64 ||| (e.size.setWidth 64 <<< 22) ||| (e.swz.setWidth 64 <<< 38) ||| (BitVec.ofNat 64 st <<< 42)
    ||| (e.pend.setWidth 64 <<< 48)

/-- TILEQ (07 R179). -/
def execTileq (d : SReg) (t : TReg) (s : State) : Host.Outcome State Fault Refusal :=
  runGroup (.tileq d t) s noWait fun s g r =>
    if s.tileCount r ≤ t.toNat then Res.raise r s 0x0A
    else .next ((s.return g.crew [] [d.toNat] 0 0).putCrew g.crew (r.setS d (s.tile r t.toNat).bits))

/-! ## Atomics (07 R182-R187) -/

/-- The shape of an atomic: the checks of the lanes, the order, then the lanes ascending. `opnd` gives a lane's operand
bytes, `f` the bytes stored, if any, from operand and old bytes, `put` what the lane receives. -/
def atomicBody (n align : Nat) (m : Crew → LaneMask) (addr : State → Issue → Crew → Nat → DWord)
    (faults : DWord → Option LaneFault) (req : PeerOp) (opnd : State → Crew → Nat → List Byte)
    (f : List Byte → List Byte → Option (List Byte)) (put : State → Issue → Crew → Nat → List Byte → State)
    (d regs : Nat) : BodyFn := fun s g r =>
  let bad := (lanesOf (m r)).filterMap fun l => (faults (addr s g r l)).map fun e => (l, e)
  let good := (m r) &&& ~~~ maskOf fun l => bad.any fun b => b.1 == l
  let chk := s.gatherLanes (viaOf r) (s.ctxOf r) r.priv (lanesAcc good (addr s g r) n align .atomic true true)
  match worstOf (allLanes.filterMap fun l => (bad ++ chk.1).find? fun b => b.1 == l) with
  | some w => Res.lanes chk.2.2 w
  | none =>
    let o := orderOf g.hints (.plain, .device)
    chk.2.2.releasing g.crew r o.1.rel o.2 fun t1 =>
      let no := t1.groupNo chk.2.1
      let u := chk.2.1.foldl (fun u p =>
        let x := opnd s r p.1
        let y := u.atomicLane g.crew r p.2.1 (cacheOf g.hints) p.2.2 n (f x)
          (.atomic (BitVec.ofNat 48 p.2.2) p.2.1.attr p.2.1.key req n x)
        put (y.2.claim u g.crew (addr s g r p.1) no.1) g r p.1 y.1) no.2
      let v := if o.1.acq then u.acquire r o.2 else u
      .next (v.return g.crew (if m r = 0 then [] else regsFrom d regs) []
        (requestsOf ((lanesOf (m r)).map (addr s g r))) no.1)

/-- Write the old value to the registers from v_d. -/
def putOld (d : VReg) : State → Issue → Crew → Nat → List Byte → State := fun s _ r l bs => s.putBytes r d.toNat l bs

/-- The arithmetic of ATOM and ATOM64 (07 Table 7.5) at a width. -/
def atomNew {w : Nat} (op : AtomOp) (old x : BitVec w) : BitVec w :=
  match op with
  | .add => old + x
  | .min => if x.slt old then x else old
  | .max => if old.slt x then x else old
  | .minu => if x < old then x else old
  | .maxu => if old < x then x else old
  | .and => old &&& x
  | .or => old ||| x
  | .xor => old ^^^ x

/-- The same on the n bytes of an operand and an old value. -/
def atomBytes (n : Nat) (op : AtomOp) (x old : List Byte) : List Byte :=
  leBytes n (atomNew op (BitVec.ofNat (8 * n) (leVal old)) (BitVec.ofNat (8 * n) (leVal x))).toNat

/-- ATOM (07 R182). -/
def execAtom (d a : VReg) (b : SReg) (f : Bool) (op : AtomOp) (s : State) : Host.Outcome State Fault Refusal :=
  runGroup (.atom d a b f op) s (atomicWait Crew.head (formOf f a b))
    (atomicBody 4 4 Crew.head (formOf f a b) (fun _ => none) (.atom op) (regData d 4) (fun x old => some (atomBytes 4 op x old)) (putOld d)
      d.toNat 1)

/-- ATOM64 (07 R182). -/
def execAtom64 (d a : VReg) (b : SReg) (f : Bool) (op : AtomOp) (s : State) : Host.Outcome State Fault Refusal :=
  runGroup (.atom64 d a b f op) s (atomicWait Crew.head (formOf f a b))
    (atomicBody 8 8 Crew.head (formOf f a b) (fun _ => none) (.atom op) (regData d 8) (fun x old => some (atomBytes 8 op x old)) (putOld d)
      d.toNat 2)

/-- SWAP (07 R183). -/
def execSwap (d a : VReg) (b : SReg) (wide f : Bool) (k : KReg) (s : State) : Host.Outcome State Fault Refusal :=
  runGroup (.swap d a b wide f k) s (atomicWait (fun r => r.active k) (formOf f a b))
    (let n := if wide then 8 else 4
     atomicBody n n (fun r => r.active k) (formOf f a b) (fun _ => none) .swap (regData d n) (fun x _ => some x) (putOld d)
      d.toNat (n / 4))

/-- What CAS stores: the operand holds the compare value, then the new value, which is stored on equality alone. -/
def casBytes (n : Nat) (x old : List Byte) : Option (List Byte) := if old = x.take n then some (x.drop n) else none

/-- CAS (07 R184). -/
def execCas (d a : VReg) (b : SReg) (wide f : Bool) (k : KReg) (s : State) : Host.Outcome State Fault Refusal :=
  runGroup (.cas d a b wide f k) s (atomicWait (fun r => r.active k) (formOf f a b))
    (let n := if wide then 8 else 4
     atomicBody n n (fun r => r.active k) (formOf f a b) (fun _ => none) .cas (regData d (2 * n)) (casBytes n) (putOld d)
      d.toNat (n / 4))

/-- An accumulator that crosses a 4 KiB boundary (04 R100). -/
def accCross (va : DWord) : Option LaneFault :=
  if 4096 < va.toNat % 4096 + 64 then some { code := 0x05, level := 0, addr := va, detail := 0 } else none

/-- The integer N of an accumulator's bytes. -/
def accN (bs : List Byte) : Int :=
  let n := leVal (bs.take 56)
  if 2 ^ 447 ≤ n then (n : Int) - (2 ^ 448 : Nat) else n

/-- AccAdd on the 64 bytes (04 R101). -/
def accAddBytes (x old : List Byte) : List Byte :=
  let r := accAdd (accN old) (old.getD 56 0) (BitVec.ofNat 32 (leVal x))
  leBytes 56 (r.1 % (2 ^ 448 : Nat)).toNat ++ [r.2] ++ old.drop 57

/-- XADD (07 R186). -/
def execXadd (d a : VReg) (b : SReg) (f : Bool) (k : KReg) (s : State) : Host.Outcome State Fault Refusal :=
  runGroup (.xadd d a b f k) s (atomicWait (fun r => r.active k) (formOf f a b))
    (atomicBody 64 16 (fun r => r.active k) (formOf f a b) accCross .xadd (regData d 4) (fun x old => some (accAddBytes x old))
      (fun s _ _ _ _ => s) d.toNat 0)

/-- The lane of XRD: D and the sticky flags. -/
def putRead (d : VReg) : State → Issue → Crew → Nat → List Byte → State := fun s g r l bs =>
  let x := accRead (accN bs) (bs.getD 56 0) (rmOf g.hints)
  (s.putV r d.toNat l x.1).onCrew g.crew fun r => { r with flags := r.flags ||| x.2 }

/-- The shape of XRD and XRDC. -/
def readBody (clear : Bool) (d a : VReg) (b : SReg) (f : Bool) (k : KReg) : BodyFn := fun s g r =>
  atomicBody 64 16 (fun r => r.active k) (formOf f a b) accCross (.xrd clear (rmOf g.hints)) (fun _ _ _ => [])
    (fun _ _ => if clear then some (List.replicate 64 0) else none) (putRead d) d.toNat 1 s g r

/-- XRD (07 R186). -/
def execXrd (d a : VReg) (b : SReg) (f : Bool) (k : KReg) (s : State) : Host.Outcome State Fault Refusal :=
  runGroup (.xrd d a b f k) s (atomicWait (fun r => r.active k) (formOf f a b)) (readBody false d a b f k)

/-- XRDC (07 R186). -/
def execXrdc (d a : VReg) (b : SReg) (f : Bool) (k : KReg) (s : State) : Host.Outcome State Fault Refusal :=
  runGroup (.xrdc d a b f k) s (atomicWait (fun r => r.active k) (formOf f a b)) (readBody true d a b f k)

/-! ## Fences (07 R188-R190) -/

/-- Whether a fence order releases. -/
def fenceRel (o : FenceOrder) : Bool := o != .acquire
/-- Whether a fence order acquires. -/
def fenceAcq (o : FenceOrder) : Bool := o != .release

/-- FENCE's wait (07 R188): for the crew's stores at every order, which is what stops a later load from passing them (11 R286);
at SYSTEM scope a release also waits for the peers' acknowledgements (11 R305). -/
def fenceWait (o : FenceOrder) (sc : Scope) : WaitFn := fun s g _ =>
  let a := s.auxOf g.crew
  if !a.storeQ.isEmpty || (fenceRel o && s.unsettled sc) || (fenceAcq o && !a.returning.isEmpty) then some 4 else none

/-- The effect of a fence whose conditions hold. -/
def State.fence (s : State) (r : Crew) (o : FenceOrder) (sc : Scope) : State :=
  let t := if fenceRel o then s.releaseAt r.core (s.wide r sc) else s
  if fenceAcq o then t.acquire r sc else t

/-- FENCE (07 R188): a write that its own release sends to a peer is waited for too (11 R305). Each step is one instant, so the
steps order the SC fences. -/
def execFence (o : FenceOrder) (sc : Scope) (s : State) : Host.Outcome State Fault Refusal :=
  runGroup (.fence o sc) s (fenceWait o sc) fun s _ r =>
    let t := s.releaseAt r.core (s.wide r sc)
    if fenceRel o && t.unsettled sc then .wait 4 t else .next (s.fence r o sc)

/-- Whether a crew has copies in the queues of a mask, or discarded from them and awaiting replay (14 R370). -/
def State.copying (s : State) (c : Nat) (r : Crew) (m : BitVec 4) : Bool :=
  ((s.coreOf r.core).queues.any fun q => m.getLsbD q.1 && q.2.any fun j => j.crew == c)
    || (s.auxOf c).replay.any fun j => m.getLsbD j.queue

/-- QFENCE's wait. -/
def qfenceWait (m : BitVec 4) : WaitFn := fun s g r => if s.copying g.crew r m then some 13 else none

/-- QFENCE (07 R189). -/
def execQfence (m : BitVec 4) (s : State) : Host.Outcome State Fault Refusal :=
  runGroup (.qfence m) s (qfenceWait m) fun s _ r => .next (s.acquire r .device)

/-- The key of a line under the other view. -/
def otherView (lk : Nat) : Nat := if 256 ≤ lk % 512 then lk - 256 else lk + 256

/-- Bring one touched line to one state (12 R315): the other view's copies go, dirty sectors first, and the touched view's are
written back and go too, so that both views fill from what is stored (log entry 19). -/
def State.dcLine (s : State) (core lk : Nat) : State :=
  let s1 := s.cores.keys.foldl (fun u c => u.l1EvictKey c (otherView lk)) s
  ((((s1.l2WriteBack (otherView lk)).l1EvictKey core lk).l2WriteBack lk).l2Drop (otherView lk)).l2Drop lk

/-- DCFENCE (07 R190). -/
def execDcfence (s : State) : Host.Outcome State Fault Refusal :=
  runGroup .dcfence s (fenceWait .acqrel .device) fun s g r =>
    .next ((s.auxOf g.crew).touched.foldl (fun u e => u.dcLine r.core e.1) (s.fence r .acqrel .device))

/-! ## Barriers (07 R191-R193) -/

/-- A crew that has arrived in the current generation waits for it (07 R192). -/
def barrierWait (b : BitVec 4) : WaitFn := fun s g _ => if (s.auxOf g.crew).arrived.getLsbD b.toNat then some 5 else none

/-- The bit of a barrier. -/
def barrierBit (b : BitVec 4) : BitVec 16 := 1#16 <<< b.toNat

/-- Arrive at a barrier: a release at BLOCK scope; the generation may complete (07 R191). -/
def State.arrive (s : State) (c : Nat) (r : Crew) (b : BitVec 4) (hold : Bool) : State :=
  ((s.release c r .block).onAux c fun a =>
    { a with
      arrived := a.arrived ||| barrierBit b, hold := if hold then a.hold ||| barrierBit b else a.hold
      holdIn := if hold && a.trap.nesting then a.holdIn ||| barrierBit b else a.holdIn }).settle
      r.block

/-- BAR (07 R192). -/
def execBar (b : BitVec 4) (s : State) : Host.Outcome State Fault Refusal :=
  runGroup (.bar b) s (barrierWait b) fun s g r => .next (s.arrive g.crew r b true)

/-- BARRIVE (07 R192). -/
def execBarrive (b : BitVec 4) (s : State) : Host.Outcome State Fault Refusal :=
  runGroup (.barrive b) s (barrierWait b) fun s g r => .next (s.arrive g.crew r b false)

/-- BARWAIT (07 R192). -/
def execBarwait (b : BitVec 4) (s : State) : Host.Outcome State Fault Refusal :=
  runGroup (.barwait b) s (barrierWait b) fun s _ r => .next (s.acquire r .block)

/-! ## Early successor (07 R194, R195) -/

/-- STARTNEXT (07 R194). -/
def execStartnext (s : State) : Host.Outcome State Fault Refusal :=
  runGroup .startnext s noWait fun s g _ => .next (s.onAux g.crew fun a => { a with startedNext := true })

/-- PREDWAIT's wait: the launch's predecessor has not retired. -/
def predWait : WaitFn := fun s _ r =>
  match (s.launches.find r.launch).bind (·.pred) with
  | some p => if (s.launches.find p).isSome then some 15 else none
  | none => none

/-- PREDWAIT (07 R195). -/
def execPredwait (s : State) : Host.Outcome State Fault Refusal :=
  runGroup .predwait s predWait fun s _ r => .next (s.acquire r .device)

/-! ## Cache maintenance and prefetch (07 R196, R197) -/

/-- The shape of CCLEAN and CFLUSH. -/
def maintBody (kind : StoreKind) (a : VReg) (b : SReg) (f : Bool) (k : KReg) : BodyFn := fun s g r =>
  match s.checkLanes (viaOf r) (s.ctxOf r) r.priv (lanesAcc (r.active k) (formOf f a b s g r) 1 1 .maint false false) with
  | (.error w, t) => Res.lanes t w
  | (.ok ps, t) =>
    .next (t.storeEvent g.crew kind none .dflt (((lanesOf (r.active k)).head?.map (formOf f a b s g r)).getD 0) 1
      (ps.map fun p => (p.2.1, p.2.2, [0])))

/-- CCLEAN (07 R196). -/
def execCclean (a : VReg) (b : SReg) (f : Bool) (k : KReg) (s : State) : Host.Outcome State Fault Refusal :=
  runGroup (.cclean a b f k) s queueWait (maintBody .clean a b f k)

/-- CFLUSH (07 R196). -/
def execCflush (a : VReg) (b : SReg) (f : Bool) (k : KReg) (s : State) : Host.Outcome State Fault Refusal :=
  runGroup (.cflush a b f k) s queueWait (maintBody .flush a b f k)

/-- The shape of the prefetches: lanes that would fault, or match a watchpoint, are dropped. A lane is compared as a read of the one
byte at its address, which the spec does not say (log entry 78). A sector with an uncorrectable error is not brought in (12 R321). -/
def prefetchBody (l1 : Bool) (a : VReg) (b : SReg) (f : Bool) (k : KReg) : BodyFn := fun s g r =>
  let p := cacheOf g.hints
  if p == .noalloc then .next s
  else
    let chk := s.gatherLanes (viaOf r) (s.ctxOf r) r.priv (lanesAcc (r.active k) (formOf f a b s g r) 1 1 .read true false)
    .next (chk.2.1.foldl (fun u q =>
      if !u.isLocal q.2.1 then u
      else
        (List.range 4).foldl (fun u i =>
          let pa := q.2.2 / 128 * 128 + 32 * i
          if u.poisoned pa 32 then u
          else if l1 && !skipsL1 p && u.l1Able q.2.1 pa then u.l1Fill r.core q.2.1 (l2How q.2.1.attr p) pa
          else u.sliceFill q.2.1 (l2How q.2.1.attr p) pa) u) chk.2.2)

/-- PREFETCH (07 R197). -/
def execPrefetch (a : VReg) (b : SReg) (f : Bool) (k : KReg) (s : State) : Host.Outcome State Fault Refusal :=
  runGroup (.prefetch a b f k) s noWait (prefetchBody true a b f k)

/-- PREFETCHL2 (07 R197). -/
def execPrefetchl2 (a : VReg) (b : SReg) (f : Bool) (k : KReg) (s : State) : Host.Outcome State Fault Refusal :=
  runGroup (.prefetchl2 a b f k) s noWait (prefetchBody false a b f k)

end Sys2Proof.Machine
end

