-- ==== Sys2Proof/Machine/Control.lean ====
section
/-!
DEFINITION. The control-flow instructions (05 R127-R134) and the return stacks (01 R26, R27).
-/

namespace Sys2Proof.Machine

/-! ## Branches -/

/-- BR's tests against zero (05 R128). -/
def vtest {n : Nat} (t : VTest) (x : BitVec n) : Bool :=
  match t with
  | .eqz => x == 0
  | .nez => x != 0
  | .ltz => x.slt 0
  | .gez => !x.slt 0
  | .gtz => BitVec.slt 0 x
  | .lez => !BitVec.slt 0 x

/-- Move the lanes of the head run: lane l to `f l`. -/
def State.branch (s : State) (g : Issue) (r : Crew) (f : Nat → PC) : Res := .moved (s.putCrew g.crew (r.setPcs r.head f))

/-- BR (05 R128). -/
def execBr (o : BrOp) (off : BitVec 14) (s : State) : Host.Outcome State Fault Refusal :=
  runGroup (.br o off) s noWait fun s g r =>
    let test := fun l => match o with
      | .vec t a => vtest t (s.getV r a.toNat l)
      | .mask set k => (r.kreg k).getLsbD l == set
    s.branch g r fun l => if test l then target g.wordAddr (off14 g.hints off) else g.next

/-- BRS (05 R129). -/
def execBrs (a : SReg) (c : VTest) (off : BitVec 14) (s : State) : Host.Outcome State Fault Refusal :=
  runGroup (.brs a c off) s noWait fun s g r =>
    s.branch g r fun _ => if vtest c (r.sreg a) then target g.wordAddr (off14 g.hints off) else g.next

/-- J (05 R130). -/
def execJ (off : BitVec 24) (s : State) : Host.Outcome State Fault Refusal :=
  runGroup (.j off) s noWait fun s g r => s.branch g r fun _ => target g.wordAddr (off24 g.hints off)

/-! ## Return stacks (01 R26, R27) -/

/-- The address of spill slot j of lane l. -/
def CrewAux.spillAddr (a : CrewAux) (j l : Nat) : DWord := a.tlsBase + BitVec.ofNat 64 (32 * a.tlsLane + 256 * j + 8 * l)

/-- Whether a push onto a stack spills. -/
def RStack.spills (k : RStack) (e : Nat) : Bool := decide (16 ≤ k.depth) && e != 0

/-- Push an entry. -/
def RStack.push (k : RStack) (e : Nat) (p : PC) : RStack :=
  if k.depth < 16 then { k with chip := k.chip ++ [p], depth := k.depth + 1 }
  else if e = 0 then { k with chip := k.chip.drop 1 ++ [p], ovf := true }
  else
    { chip := k.chip.drop 1 ++ [p], depth := if k.depth < 16 + e then k.depth + 1 else k.depth, count := k.count + 1,
      ptr := (k.ptr + 1) % e, ovf := k.ovf || decide (16 + e ≤ k.depth) }

/-- The slot a refill loads. -/
def RStack.refillSlot (k : RStack) (e : Nat) : Nat := (k.ptr + e - 1) % e

/-- Pop an entry; above depth 16 the entry refilled becomes the new bottom. -/
def RStack.pop (k : RStack) (e : Nat) (refill : PC) : RStack :=
  if 16 < k.depth then
    { k with chip := refill :: k.chip.dropLast, depth := k.depth - 1, count := k.count - 1, ptr := k.refillSlot e }
  else { k with chip := k.chip.dropLast, depth := k.depth - 1 }

/-- The entry a pop returns. -/
def RStack.top (k : RStack) : PC := k.chip.getLast?.getD 0

/-- The lanes of a mask whose push would spill. -/
def spillers (r : Crew) (e : Nat) (m : LaneMask) : List Nat := (lanesOf m).filter fun l => (r.rstack l).spills e

/-- A push that spills waits while the store queue is full (07 R169). -/
def pushWait (mask : Crew → LaneMask) : WaitFn := fun s g r =>
  let a := s.auxOf g.crew
  if !(spillers r a.rsEnt (mask r)).isEmpty && decide (16 ≤ a.storeQ.length) then some 4 else none

/-- The spill stores of a push, lane by lane. -/
def spillAccs (a : CrewAux) (r : Crew) (ls : List Nat) : List (Nat × LaneAcc) :=
  ls.map fun l =>
    (l, { va := a.spillAddr ((r.rstack l).ptr % a.rsEnt) l, size := 8, align := 8, kind := .write, wr := false, ww := true,
           atL2 := false })

/-- Push the return address for the lanes of a mask and move them: the targets' own faults, then the spill stores'. -/
def callTo (mask : Crew → LaneMask) (tgt : State → Crew → Nat → PC) (faults : State → Crew → List (Nat × LaneFault)) :
    BodyFn := fun s g r =>
  let a := s.auxOf g.crew
  let bad := faults s r
  let ls := (spillers r a.rsEnt (mask r)).filter fun l => !bad.any fun f => f.1 == l
  let chk := s.gatherLanes (viaOf r) (s.ctxOf r) r.priv (spillAccs a r ls)
  let all := allLanes.filterMap fun l => (bad ++ chk.1).find? fun f => f.1 == l
  match worstOf all with
  | some w => Res.lanes chk.2.2 w
  | none =>
    let t := if ls.isEmpty then chk.2.2 else
      chk.2.2.storeEvent g.crew .write none .dflt (((spillAccs a r ls).head?.map (·.2.va)).getD 0) 8 (chk.2.1.map fun p =>
        (p.2.1, p.2.2, leBytes 8 ((r.rstack p.1).chip.headD 0).toNat))
    let r1 := (lanesOf (mask r)).foldl (fun u l => u.setStack l ((u.rstack l).push a.rsEnt g.next)) r
    .moved (t.putCrew g.crew (r1.setPcs r.head fun l => if (mask r).getLsbD l then tgt s r l else g.next))

/-- CALL (05 R130). -/
def execCall (off : BitVec 24) (s : State) : Host.Outcome State Fault Refusal :=
  runGroup (.call off) s (pushWait Crew.head) fun s g r =>
    callTo Crew.head (fun _ _ _ => target g.wordAddr (off24 g.hints off)) (fun _ _ => []) s g r

/-- The faults of register targets: misaligned, or not canonical (05 R131). -/
def targetFaults (a : VReg) (k : KReg) (s : State) (r : Crew) : List (Nat × LaneFault) :=
  (lanesOf (r.active k)).filterMap fun l =>
    let t := s.getV2 r a.toNat l
    if t.extractLsb' 0 2 ≠ 0 then some (l, { code := 0x05, level := 0, addr := t, detail := 0 })
    else if !canonical t then some (l, { code := 0x06, level := 0, addr := t, detail := 0 })
    else none

/-- JR (05 R131). -/
def execJr (a : VReg) (k : KReg) (s : State) : Host.Outcome State Fault Refusal :=
  runGroup (.jr a k) s noWait fun s g r =>
    match worstOf (targetFaults a k s r) with
    | some w => Res.lanes s w
    | none => s.branch g r fun l => if (r.active k).getLsbD l then (s.getV2 r a.toNat l).setWidth 57 else g.next

/-- CALLR (05 R131). -/
def execCallr (a : VReg) (k : KReg) (s : State) : Host.Outcome State Fault Refusal :=
  runGroup (.callr a k) s (pushWait fun r => r.active k)
    (callTo (fun r => r.active k) (fun s r l => (s.getV2 r a.toNat l).setWidth 57) (targetFaults a k))

/-- The refill loads of RET: the lanes of the head run whose stacks have spilled (01 R26). -/
def refillAccs (a : CrewAux) (r : Crew) : List (Nat × LaneAcc) :=
  ((lanesOf r.head).filter fun l => decide (16 < (r.rstack l).depth)).map fun l =>
    (l, { va := a.spillAddr ((r.rstack l).refillSlot a.rsEnt) l, size := 8, align := 8, kind := .read, wr := true, ww := false,
          atL2 := false })

/-- RET's wait for what must be performed before its refill loads. -/
def retWait : WaitFn := fun s g r =>
  match s.checkLanes (viaOf r) (s.ctxOf r) r.priv (refillAccs (s.auxOf g.crew) r) with
  | (.error _, _) => none
  | (.ok ps, t) => t.loadHeld g.crew r 8 (ps.map (·.2))

/-- RET (05 R132). A refill from a peer is outstanding until the peer answers (12 R333). -/
def execRet (s : State) : Host.Outcome State Fault Refusal :=
  runGroup .ret s retWait fun s g r =>
    let a := s.auxOf g.crew
    let empty := maskOf fun l => r.head.getLsbD l && (r.rstack l).depth == 0
    if empty ≠ 0 then .trap 0x16 empty 0 0 0 s
    else
      let accs := refillAccs a r
      match s.checkLanes (viaOf r) (s.ctxOf r) r.priv accs with
      | (.error w, t) => Res.lanes t w
      | (.ok ps, t) =>
        let no := t.groupNo ps
        let va := fun (l : Nat) => ((accs.find? fun x => x.1 == l).map (·.2.va)).getD 0
        let got := ps.foldl (fun (acc : List (Nat × PC) × State) p =>
          let x := acc.2.loadLane g.crew r p.2.1 p.2.2 8 false .dflt
          (acc.1 ++ [(p.1, BitVec.ofNat 57 (leVal x.1))], x.2.claim acc.2 g.crew (va p.1) no.1)) ([], no.2)
        let refill := fun (l : Nat) => ((got.1.find? fun x => x.1 == l).map (·.2)).getD 0
        let r1 := (lanesOf r.head).foldl (fun u l => u.setStack l ((u.rstack l).pop a.rsEnt (refill l))) r
        .moved ((got.2.returnStack g.crew no.1 (requestsOf (accs.map (·.2.va)))).putCrew g.crew
          (r1.setPcs r.head fun l => (r.rstack l).top))

/-! ## EXIT, NOP, YIELD -/

/-- Whether an EXIT ends its crew. -/
def lastExit (r : Crew) : Bool := r.head == r.live

/-- Whether the end of a crew sends it to SAVED: the save routine of a pre-emption (14 R366), not a restore routine (01 R19). -/
def savesOnExit (a : CrewAux) : Bool := a.trap.nesting && a.trap.cause == 0x20 && !a.restored

/-- The EXIT of a save routine waits until the store queue has drained and every load has returned. -/
def exitWait : WaitFn := fun s g r =>
  let a := s.auxOf g.crew
  if lastExit r && savesOnExit a && (!a.storeQ.isEmpty || !a.returning.isEmpty) then some 4 else none

/-- Zero a crew's register window in its part's bank. -/
def State.zeroWindow (s : State) (r : Crew) : State :=
  let lo := s.regBase r
  let n := 32 * (s.packetOf r).window
  s.onPart r.block r.part fun p => { p with bank := p.bank.filter fun e => !(decide (lo ≤ e.1) && decide (e.1 < lo + n)) }

/-- A crew enters SAVED (14 R366). -/
def State.saveCrew (s : State) (c : Nat) (r : Crew) : State :=
  let s1 := s.releaseAt r.core true
  let d := s1.discardCopies c r.core
  let s2 := ((d.2.vacate c r).zeroWindow r).addStalls c r
  (s2.putCrew c { r with phase := .saved, stalls := [] }).onAux c fun a => { a with replay := inIssueOrder (a.replay ++ d.1) }

/-- EXIT (05 R133, 14 R366). -/
def execExit (s : State) : Host.Outcome State Fault Refusal :=
  runGroup .exit s exitWait fun s g r =>
    if !lastExit r then .moved (s.putCrew g.crew { r with exited := r.exited ||| r.head })
    else if savesOnExit (s.auxOf g.crew) then .moved (s.saveCrew g.crew r)
    else .moved (s.endCrew g.crew)

/-- NOP (05 R134). -/
def execNop (s : State) : Host.Outcome State Fault Refusal := runGroup .nop s noWait fun s _ _ => .next s

/-- YIELD (05 R134). -/
def execYield (s : State) : Host.Outcome State Fault Refusal :=
  runGroup .yield s noWait fun s g r => .next (s.moveRecent g.crew r)

end Sys2Proof.Machine
end

