-- ==== Sys2Proof/Machine/Matrix.lean ====
section
/-!
DEFINITION. Matrix mode: accumulators, weight planes, MMA, gangs and the lamp states of clusters (08, 13 R344, R345).
-/

namespace Sys2Proof.Machine

/-! ## Planes -/

/-- Release the planes: invalid, every byte 0 (08 R201). -/
def Partition.freePlanes (p : Partition) : Partition :=
  { p with planeOwner := none, front := Plane.none, shadow := Plane.none }

/-! ## Lamps (13 R344, R345) -/

/-- Whether a lamp stands at a cluster in round k. -/
def LampRing.lit (r : LampRing) (c : Nat) : Bool := (List.range r.count).any fun i => (12 * i / r.count + r.k) % 12 == c

/-- The state of a cluster; before its first change it is that of the round's start. -/
def LampRing.at (r : LampRing) (c : Nat) : Lamp :=
  match r.clusters.find c with
  | some l => l
  | none => if r.lit c then .hold 0 else .dark

/-- The lamp state of a core's cluster. -/
def State.lampAt (s : State) (core : Nat) : Lamp := s.lamps.at (s.clusterOf core)

/-- Set the lamp state of a cluster. -/
def State.setLamp (s : State) (c : Nat) (l : Lamp) : State :=
  { s with lamps := { s.lamps with clusters := s.lamps.clusters.put c l } }

/-- Whether MMAs of a core pass the lamp step. -/
def State.bursting (s : State) (core : Nat) : Bool :=
  match s.lampAt core with
  | .burst _ _ => true
  | .dark => false
  | .hold _ => false
  | .drain => false
  | .done => false

/-- An MMA waits at the lamp step: a cluster in HOLD begins its burst. -/
def State.wantLamp (s : State) (core : Nat) : State :=
  match s.lampAt core with
  | .hold _ => s.setLamp (s.clusterOf core) (.burst s.clk s.clk)
  | .dark => s
  | .burst _ _ => s
  | .drain => s
  | .done => s

/-- An MMA issues in the cluster of a core. -/
def State.noteMma (s : State) (core : Nat) : State :=
  match s.lampAt core with
  | .burst t _ => s.setLamp (s.clusterOf core) (.burst t s.clk)
  | .dark => s
  | .hold _ => s
  | .drain => s
  | .done => s

/-! ## MMODE (08 R203) -/

/-- Whether an earlier instruction of the crew still writes v64-v127, an accumulator or a plane (08 R203). -/
def State.serial (s : State) (c : Nat) (r : Crew) : Bool :=
  let p := s.pn r.pkey
  ((s.auxOf c).returning.any fun x => x.regs.any fun n => decide (64 ≤ n)) || p.streams.any (fun x => x.crew == c)
    || p.wld.map (·.1) == some c || p.accst.any (fun x => x.crew == c)
    || p.accldBusy c s.clk false || p.accldBusy c s.clk true

/-- MMODE.ON's wait: serialising, then for the pair. -/
def mmodeOnWait (q : BitVec 3) : WaitFn := fun s g r =>
  if s.serial g.crew r then some 2
  else
    match (s.pn r.pkey).owners.find q.toNat with
    | some o => if o = g.crew then none else some 11
    | none => none

/-- MMODE_ON (08 R203). -/
def execMmodeOn (q : BitVec 3) (s : State) : Host.Outcome State Fault Refusal :=
  runGroup (.mmodeOn q) s (mmodeOnWait q) fun s g r =>
    .next ((s.onPn r.pkey fun p => { p with owners := p.owners.put q.toNat g.crew }).putCrew g.crew
      { r with mode := modeWord true q r.priv r.gang })

/-- MMODE.OFF's wait. -/
def mmodeOffWait : WaitFn := fun s g r => if s.serial g.crew r then some 2 else none

/-- MMODE_OFF (08 R203). -/
def execMmodeOff (s : State) : Host.Outcome State Fault Refusal :=
  runGroup .mmodeOff s mmodeOffWait fun s g r =>
    .next ((s.onPn r.pkey fun p => if p.planeOwner = some g.crew then p.freePlanes else p).putCrew g.crew
      { r with mode := modeWord false (r.mode.extractLsb' 1 3) r.priv r.gang })

/-! ## Tiles as operands (08 R207) -/

/-- The fault of a read of n bytes of a tile, found before any wait. -/
def State.tileReadFault (s : State) (r : Crew) (t : TReg) (n : Nat) : Option (BitVec 8) :=
  let e := s.tile r t.toNat
  if s.ldtBad r t then some 0x0A else if e.bytes < n then some 0x09 else none

/-- Whether a tile is filling or draining. -/
def State.tileBusy (s : State) (r : Crew) (t : TReg) : Bool :=
  let e := s.tile r t.toNat
  e.state == .filling || e.state == .draining

/-- A byte of a tile of a crew's part at a logical offset. -/
def State.tileByte (s : State) (r : Crew) (t : TReg) (o : Nat) : Byte :=
  s.bankByte r.block r.part ((s.tile r t.toNat).place o)

/-- The 1024 bytes of a sub-block. -/
def State.subBlock (s : State) (r : Crew) (t : TReg) (sb : BitVec 2) : List Byte :=
  (List.range 1024).map fun o => s.tileByte r t (1024 * sb.toNat + o)

/-- A crew's read of n bytes of a tile from a logical offset, as it begins (08 R207). -/
def State.readTile (s : State) (c : Nat) (r : Crew) (t : TReg) (lo n : Nat) : TileRead :=
  { crew := c, block := r.block, part := r.part, entry := s.tile r t.toNat, lo := lo
    bytes := (List.range n).map fun o => s.tileByte r t (lo + o) }

/-! ## WLD and WSWAP (08 R208, R209) -/

/-- The fault of WLD's first checks, made once, before it waits (08 R208 step 1). -/
def State.wldFirst (s : State) (r : Crew) (sb : BitVec 2) (t : TReg) : Option (BitVec 8) :=
  if r.begunWld then none else s.tileReadFault r t (1024 * (sb.toNat + 1))

/-- WLD's waits, none where its first checks fail: for the planes, for an earlier WLD of the partition, and for its tile (08 R208); the
lower reason is charged where the tile's holds beside another (14 R384). -/
def wldWait (sb : BitVec 2) (t : TReg) : WaitFn := fun s g r =>
  let p := s.pn r.pkey
  match s.wldFirst r sb t with
  | some _ => none
  | none =>
    if s.tileBusy r t then some 6
    else if (p.planeOwner ≠ none ∧ p.planeOwner ≠ some g.crew) ∨ p.wld.isSome then some 11
    else none

/-- A WLD that waits has passed its first checks, and has taken the planes where they are free. -/
def wldEnter (sb : BitVec 2) (t : TReg) (s : State) (c : Nat) (r : Crew) : State :=
  match s.wldFirst r sb t with
  | some _ => s
  | none =>
    let u := s.onCrew c fun r => { r with begunWld := true }
    if (s.pn r.pkey).planeOwner = none then
      (u.onPn r.pkey fun p => { p with planeOwner := some c }).onCrew c fun r => { r with tookPlanes := true }
    else u

/-- WLD (08 R208). Its tile is checked again as the waits end. -/
def execWld (sb : BitVec 2) (t : TReg) (f : MFmt) (s : State) : Host.Outcome State Fault Refusal :=
  runGroup (.wld sb t f) s noWait fun s g r =>
    match wldWait sb t s g r with
    | some n => .wait n (wldEnter sb t s g.crew r)
    | none =>
      let s1 := s.onCrew g.crew fun r => { r with begunWld := false, tookPlanes := false }
      match s.tileReadFault r t (1024 * (sb.toNat + 1)) with
      | some code => Res.raise r (if r.tookPlanes then s1.onPn r.pkey Partition.freePlanes else s1) code
      | none =>
        let bs := s.subBlock r t sb
        .next ((s1.acquire r .device).onPn r.pkey fun p =>
          { p with
            planeOwner := some g.crew
            shadow := { bytes := Sparse.setRange 0 [] 0 1024 (fun i => bs.getD i 0), fmt := f.toBits, valid := false }
            wld := some (g.crew, s.clk), wldRead := some (s.readTile g.crew r t (1024 * sb.toNat) 1024) })

/-- Whether every MMA of a partition has read its last row: 32 clk after its issue (08 R212). -/
def State.datapathFree (s : State) (k : Nat) : Bool := (s.pn k).streams.all fun x => decide (x.start + 32 ≤ s.clk)

/-- WSWAP's wait. -/
def wswapWait : WaitFn := fun s _ r =>
  if (s.pn r.pkey).wld.isSome || !s.datapathFree r.pkey then some 11 else none

/-- WSWAP (08 R209). -/
def execWswap (s : State) : Host.Outcome State Fault Refusal :=
  runGroup .wswap s wswapWait fun s _ r =>
    .next (s.onPn r.pkey fun p => { p with front := p.shadow, shadow := p.front })

/-! ## MMA and gangs (08 R210-R213, R219-R222) -/

/-- The leader's crew number of a gang register. -/
def leaderOf (r : Crew) : Nat := 128 * r.block + (r.gang.extractLsb' 0 8).toNat

/-- Whether a crew has arrived in its leader's latch. -/
def State.arrivedIn (s : State) (c : Nat) (r : Crew) : Bool :=
  match s.latches.find (leaderOf r) with
  | some l => l.arrivals.any fun a => a.crew == c
  | none => false

/-- A latch that has just become complete notes the clk (08 R222). -/
def Latch.noted (l : Latch) (leader clk : Nat) : Latch :=
  if l.completed.isNone && l.complete leader then { l with completed := some clk } else l

/-- A crew's latch with its own arrival in it. A rendezvous that has completed takes no more arrivals: it has been compared, and its
members issue as one (08 R221). -/
def State.latchWith (s : State) (r : Crew) (a : Arrival) : Latch :=
  match s.latches.find (leaderOf r) with
  | some l =>
    if l.completed.isSome || l.arrivals.any fun b => b.crew == a.crew then l
    else ({ l with arrivals := l.arrivals ++ [a] } : Latch).noted (leaderOf r) s.clk
  | none => ({ arrivals := [a], start := s.clk, completed := none } : Latch).noted (leaderOf r) s.clk

/-- Whether a member's front plane suits a format. -/
def State.planeFits (s : State) (c : Nat) (f : MFmt) : Bool :=
  match s.crews.find c with
  | some r => let p := (s.pn r.pkey).front; p.valid && matClass p.fmt == matClass f.toBits
  | none => false

/-- Whether the arrivals of a complete latch agree (08 R221). -/
def State.agree (s : State) (l : Latch) : Bool :=
  match l.arrivals with
  | [] => true
  | a :: _ => l.arrivals.all fun b => b.gang == a.gang && b.fmt == a.fmt && b.tr == a.tr && s.planeFits b.crew a.fmt

/-- Whether a rendezvous that the arrival of a crew completes passes its comparison, which is made once, on completion: one noted as
complete before has passed it. -/
def State.passes (s : State) (r : Crew) (l : Latch) : Bool :=
  (match s.latches.find (leaderOf r) with
    | some x => x.completed.isSome
    | none => false) || s.agree l

/-- Whether a load, an ACCLD or an ACCST of the crew still holds an accumulator back (08 R204). -/
def State.accHeld (s : State) (c : Nat) (r : Crew) (acc : Bool) : Bool :=
  ((s.auxOf c).returning.any fun x => x.regs.any fun n => decide (64 ≤ n) && (decide (96 ≤ n) == acc))
    || (s.pn r.pkey).accstBusy c acc || (s.pn r.pkey).accldBusy c s.clk acc

/-- Whether another group holds the partition of a gang's member, so that its MMA cannot issue on this clk (02 R55). -/
def State.memberBusy (s : State) (c : Nat) (m : Nat) : Bool :=
  match s.crews.find m with
  | some r => m != c && decide (s.clk < (s.pn r.pkey).issueEnd)
  | none => false

/-- The waits of an MMA after its tile and its gang: a lamp, the accumulators, the datapaths (08 R212), and in a gang the members'
partitions, whose wait is charged as the rendezvous's (log entry 95). Of those that hold the lowest reason is charged (14 R384). -/
def State.mmaWaits (s : State) (c core : Nat) (ms : List (Nat × Bool)) : Option Nat :=
  let held := fun (m : Nat × Bool) => match s.crews.find m.1 with
    | some r => s.accHeld m.1 r m.2
    | none => false
  let busy := fun (m : Nat × Bool) => match s.crews.find m.1 with
    | some r => !s.datapathFree r.pkey
    | none => false
  if ms.any held then some 2
  else if !s.bursting core then some 9
  else if ms.any fun m => s.memberBusy c m.1 then some 10
  else if ms.any busy then some 11
  else none

/-- The arrival of a crew's MMA. -/
def arrivalOf (g : Issue) (r : Crew) (n tr z : Bool) (sb : BitVec 2) (t : TReg) (f : MFmt) : Arrival :=
  { crew := g.crew, gang := r.gang, fmt := f, tr := tr, acc := n, zero := z, sb := sb, tile := t, addr := g.addr, next := g.next,
    sched := schedOfGroup g.hints }

/-- Whether an MMA reads its own tile: not a gang member that is not the leader. -/
def readsTile (gang : Bool) (c : Nat) (r : Crew) : Bool := !gang || c == leaderOf r

/-- Where an MMA stands in the waits of 08 R212. -/
inductive MmaStand where
  /-- its tile is out of bounds or in a state that it cannot read -/
  | faults
  /-- step 1: for its tile -/
  | tile
  /-- step 2: for its gang, or beside a rendezvous that it is no part of -/
  | gang
  /-- its gang disagrees -/
  | mismatch
  /-- steps 3 to 5, with every crew whose MMA issues with it and that MMA's accumulator -/
  | lamp (ms : List (Nat × Bool))
  deriving DecidableEq, Repr

/-- Where a crew's MMA stands. A crew that is in no latch is checked for its tile at each attempt, those of steps 3 to 5 among them, and a
gang's leader that has arrived is not: 08 R212 does not say what becomes of a tile that changes once step 1 has passed (log entry 26). -/
def mmaStand (n tr z gang : Bool) (sb : BitVec 2) (t : TReg) (f : MFmt) (s : State) (g : Issue) (r : Crew) : MmaStand :=
  let own := readsTile gang g.crew r && !(gang && s.arrivedIn g.crew r)
  if own && (s.tileReadFault r t (1024 * (sb.toNat + 1))).isSome then .faults
  else if own && s.tileBusy r t then .tile
  else if gang then
    let l := s.latchWith r (arrivalOf g r n tr z sb t f)
    if !l.complete (leaderOf r) || !l.arrivals.any (fun a => a.crew == g.crew) then .gang
    else if !s.passes r l then .mismatch
    else .lamp (l.arrivals.map fun a => (a.crew, a.acc))
  else .lamp [(g.crew, n)]

/-- MMA's wait, in the order of 08 R212; where the accumulator's wait holds beside an earlier step's, it is the one charged (14
R384). -/
def mmaWait (n tr z gang : Bool) (sb : BitVec 2) (t : TReg) (f : MFmt) : WaitFn := fun s g r =>
  match mmaStand n tr z gang sb t f s g r with
  | .faults => none
  | .tile => some (if s.accHeld g.crew r n then 2 else 6)
  | .gang => some (if s.accHeld g.crew r n then 2 else 10)
  | .mismatch => none
  | .lamp ms => s.mmaWaits g.crew r.core ms

/-- What an MMA that waits has done: its arrival, and a burst of a cluster that holds its lamp. -/
def mmaEnter (n tr z gang : Bool) (sb : BitVec 2) (t : TReg) (f : MFmt) (s : State) (g : Issue) (r : Crew) : State :=
  let put := fun (u : State) =>
    if gang then { u with latches := u.latches.put (leaderOf r) (s.latchWith r (arrivalOf g r n tr z sb t f)) } else u
  match mmaStand n tr z gang sb t f s g r with
  | .faults => s
  | .tile => s
  | .gang => put s
  | .mismatch => s
  | .lamp _ => (put s).wantLamp r.core

/-- Stream an activation sub-block through a crew's front plane into its accumulator. -/
def State.stream (s : State) (c : Nat) (r : Crew) (acc zero tr : Bool) (f : MFmt) (x : TileRead) : State :=
  let p := s.pn r.pkey
  let t := r.accTile acc
  let w : StreamWork :=
    { fmt := f, tr := tr, plane := p.front, events := Sparse.get 0 p.events t, read := x
      before := (List.range 1024).map fun i => if zero then 0 else Sparse.get 0 p.acc (1024 * t + i) }
  (s.onPn r.pkey fun p =>
    { (p.putWork t w) with streams := p.streams ++ [{ crew := c, acc := acc, start := s.clk, work := w }] }).noteMma r.core

/-- Complete the group of another member of a gang: its words take its partition's clocks from this one, and it is the most recently
issued there (02 R55, 13 R343). -/
def State.finishMember (s : State) (a : Arrival) : State :=
  match s.crews.find a.crew with
  | none => s
  | some r =>
    let hs : List Hint := match a.sched with
      | .none => []
      | p => [.sched p]
    let g : Issue := { crew := a.crew, addr := a.addr, next := a.next, hints := hs, words := [] }
    let r1 := { r with phase := .ready }
    let t := (s.onPn r.pkey fun p =>
      { p with issuer := some a.crew, issueEnd := s.clk + (a.next - a.addr).toNat / 4 }).moveRecent a.crew r
    (t.putCrew a.crew (r1.setPcs r.head fun _ => a.next)).complete g r1 (s.auxOf a.crew).trap.nesting false

/-- The MMAs of a gang issue together: every member streams the leader's sub-block; the other members' groups end. -/
def State.issueGang (s : State) (c : Nat) (l : Latch) (x : TileRead) : State :=
  let s1 := l.arrivals.foldl (fun u a =>
    match u.crews.find a.crew with
    | some r => u.stream a.crew r a.acc a.zero a.tr a.fmt x
    | none => u) s
  (l.arrivals.filter fun a => a.crew != c).foldl (fun u a => u.finishMember a) s1

/-- The read of the sub-block that the leader's MMA names. -/
def State.leaderRead (s : State) (leader : Nat) (l : Latch) : TileRead :=
  match s.crews.find leader, l.arrivals.find? fun a => a.crew == leader with
  | some r, some a => s.readTile leader r a.tile (1024 * a.sb.toNat) 1024
  | _, _ => { crew := leader, block := 0, part := 0, entry := TileEntry.zero, lo := 0, bytes := [] }

/-- A gang fault on every crew of a latch but one; the latch empties. -/
def State.gangFault (s : State) (leader : Nat) (l : Latch) (but : Option Nat) (code : BitVec 8) : State :=
  let s1 := { s with latches := s.latches.del leader }
  (l.arrivals.filter fun a => some a.crew != but).foldl (fun u a =>
    match u.crews.find a.crew with
    | some r =>
      u.raise a.crew { code := code, lanes := r.head, detail := 0, level := 0, addr := 0, pc := a.addr,
                       retired := r.retired, flg := 0, token := 0 } false
    | none => u) s1

/-- MMA (08 R212, R221). -/
def execMma (n tr z g : Bool) (sb : BitVec 2) (t : TReg) (f : MFmt) (s : State) : Host.Outcome State Fault Refusal :=
  runGroup (.mma n tr z g sb t f) s noWait fun s gr r =>
    match mmaWait n tr z g sb t f s gr r with
    | some reason => .wait reason (mmaEnter n tr z g sb t f s gr r)
    | none =>
      let l := s.latchWith r (arrivalOf gr r n tr z sb t f)
      let leader := leaderOf r
      match mmaStand n tr z g sb t f s gr r with
      | .faults => Res.raise r s ((s.tileReadFault r t (1024 * (sb.toNat + 1))).getD 0x0A)
      | .mismatch => Res.raise r (s.gangFault leader l (some gr.crew) 0x0D) 0x0D
      | _ =>
        let s1 := s.acquire r .device
        if g then .next (({ s1 with latches := s1.latches.del leader }).issueGang gr.crew l (s.leaderRead leader l))
        else .next (s1.stream gr.crew r n z tr f (s.readTile gr.crew r t (1024 * sb.toNat) 1024))

/-- The code that GANG raises on its operand (08 R220). -/
def State.gangFaultOf (s : State) (r : Crew) (v : DWord) : Option (BitVec 8) :=
  let g := v.extractLsb' 0 48
  let fs := (List.range 6).map fun i => (g.extractLsb' (8 * i) 8).toNat
  let k := gangMembers g
  let q := perPart (s.packetOf r).crews.toNat (s.spreadOf r)
  if v.extractLsb' 48 16 ≠ 0 then some 0x08
  else if k.isEmpty then none
  else if fs = k ++ List.replicate (6 - k.length) 0xFF ∧ 2 ≤ k.length
      ∧ k.all (fun i => decide (i < (s.packetOf r).crews.toNat)) ∧ k.Nodup
      ∧ k.all (fun i => i / q == r.index / q) ∧ (k.map fun i => i % q % 32).Nodup ∧ r.index ∈ k then none
  else some 0x0D

/-- GANG (08 R220). -/
def execGang (a : SReg) (s : State) : Host.Outcome State Fault Refusal :=
  runGroup (.gang a) s noWait fun s g r =>
    match s.gangFaultOf r (r.sreg a) with
    | some code => Res.raise r s code
    | none =>
      .next (s.putCrew g.crew
        { r with mode := modeWord r.matrix (r.mode.extractLsb' 1 3) r.priv ((r.sreg a).extractLsb' 0 48) })

/-! ## ACCZ, ACCST, ACCLD, ACCFL (08 R214-R218) -/

/-- The wait of an instruction that moves a whole accumulator (08 R204). -/
def accWait (n writes : Bool) : WaitFn := fun s g r =>
  let p := s.pn r.pkey
  let late := (s.auxOf g.crew).returning.any fun x => x.regs.any fun k => decide (64 ≤ k) && (decide (96 ≤ k) == n)
  if late || p.mmaBusy g.crew n || p.accldBusy g.crew s.clk n || (writes && p.accstBusy g.crew n) then some 2 else none

/-- ACCZ (08 R215). -/
def execAccz (n : Bool) (s : State) : Host.Outcome State Fault Refusal :=
  runGroup (.accz n) s (accWait n true) fun s _ r =>
    .next (s.onPn r.pkey fun p => p.setTile (r.accTile n) fun _ => 0)

/-- A saturating store of an integer element: the bits and the events. -/
def satStore (f : IFmt) (x : Word) : Nat × Byte :=
  let y := satInt f x.toInt
  (lowBits f.width y, if y = x.toInt then 0 else evSat)

/-- A saturating store of a float element. -/
def satFloat (f : FFmt) (x : Word) : Nat × Byte :=
  let r := convFF f .fp32 .rne true x.toNat
  (r.1, eventBits r.2 ||| if r.2 &&& fOF != 0 || (val32 x).isInf false || (val32 x).isInf true then evSat else 0)

/-- ACCST's conversion of an element: its bits and the events (08 Table 8.6). -/
def accStore (c : AccConv) (x : Word) : Nat × Byte :=
  match c with
  | .raw => (x.toNat, 0)
  | .fp16 => let r := roundTo .fp16 .rne (val32 x); (r.1, eventBits r.2)
  | .bf16 => let r := roundTo .bf16 .rne (val32 x); (r.1, eventBits r.2)
  | .e4m3 => satFloat .e4m3 x
  | .e5m2 => satFloat .e5m2 x
  | .int8 => satStore .int8 x
  | .uint8 => satStore .uint8 x
  | .int16 => satStore .int16 x

/-- The fault of ACCST's tile (08 R207). -/
def State.accstFault (s : State) (r : Crew) (t : TReg) (c : AccConv) : Option (BitVec 8) :=
  let e := s.tile r t.toNat
  if s.tileCount r ≤ t.toNat ∨ e.size = 0 ∨ e.state = .filling then some 0x0A
  else if e.bytes < 1024 * convBytes c then some 0x09
  else none

/-- ACCST's wait. -/
def accstWait (n : Bool) (t : TReg) (c : AccConv) : WaitFn := fun s g r =>
  match s.accstFault r t c with
  | some _ => none
  | none => lesser (accWait n false s g r) (if (s.tile r t.toNat).state = .draining then some 6 else none)

/-- Write a byte of a part's bank. -/
def State.bankPutByte (s : State) (b j a : Nat) (v : Byte) : State :=
  s.bankPut b j (a / 4) (setByte32 (s.bankGet b j (a / 4)) (a % 4) v)

/-- ACCST (08 R216). Its release at BLOCK scope acts as it issues: the step to READY follows it. So do its writes, and what a fill that
races with them writes stands (log entry 27). -/
def execAccst (n : Bool) (t : TReg) (c : AccConv) (s : State) : Host.Outcome State Fault Refusal :=
  runGroup (.accst n t c) s (accstWait n t c) fun s g r =>
    match s.accstFault r t c with
    | some code => Res.raise r s code
    | none =>
      let p := s.pn r.pkey
      let e := s.tile r t.toNat
      let out := (List.range 1024).map fun i => accStore c (Sparse.get 0 p.acc (1024 * r.accTile n + i))
      let w := convBytes c
      let bytes := out.flatMap fun x => leBytes w x.1
      let s1 := (List.range bytes.length).foldl (fun u o =>
        u.bankPutByte r.block r.part (e.place o) (bytes.getD o 0)) s
      let s2 := (s1.release g.crew r .block).putTile r.block r.part t.toNat { e with state := .filling, pend := e.pend + 1 }
      .next (s2.onPn r.pkey fun p =>
        { (p.event (r.accTile n) (out.foldl (fun v x => v ||| x.2) 0)) with
          accst := p.accst ++ [{ crew := g.crew, acc := n, block := r.block, part := r.part, tile := t.toNat,
                                 start := s.clk }] })

/-- ACCLD's wait. -/
def accldWait (n : Bool) (t : TReg) (c : AccConv) : WaitFn := fun s g r =>
  match s.tileReadFault r t (1024 * convBytes c) with
  | some _ => none
  | none => lesser (accWait n true s g r) (if s.tileBusy r t then some 6 else none)

/-- ACCLD (08 R216). -/
def execAccld (n : Bool) (t : TReg) (c : AccConv) (s : State) : Host.Outcome State Fault Refusal :=
  runGroup (.accld n t c) s (accldWait n t c) fun s g r =>
    match s.tileReadFault r t (1024 * convBytes c) with
    | some code => Res.raise r s code
    | none =>
      let x := s.readTile g.crew r t 0 (1024 * convBytes c)
      .next ((s.acquire r .device).onPn r.pkey fun p =>
        { (p.putLoad (r.accTile n) c x.bytes) with
          accld := (p.accld.filter fun y => decide (s.clk < y.start + accldTime)) ++ [{ crew := g.crew, acc := n, conv := c, start := s.clk, read := x }] })

/-- ACCFL's wait (08 R218). -/
def accflWait (n : Bool) : WaitFn := fun s g r =>
  let p := s.pn r.pkey
  if p.mmaBusy g.crew n || p.accstBusy g.crew n then some 2 else none

/-- ACCFL (08 R218). -/
def execAccfl (d : SReg) (n : Bool) (s : State) : Host.Outcome State Fault Refusal :=
  runGroup (.accfl d n) s (accflWait n) fun s g r =>
    let t := r.accTile n
    .next ((s.onPn r.pkey fun p => { p with events := Sparse.put 0 p.events t 0 }).putCrew g.crew
      (r.setS d ((Sparse.get 0 (s.pn r.pkey).events t).setWidth 64)))

end Sys2Proof.Machine
end

