-- ==== Sys2Proof/Machine/Ring.lean ====
section
/-!
DEFINITION. Ring headers, what the ring instructions and an engine do to one, and heads as their consumers (09 R241-R243, 15 R391-R393).
-/

namespace Sys2Proof.Machine

/-! ## The header (09 Table 9.6) -/

/-- A ring header's fields. -/
structure RingHdr where
  base : Nat
  slotsz : Nat
  n : Nat
  a : Nat
  f : Nat
  l : Nat
  retain : Nat
  rflg : Nat
  cbmp : Nat
  cons : Nat
  rsvd : List Byte
  deriving DecidableEq, Repr

/-- n bytes from offset o, as a number. -/
def fieldAt (bs : List Byte) (o n : Nat) : Nat := leVal ((bs.drop o).take n)

/-- The header in 64 bytes. -/
def RingHdr.ofBytes (bs : List Byte) : RingHdr :=
  { base := fieldAt bs 0 8, slotsz := fieldAt bs 8 4, n := fieldAt bs 12 4, a := fieldAt bs 16 4, f := fieldAt bs 20 4,
    l := fieldAt bs 24 4, retain := fieldAt bs 28 2, rflg := fieldAt bs 30 2, cbmp := fieldAt bs 32 8,
    cons := fieldAt bs 40 4, rsvd := (bs.drop 44).take 20 }

/-- The 64 bytes of a header. -/
def RingHdr.bytes (h : RingHdr) : List Byte :=
  leBytes 8 h.base ++ leBytes 4 h.slotsz ++ leBytes 4 h.n ++ leBytes 4 h.a ++ leBytes 4 h.f ++ leBytes 4 h.l
    ++ leBytes 2 h.retain ++ leBytes 2 h.rflg ++ leBytes 8 h.cbmp ++ leBytes 4 h.cons ++ h.rsvd

/-- The difference of two indices modulo 2^32. -/
def diff32 (x y : Nat) : Nat := (x + 2 ^ 32 - y % 2 ^ 32) % 2 ^ 32

/-- Whether the CBMP bit of an index is set. -/
def RingHdr.marked (h : RingHdr) (i : Nat) : Bool := h.cbmp.testBit (i % h.n)

/-- Set the CBMP bit of an index. -/
def RingHdr.mark (h : RingHdr) (i : Nat) : RingHdr := { h with cbmp := h.cbmp ||| 2 ^ (i % h.n) }

/-- Clear the CBMP bit of an index. -/
def RingHdr.unmark (h : RingHdr) (i : Nat) : RingHdr :=
  if h.marked i then { h with cbmp := h.cbmp ^^^ 2 ^ (i % h.n) } else h

/-- A power of two from 1 to 64. -/
def slotCountOk (n : Nat) : Bool := n == 1 || n == 2 || n == 4 || n == 8 || n == 16 || n == 32 || n == 64

/-- The CBMP bits that Table 9.6 gives a meaning: from F, or from L on an engine ring, up to A. -/
def RingHdr.bitsAllowed (h : RingHdr) : Nat :=
  let lo := if h.cons = 0 then h.f else h.l
  (List.range (diff32 h.a lo)).foldl (fun m j => m ||| 2 ^ ((lo + j) % h.n)) 0

/-- Whether a header breaks a rule (09 R242, cause 1). -/
def RingHdr.bad (h : RingHdr) : Bool :=
  h.base % 128 != 0 || h.slotsz == 0 || h.slotsz % 128 != 0 || !slotCountOk h.n || decide (h.n ≤ h.retain)
    || decide (3 < h.cons) || h.rsvd.any (· != 0) || h.rflg / (if h.cons = 0 then 1 else 512) != 0
    || decide (h.n < diff32 h.a h.l) || decide (diff32 h.a h.l < diff32 h.f h.l)
    || h.cbmp / 2 ^ h.n != 0 || h.cbmp &&& h.bitsAllowed != h.cbmp

/-- While F is below A and its bit is set: clear it and step F. -/
def RingHdr.advance (h : RingHdr) : Nat → RingHdr
  | 0 => h
  | k + 1 =>
    if h.f ≠ h.a ∧ h.marked h.f then RingHdr.advance { h.unmark h.f with f := (h.f + 1) % 2 ^ 32 } k else h

/-! ## An engine's marks (15 R392, R393) -/

/-- What an engine knows of the ring it consumes: the next absolute index due, and its marks. -/
structure RingEng where
  next : Nat
  marks : List StripMark
  deriving DecidableEq, Repr

/-- The absolute index that L stands at. -/
def RingEng.absL (e : RingEng) (h : RingHdr) : Nat := e.next - diff32 (e.next % 2 ^ 32) h.l

/-- The mark of a ring index. -/
def RingEng.at (e : RingEng) (i : Nat) : Option StripMark := e.marks.find? fun m => m.idx % 2 ^ 32 == i

/-- Change the mark of an absolute index. -/
def RingEng.upd (e : RingEng) (idx : Nat) (f : StripMark → StripMark) : RingEng :=
  { e with marks := e.marks.map fun m => if m.idx == idx then f m else m }

/-- One engine update's steps: F steps past a passed index below A, then past committed bits; L moves over done indices
and A keeps at L + N (15 R391, R392). A passed index that F is past is done. -/
def ringSettle (h : RingHdr) (e : RingEng) : Nat → RingHdr × RingEng
  | 0 => (h, e)
  | k + 1 =>
    let h := h.advance 64
    match (if h.f = h.a then none else e.at h.f) with
    | some m =>
      if m.passed then
        ringSettle { h.unmark h.f with f := (h.f + 1) % 2 ^ 32 } (e.upd m.idx fun m => { m with done := true }) k
      else (h, e)
    | none =>
      match (if h.l = h.f then none else e.at h.l) with
      | some m =>
        if m.done || m.passed then
          ringSettle { h with l := (h.l + 1) % 2 ^ 32, a := (h.l + 1 + h.n) % 2 ^ 32 } e k
        else (h, e)
      | none => (h, e)

/-- Settle (each step ends with one mark: it is done now, or L has passed it), then drop the marks below L, but a passed one until L is N past it. -/
def ringUpdate (h : RingHdr) (e : RingEng) : RingHdr × RingEng :=
  let r := ringSettle h e (2 * e.marks.length + 2)
  let l := r.2.absL r.1
  let keep := fun (m : StripMark) => decide (l ≤ m.idx) || (m.passed && decide (l < m.idx + r.1.n))
  (r.1, { r.2 with marks := r.2.marks.filter keep })

/-! ## The ring instructions on a header (09 R243, 15 R391, R393) -/

/-- What a ring instruction does: it faults with a cause, waits, or leaves a header, a result and an engine's marks. -/
inductive RingOut where
  | fault (cause : BitVec 16)
  | wait
  | ok (h : RingHdr) (result : DWord) (e : Option RingEng)
  deriving DecidableEq, Repr

/-- RCOMMIT as R243 gives it. -/
def ringCommit (h : RingHdr) (i : Nat) (e : Option RingEng) : RingOut :=
  if diff32 h.a h.f ≤ diff32 i h.f then .fault 2
  else if h.marked i then .fault 3
  else
    let h1 := (h.mark i).advance 64
    match e with
    | none => .ok h1 0 none
    | some e => let r := ringUpdate h1 e; .ok r.1 0 (some r.2)

/-- RCOMMIT on the ring of a live head (15 R393), on the header as an update finds it settled. -/
def ringCommitEng (h0 : RingHdr) (i : Nat) (e0 : RingEng) : RingOut :=
  let u := ringUpdate h0 e0
  let h := u.1
  let e := u.2
  match e.at i with
  | some m =>
    if m.passed then
      if diff32 i h.f < diff32 h.a h.f ∧ e.absL h ≤ m.idx then ringCommit h i (some e)
      else if m.idx < e.absL h + diff32 h.f h.l then .ok h 0 (some e)
      else .fault 2
    else if diff32 i h.l < diff32 h.f h.l then
      if m.pending && h.marked i then
        let late := if h.rflg % 256 = 255 then 255 else h.rflg % 256 + 1
        let r := ringUpdate { h.unmark i with rflg := h.rflg / 256 * 256 + late }
          (e.upd m.idx fun m => { m with pending := false, done := true })
        .ok r.1 0 (some r.2)
      else .fault 3
    else ringCommit h i (some e)
  | none => if diff32 i h.l < diff32 h.f h.l then .fault 3 else ringCommit h i (some e)

/-- A ring instruction: 0 RACQ, 1 RCOMMIT, 2 RPEEK, 3 RREL, with its operand, on the bytes of a header. -/
def ringOp (which : BitVec 2) (x : DWord) (e : Option RingEng) (bs : List Byte) : RingOut :=
  let h := RingHdr.ofBytes bs
  let i := x.toNat % 2 ^ 32
  if h.bad then .fault 1
  else
    match which.toNat with
    | 0 =>
      if h.cons ≠ 0 then .fault 5
      else if h.n ≤ diff32 h.a h.l + h.retain then .wait
      else .ok { h with a := (h.a + 1) % 2 ^ 32 } (BitVec.ofNat 64 h.a) e
    | 1 =>
      if x.toNat / 2 ^ 32 ≠ 0 then .fault 2
      else
        match e with
        | none => ringCommit h i none
        | some e => ringCommitEng h i e
    | 2 => .ok h (BitVec.ofNat 64 (h.f + 2 ^ 32 * h.l)) e
    | _ =>
      if h.cons ≠ 0 then .fault 5
      else if x.toNat / 2 ^ 32 ≠ 0 ∨ diff32 h.f h.l < i then .fault 4
      else .ok { h with l := (h.l + i) % 2 ^ 32 } 0 e

/-- The bytes a ring instruction stores: RPEEK, and one that waits or faults, stores none. -/
def ringStore (which : BitVec 2) (x : DWord) (e : Option RingEng) (bs : List Byte) : Option (List Byte) :=
  match ringOp which x e bs with
  | .ok h _ _ => if which = 2 then none else some h.bytes
  | .fault _ => none
  | .wait => none

/-! ## Heads as consumers -/

/-- EN. -/
def HeadRegs.en (r : HeadRegs) : Bool := r.hctl.getLsbD 0
/-- CONS. -/
def HeadRegs.cons (r : HeadRegs) : Nat := (r.hctl.extractLsb' 1 2).toNat
/-- CTX. -/
def HeadRegs.ctx (r : HeadRegs) : Nat := (r.hctl.extractLsb' 8 6).toNat
/-- NS. -/
def HeadRegs.ns (r : HeadRegs) : Nat := (r.hctl.extractLsb' 16 16).toNat
/-- F0. -/
def HeadRegs.f0 (r : HeadRegs) : Nat := (r.hctl.extractLsb' 32 32).toNat

/-! ## Registers and times (15 Table 15.1, R386) -/

/-- W. -/
def HeadRegs.w (r : HeadRegs) : Nat := (r.geom.extractLsb' 0 16).toNat
/-- H. -/
def HeadRegs.h (r : HeadRegs) : Nat := (r.geom.extractLsb' 16 16).toNat
/-- SH. -/
def HeadRegs.sh (r : HeadRegs) : Nat := (r.geom.extractLsb' 32 8).toNat
/-- VSTART. -/
def HeadRegs.vstart (r : HeadRegs) : Nat := (r.geom.extractLsb' 40 12).toNat
/-- DLINE. -/
def HeadRegs.dline (r : HeadRegs) : Int := (r.due.extractLsb' 0 16).toInt
/-- ENG. -/
def HeadRegs.engine (r : HeadRegs) : Nat := (r.hctl.extractLsb' 4 3).toNat
/-- Whether a display consumes the ring. -/
def HeadRegs.shows (r : HeadRegs) : Bool := r.cons == 1 || r.cons == 3
/-- Whether an encoder consumes the ring. -/
def HeadRegs.codes (r : HeadRegs) : Bool := r.cons == 2 || r.cons == 3

/-- T_f. -/
def HeadRegs.frameTime (r : HeadRegs) (f : Nat) : Nat := r.epoch.toNat + f * r.fper.toNat / 65536

/-- LS(f, y). -/
def HeadRegs.lineTime (r : HeadRegs) (f y : Nat) : Nat := r.frameTime f + (r.vstart + y) * r.lper.toNat / 65536

/-- DUE(f, s). -/
def HeadRegs.dueTime (r : HeadRegs) (f s : Nat) : Nat :=
  r.frameTime f + (((r.vstart + r.sh * s : Nat) : Int) + r.dline).toNat * r.lper.toNat / 65536

/-- Registers before any HEAD command (log entry 6). -/
def HeadRegs.zero : HeadRegs :=
  { hctl := 0, epoch := 0, fper := 0, lper := 0, geom := 0, due := 0, ring := 0, fill := 0, consumed := 0, missed := 0,
    estate := 0, erate := 0, eqp := 0, egop := 0, ertp := 0, ertp2 := 0 }

/-- An engine before its head is enabled. -/
def Engine.zero : Engine :=
  { due := 0, marks := [], row := 0, disp := 0, full := 0, seq := 0, keyReq := false, lastKey := 0, golden := 0, coded := [],
    fills := [] }

/-- A head before any HEAD command. -/
def Head.zero : Head := { regs := HeadRegs.zero, eng := Engine.zero }

/-- Head h. -/
def State.headOf (s : State) (h : Nat) : Head := (s.links.heads.find h).getD Head.zero

/-- Set head h. -/
def State.putHead (s : State) (h : Nat) (x : Head) : State :=
  { s with links := { s.links with heads := s.links.heads.put h x } }

/-- The next absolute ring index due on a head. -/
def Head.nextDue (h : Head) : Nat := h.regs.f0 * h.regs.ns + h.eng.due

/-- The engine's view of a head's ring. -/
def Head.ringEng (h : Head) : RingEng := { next := h.nextDue, marks := h.eng.marks }

/-- The live head whose ring header lies at a place (15 R391). -/
def State.headAt (s : State) (t : MemTag) (pa : Nat) : Option Nat :=
  (s.links.heads.find? fun e =>
    e.2.regs.en && match (s.xlate none e.2.regs.ctx true .read e.2.regs.ring).1 with
      | .ok (g, q) => g.home == t.home && q == pa
      | .error _ => false).map (·.1)

/-- The engine that consumes the ring at a place. -/
def State.engAt (s : State) (t : MemTag) (pa : Nat) : Option RingEng :=
  match s.headAt t pa with
  | some n => (s.links.heads.find n).map Head.ringEng
  | none => none

/-- Set a head's marks. -/
def State.putMarks (s : State) (n : Nat) (ms : List StripMark) : State :=
  { s with links := { s.links with heads := s.links.heads.upd n fun h => { h with eng := { h.eng with marks := ms } } } }

/-- Record the marks a ring instruction left. -/
def State.keepMarks (s : State) (t : MemTag) (pa : Nat) (e : Option RingEng) : State :=
  match s.headAt t pa, e with
  | some n, some e => s.putMarks n e.marks
  | _, _ => s

end Sys2Proof.Machine
end

