-- ==== Sys2Proof/Machine/Display.lean ====
section
/-!
DEFINITION. A head as the consumer of its ring: the due updates, the slots as consumers read them, the display serialiser, and the
order of the due updates and the ends of the display's readings (15 R385-R394).
-/

namespace Sys2Proof.Machine

/-! ## Updates of the ring (15 R391, R392) -/

/-- Settle a ring header after an engine's change, and keep header and marks; a header that cannot be written stays. -/
def State.putRing (s : State) (h : Nat) (hdr : RingHdr) (marks : List StripMark) : State :=
  let x := s.headOf h
  let r := ringUpdate hdr { next := x.nextDue, marks := marks }
  let s1 := s.putHead h { x with eng := { x.eng with marks := r.2.marks } }
  (s1.devWrite x.regs.ctx x.regs.ring r.1.bytes).2

/-- The header of a head's ring. -/
def State.ringOf (s : State) (h : Nat) : Option RingHdr × State :=
  let x := s.headOf h
  match s.devRead x.regs.ctx x.regs.ring 64 with
  | (none, t) => (none, t)
  | (some bs, t) => (some (RingHdr.ofBytes bs), t)

/-- The mark of an index at its due update. -/
def dueMark (idx : Nat) (missed pending passed : Bool) : StripMark :=
  { idx := idx, missed := missed, pending := pending, passed := passed, done := false, dispDone := false, encDone := false }

/-- End a reading of the consumed indices that a test picks; an index with no reading left is done. -/
def endReading (r : HeadRegs) (disp : Bool) (pick : Nat → Bool) (marks : List StripMark) : List StripMark :=
  marks.map fun m =>
    if !pick m.idx then m
    else
      let m1 := if disp then { m with dispDone := true } else { m with encDone := true }
      if !m.missed && (m1.dispDone || !r.shows) && (m1.encDone || !r.codes) then { m1 with done := true } else m1

/-- The due update of a head's next index (15 R392): consumed, missed and pending, or missed and passed, on the header as an update
finds it settled; a header that cannot be read is a miss (log entry 62). A strip of a frame that stood part-way when the head was enabled is not displayed, so its display reading ends as it
is consumed (log entry 86). -/
def State.dueUpdate (s : State) (h : Nat) : State :=
  let x := s.headOf h
  let idx := x.nextDue
  let r := s.ringOf h
  let i := idx % 2 ^ 32
  let next := { x.eng with due := x.eng.due + 1 }
  let miss := { x.regs with missed := x.regs.missed + 1 }
  let hit := { x.regs with consumed := x.regs.consumed + 1 }
  match r.1 with
  | none => r.2.putHead h { regs := miss, eng := { next with marks := x.eng.marks ++ [dueMark idx true false true] } }
  | some hdr0 =>
    let e := ringUpdate hdr0 x.ringEng
    let hdr := e.1
    let marks := e.2.marks
    if diff32 i hdr.l < diff32 hdr.f hdr.l then
      (r.2.putHead h { regs := hit, eng := next }).putRing h hdr
        (endReading x.regs true (fun i => i == idx && decide (i < x.eng.disp)) (marks ++ [dueMark idx false false false]))
    else if diff32 i hdr.l < diff32 hdr.a hdr.l then
      (r.2.putHead h { regs := miss, eng := next }).putRing h { hdr.mark i with f := (i + 1) % 2 ^ 32 }
        (marks ++ [dueMark idx true true false])
    else
      (r.2.putHead h { regs := miss, eng := next }).putRing h hdr (marks ++ [dueMark idx true false true])

/-- End readings and update the ring. -/
def State.endReadings (s : State) (h : Nat) (disp : Bool) (pick : Nat → Bool) : State :=
  let r := s.ringOf h
  let x := r.2.headOf h
  let ms := endReading x.regs disp pick x.eng.marks
  match r.1 with
  | some hdr => r.2.putRing h hdr ms
  | none => r.2.putHead h { x with eng := { x.eng with marks := ms } }

/-! ## Slots as consumers read them (15 R385, R389) -/

/-- The pitch of a slot's lines (15 R389). -/
def HeadRegs.pitch (r : HeadRegs) : Nat := 128 * ((4 * ((r.w + 2) / 3) + 127) / 128)

/-- Sample i of a line that starts at an offset: samples 3k to 3k + 2 lie in bits [29:0] of the line's word k (15 R389). -/
def sampleAt (bs : List Byte) (o i : Nat) : Nat := fieldAt bs (o + 4 * (i / 3)) 4 / 2 ^ (10 * (i % 3)) % 1024

/-- The W samples of a line that starts at an offset. -/
def HeadRegs.line (r : HeadRegs) (bs : List Byte) (o : Nat) : List Nat := (List.range r.w).map (sampleAt bs o)

/-- Luma line y of a slot. -/
def HeadRegs.lumaLine (r : HeadRegs) (bs : List Byte) (y : Nat) : List Nat := r.line bs (r.pitch * y)

/-- Chroma line c of a slot: Cb and Cr by turns. -/
def HeadRegs.chromaLine (r : HeadRegs) (bs : List Byte) (c : Nat) : List Nat := r.line bs (r.pitch * (r.sh + c))

/-- Y, Cb and Cr of a fill colour. -/
def fillParts (w : Word) : Nat × Nat × Nat :=
  ((w.extractLsb' 0 10).toNat, (w.extractLsb' 10 10).toNat, (w.extractLsb' 20 10).toNat)

/-- The fill colour of a strip: that of the last HFILL written before the strip's due time (15 R385). -/
def Head.fillOf (x : Head) (f st : Nat) : Word :=
  match (x.eng.fills.filter fun e => decide (e.1 < x.regs.dueTime f st)).getLast? with
  | some e => e.2
  | none => ((x.eng.fills.head?).map (·.2)).getD x.regs.fill

/-- Whether a strip was there at its due update. -/
def Head.consumed (x : Head) (idx : Nat) : Bool := x.eng.marks.any fun m => m.idx == idx && !m.missed

/-- The slot bytes of one index: slot idx mod N of SLOTSZ bytes from BASE; free values where the slot is no longer mapped. -/
def State.slotBytes (s : State) (x : Head) (hdr : RingHdr) (idx : Nat) : List Byte :=
  match s.devRead x.regs.ctx (BitVec.ofNat 64 (hdr.base + hdr.slotsz * (idx % hdr.n))) hdr.slotsz with
  | (some bs, _) => bs
  | (none, _) => (List.range hdr.slotsz).map fun i => Config.slotByte s.fresh (hdr.slotsz * (idx % hdr.n) + i)

/-! ## The display serialiser (15 R387, R394) -/

/-- The one pixel encoding (15 Table 15.6): YCbCr 4:2:0, 10 bits per component, BT.709, limited range. -/
def vscEncoding : PixelEncoding := { subsampling := (2, 2), bitsPerComponent := 10, bt709 := true, limitedRange := true }

/-- What the serialiser emits for an index: the consumed slot's lines that lie within H, else the fill colour; of a consumed strip whose
ring header can no longer be read the spec says nothing, and the fill colour stands in (log entry 62). -/
def State.shownOf (s : State) (h idx : Nat) : Shown :=
  let x := s.headOf h
  let st := idx % x.regs.ns
  let n := min x.regs.sh (x.regs.h - x.regs.sh * st)
  let fill := fillParts (x.fillOf (idx / x.regs.ns) st)
  match (s.ringOf h).1, x.consumed idx with
  | some hdr, true =>
    let bs := s.slotBytes x hdr idx
    .lines ((List.range n).map (x.regs.lumaLine bs)) ((List.range ((n + 1) / 2)).map (x.regs.chromaLine bs))
  | _, _ => .fill fill.1 fill.2.1 fill.2.2

/-- Emit a strip at a head's port. -/
def State.emit (s : State) (h idx : Nat) : State :=
  let x := s.headOf h
  let e : Emission :=
    { head := h, port := x.regs.hctl.getLsbD 3, encoding := vscEncoding, frame := idx / x.regs.ns, strip := idx % x.regs.ns
      shown := s.shownOf h idx }
  { s with links := { s.links with shown := s.links.shown ++ [e] }, fresh := s.fresh + 1 }

/-- The display's reading of the next strip to be shown ends: the strip has been emitted (15 R394). -/
def State.endShown (s : State) (h : Nat) : State :=
  let x := s.headOf h
  let t := s.emit h x.eng.disp
  (t.putHead h { x with eng := { x.eng with disp := x.eng.disp + 1 } }).endReadings h true (· == x.eng.disp)

/-! ## What a head does as TIME passes (15 R392, R394) -/

/-- The due time of a head's next index. -/
def Head.nextDueTime (x : Head) : Nat := x.regs.dueTime (x.nextDue / x.regs.ns) (x.nextDue % x.regs.ns)

/-- Whether the next strip of a head is due by a TIME (15 R392). -/
def Head.dueBy (x : Head) (time : Nat) : Bool := x.regs.en && x.regs.ns != 0 && decide (x.nextDueTime ≤ time)

/-- The time at which the last line of the next strip to be shown has been emitted: a strip's last line may lie within H. -/
def Head.shownTime (x : Head) : Nat :=
  x.regs.lineTime (x.eng.disp / x.regs.ns) (min (x.regs.sh * (x.eng.disp % x.regs.ns) + x.regs.sh) x.regs.h)

/-- Whether a display reading has ended by a TIME: the strip's due update is past, and so is its last line. -/
def Head.emittedBy (x : Head) (time : Nat) : Bool :=
  x.regs.en && x.regs.shows && x.regs.ns != 0 && decide (x.eng.disp < x.nextDue) && decide (x.shownTime ≤ time)

/-- The display readings of a head that end by a TIME, at most n of them, end. -/
def State.showTo (s : State) (h time : Nat) : Nat → State
  | 0 => s
  | n + 1 => if (s.headOf h).emittedBy time then (s.endShown h).showTo h time n else s

/-- The due updates of a head before a TIME, at most n of them. -/
def State.dueBefore (s : State) (h time : Nat) : Nat → State
  | 0 => s
  | n + 1 => if (s.headOf h).dueBy time && decide ((s.headOf h).nextDueTime < time) then (s.dueUpdate h).dueBefore h time n else s

/-- The first thing that a head has to do by a TIME: a display reading that ends no later than the next due update, else that update. The
order of the two at one TIME is open (log entry 94). -/
def State.headTurn (s : State) (h time : Nat) : Option State :=
  let x := s.headOf h
  if x.emittedBy (min time x.nextDueTime) then some (s.endShown h)
  else if x.dueBy time then some (s.dueUpdate h)
  else none

/-- What a head has to do by a TIME, in order, at most n things. -/
def State.headTurns (s : State) (h time : Nat) : Nat → State
  | 0 => s
  | n + 1 =>
    match s.headTurn h time with
    | some t => t.headTurns h time n
    | none => s

/-- At least as many strips as a head has due by a TIME and not yet updated. -/
def Head.dueBound (x : Head) (time : Nat) : Nat :=
  ((time + 1 - x.regs.epoch.toNat) * 65536 / x.regs.fper.toNat + 2 - x.regs.f0) * x.regs.ns - x.eng.due

/-- A head does all that it has to do by a TIME. -/
def State.catchTo (s : State) (h time : Nat) : State :=
  let x := s.headOf h
  s.headTurns h time (2 * x.dueBound time + (x.nextDue - x.eng.disp))

/-- A head does all that it has to do by now. -/
def State.catchHead (s : State) (h : Nat) : State := s.catchTo h s.time.toNat

/-- The head whose ring lies at a place does what it has to do before the ring is accessed there (09 R242, 15 R392). -/
def State.catchUp (s : State) (t : MemTag) (pa : Nat) : State :=
  match s.headAt t pa with
  | some h => s.catchHead h
  | none => s

end Sys2Proof.Machine
end

