-- ==== Sys2Proof/Machine/Tasks.lean ====
section
/-!
DEFINITION. Task frames and the task unit, dependence counters, the ring instructions, copies and codebooks (09).
-/

namespace Sys2Proof.Machine

/-! ## Frames (09 R227, R228) -/

/-- A task frame. -/
abbrev Frame := BitVec 256

/-- The 32 bytes of a frame. -/
def frameBytes (f : Frame) : List Byte := (List.range 32).map fun i => f.extractLsb' (8 * i) 8

/-- A frame from its bytes. -/
def frameOf (bs : List Byte) : Frame := BitVec.ofNat 256 (leVal bs)

/-- CLASS. -/
def frameClass (f : Frame) : Nat := (f.extractLsb' 57 2).toNat
/-- STEAL. -/
def frameSteal (f : Frame) : Bool := f.getLsbD 59
/-- JADDR. -/
def frameJaddr (f : Frame) : BitVec 57 := f.extractLsb' 128 57
/-- JSCOPE. -/
def frameJscope (f : Frame) : Nat := (f.extractLsb' 185 3).toNat
/-- WAITCTR. -/
def frameCtr (f : Frame) : Nat := (f.extractLsb' 224 16).toNat
/-- RSLOT. -/
def frameRslot (f : Frame) : Nat := (f.extractLsb' 240 8).toNat
/-- SPILLED set. -/
def frameSpilled (f : Frame) : Frame := f ||| (1#256 <<< 254)
/-- STOLEN set. -/
def frameStolen (f : Frame) : Frame := f ||| (1#256 <<< 255)

/-- The scope of a 3-bit code; codes 5-7 are read as SYSTEM. -/
def scopeOf (n : Nat) : Scope :=
  match n with
  | 0 => .crew
  | 1 => .block
  | 2 => .cluster
  | 3 => .device
  | _ => .system

/-! ## Views (09 R229-R231) -/

/-- A view's number. -/
def viewKey (ctx cls : Nat) : Nat := 4 * ctx + cls

/-- A view of a core. -/
def State.viewOf (s : State) (core ctx cls : Nat) : View :=
  ((s.coreOf core).views.find (viewKey ctx cls)).getD { chunks := [], chip := [] }

/-- Set a view. -/
def State.putView (s : State) (core ctx cls : Nat) (v : View) : State :=
  s.onCore core fun k => { k with views := k.views.put (viewKey ctx cls) v }

/-- The cap of a view for a frame of a region: DEQCAP, 0 meaning 256 (01 Table 1.10). -/
def State.viewCap (s : State) (ctx rslot : Nat) : Nat :=
  match s.inForce ctx rslot 3 with
  | some g => if g.deqcap = 0 then 256 else g.deqcap.toNat
  | none => 256

/-- The fault of a frame that cannot be spilled (09 R231, 14 Table 14.3: cause 1). -/
def dequeSpill : LaneFault := { code := 0x10, level := 0, addr := 0, detail := 1 }

/-- Check the frames in some slots from an address, privileged, for one kind of access: their places, or the first
fault. -/
def State.framePlaces (s : State) (ctx : Nat) (kind : AccKind) (va : DWord) (slots : List Nat) :
    Except LaneFault (List (MemTag × Nat)) × State :=
  slots.foldl (fun (acc : Except LaneFault (List (MemTag × Nat)) × State) k =>
    match acc.1 with
    | .error _ => acc
    | .ok ps =>
      let a := va + BitVec.ofNat 64 (32 * k)
      match acc.2.xlate none ctx true kind a with
      | (.error f, t) => (.error { code := f.code, level := f.level, addr := a, detail := 0 }, t)
      | (.ok p, t) =>
        if kind == .read && t.isLocal p.1 && t.poisoned p.2 32 then
          (.error { code := 0x06, level := 8, addr := a, detail := 0 }, t)
        else (.ok (ps ++ [p]), t)) (.ok [], s)

/-- Store frames at their places. -/
def State.storeFrames (s : State) (ps : List (MemTag × Nat)) (fs : List Frame) : State :=
  (ps.zip fs).foldl (fun u x =>
    u.placeWrite ((List.range 32).map fun i => (x.1.1, x.1.2 + i)) (frameBytes x.2)) s

/-- Load frames from their places. -/
def State.loadFrames (s : State) (ps : List (MemTag × Nat)) : List Frame × State :=
  ps.foldl (fun (acc : List Frame × State) p =>
    let x := acc.2.homeRead p.1 (l2How p.1.attr .dflt) p.2 32
    (acc.1 ++ [frameOf x.1], x.2)) ([], s)

/-- The address of a chunk. -/
def Chunk.addr (c : Chunk) : DWord := c.base + BitVec.ofNat 64 (4096 * c.number)

/-- Free a chunk in its area's allocation. -/
def State.freeChunk (s : State) (ctx : Nat) (c : Chunk) : State :=
  s.onRegion ctx c.rslot fun g => { g with chunks := g.chunks.filter (· != c.number) }

/-- Push a frame onto a view (09 Table 9.3). An on-chip count above the cap of the frame's region is taken as one at the cap, and a
spill takes the lowest-numbered free chunk: the spec settles neither (log entry 79). -/
def State.pushFrame (s : State) (core ctx cls : Nat) (f : Frame) : Except LaneFault State :=
  let v := s.viewOf core ctx cls
  let cap := s.viewCap ctx (frameRslot f)
  if v.chip.length < cap then .ok (s.putView core ctx cls { v with chip := v.chip ++ [f] })
  else
    let h := (cap + 1) / 2
    match s.inForceSlot ctx (frameRslot f) 11 with
    | none => .error dequeSpill
    | some slot =>
      match s.region ctx slot with
      | none => .error dequeSpill
      | some g =>
        match (List.range (g.spillFrames.toNat / 128)).find? fun j => !g.chunks.contains j with
        | none => .error dequeSpill
        | some j =>
          if 32 ≤ v.chunks.length then .error dequeSpill
          else
            let c : Chunk := { rslot := slot, base := g.spillBase, number := j, slots := List.range h,
                               rslots := (v.chip.take h).map frameRslot }
            match s.framePlaces ctx .write c.addr c.slots with
            | (.error e, _) => .error e
            | (.ok ps, t) =>
              .ok (((t.storeFrames ps ((v.chip.take h).map frameSpilled)).onRegion ctx slot fun g =>
                { g with chunks := g.chunks ++ [j] }).putView core ctx cls
                  { chunks := v.chunks ++ [c], chip := v.chip.drop h ++ [f] })

/-- Push again the released frames of some views that could not be pushed before (09 R231, R233). -/
def State.tryParked (s : State) (core : Nat) (p : Parked → Bool) : State :=
  let r := (s.coreOf core).park.foldl (fun (acc : State × List Parked) q =>
    if q.released && p q then
      match acc.1.pushFrame core q.ctx (frameClass q.frame) q.frame with
      | .ok t => (t, acc.2)
      | .error _ => (acc.1, acc.2 ++ [q])
    else (acc.1, acc.2 ++ [q])) (s, [])
  r.1.onCore core fun k => { k with park := r.2 }

/-- Retry after a push or a pop on a view. -/
def State.retryView (s : State) (core ctx cls : Nat) : State :=
  s.tryParked core fun q => q.ctx == ctx && frameClass q.frame == cls

/-- Pop a view of a core's own: no frame when it holds none. Finding none is no pop, so it retries no released frame that is still parked:
the spec leaves that open (log entry 97). -/
def State.popFrame (s : State) (core ctx cls : Nat) : Option (Except LaneFault Frame) × State :=
  let v := s.viewOf core ctx cls
  match v.chip.getLast? with
  | some f => (some (.ok f), (s.putView core ctx cls { v with chip := v.chip.dropLast }).retryView core ctx cls)
  | none =>
    match v.chunks.getLast? with
    | none => (none, s)
    | some c =>
      match s.framePlaces ctx .read c.addr c.slots with
      | (.error e, t) => (some (.error e), t)
      | (.ok ps, t) =>
        let x := t.loadFrames ps
        match x.1.getLast? with
        | none => (none, t)
        | some f =>
          (some (.ok f), ((x.2.freeChunk ctx c).putView core ctx cls
            { chunks := v.chunks.dropLast, chip := x.1.dropLast }).retryView core ctx cls)

/-- Whether a frame may be stolen (09 R236). -/
def stealable (near : Bool) (f : Frame) : Bool :=
  frameSteal f && ((frameJscope f == 2 && near) || frameJscope f == 3 || frameJscope f == 4)

/-- Where the oldest eligible frame of a view lies: a chunk's position and the position in it, or a position on chip. -/
inductive Found where
  | none
  | fault (e : LaneFault)
  | chunk (ci : Nat) (f : Frame) (k : Nat)
  | chip (k : Nat) (f : Frame)
  deriving DecidableEq, Repr

/-- Look for the oldest eligible frame of a view. The chunks looked at are translated as any access is (12 R328); one that cannot be
read fails the thief's TAKE, and a read of theirs leaves no request behind, which the spec does not settle (log entry 29). -/
def State.findFrame (s : State) (core ctx cls : Nat) (near : Bool) : Found × State :=
  let v := s.viewOf core ctx cls
  let r := (List.range v.chunks.length).foldl (fun (acc : Found × State) ci =>
    match acc.1 with
    | .none =>
      match v.chunks[ci]? with
      | some c =>
        match acc.2.framePlaces ctx .read c.addr c.slots with
        | (.error e, t) => (.fault e, t)
        | (.ok ps, t) =>
          let fs := (t.loadFrames ps).1
          match fs.findIdx? (stealable near) with
          | some k => (.chunk ci (fs.getD k 0) k, t)
          | none => (.none, t)
      | none => acc
    | _ => acc) (.none, s)
  match r.1 with
  | .none =>
    match v.chip.findIdx? (stealable near) with
    | some k => (.chip k (v.chip.getD k 0), r.2)
    | none => r
  | _ => r

/-- Steal the oldest eligible frame of a view; the other frames of its chunk stay where they lie, and no parked frame is tried
again (09 R230, R231). -/
def State.stealFrame (s : State) (core ctx cls : Nat) (near : Bool) : Option (Except LaneFault Frame) × State :=
  let v := s.viewOf core ctx cls
  let x := s.findFrame core ctx cls near
  match x.1 with
  | .none => (none, x.2)
  | .fault e => (some (.error e), x.2)
  | .chip k f => (some (.ok (frameStolen f)), x.2.putView core ctx cls { v with chip := v.chip.eraseIdx k })
  | .chunk ci f k =>
    match v.chunks[ci]? with
    | none => (none, x.2)
    | some c =>
      if (c.slots.eraseIdx k).isEmpty then
        (some (.ok (frameStolen f)), (x.2.freeChunk ctx c).putView core ctx cls { v with chunks := v.chunks.eraseIdx ci })
      else
        (some (.ok (frameStolen f)), x.2.putView core ctx cls
          { v with chunks := v.chunks.set ci { c with slots := c.slots.eraseIdx k, rslots := c.rslots.eraseIdx k } })

/-- The victim cores of a thief in order, each with whether it lies in the thief's cluster (09 R236). -/
def State.victims (s : State) (core : Nat) : List (Nat × Bool) :=
  let c := s.clusterOf core
  let own := s.clusterCores c
  let nc := s.partNo.sizes.length
  ((own.filter (core < ·)) ++ own.filter (· < core)).map (·, true) ++
    ((List.range (nc - 1)).flatMap fun i => s.clusterCores ((c + 1 + i) % nc)).map (·, false)

/-- The first of some places where a look finds a frame or a fault, each in the state that the one before it left. -/
def State.firstOf {α : Type} (s : State) (xs : List α) (look : State → α → Option (Except LaneFault Frame) × State) :
    Option (Except LaneFault Frame) × State :=
  xs.foldl (fun acc x => if acc.1.isSome then acc else look acc.2 x) (none, s)

/-- TAKE's search: the frame found, or the fault met, and the state after it. -/
def State.search (s : State) (core ctx : Nat) : Option (Except LaneFault Frame) × State :=
  let own := s.firstOf (List.range 4) fun u cls => u.popFrame core ctx cls
  if own.1.isSome then own
  else
    own.2.firstOf ((List.range 4).flatMap fun cls => (s.victims core).map fun v => (cls, v)) fun u x =>
      u.stealFrame x.2.1 ctx x.1 x.2.2

/-! ## Counters (09 R232, R233) -/

/-- Counter n of a core. -/
def State.ctrOf (s : State) (core n : Nat) : Counter := ((s.coreOf core).ctrs.find n).getD { value := 0, ctx := none }

/-- Set counter n of a core. -/
def State.putCtr (s : State) (core n : Nat) (k : Counter) : State :=
  s.onCore core fun c => { c with ctrs := c.ctrs.put n k }

/-- Whether a counter is held by another context. -/
def State.heldCtr (s : State) (core ctx n : Nat) : Bool :=
  let k := s.ctrOf core n
  (match k.ctx with
    | none => false
    | some x => x != ctx) && (k.value != 0 || (s.coreOf core).park.any fun q => q.ctr == n)

/-- A counter has become 0: its frames are pushed in the order they were parked. -/
def State.releaseCtr (s : State) (core n : Nat) : State :=
  let mine := (s.coreOf core).park.filter fun q => q.ctr == n
  let t := s.onCore core fun k => { k with
    park := k.park.map fun q => if q.ctr == n then { q with released := true } else q }
  t.tryParked core fun q => mine.any fun m => m.ctx == q.ctx && frameClass m.frame == frameClass q.frame

/-- Decrement a counter that is not 0. -/
def State.decCtr (s : State) (core n : Nat) : State :=
  let k := s.ctrOf core n
  if k.value = 0 then s
  else
    let t := s.putCtr core n { k with value := k.value - 1 }
    if k.value = 1 then t.releaseCtr core n else t

/-! ## SPAWN, TAKE, DONE, JOIN (09 R234-R238) -/

/-- The frame in lanes 0-7 of a vector. -/
def State.frameIn (s : State) (r : Crew) (a : VReg) : Frame :=
  frameOf ((List.range 8).flatMap fun l => leBytes 4 (s.getV r a.toNat l).toNat)

/-- The fault of a frame at SPAWN, in the order of R234's table; a chain's FRAME breaks the first two the same way. -/
def frameFault (f : Frame) : Option (BitVec 8) :=
  if f.extractLsb' 60 4 ≠ 0 ∨ f.extractLsb' 188 4 ≠ 0 ∨ f.extractLsb' 254 2 ≠ 0 ∨ 5 ≤ frameJscope f ∨ 255 < frameCtr f then
    some 0x08
  else if f.extractLsb' 0 2 ≠ 0 ∨ f.extractLsb' 128 2 ≠ 0 then some 0x05
  else none

/-- The fault of SPAWN's frame for a crew. -/
def State.spawnFault (s : State) (r : Crew) (f : Frame) : Option (BitVec 8) :=
  let ctx := s.ctxOf r
  match frameFault f with
  | some c => some c
  | none =>
    if (s.region ctx (frameRslot f)).isNone then some 0x07
    else if frameClass f < s.classOf ctx (frameRslot f) then some 0x07
    else if frameCtr f ≠ 0 ∧ s.heldCtr r.core ctx (frameCtr f) then some 0x07
    else none

/-- Whether a frame parks. -/
def State.parks (s : State) (r : Crew) (f : Frame) : Bool := frameCtr f != 0 && (s.ctrOf r.core (frameCtr f)).value != 0

/-- SPAWN's wait for the park store. -/
def spawnWait (a : VReg) : WaitFn := fun s _ r =>
  let f := s.frameIn r a
  if (s.spawnFault r f).isNone && s.parks r f && decide (256 ≤ (s.coreOf r.core).park.length) then some 8 else none

/-- Close a group with the fault of a crew-level access. -/
def Res.access (r : Crew) (s : State) (e : LaneFault) : Res := .trap e.code r.head e.detail e.level e.addr s

/-- SPAWN (09 R234). -/
def execSpawn (a : VReg) (s : State) : Host.Outcome State Fault Refusal :=
  runGroup (.spawn a) s (spawnWait a) fun s g r =>
    let f := s.frameIn r a
    let ctx := s.ctxOf r
    match s.spawnFault r f with
    | some code => Res.raise r s code
    | none =>
      let s1 := s.release g.crew r .device
      if s.parks r f then
        .next (s1.onCore r.core fun k => { k with park := k.park ++ [{ ctr := frameCtr f, released := false, ctx := ctx, frame := f }] })
      else
        match s1.pushFrame r.core ctx (frameClass f) f with
        | .error e => Res.access r s e
        | .ok t => .next (t.retryView r.core ctx (frameClass f))

/-- TAKE's wait: no frame is found. -/
def takeWait : WaitFn := fun s g r =>
  if 4 ≤ (s.auxOf g.crew).frames.length then none
  else if (s.search r.core (s.ctxOf r)).1.isNone then some 8 else none

/-- TAKE (09 R236). -/
def execTake (d : VReg) (s : State) : Host.Outcome State Fault Refusal :=
  runGroup (.take d) s takeWait fun s g r =>
    if 4 ≤ (s.auxOf g.crew).frames.length then .trap 0x10 r.head 2 0 0 s
    else
      match s.search r.core (s.ctxOf r) with
      | (none, t) => .wait 8 t
      | (some (.error e), t) => Res.access r t e
      | (some (.ok f), t) =>
        let u := ((t.acquire r .device).onAux g.crew fun a => { a with frames := a.frames ++ [f] }).return g.crew [d.toNat] [] 0 0
        .next (u.putLanes r d.toNat (List.range 8) fun l => f.extractLsb' (32 * l) 32)

/-- DONE's wait: its release at a JSCOPE of SYSTEM waits for the peers' acknowledgements (11 R305). -/
def doneWait : WaitFn := fun s g _ =>
  match (s.auxOf g.crew).frames.getLast? with
  | some f => if frameJaddr f ≠ 0 ∧ s.unsettled (scopeOf (frameJscope f)) then some 4 else none
  | none => none

/-- DONE (09 R237). -/
def execDone (s : State) : Host.Outcome State Fault Refusal :=
  runGroup .done s doneWait fun s g r =>
    match (s.auxOf g.crew).frames.getLast? with
    | none => .trap 0x10 r.head 3 0 0 s
    | some f =>
      let pop := fun (t : State) => t.onAux g.crew fun a => { a with frames := a.frames.dropLast }
      if frameJaddr f = 0 then .next (pop s)
      else
        let va := (frameJaddr f).signExtend 64
        let q : LaneAcc := { va := va, size := 4, align := 4, kind := .atomic, wr := true, ww := true, atL2 := true }
        match s.checkLane (viaOf r) (s.ctxOf r) r.priv q with
        | (.error e, t) => Res.access r t e
        | (.ok p, t) =>
          let dec := leBytes 4 0xFFFFFFFF
          t.releasing g.crew r true (scopeOf (frameJscope f)) fun u =>
            let x := u.atomicLane g.crew r p.1 .dflt p.2 4 (fun old => some (atomBytes 4 .add dec old))
              (.atomic (BitVec.ofNat 48 p.2) p.1.attr p.1.key (.atom .add) 4 dec)
            .next (pop (x.2.claim u g.crew va 0))

/-- The access of JOIN and JOINQ. -/
def joinAcc (r : Crew) (a : SReg) : LaneAcc :=
  { va := r.sreg a, size := 4, align := 4, kind := .read, wr := true, ww := false, atL2 := true }

/-- JOIN's wait: for what must be performed before its read, and then while the counter on a local page does not read 0. A peer's counter
is read again at each issue. -/
def joinWait (a : SReg) : WaitFn := fun s g r =>
  match s.checkLane (viaOf r) (s.ctxOf r) r.priv (joinAcc r a) with
  | (.error _, _) => none
  | (.ok p, t) =>
    if (t.loadHeld g.crew r 4 [p]).isSome then some 3
    else if t.isLocal p.1 && leVal (t.loadLane g.crew r p.1 p.2 4 true .l2only).1 != 0 then some 8 else none

/-- JOIN (09 R238). -/
def execJoin (a : SReg) (sc : Scope) (s : State) : Host.Outcome State Fault Refusal :=
  runGroup (.join a sc) s (joinWait a) fun s g r =>
    match s.checkLane (viaOf r) (s.ctxOf r) r.priv (joinAcc r a) with
    | (.error e, t) => Res.access r t e
    | (.ok p, t) =>
      let x := t.loadLane g.crew r p.1 p.2 4 true .l2only
      if leVal x.1 = 0 then .next (x.2.acquire r sc) else .wait 8 x.2

/-- JOINQ's wait: a free request, and what must be performed before its read. -/
def joinqWait (a : SReg) : WaitFn := fun s g r =>
  match s.checkLane (viaOf r) (s.ctxOf r) r.priv (joinAcc r a) with
  | (.error _, _) => oneRequest s g r
  | (.ok p, t) => lesser (t.loadHeld g.crew r 4 [p]) (oneRequest s g r)

/-- JOINQ (09 R238). -/
def execJoinq (d a : SReg) (sc : Scope) (s : State) : Host.Outcome State Fault Refusal :=
  runGroup (.joinq d a sc) s (joinqWait a) fun s g r =>
    match s.checkLane (viaOf r) (s.ctxOf r) r.priv (joinAcc r a) with
    | (.error e, t) => Res.access r t e
    | (.ok p, t) =>
      let no := t.groupNo [(0, p)]
      let x := no.2.loadLane g.crew r p.1 p.2 4 true .l2only
      let u := (x.2.claim t g.crew (r.sreg a) no.1).return g.crew [] [d.toNat] 1 no.1
      .next ((u.acquire r sc).putCrew g.crew (r.setS d (BitVec.ofNat 64 (leVal x.1))))

/-! ## DEPSET and DEPDEC (09 R240) -/

/-- The fault of a counter operand. -/
def State.ctrFault (s : State) (r : Crew) (v : DWord) (extra : Bool) : Option (BitVec 8) :=
  let n := (v.extractLsb' 0 8).toNat
  if v.extractLsb' 8 56 ≠ 0 ∨ n = 0 ∨ extra then some 0x08
  else if s.heldCtr r.core (s.ctxOf r) n then some 0x07
  else none

/-- DEPSET (09 R240). -/
def execDepset (a b : SReg) (s : State) : Host.Outcome State Fault Refusal :=
  runGroup (.depset a b) s noWait fun s g r =>
    let n := ((r.sreg a).extractLsb' 0 8).toNat
    let v := r.sreg b
    match s.ctrFault r (r.sreg a) (v.extractLsb' 32 32 != 0) with
    | some code => Res.raise r s code
    | none =>
      let t := (s.release g.crew r .device).putCtr r.core n { value := v.setWidth 32, ctx := some (s.ctxOf r) }
      .next (if v = 0 then t.releaseCtr r.core n else t)

/-- DEPDEC (09 R240). -/
def execDepdec (a : SReg) (s : State) : Host.Outcome State Fault Refusal :=
  runGroup (.depdec a) s noWait fun s g r =>
    match s.ctrFault r (r.sreg a) false with
    | some code => Res.raise r s code
    | none => .next ((s.release g.crew r .device).decCtr r.core ((r.sreg a).extractLsb' 0 8).toNat)

/-! ## Rings (09 R242, R243) -/

/-- The access of a ring instruction to its header. -/
def ringAcc (r : Crew) (a : SReg) : LaneAcc :=
  { va := r.sreg a, size := 64, align := 64, kind := .ring, wr := false, ww := false, atL2 := true }

/-- RACQ's wait, for a request and for a free slot; a peer's header is read again at each issue. -/
def racqWait (a : SReg) : WaitFn := fun s g r => lesser (oneRequest s g r) <|
  match s.checkLane (viaOf r) (s.ctxOf r) r.priv (ringAcc r a) with
  | (.error _, _) => none
  | (.ok p, t) =>
    if t.isLocal p.1 then
      match ringOp 0 0 none ((List.range 64).map fun i => t.sliceGet p.1 (p.2 + i)) with
      | .wait => some 7
      | .fault _ => none
      | .ok _ _ _ => none
    else none

/-- The shape of a ring instruction: `rel` releases before it, else it acquires after it; `d` receives the result. -/
def ringBody (which : BitVec 2) (a : SReg) (x : Crew → DWord) (d : Option SReg) : BodyFn := fun s g r =>
  match s.checkLane (viaOf r) (s.ctxOf r) r.priv (ringAcc r a) with
  | (.error e, t) => Res.access r t e
  | (.ok p, t) =>
    let rel := which == 1 || which == 3
    let t1 := (if rel then t.release g.crew r .device else t).catchUp p.1 p.2
    let eng := t1.engAt p.1 p.2
    let no := t1.groupNo [(0, p)]
    let y := no.2.atomicLane g.crew r p.1 .dflt p.2 64 (ringStore which (x r) eng)
      (.atomic (BitVec.ofNat 48 p.2) p.1.attr p.1.key (.ring which) 64 (leBytes 8 (x r).toNat))
    match ringOp which (x r) eng y.1 with
    | .fault cause => .trap 0x11 r.head cause 0 0 t
    | .wait => .wait 7 y.2
    | .ok _ v e =>
      let u := (y.2.keepMarks p.1 p.2 e).claim t1 g.crew (r.sreg a) no.1
      let w := if rel then u else u.acquire r .device
      .next (match d with
        | some d => (w.return g.crew [] [d.toNat] 1 no.1).putCrew g.crew (r.setS d v)
        | none => w)

/-- RACQ (09 R243). -/
def execRacq (d a : SReg) (s : State) : Host.Outcome State Fault Refusal :=
  runGroup (.racq d a) s (racqWait a) (ringBody 0 a (fun _ => 0) (some d))

/-- RCOMMIT (09 R243, 15 R393). -/
def execRcommit (a b : SReg) (s : State) : Host.Outcome State Fault Refusal :=
  runGroup (.rcommit a b) s noWait (ringBody 1 a (fun r => r.sreg b) none)

/-- RPEEK (09 R243). -/
def execRpeek (d a : SReg) (s : State) : Host.Outcome State Fault Refusal :=
  runGroup (.rpeek d a) s oneRequest (ringBody 2 a (fun _ => 0) (some d))

/-- RREL (09 R243). -/
def execRrel (a b : SReg) (s : State) : Host.Outcome State Fault Refusal :=
  runGroup (.rrel a b) s noWait (ringBody 3 a (fun r => r.sreg b) none)

/-! ## Copies (09 R244-R251) -/

/-- The fields of a completion word (09 Table 9.9). -/
def wordKind (v : DWord) : Nat := (v.extractLsb' 0 2).toNat
/-- TILE. -/
def wordTile (v : DWord) : Nat := (v.extractLsb' 2 5).toNat
/-- CTR. -/
def wordCtr (v : DWord) : Nat := (v.extractLsb' 8 8).toNat
/-- SWZ. -/
def wordSwz (v : DWord) : BitVec 4 := v.extractLsb' 16 4
/-- MASK. -/
def wordMask (v : DWord) : KReg := v.extractLsb' 20 3

/-- Whether a completion word raises Reserved Bit. -/
def wordBad (codebook : Bool) (v : DWord) : Bool :=
  v.getLsbD 7 || v.extractLsb' 23 41 != 0 || wordKind v == 3 || (codebook && wordKind v == 2)
    || (wordKind v == 0 && (wordTile v != 0 || wordSwz v != 0))

/-- The tile check of a fill or drain at issue (09 R246). -/
def State.copyTileFault (s : State) (r : Crew) (v : DWord) : Option (BitVec 8) :=
  let e := s.tile r (wordTile v)
  if wordKind v = 0 then none
  else if s.tileCount r ≤ wordTile v ∨ e.size = 0 then some 0x0A
  else if wordKind v = 1 ∧ (e.state = .ready ∨ e.state = .draining) then some 0x0A
  else if wordKind v = 2 ∧ (e.state = .empty ∨ e.state = .filling) then some 0x0A
  else if wordSwz v ≠ e.swz then some 0x0B
  else none

/-- Check one side of a lane of a copy: its place in generic memory, or that its tile offset is good. -/
def State.copySide (s : State) (r : Crew) (tile : Option TileEntry) (va : DWord) (n : Nat) (kind : AccKind) :
    Except LaneFault (List (MemTag × Nat)) × State :=
  match tile with
  | some e =>
    if va.toNat % n ≠ 0 then (.error { code := 0x05, level := 0, addr := va, detail := 0 }, s)
    else if e.bytes < va.toNat + n then (.error { code := 0x09, level := 0, addr := va, detail := 0 }, s)
    else (.ok [], s)
  | none =>
    let q : LaneAcc := { va := va, size := n, align := n, kind := kind, wr := kind == .read, ww := kind == .write,
                         atL2 := true }
    match s.checkLane (viaOf r) (s.ctxOf r) r.priv q with
    | (.error f, t) => (.error f, t)
    | (.ok p, t) => (.ok [p], t)

/-- The bytes a copy reads and writes per lane. -/
def CopyJob.sizes (j : CopyJob) : Nat × Nat := if j.codebook then (4, 64) else (j.size, j.size)

/-- Check every lane of a copy and take its translations (09 R246, R247). -/
def State.copyLanes (s : State) (r : Crew) (j : CopyJob) :
    Except LaneTrap (List (List (MemTag × Nat) × List (MemTag × Nat))) × State :=
  let e := s.tile r (wordTile j.word)
  let src := if wordKind j.word = 2 then some e else none
  let dst := if wordKind j.word = 1 then some e else none
  let x := j.lanes.foldl (fun (acc : List (Nat × LaneFault) × List (List (MemTag × Nat) × List (MemTag × Nat)) × State) l =>
    let a := acc.2.2.copySide r src l.2.1 j.sizes.1 .read
    let b := a.2.copySide r dst l.2.2 j.sizes.2 .write
    match a.1, b.1 with
    | .ok p, .ok q => (acc.1, acc.2.1 ++ [(p, q)], b.2)
    | .error f, .ok _ => (acc.1 ++ [(l.1, f)], acc.2.1, b.2)
    | .ok _, .error f => (acc.1 ++ [(l.1, f)], acc.2.1, b.2)
    | .error f, .error h => (acc.1 ++ [(l.1, if faultRank h.code < faultRank f.code then h else f)], acc.2.1, b.2))
    ([], [], s)
  match worstOf x.1 with
  | some w => (.error w, x.2.2)
  | none => (.ok x.2.1, x.2.2)

/-- The copies in flight or awaiting replay in a queue of a core (09 R246, 14 R369). -/
def State.inFlight (s : State) (core q : Nat) : Nat :=
  (((s.coreOf core).queues.find q).getD []).length +
    (s.aux.filter fun a => match s.crews.find a.1 with
      | some r => r.core == core
      | none => false).foldl (fun n a => n + (a.2.replay.filter fun j => j.queue == q).length) 0

/-- COPY's wait for room in its queue. -/
def copyWait (q : BitVec 2) : WaitFn := fun s _ r => if 64 ≤ s.inFlight r.core q.toNat then some 13 else none

/-- Put a copy at the end of its queue. -/
def State.queueCopy (s : State) (core : Nat) (j : CopyJob) : State :=
  s.onCore core fun k => { k with queues := k.queues.put j.queue (((k.queues.find j.queue).getD []) ++ [j]) }

/-- A copy's tile moves when it issues (07 Table 7.4). -/
def State.copyPend (s : State) (r : Crew) (v : DWord) : State :=
  let e := s.tile r (wordTile v)
  match wordKind v with
  | 1 => s.putTile r.block r.part (wordTile v) { e with state := .filling, pend := e.pend + 1 }
  | 2 => s.putTile r.block r.part (wordTile v) { e with state := .draining, pend := e.pend + 1 }
  | _ => s

/-- The checks and the queueing of COPY and COPYCB (09 R246). -/
def copyBody (q : BitVec 2) (c : SReg) (a b : VReg) (codebook : Bool) (size : Nat) : BodyFn := fun s g r =>
  let v := r.sreg c
  if wordBad codebook v then Res.raise r s 0x08
  else
    match s.copyTileFault r v with
    | some code => Res.raise r s code
    | none =>
      if wordCtr v ≠ 0 ∧ s.heldCtr r.core (s.ctxOf r) (wordCtr v) then Res.raise r s 0x07
      else
        let m := r.live &&& r.kreg (wordMask v)
        let j : CopyJob :=
          { crew := g.crew, queue := q.toNat, codebook := codebook, size := size, word := v, cache := cacheOf g.hints,
            lanes := (lanesOf m).map fun l => (l, s.getV2 r a.toNat l, s.getV2 r b.toNat l), units := [], seq := s.nextId, origin := s.nextId, moved := false }
        match s.copyLanes r j with
        | (.error w, t) => Res.lanes t w
        | (.ok us, t) =>
          let t1 := (({ t with nextId := t.nextId + 1 }).release g.crew r .device).copyPend r v
          .next (t1.queueCopy r.core { j with units := us })

/-- COPY's size in bytes. -/
def copyBytes : CopySize → Nat
  | .c4 => 4
  | .c8 => 8
  | .c16 => 16

/-- COPY (09 R245). -/
def execCopy (q : BitVec 2) (c : SReg) (a b : VReg) (z : CopySize) (s : State) : Host.Outcome State Fault Refusal :=
  runGroup (.copy q c a b z) s (copyWait q) (copyBody q c a b false (copyBytes z))

/-- The codebook slot of a block on a core. -/
def State.bookOf (s : State) (core block : Nat) : Option (Nat × Codebook) :=
  (s.coreOf core).books.find? fun x => x.2.block == block

/-- COPYCB (09 R253). -/
def execCopycb (q : BitVec 2) (c : SReg) (a b : VReg) (s : State) : Host.Outcome State Fault Refusal :=
  runGroup (.copycb q c a b) s (copyWait q) fun s g r =>
    if (s.bookOf r.core r.block).isNone then Res.raise r s 0x0F else copyBody q c a b true 4 s g r

/-- The source bytes of a lane of a copy. -/
def State.copySource (s : State) (r : Crew) (e : TileEntry) (cache : CachePolicy) (va : DWord) (ps : List (MemTag × Nat)) (n : Nat) :
    List Byte × State :=
  match ps with
  | p :: _ =>
    if s.isLocal p.1 && rangeOf p.2 == .mmio then (s.mmioRead p.2 n, s) else s.homeRead p.1 (l2How p.1.attr cache) p.2 n
  | [] =>
    ((List.range n).map fun i =>
      let o := e.place (va.toNat + i)
      (s.bankGet r.block r.part (o / 4)).extractLsb' (8 * (o % 4)) 8, s)

/-- The 64 bytes of four codebook entries. -/
def expand (k : Codebook) (xs : List Byte) : List Byte :=
  xs.flatMap fun x => (List.range 16).map fun i => Sparse.get 0 k.entries (16 * x.toNat + i)

/-- Write a copy's bytes at their homes, in lane order where lanes name one location. -/
def State.copyWrite (s : State) (cache : CachePolicy) (ws : List ((MemTag × Nat) × Byte)) : State :=
  s.byTag ws fun u t mine => u.tagWrite t (l2How t.attr cache) mine

/-- Move all the data of a copy: every source byte is read before any byte is written (09 R248). A copy moves whole in the step
that performs it, one of the orders that 11 R299 allows (log entry 80). -/
def State.moveCopy (s : State) (r : Crew) (j : CopyJob) : State :=
  let e := s.tile r (wordTile j.word)
  let k := ((s.bookOf r.core r.block).map (·.2)).getD { block := r.block, entries := [] }
  let got := (j.lanes.zip j.units).foldl (fun (acc : List (DWord × List (MemTag × Nat) × List Byte) × State) x =>
    let y := acc.2.copySource r e j.cache x.1.2.1 x.2.1 j.sizes.1
    (acc.1 ++ [(x.1.2.2, x.2.2, if j.codebook then expand k y.1 else y.1)], y.2.claim acc.2 j.crew x.1.2.1 j.seq)) ([], s)
  if wordKind j.word = 1 then
    got.1.foldl (fun u x =>
      (List.range x.2.2.length).foldl (fun u i =>
        let o := e.place (x.1.toNat + i)
        u.bankPut r.block r.part (o / 4) (setByte32 (u.bankGet r.block r.part (o / 4)) (o % 4) (x.2.2.getD i 0))) u) got.2
  else
    (got.2.copyWrite j.cache (got.1.flatMap fun x =>
      match x.2.1 with
      | p :: _ => (List.range x.2.2.length).map fun i => ((p.1, p.2 + i), x.2.2.getD i 0)
      | [] => [])).claim got.2 j.crew ((got.1.head?.map (·.1)).getD 0) j.seq

/-- Whether a source of a copy has met an uncorrectable error since its issue (12 R321). -/
def State.copyPoisoned (s : State) (j : CopyJob) : Bool :=
  j.units.any fun u => match u.1 with
    | p :: _ => s.isLocal p.1 && s.poisoned p.2 j.sizes.1
    | [] => false

/-- A tile's state after one fill or drain of it ends (07 Table 7.4). -/
def TileEntry.step (e : TileEntry) (fill : Bool) : TileEntry :=
  { e with pend := e.pend - 1, state := if e.pend = 1 then (if fill then .ready else .empty) else e.state }

/-- A copy completes: its tile and its counter step (09 R251). -/
def State.endCopy (s : State) (r : Crew) (j : CopyJob) : State :=
  let v := j.word
  let t := if wordKind v = 0 then s
    else s.putTile r.block r.part (wordTile v) ((s.tile r (wordTile v)).step (wordKind v == 1))
  if wordCtr v = 0 then t else t.decCtr r.core (wordCtr v)

/-! ## The copy journal (14 R369-R371) -/

/-- The trap of a copy that fails as it is performed again: FLG bit 3, and bit 5 at a watchpoint (14 R361), with the head run's group
as the restart (14 R371). -/
def copyTrap (r : Crew) (w : LaneTrap) : TrapReq :=
  { code := w.fault.code, lanes := w.lanes, detail := w.fault.detail, level := w.fault.level, addr := w.fault.addr,
    pc := r.headPc, retired := r.retired, flg := if w.fault.code == 0x14 then 0x28 else 0x08,
    token := 0 }

/-- Re-enter the copies of a crew that await replay, oldest first; a lane that fails takes a trap with FLG bit 3 set and
leaves that copy and every later one in the journal. -/
def State.replayFrom (s : State) (c : Nat) (r : Crew) (jobs : List CopyJob) : State :=
  match jobs with
  | [] => s.onAux c fun a => { a with replay := [] }
  | j :: rest =>
    match s.copyLanes r j with
    | (.error w, t) => (t.onAux c fun a => { a with replay := j :: rest }).raise c (copyTrap r w) true
    | (.ok us, t) =>
      let t1 := ({ t with nextId := t.nextId + 1 }).release c r .device
      (t1.queueCopy r.core { j with units := us, seq := t.nextId, moved := false }).replayFrom c r rest

/-- Replay a crew's discarded copies once no handler runs and no load of the crew is owed by a peer: the crew's stores, which a copy
follows, and the copy's own writes wait for those loads (11 R287). Until then they stay in the journal and the crew issues nothing. -/
def State.replayCopies (s : State) (c : Nat) : State :=
  match s.crews.find c with
  | none => s
  | some r =>
    let a := s.auxOf c
    if a.replay.isEmpty || a.trap.nesting || !r.resident || a.susp.isSome || s.owed c then s else s.replayFrom c r a.replay

/-- Take the oldest copy of a queue out of it. -/
def State.unqueue (s : State) (core queue : Nat) : State :=
  s.onCore core fun k => { k with queues := k.queues.upd queue fun q => q.drop 1 }

/-- Whether a peer has yet to answer an access of a copy (11 R305). A peer that is lost owes nothing, so the copy then completes, its tile
and counter stepping, and the fault of 12 R333 is reported apart: the spec gives only the fault (log entry 13). -/
def State.copyOwed (s : State) (j : CopyJob) : Bool :=
  s.links.peers.any fun p => p.2.up && p.2.unacked.any fun f => f.group == j.seq

/-- Perform the oldest copy of a queue; where it reaches a peer it completes once the peer has answered (09 R251, 11 R305). -/
def State.performCopy (s : State) (core queue : Nat) (r : Crew) (j : CopyJob) : State :=
  let t := s.moveCopy r j
  if t.copyOwed j then
    t.onCore core fun k => { k with queues := k.queues.upd queue fun q => { j with moved := true } :: q.drop 1 }
  else (t.unqueue core queue).endCopy r j

/-- A source of the oldest copy of a queue has met an uncorrectable error since the copy's issue (12 R321): it is checked anew as a
replayed copy is. One that passes is performed. One that fails joins its crew's journal, whose replay raises the fault before the
crew's next group; a crew that has exited can take no trap, and its fault domain ends. The spec gives the fault and not its way to
the crew (log entry 81). -/
def State.failCopy (s : State) (core queue : Nat) (r : Crew) (j : CopyJob) : State :=
  match s.copyLanes r j with
  | (.ok us, t) => t.performCopy core queue r { j with units := us }
  | (.error w, t) =>
    let u := t.unqueue core queue
    if r.phase == .exited then u.terminate j.crew r (copyTrap r w) (u.auxOf j.crew).trapRec
    else u.onAux j.crew fun a => { a with replay := inIssueOrder (a.replay ++ [j]) }

/-- COPY_COMPLETE (09 R249, R251): the oldest copy of a queue is performed and completes. -/
def execCopyComplete (core : Nat) (queue : BitVec 2) (s : State) : Host.Outcome State Fault Refusal :=
  match ((s.coreOf core).queues.find queue.toNat).getD [] with
  | [] => .next s
  | j :: _ =>
    match s.crews.find j.crew with
    | none => .next (s.unqueue core queue.toNat)
    | some r =>
      if j.moved then .next (if s.copyOwed j then s else (s.unqueue core queue.toNat).endCopy r j)
      else if s.copyPoisoned j then .next (s.failCopy core queue.toNat r j)
      else .next (s.performCopy core queue.toNat r j)

/-! ## CBSET (09 R252) -/

/-- The access of CBSET. -/
def cbsetAcc (r : Crew) (a : SReg) : LaneAcc :=
  { va := r.sreg a, size := 4096, align := 4096, kind := .read, wr := true, ww := false, atL2 := true }

/-- The slot that CBSET takes. -/
def State.bookSlot (s : State) (core block : Nat) : Option Nat :=
  match s.bookOf core block with
  | some x => some x.1
  | none => (List.range 8).find? fun i => ((s.coreOf core).books.find i).isNone

/-- Whether a COPYCB of a block is still in flight on a core, or discarded and awaiting replay (14 R369, R370). -/
def State.expanding (s : State) (core block : Nat) : Bool :=
  ((s.coreOf core).queues.any fun q => q.2.any fun j => j.codebook && match s.crews.find j.crew with
    | some r => r.block == block
    | none => false)
    || s.crews.any fun e => e.2.block == block && e.2.core == core && (s.auxOf e.1).replay.any fun j => j.codebook

/-- CBSET's wait. -/
def cbsetWait (a : SReg) : WaitFn := fun s _ r =>
  match s.checkLane (viaOf r) (s.ctxOf r) r.priv (cbsetAcc r a) with
  | (.error _, _) => none
  | (.ok _, _) => if (s.bookSlot r.core r.block).isNone || s.expanding r.core r.block then some 13 else none

/-- CBSET (09 R252). -/
def execCbset (a : SReg) (s : State) : Host.Outcome State Fault Refusal :=
  runGroup (.cbset a) s (cbsetWait a) fun s g r =>
    match s.checkLane (viaOf r) (s.ctxOf r) r.priv (cbsetAcc r a) with
    | (.error e, t) => Res.access r t e
    | (.ok p, t) =>
      match t.bookSlot r.core r.block with
      | none => .wait 13 t
      | some i =>
        let t1 := t.release g.crew r .device
        let x := if t1.isLocal p.1 && rangeOf p.2 == .mmio then (t1.mmioRead p.2 4096, t1) else t1.homeRead p.1 (l2How p.1.attr .dflt) p.2 4096
        let es : Sparse Byte := (List.range 4096).filterMap fun o =>
          let b := x.1.getD o 0
          if b = 0 then none else some (o, b)
        .next (x.2.onCore r.core fun k => { k with books := k.books.put i { block := r.block, entries := es } })

end Sys2Proof.Machine
end

