-- ==== Sys2Proof/Machine/Strip.lean ====
section
/-!
DEFINITION. The strip instructions, the chain instructions and random numbers (10 R256-R271).
-/

namespace Sys2Proof.Machine

/-! ## Descriptors -/

/-- Read an n-byte descriptor at a scalar's address, with the checks that come before every lane's (10 R256, R260). A read
watchpoint may match it, as those rules say; the Watchpoint row of Table 10.9 names only BIN's bitmap words (log entry 84). -/
def State.descriptor (s : State) (c : Nat) (r : Crew) (m : LaneMask) (va : DWord) (n : Nat) :
    Except LaneTrap (List Byte) × State :=
  match s.checkLane (viaOf r) (s.ctxOf r) r.priv { va := va, size := n, align := n, kind := .read, wr := true, ww := false, atL2 := false } with
  | (.error e, t) => (.error { lanes := m, fault := { e with addr := va } }, t)
  | (.ok p, t) =>
    let x := t.loadLane c r p.1 p.2 n false .dflt
    (.ok x.1, x.2)

/-- The wait of a descriptor's read for what must be performed before it. -/
def descriptorWait (b : SReg) (n : Nat) : WaitFn := fun s g r =>
  match s.checkLane (viaOf r) (s.ctxOf r) r.priv
      { va := r.sreg b, size := n, align := n, kind := .read, wr := true, ww := false, atL2 := false } with
  | (.error _, _) => none
  | (.ok p, t) => t.loadHeld g.crew r n [p]

/-- A Reserved Bit of a descriptor. -/
def badDescriptor (m : LaneMask) (va : DWord) : LaneTrap :=
  { lanes := m, fault := { code := 0x08, level := 0, addr := va, detail := 0 } }

/-- Check the accesses of one lane up to its first fault: a lane whose words or texels fail in different ways reports the first of
them in strip or texel order (log entry 32). -/
def State.checkMany (s : State) (via : Option Nat) (ctx : Nat) (priv : Bool) (qs : List LaneAcc) :
    Except LaneFault (List (MemTag × Nat)) × State :=
  qs.foldl (fun (acc : Except LaneFault (List (MemTag × Nat)) × State) q =>
    match acc.1 with
    | .error _ => acc
    | .ok ps =>
      match acc.2.checkLane via ctx priv q with
      | (.error e, t) => (.error e, t)
      | (.ok p, t) => (.ok (ps ++ [p]), t)) (.ok [], s)

/-- Check the accesses of several lanes, several a lane. -/
def State.checkLists (s : State) (via : Option Nat) (ctx : Nat) (priv : Bool) (qs : List (Nat × List LaneAcc)) :
    Except LaneTrap (List (Nat × List (MemTag × Nat))) × State :=
  let x := qs.foldl (fun (acc : List (Nat × LaneFault) × List (Nat × List (MemTag × Nat)) × State) q =>
    match acc.2.2.checkMany via ctx priv q.2 with
    | (.error e, t) => (acc.1 ++ [(q.1, e)], acc.2.1, t)
    | (.ok ps, t) => (acc.1, acc.2.1 ++ [(q.1, ps)], t)) ([], [], s)
  match worstOf x.1 with
  | some w => (.error w, x.2.2)
  | none => (.ok x.2.1, x.2.2)

/-! ## BIN (10 R256, R257) -/

/-- The height of a strip. -/
def stripLines : StripH → Nat
  | .h8 => 8
  | .h16 => 16
  | .h32 => 32

/-- Whether a bin descriptor breaks its limits (10 Table 10.1). -/
def binBad (bs : List Byte) : Bool :=
  let np := fieldAt bs 8 4
  let ns := fieldAt bs 12 2
  fieldAt bs 0 8 % 128 != 0 || np % 1024 != 0 || np == 0 || decide (2 ^ 24 < np) || ns == 0 || decide (1024 < ns)
    || fieldAt bs 14 2 != 0

/-- The bitmap words of a primitive: strips floor(y0/h) to floor(last/h). -/
def binWords (bs : List Byte) (h id range : Nat) : List DWord :=
  let np := fieldAt bs 8 4
  let y0 := range % 65536
  let last := min (range / 65536) (h * fieldAt bs 12 2 - 1)
  if last < y0 then []
  else (List.range (last / h - y0 / h + 1)).map fun i =>
    BitVec.ofNat 64 (fieldAt bs 0 8 + (y0 / h + i) * (np / 8) + 4 * (id / 32))

/-- BIN (10 R257). -/
def execBin (d a : VReg) (b : SReg) (w : StripH) (k : KReg) (s : State) : Host.Outcome State Fault Refusal :=
  runGroup (.bin d a b w k) s (descriptorWait b 16) fun s g r =>
    let m := r.active k
    let va := r.sreg b
    match s.descriptor g.crew r m va 16 with
    | (.error e, t) => Res.lanes t e
    | (.ok bs, t) =>
      if binBad bs then Res.lanes t (badDescriptor m va)
      else
        let id := fun l => (s.getV r d.toNat l).toNat
        let high := maskOf fun l => m.getLsbD l && decide (fieldAt bs 8 4 ≤ id l)
        if high ≠ 0 then .trap 0x08 high 0 0 0 t
        else
          let accs := (lanesOf m).map fun l =>
            (l, (binWords bs (stripLines w) (id l) (s.getV r a.toNat l).toNat).map fun va =>
              ({ va := va, size := 4, align := 4, kind := .atomic, wr := false, ww := true, atL2 := true } : LaneAcc))
          match t.checkLists (viaOf r) (s.ctxOf r) r.priv accs with
          | (.error e, u) => Res.lanes u e
          | (.ok ps, u) =>
            .next (ps.foldl (fun u x =>
              let bit := leBytes 4 (2 ^ (id x.1 % 32))
              x.2.foldl (fun u p =>
                (u.atomicLane g.crew r p.1 (cacheOf g.hints) p.2 4 (fun old => some (atomBytes 4 .or bit old))
                  (.atomic (BitVec.ofNat 48 p.2) p.1.attr p.1.key (.atom .or) 4 bit)).2) u) u)

/-! ## COVER and ZTEST (10 R258, R259) -/

/-- The coverage mask of an edge: steps and value at pixel (0, 0). -/
def coverMask (a b e : Int) : Nat :=
  (List.range 16).foldl (fun m i =>
    let v := e + a * (i % 4 : Nat) + b * (i / 4 : Nat)
    if v > 0 ∨ (v = 0 ∧ (a > 0 ∨ (a = 0 ∧ b > 0))) then m + 2 ^ i else m) 0

/-- COVER of one lane. -/
def coverWord (d a b : Word) : Word :=
  BitVec.ofNat 32 (coverMask (a.extractLsb' 0 16).toInt (a.extractLsb' 16 16).toInt b.toInt) &&& d &&& 0xFFFF

/-- COVER (10 R258). -/
def execCover (d a b : VReg) (k : KReg) (s : State) : Host.Outcome State Fault Refusal :=
  runGroup (.cover d a b k) s noWait fun s _ r =>
    .next (s.mapLanes r d (r.active k) fun l =>
      coverWord (s.getV r d.toNat l) (s.getV r a.toNat l) (s.getV r b.toNat l))

/-- ZTEST's compare, new against old, unsigned. -/
def depthHolds (c : DepthCond) (x old : Word) : Bool :=
  match c with
  | .never => false
  | .less => decide (x < old)
  | .equal => x == old
  | .lequal => decide (x ≤ old)
  | .greater => decide (old < x)
  | .notequal => x != old
  | .gequal => decide (old ≤ x)
  | .always => true

/-- One lane of ZTEST: the state and whether the test held. -/
def State.ztestLane (s : State) (r : Crew) (c : DepthCond) (va : DWord) (x : Word) : Bool × State :=
  let old := (s.bankWords r va 1).getD 0 0
  if depthHolds c x old then (true, s.putBankWords r va [x]) else (false, s)

/-- ZTEST (10 R259). -/
def execZtest (c : DepthCond) (t : KReg) (a b : VReg) (k : KReg) (s : State) : Host.Outcome State Fault Refusal :=
  runGroup (.ztest c t a b k) s noWait fun s g r =>
    let m := r.active k
    let addr := fun l => (s.getV r a.toNat l).setWidth 64
    match worstOf (s.bankFaults r m addr 4) with
    | some w => Res.lanes s w
    | none =>
      let x := (lanesOf m).foldl (fun (acc : LaneMask × State) l =>
        let y := acc.2.ztestLane r c (addr l) (s.getV r b.toNat l)
        (if y.1 then acc.1 ||| (1#32 <<< l) else acc.1, y.2)) (0, s)
      let kept := (lanesOf m).filter fun l => !(lanesOf x.1).any fun w => addr w == addr l
      let s1 := (x.2.races g r false (kept.map addr) 1).races g r true ((lanesOf x.1).map addr) 1
      .next ((s1.returnMask g.crew (if m = 0 then [] else [t.toNat])).putCrew g.crew (r.setLanes t m fun l => x.1.getLsbD l))

/-! ## Textures (10 R260-R263) -/

/-- The footprint's first texel and fraction of a 16-bit coordinate (10 R261). -/
def footprint (u : Nat) (log : Nat) : Int × Nat :=
  let x : Int := (u * 2 ^ log : Nat) - (2 ^ 15 : Nat)
  (x / (65536 : Nat), (x % (65536 : Nat)).toNat)

/-- Fold a texel coordinate; none is OUT. -/
def fold (mode : TexMode) (c : Int) (n : Nat) : Option Nat :=
  match mode with
  | .wrap => some (c % (n : Int)).toNat
  | .clamp => some (min (max c 0) ((n : Int) - 1)).toNat
  | .mirror =>
    let r := (c % ((2 * n : Nat) : Int)).toNat
    some (if r < n then r else 2 * n - 1 - r)
  | .border => if 0 ≤ c ∧ c < (n : Int) then some c.toNat else none

/-- Whether a texture descriptor breaks its limits (10 R260). A BASE that is not 4-aligned, against Table 10.2, is no such limit:
R260 names no descriptor fault for it, and each texel that is loaded raises Misaligned (log entry 85). -/
def texBad (bs : List Byte) : Bool :=
  decide (15 < fieldAt bs 8 1) || decide (15 < fieldAt bs 9 1) || fieldAt bs 10 2 != 0 || fieldAt bs 16 16 != 0

/-- The four texels of a coordinate: the address of each, none for a border texel. -/
def texels (bs : List Byte) (mode : TexMode) (w : Word) : List (Option DWord) :=
  let lw := fieldAt bs 8 1
  let lh := fieldAt bs 9 1
  let x0 := (footprint (w.toNat % 65536) lw).1
  let y0 := (footprint (w.toNat / 65536) lh).1
  (List.range 4).map fun i =>
    match fold mode (x0 + (i % 2 : Nat)) (2 ^ lw), fold mode (y0 + (i / 2 : Nat)) (2 ^ lh) with
    | some x, some y => some (BitVec.ofNat 64 (fieldAt bs 0 8 + 4 * (y * 2 ^ lw + x)))
    | _, _ => none

/-- The texel accesses of each lane of TEXQ: border texels load nothing. -/
def State.texAccs (s : State) (r : Crew) (m : LaneMask) (a : VReg) (mode : TexMode) (bs : List Byte) : List (Nat × List LaneAcc) :=
  (lanesOf m).map fun l =>
    (l, (texels bs mode (s.getV r a.toNat l)).filterMap fun p => p.map fun va =>
      ({ va := va, size := 4, align := 4, kind := .read, wr := true, ww := false, atL2 := false } : LaneAcc))

/-- The lines that TEXQ's texels lie in, one outstanding request each (07 R198). -/
def texRequests (accs : List (Nat × List LaneAcc)) : Nat := requestsOf (accs.flatMap fun x => x.2.map (·.va))

/-- TEXQ's waits: outstanding requests (07 R198), and what must be performed before it reads its texels. -/
def texqWait (a : VReg) (b : SReg) (mode : TexMode) (k : KReg) : WaitFn := fun s g r =>
  match descriptorWait b 32 s g r with
  | some n => some n
  | none =>
    match s.descriptor g.crew r (r.active k) (r.sreg b) 32 with
    | (.error _, _) => none
    | (.ok bs, t) =>
      if texBad bs then none
      else
        let accs := t.texAccs r (r.active k) a mode bs
        let n := texRequests accs
        if n ≠ 0 ∧ 128 < s.outstanding r.pkey + n then some 3
        else
          match t.checkLists (viaOf r) (s.ctxOf r) r.priv accs with
          | (.error _, _) => none
          | (.ok ps, u) => u.loadHeld g.crew r 4 (ps.flatMap (·.2))

/-- TEXQ (10 R262). -/
def execTexq (d a : VReg) (b : SReg) (mode : TexMode) (k : KReg) (s : State) : Host.Outcome State Fault Refusal :=
  runGroup (.texq d a b mode k) s (texqWait a b mode k) fun s g r =>
    let m := r.active k
    let va := r.sreg b
    match s.descriptor g.crew r m va 32 with
    | (.error e, t) => Res.lanes t e
    | (.ok bs, t) =>
      if texBad bs then Res.lanes t (badDescriptor m va)
      else
        let accs := t.texAccs r m a mode bs
        match t.checkLists (viaOf r) (s.ctxOf r) r.priv accs with
        | (.error e, u) => Res.lanes u e
        | (.ok ps, u) =>
          let border := BitVec.ofNat 32 (fieldAt bs 12 4)
          let no := u.groupNo (ps.flatMap fun x => x.2.map fun p => (x.1, p))
          let v := ps.foldl (fun (u : State) x =>
            let y := (texels bs mode (s.getV r a.toNat x.1)).foldl (fun (acc : List Word × List (MemTag × Nat) × State) p =>
              match p, acc.2.1 with
              | some q, h :: rest =>
                let z := acc.2.2.loadLane g.crew r h.1 h.2 4 false (cacheOf g.hints)
                (acc.1 ++ [BitVec.ofNat 32 (leVal z.1)], rest, z.2.claim acc.2.2 g.crew q no.1)
              | _, rest => (acc.1 ++ [border], rest, acc.2.2)) (([] : List Word), x.2, u)
            (List.range 4).foldl (fun u i => u.putV r (d.toNat + i) x.1 (y.1.getD i 0)) y.2.2) no.2
          .next (v.return g.crew (if m = 0 then [] else regsFrom d.toNat 4) [] (texRequests accs) no.1)

/-- TEXW of one lane. -/
def texWeights (a b : Word) : Word :=
  let fx := (footprint (a.toNat % 65536) (b.toNat % 16)).2
  let fy := (footprint (a.toNat / 65536) (b.toNat / 16 % 16)).2
  BitVec.ofNat 32 ((fx + 128) / 256 + 65536 * ((fy + 128) / 256))

/-- TEXW (10 R263). -/
def execTexw (d a b : VReg) (k : KReg) (s : State) : Host.Outcome State Fault Refusal :=
  runGroup (.texw d a b k) s noWait (vec2 d a b k texWeights)

/-! ## Chains (10 R264-R267) -/

/-- The chain a crew is bound to (10 R264). -/
def State.boundChain (s : State) (c : Nat) (r : Crew) : Option (Nat × Chain) :=
  match (s.auxOf c).frames.getLast? with
  | none => none
  | some f => s.chains.find? fun x => x.2.ctx == s.ctxOf r && x.2.rslot == frameRslot f

/-- The level that RATE reads on a clk: a step is read from the next clock on (13 R353). -/
def Chain.levelAt (c : Chain) (clk : Nat) : Nat := if clk ≤ c.levelClk then c.levelWas else c.levelNow

/-- The RATE word of a chain (10 Table 10.4). -/
def Chain.rate (c : Chain) (clk : Nat) : DWord :=
  let n := c.levelAt clk
  let lx := ([0, 1, 1, 2, 2] : List Nat).getD n 0
  let ly := ([0, 0, 1, 1, 2] : List Nat).getD n 0
  BitVec.ofNat 64 (n + 16 * lx + 256 * ly + if c.pin then 65536 else 0)

/-- RATE (10 R265). -/
def execRate (d : SReg) (s : State) : Host.Outcome State Fault Refusal :=
  runGroup (.rate d) s noWait fun s g r =>
    .next (s.putCrew g.crew (r.setS d (match s.boundChain g.crew r with
      | some x => x.2.rate s.clk
      | none => 0x8000000000000000)))

/-- The code of a chain state (13 Table 13.6). -/
def ChainState.code : ChainState → Nat
  | .idle => 0
  | .reserving => 1
  | .running => 2
  | .late => 3

/-- The release time of an instance. -/
def Chain.releaseOf (c : Chain) (n : Nat) : Nat := c.release0.toNat + n * c.period.toNat

/-- An item of a chain (10 Table 10.5). -/
def Chain.item (c : Chain) (clk i : Nat) : DWord :=
  match i with
  | 0 => BitVec.ofNat 64 c.state.code
  | 1 => BitVec.ofNat 64 (c.releaseOf c.inst.toNat)
  | 2 => BitVec.ofNat 64 (c.releaseOf c.inst.toNat + c.drel.toNat)
  | 3 => c.pred
  | 4 => c.rate clk
  | 5 => c.count.setWidth 64
  | 6 => c.work.setWidth 64
  | _ => c.overruns.setWidth 64

/-- CHAINQ (10 R266). -/
def execChainq (d a : SReg) (s : State) : Host.Outcome State Fault Refusal :=
  runGroup (.chainq d a) s noWait fun s g r =>
    let v := r.sreg a
    let item := (v.extractLsb' 0 8).toNat
    let handle := (v.extractLsb' 16 16).toNat
    if v.extractLsb' 8 8 ≠ 0 ∨ v.extractLsb' 32 32 ≠ 0 ∨ 8 ≤ item then Res.raise r s 0x08
    else
      let x := if handle = 0xFFFF then (s.boundChain g.crew r).map (·.2) else s.chains.find handle
      match x with
      | none => .next (s.putCrew g.crew (r.setS d 0xFFFFFFFFFFFFFFFF))
      | some k => if k.ctx ≠ s.ctxOf r then Res.raise r s 0x07 else .next (s.putCrew g.crew (r.setS d (k.item s.clk item)))

/-- PROGRESS (10 R267, 13 R353): the report reaches the strip scheduler by PROGRESS_REPORT; a chain that is not RUNNING or LATE as
PROGRESS issues takes none. -/
def execProgress (x : BitVec 16) (s : State) : Host.Outcome State Fault Refusal :=
  runGroup (.progress x) s noWait fun s g r =>
    .next (match s.boundChain g.crew r with
      | some k =>
        if k.2.state == .running || k.2.state == .late then
          { s with chains := s.chains.upd k.1 fun c => { c with reports := c.reports ++ [(s.time, x.toNat)] } }
        else s
      | none => s)

/-! ## Random numbers (10 R268-R271) -/

/-- Philox4x32-10: n rounds left. -/
def philox (c0 c1 c2 c3 k0 k1 : Word) : Nat → List Word
  | 0 => [c0, c1, c2, c3]
  | n + 1 =>
    let p0 := 0xD2511F53 * c0.toNat
    let p1 := 0xCD9E8D57 * c2.toNat
    philox (BitVec.ofNat 32 (p1 / 2 ^ 32) ^^^ c1 ^^^ k0) (BitVec.ofNat 32 p1)
      (BitVec.ofNat 32 (p0 / 2 ^ 32) ^^^ c3 ^^^ k1) (BitVec.ofNat 32 p0) (k0 + 0x9E3779B9) (k1 + 0xBB67AE85) n

/-- GLANE of a lane (10 Table 10.6). -/
def State.glane (s : State) (r : Crew) (l : Nat) : DWord :=
  let bl := ((s.blockOf r).map (·.bl)).getD 0
  BitVec.ofNat 64 (32 * ((s.packetOf r).crews.toNat * bl + r.index) + l)

/-- The lane word of the RNG (10 R268). -/
def State.laneWord (s : State) (r : Crew) (l : Nat) : DWord := if r.rngSel then BitVec.ofNat 64 l else s.glane r l

/-- The draw index of a lane. -/
def Crew.draw (r : Crew) (l : Nat) : DWord := Sparse.get 0 r.rngIdx l

/-- The block of a lane. -/
def State.rngBlock (s : State) (r : Crew) (l : Nat) : List Word :=
  let ix := r.draw l
  let lw := s.laneWord r l
  philox (ix.setWidth 32) (ix.extractLsb' 32 32) (lw.setWidth 32) (lw.extractLsb' 32 32) (r.rngKey.setWidth 32)
    (r.rngKey.extractLsb' 32 32) 10

/-- RNG (10 R269). -/
def execRng (d : VReg) (k : KReg) (s : State) : Host.Outcome State Fault Refusal :=
  runGroup (.rng d k) s noWait fun s g r =>
    let ls := lanesOf (r.active k)
    let s1 := ls.foldl (fun u l =>
      let b := s.rngBlock r l
      (List.range 4).foldl (fun u i => u.putV r (d.toNat + i) l (b.getD i 0)) u) s
    let wrap := ls.any fun l => r.draw l + 1 == 0
    .next (s1.putCrew g.crew { r with
      rngIdx := ls.foldl (fun m l => Sparse.put 0 m l (r.draw l + 1)) r.rngIdx
      flags := if wrap then r.flags ||| fRNG else r.flags })

/-- RNGKEY (10 R271). -/
def execRngkey (a : SReg) (s : State) : Host.Outcome State Fault Refusal :=
  runGroup (.rngkey a) s noWait fun s g r =>
    .next (s.putCrew g.crew { r with rngKey := r.sreg a, rngSel := true, rngIdx := [] })

end Sys2Proof.Machine
end

