-- ==== Sys2Proof/Machine/System.lean ====
section
/-!
DEFINITION. The system instructions: TRAP, BRK, system values, time, hidden state and RETT (10 R272-R280), and the replay
of discarded copies (14 R370, R371).
-/

namespace Sys2Proof.Machine

/-! ## Traps from software (10 R272) -/

/-- TRAP. -/
def execTrap (x : BitVec 16) (s : State) : Host.Outcome State Fault Refusal :=
  runGroup (.trap x) s noWait fun s _ _ => .after 0x12 x s

/-- BRK. -/
def execBrk (x : BitVec 16) (s : State) : Host.Outcome State Fault Refusal :=
  runGroup (.brk x) s noWait fun s _ r => .trap 0x13 r.head x 0 0 s

/-! ## System values (10 R273, R274) -/

/-- The value of a system id for a lane (10 Table 10.6), as a scalar destination reads it. -/
def State.sysValue (s : State) (c : Nat) (r : Crew) (id l : Nat) : DWord :=
  let p := s.packetOf r
  let bl := ((s.blockOf r).map (·.bl)).getD 0
  let nx := p.gridX.toNat
  let ny := p.gridY.toNat
  match id with
  | 0 => BitVec.ofNat 64 l
  | 1 => BitVec.ofNat 64 r.index
  | 2 => BitVec.ofNat 64 r.partition
  | 3 => BitVec.ofNat 64 r.core
  | 4 => BitVec.ofNat 64 (s.clusterOf r.core)
  | 5 => BitVec.ofNat 64 (bl % nx)
  | 6 => BitVec.ofNat 64 (bl / nx % ny)
  | 7 => BitVec.ofNat 64 (bl / nx / ny)
  | 8 => p.gridX.setWidth 64
  | 9 => p.gridY.setWidth 64
  | 10 => p.gridZ.setWidth 64
  | 11 => p.crews.setWidth 64
  | 12 => BitVec.ofNat 64 r.part
  | 13 => BitVec.ofNat 64 (s.spreadOf r)
  | 14 => BitVec.ofNat 64 (s.ctxOf r)
  | 15 =>
    let slot := s.rslotOf c r
    if (s.region (s.ctxOf r) slot).isSome then BitVec.ofNat 64 slot else 0xFFFFFFFF
  | 16 => (s.glane r l).extractLsb' 0 32 |>.setWidth 64
  | 17 => (s.glane r l).extractLsb' 32 32 |>.setWidth 64
  | 18 => BitVec.ofNat 64 (r.part * 2 ^ 22 + 4 * s.regBase r)
  | 19 => (s.auxOf c).tlsBase
  | 20 => ((s.auxOf c).tlsBase.extractLsb' 32 32).setWidth 64
  | 21 => r.retired.setWidth 64
  | 22 => (r.retired.extractLsb' 32 16).setWidth 64
  | _ => r.mode

/-- RDSV (10 R273). -/
def execRdsv (d : SvDest) (id : BitVec 5) (s : State) : Host.Outcome State Fault Refusal :=
  runGroup (.rdsv d id) s noWait fun s g r =>
    match d with
    | .vec d => .next (s.mapLanes r d r.head fun l => (s.sysValue g.crew r id.toNat l).setWidth 32)
    | .scal d => .next (s.putCrew g.crew (r.setS d (s.sysValue g.crew r id.toNat 0)))

/-- WRSV (10 R274). The group itself does not count: completing it steps the count to the value written. -/
def execWrsv (a : SReg) (id : BitVec 5) (s : State) : Host.Outcome State Fault Refusal :=
  runGroup (.wrsv a id) s noWait fun s g r =>
    let v := r.sreg a
    if v.extractLsb' 48 16 ≠ 0 then Res.raise r s 0x08
    else .next (s.putCrew g.crew { r with retired := v.setWidth 48 - 1 })

/-! ## Time (10 R275, R276) -/

/-- RDTIME. -/
def execRdtime (d : SReg) (s : State) : Host.Outcome State Fault Refusal :=
  runGroup (.rdtime d) s noWait (scalarTo d fun s _ => s.time)

/-- WAITT's wait. -/
def waittWait (a : SReg) : WaitFn := fun s _ r => if s.time < r.sreg a then some 14 else none

/-- WAITT. -/
def execWaitt (a : SReg) (s : State) : Host.Outcome State Fault Refusal :=
  runGroup (.waitt a) s (waittWait a) fun s _ _ => .next s

/-! ## Reading hidden state (10 R277, R278) -/

/-- A bit at a position. -/
def bitAt (b : Bool) (n : Nat) : DWord := (BitVec.ofBool b).setWidth 64 <<< n

/-- The parity of a block's barrier generations. -/
def State.parities (s : State) (r : Crew) : BitVec 16 :=
  let gens := ((s.blockOf r).map (·.gens)).getD []
  (List.range 16).foldl (fun m b => if Sparse.get 0 gens b % 2 = 1 then m ||| (1#16 <<< b) else m) 0

/-- A crew word (10 Table 10.8). In BARS the parity bit of a barrier that the crew has not arrived at reads 0: the table gives only
that of the generation it arrived in (log entry 82). -/
def State.crewWord (s : State) (c : Nat) (r : Crew) (i : Nat) : DWord :=
  let a := s.auxOf c
  let p := s.pn r.pkey
  match i with
  | 0 => r.mode
  | 1 => r.flags.setWidth 64
  | 2 => r.rngKey
  | 3 => r.retired.setWidth 64
  | 4 => r.retStop.setWidth 64 ||| bitAt r.retStopEn 63
  | 5 => a.trap.cause.setWidth 64 ||| bitAt a.trap.nesting 8 ||| bitAt a.trap.spriv 9 ||| (a.trap.detail.setWidth 64 <<< 16)
  | 6 => a.trapRec
  | 7 => bitAt r.rngSel 0
  | 8 => a.arrived.setWidth 64 ||| ((s.parities r &&& a.arrived).setWidth 64 <<< 16) ||| (a.hold.setWidth 64 <<< 32)
  | 9 =>
    match p.pairOf c with
    | some q => (Sparse.get 0 p.events (2 * q)).setWidth 64 ||| ((Sparse.get 0 p.events (2 * q + 1)).setWidth 64 <<< 8)
    | none => 0
  | 10 =>
    if p.planeOwner = some c then
      p.front.fmt.setWidth 64 ||| bitAt p.front.valid 3 ||| (p.shadow.fmt.setWidth 64 <<< 4) ||| bitAt p.shadow.valid 7
        ||| bitAt true 8
    else 0
  | 11 => a.sel
  | 12 => BitVec.ofNat 64 a.frames.length
  | n => (Sparse.get 0 r.stalls (n - 13)).setWidth 64

/-- SEL.E. -/
def CrewAux.selE (a : CrewAux) : Nat := (a.sel.extractLsb' 0 4).toNat

/-- The plane byte that SEL and an index of group 7 name. -/
def CrewAux.planeByte (a : CrewAux) (i : Nat) : Nat := (if a.sel.getLsbD 9 then 512 else 0) + 8 * i

/-- A state item (10 Table 10.7). -/
def State.stateItem (s : State) (c : Nat) (r : Crew) (item : Nat) : DWord :=
  let a := s.auxOf c
  let i := item % 64
  match item / 64 with
  | 0 => s.crewWord c r i
  | 1 => (r.heldPcs.getD i 0).setWidth 64 ||| bitAt (r.heldExited.getLsbD i) 63
  | 2 =>
    let k := r.rstack i
    BitVec.ofNat 64 k.depth ||| bitAt k.ovf 17 ||| (k.count.setWidth 64 <<< 32)
  | 3 => ((r.rstack i).chip.getD a.selE 0).setWidth 64
  | 4 => r.draw i
  | 5 =>
    if i < 16 then (a.frames.getD (i / 4) 0).extractLsb' (64 * (i % 4)) 64
    else (r.qreg (BitVec.ofNat 2 ((i - 16) / 3))).extractLsb' (64 * ((i - 16) % 3)) 64
  | 6 => (s.tile r i).bits
  | _ =>
    let p := s.pn r.pkey
    let k := if a.sel.getLsbD 8 then p.shadow else p.front
    BitVec.ofNat 64 (leVal ((List.range 8).map fun j => Sparse.get 0 k.bytes (a.planeByte i + j)))

/-- RDSTATE waits for every earlier group's writes (10 R279). -/
def rdstateWait : WaitFn := fun s g r =>
  if s.serial g.crew r || !(s.auxOf g.crew).returning.isEmpty then some 2 else none

/-- RDSTATE (10 R277). -/
def execRdstate (d : SReg) (item : BitVec 10) (s : State) : Host.Outcome State Fault Refusal :=
  runGroup (.rdstate d item) s rdstateWait fun s g r => .next (s.putCrew g.crew (r.setS d (s.stateItem g.crew r item.toNat)))

/-! ## Writing hidden state -/

/-- The bits of a crew word that its layout holds zero. -/
def crewWordZeros (i : Nat) : DWord :=
  match i with
  | 0 => 0xFF000000000000E0
  | 1 => 0
  | 2 => 0
  | 3 => 0xFFFF000000000000
  | 4 => 0x7FFF000000000000
  | 5 => 0xFFFFFFFF0000FC00
  | 6 => 0
  | 7 => 0xFFFFFFFFFFFFFFFE
  | 8 => 0xFFFF000000000000
  | 9 => 0xFFFFFFFFFFFF2828
  | 10 => 0xFFFFFFFFFFFFFE00
  | 11 => 0xFFFFFFFFFFFFFCF0
  | 12 => 0xFFFFFFFFFFFFFFF8
  | _ => 0xFFFFFFFF00000000

/-- Whether a value written to an item raises Reserved Bit: a bit its layout holds zero, or a field beyond its limit. Bits [1:0] of
a PC are no such bits: a PC written here, or loaded by RET from a spill slot, keeps them, and its group is fetched at the unaligned
address; the spec names neither fault nor masking there (log entry 83). -/
def stateBad (a : CrewAux) (item : Nat) (v : DWord) : Bool :=
  let i := item % 64
  match item / 64 with
  | 0 => v &&& crewWordZeros i != 0 || (i == 12 && decide (4 < v.toNat))
  | 1 => v &&& 0x7E00000000000000 != 0
  | 2 => v &&& 0x00000000FFFC0000 != 0 || decide (16 + a.rsEnt < (v.extractLsb' 0 17).toNat)
  | 3 => v &&& 0xFE00000000000000 != 0
  | 4 => false
  | 5 => decide (16 ≤ i) && (i - 16) % 3 == 2 && v &&& 0xFFFFFFFFFFFF0000 != 0
  | 6 => v &&& 0x0000F00000000000 != 0
  | _ => false

/-- Resize a list, new places filled. -/
def resize {α : Type} (d : α) (n : Nat) (xs : List α) : List α := (List.range n).map fun i => xs.getD i d

/-- Write a crew word (10 Table 10.8). PLANES is written while a WLD of the crew's own is in flight too, on which the spec is silent: the WLD
then fills and makes valid whatever shadow plane stands when it completes (log entry 101). -/
def State.putCrewWord (s : State) (c : Nat) (r : Crew) (i : Nat) (v : DWord) : State :=
  let a := s.auxOf c
  match i with
  | 0 => s.putCrew c { r with mode := modeWord r.matrix (r.mode.extractLsb' 1 3) (v.getLsbD 4) (v.extractLsb' 8 48) }
  | 1 => s.putCrew c { r with flags := v.setWidth 6 }
  | 2 => s.putCrew c { r with rngKey := v }
  | 3 => s.putCrew c { r with retired := v.setWidth 48 - 1 }
  | 4 => s.putCrew c { r with retStop := v.setWidth 48, retStopEn := v.getLsbD 63 }
  | 5 =>
    s.putAux c { a with
      trap := { cause := v.setWidth 8, nesting := v.getLsbD 8, spriv := v.getLsbD 9, detail := v.extractLsb' 16 16 } }
  | 6 => s.putAux c { a with trapRec := v }
  | 7 => s.putCrew c { r with rngSel := v.getLsbD 0 }
  | 8 =>
    let same := ~~~ (v.extractLsb' 16 16 ^^^ s.parities r)
    (s.putAux c { a with arrived := v.setWidth 16 &&& same, hold := v.extractLsb' 32 16 &&& same }).settle r.block
  | 9 =>
    s.onPn r.pkey fun p =>
      { p with events := Sparse.put 0 (Sparse.put 0 p.events (2 * r.pair) (v.setWidth 8)) (2 * r.pair + 1)
                 (v.extractLsb' 8 8) }
  | 10 =>
    s.onPn r.pkey fun p =>
      if v.getLsbD 8 then
        { p with
          planeOwner := some c
          front := { p.front with fmt := v.setWidth 3, valid := v.getLsbD 3 }
          shadow := { p.shadow with fmt := v.extractLsb' 4 3, valid := v.getLsbD 7 } }
      else if p.planeOwner = some c then p.freePlanes
      else p
  | 11 => s.putAux c { a with sel := v }
  | 12 => s.putAux c { a with frames := resize 0 v.toNat a.frames }
  | n => s.putCrew c { r with stalls := Sparse.put 0 r.stalls (n - 13) (v.setWidth 32) }

/-- Write return-stack control (10 Table 10.7, group 2). -/
def RStack.control (k : RStack) (e : Nat) (v : DWord) : RStack :=
  let d := (v.extractLsb' 0 17).toNat
  let n : Word := v.extractLsb' 32 32
  { chip := resize 0 (min d 16) k.chip, depth := d, count := n, ptr := if e = 0 then 0 else n.toNat % e, ovf := v.getLsbD 17 }

/-- Set 64 bits of a wide register from bit `lo`. -/
def setBits {n : Nat} (x : BitVec n) (lo : Nat) (v : DWord) : BitVec n :=
  (x &&& ~~~ ((0xFFFFFFFFFFFFFFFF#64).setWidth n <<< lo)) ||| (v.setWidth n <<< lo)

/-- The tile state of a 2-bit code. -/
def tileStOf (b : BitVec 2) : TileSt :=
  match b.toNat with
  | 0 => .empty
  | 1 => .filling
  | 2 => .ready
  | _ => .draining

/-- Write a state item; the tile items' own fault is checked before. -/
def State.putItem (s : State) (c : Nat) (r : Crew) (item : Nat) (v : DWord) : State :=
  let a := s.auxOf c
  let i := item % 64
  match item / 64 with
  | 0 => s.putCrewWord c r i v
  | 1 =>
    s.putCrew c { r with
      heldPcs := (resize 0 32 r.heldPcs).set i (v.setWidth 57)
      heldExited := if v.getLsbD 63 then r.heldExited ||| (1#32 <<< i) else r.heldExited &&& ~~~ (1#32 <<< i) }
  | 2 => s.putCrew c (r.setStack i ((r.rstack i).control a.rsEnt v))
  | 3 =>
    let k := r.rstack i
    s.putCrew c (r.setStack i { k with chip := k.chip.set a.selE (v.setWidth 57) })
  | 4 => s.putCrew c { r with rngIdx := Sparse.put 0 r.rngIdx i v }
  | 5 =>
    if i < 16 then s.putAux c { a with frames := a.frames.set (i / 4) (setBits (a.frames.getD (i / 4) 0) (64 * (i % 4)) v) }
    else
      let q : QReg := BitVec.ofNat 2 ((i - 16) / 3)
      s.putCrew c (r.setQ q (setBits (r.qreg q) (64 * ((i - 16) % 3)) v))
  | 6 => s.putTile r.block r.part i { s.tile r i with state := tileStOf (v.extractLsb' 42 2) }
  | _ =>
    s.onPn r.pkey fun p =>
      let put := fun (k : Plane) =>
        { k with bytes := (List.range 8).foldl (fun m j => Sparse.put 0 m (a.planeByte i + j) (v.extractLsb' (8 * j) 8)) k.bytes }
      if a.sel.getLsbD 8 then { p with shadow := put p.shadow } else { p with front := put p.front }

/-- WRSTATE waits only to take the planes, as WLD does (10 Table 10.8, PLANES). -/
def wrstateWait (a : SReg) (item : BitVec 10) : WaitFn := fun s g r =>
  let o := (s.pn r.pkey).planeOwner
  if item = 10 ∧ (r.sreg a).getLsbD 8 ∧ !stateBad (s.auxOf g.crew) 10 (r.sreg a) ∧ o ≠ none ∧ o ≠ some g.crew then some 11
  else none

/-- WRSTATE (10 R277). -/
def execWrstate (a : SReg) (item : BitVec 10) (s : State) : Host.Outcome State Fault Refusal :=
  runGroup (.wrstate a item) s (wrstateWait a item) fun s g r =>
    let v := r.sreg a
    let i := item.toNat
    if stateBad (s.auxOf g.crew) i v then Res.raise r s 0x08
    else if i / 64 = 6 ∧ ((s.tile r (i % 64)).pend ≠ 0 ∨ s.tileCount r ≤ i % 64) then Res.raise r s 0x0A
    else .next (s.putItem g.crew r i v)

/-! ## RETT (10 R280, 14 R370, R371) -/

/-- RETT (10 R280). -/
def execRett (s : State) : Host.Outcome State Fault Refusal :=
  let crew := (s.issue.map (·.crew)).getD 0
  match runGroup .rett s noWait fun s g _ => .moved (s.returnFromTrap g.crew) with
  | .next t => .next (t.replayCopies crew)
  | .fault f => .fault f
  | .refused x => .refused x

end Sys2Proof.Machine
end

