-- ==== Sys2Proof/Machine/Waits.lean ====
section
/-!
DEFINITION. The wait of every instruction in one place, for the issue selector and for WAIT_RESOLVED (01 R19, 13 R343).
-/

namespace Sys2Proof.Machine

/-- The wait of an instruction beside the shared ones. -/
def ownWait : Instr → WaitFn
  | .ld _ a b w k => loadWait w.bytes k (formSA a b)
  | .ldb _ a b w k => loadWait w.bytes k (formSA a b)
  | .ldx _ a b w k => loadWait w.bytes k (formPair a b)
  | .atom _ a b f _ | .atom64 _ a b f _ => atomicWait Crew.head (formOf f a b)
  | .swap _ a b _ f k | .cas _ a b _ f k => atomicWait (fun r => r.active k) (formOf f a b)
  | .xadd _ a b f k | .xrd _ a b f k | .xrdc _ a b f k => atomicWait (fun r => r.active k) (formOf f a b)
  | .sts _ _ _ _ _ => releaseWait (.plain, .crew)
  | .texq _ a b mode k => texqWait a b mode k
  | .done => doneWait
  | .st _ _ _ _ _ | .stb _ _ _ _ _ | .stx _ _ _ _ _ | .cclean _ _ _ _ | .cflush _ _ _ _ => queueWait
  | .ldt _ _ t _ _ => ldtWait t
  | .fence o sc => fenceWait o sc
  | .dcfence => fenceWait .acqrel .device
  | .qfence m => qfenceWait m
  | .bar b | .barrive b | .barwait b => barrierWait b
  | .predwait => predWait
  | .mmodeOn q => mmodeOnWait q
  | .mmodeOff => mmodeOffWait
  | .wld sb t _ => wldWait sb t
  | .wswap => wswapWait
  | .mma n tr z g sb t f => mmaWait n tr z g sb t f
  | .accz n => accWait n true
  | .accst n t c => accstWait n t c
  | .accld n t c => accldWait n t c
  | .accfl _ n => accflWait n
  | .spawn a => spawnWait a
  | .take _ => takeWait
  | .join a _ => joinWait a
  | .joinq _ a _ => joinqWait a
  | .rpeek _ _ => oneRequest
  | .bin _ _ b _ _ => descriptorWait b 16
  | .ret => retWait
  | .racq _ a => racqWait a
  | .copy q _ _ _ _ => copyWait q
  | .copycb q _ _ _ => copyWait q
  | .cbset a => cbsetWait a
  | .call _ => pushWait Crew.head
  | .callr _ k => pushWait fun r => r.active k
  | .exit => exitWait
  | .waitt a => waittWait a
  | .rdstate _ _ => rdstateWait
  | .wrstate a item => wrstateWait a item
  | _ => noWait

/-- What an instruction that waits has done already (08 R201, R212, R221; 12 R328). -/
def enterWait (i : Instr) (reason : Nat) (s : State) (g : Issue) (r : Crew) : State :=
  match i with
  | .wld sb t _ => wldEnter sb t s g.crew r
  | .mma n tr z gang sb t f => mmaEnter n tr z gang sb t f s g r
  | .take _ => if reason = 8 then (s.search r.core (s.ctxOf r)).2 else s
  | _ => s

end Sys2Proof.Machine
end

