-- ==== Sys2Proof/Machine/Sched.lean ====
section
/-!
DEFINITION. Issue: fetching a group, the breakpoint comparators, the choice of a crew on a partition's selection clock
(13 R343), the passing of clocks with the stall counters (01 R20, 14 R384), the faults found while a group is fetched
or decoded, and the next move of the machine.
-/

namespace Sys2Proof.Machine

/-- Drop the first element of a list that satisfies a test. -/
def dropFirst {α : Type} (p : α → Bool) : List α → List α
  | [] => []
  | x :: t => if p x then t else x :: dropFirst p t

/-! ## Fetching a group (02 R54, R55) -/

/-- Fetch the words of a group from an address: at most n, up to the first that is no hint. -/
def State.fetchGroup (s : State) (r : Crew) (pc : PC) : Nat → Option LaneFault × List Word × State
  | 0 => (none, [], s)
  | n + 1 =>
    match s.fetchWord r.core (s.ctxOf r) r.priv pc with
    | (.error f, t) => (some f, [], t)
    | (.ok w, t) =>
      if isHint w then
        let x := t.fetchGroup r (pc + 4) n
        (x.1, w :: x.2.1, x.2.2)
      else (none, [w], t)

/-- The hint a hint instruction stands for. -/
def hintOf : Instr → Option Hint
  | .hintWide p => some (.wide p)
  | .hintSrc3 r => some (.src3 r)
  | .hintOff p => some (.off p)
  | .hintOrder o sc => some (.order o sc)
  | .hintCache p => some (.cache p)
  | .hintLastread p => some (.lastread p)
  | .hintRound m => some (.round m)
  | .hintSched p => some (.sched p)
  | _ => none

/-- What issuing a word after some hints does: the instruction, or the fault its word raises (02 R50-R56). A block has
`n` barriers. -/
def wordInstr (n : Nat) (hs : List Hint) (w : Word) : Instr :=
  match decode w with
  | .ok i => if isHint w && decide (2 ≤ hs.length) then .illegalHint w else i
  | .illegal => .illegalInstruction w
  | .reserved i => if badBarrier n i then .illegalInstruction w else .reservedBit w
  | .badHint => .illegalHint w

/-- Whether a core's instruction cache holds the line of an address. -/
def State.inICache (s : State) (core ctx : Nat) (pc : PC) : Bool :=
  (s.coreOf core).icache.any fun l => l.ctx == ctx && l.vline == pc.toNat / 128

/-- Whether a crew's next group waits for its fetch (14 Table 14.14, reason 12): no word faults, and one lies in a line that the
instruction cache does not hold yet and takes. -/
def State.fetchWaits (s : State) (r : Crew) : Bool :=
  let x := s.fetchGroup r r.headPc 3
  x.1.isNone && (List.range x.2.1.length).any fun k =>
    let pc := r.headPc + BitVec.ofNat 57 (4 * k)
    !s.inICache r.core (s.ctxOf r) pc && x.2.2.inICache r.core (s.ctxOf r) pc

/-! ## Breakpoint comparators (14 R376) -/

/-- The lowest armed comparator that matches one of n words from an address. -/
def State.breakAt (s : State) (c : Nat) (r : Crew) (pc : PC) (n : Nat) : Option Nat :=
  let d := s.dbgOf (s.ctxOf r)
  if !d.bpen || (s.auxOf c).exempt then none
  else
    (List.range 4).find? fun i =>
      match d.bps.find i with
      | some b => b.1 && (List.range n).any fun k => (pc + BitVec.ofNat 57 (4 * k)).extractLsb' 2 55 == b.2
      | none => false

/-- The words a group is known to have: those fetched, and the one whose fetch faults. -/
def wordsKnown (x : Option LaneFault × List Word × State) : Nat := x.2.1.length + if x.1.isSome then 1 else 0

/-! ## Waits before selection (13 R343) -/

/-- The group that a crew stands at, when its words decode: its instruction, and the group with its hints issued. -/
def State.peekGroup (s : State) (c : Nat) (r : Crew) : Option (Instr × Issue) :=
  let x := s.fetchGroup r r.headPc 3
  if x.1.isSome || (s.breakAt c r r.headPc (wordsKnown x)).isSome then none
  else
    match x.2.1.getLast? with
    | none => none
    | some w =>
      match decode w with
      | .ok i =>
        let hs := x.2.1.dropLast.filterMap fun h => match decode h with
          | .ok j => hintOf j
          | _ => none
        if hs.length + 1 = x.2.1.length ∧ !isHint w then
          some (i, { crew := c, addr := r.headPc, next := r.headPc + BitVec.ofNat 57 (4 * x.2.1.length), hints := hs, words := [] })
        else none
      | _ => none

/-- Whether a crew's next group must wait: the reason, and the state that waiting leaves. -/
def State.crewWait (s : State) (c : Nat) (r : Crew) : Option (Nat × State) :=
  if s.fetchWaits r then some (12, s)
  else
    match s.peekGroup c r with
    | none => none
    | some (i, g) =>
      match groupWait i (ownWait i) s g r with
      | none => none
      | some n => some (n, enterWait i n s g r)

/-- A ready crew whose next group must wait enters WAITING. -/
def State.settleCrew (s : State) (c : Nat) : State :=
  match s.crews.find c with
  | none => s
  | some r =>
    match s.crewWait c r with
    | none => s
    | some (n, t) => t.onCrew c fun r => { r with phase := .waiting n }

/-- Whether a crew stands in a rendezvous that completed on the clk of its pending request: its MMA issues first (08 R222). -/
def State.completesFirst (s : State) (c : Nat) (a : CrewAux) : Bool :=
  s.latches.any fun l => l.2.completed == some a.preemptClk && l.2.arrivals.any fun x => x.crew == c

/-- Whether a crew may be chosen: ready, not suspended, no copy of its own to replay first, and no pre-emption request
that is to be taken before its next group. -/
def State.candidate (s : State) (c : Nat) (r : Crew) : Bool :=
  let a := s.auxOf c
  r.phase == .ready && a.susp.isNone
    && (a.trap.nesting || ((a.preempt.isNone || a.retryAt != 0 || s.completesFirst c a) && a.replay.isEmpty))

/-- The candidates of a partition. -/
def State.candidates (s : State) (k : Nat) : List (Nat × Crew) :=
  s.crews.filter fun e => e.2.pkey == k && s.candidate e.1 e.2

/-- The ready crews of a partition with copies to replay before their next group (14 R370, R371). -/
def State.replayers (s : State) (k : Nat) : List Nat :=
  (s.crews.filter fun e => e.2.pkey == k && e.2.phase == .ready && !(s.auxOf e.1).trap.nesting && !(s.auxOf e.1).replay.isEmpty).map (·.1)

/-- The candidate of the lowest class that was issued least recently. -/
def State.select (s : State) (k : Nat) : Option Nat :=
  let cs := s.candidates k
  match (cs.map fun e => s.crewClass e.1 e.2).min? with
  | none => none
  | some m =>
    let best := (cs.filter fun e => s.crewClass e.1 e.2 == m).map (·.1)
    match (s.pn k).recency.find? best.contains with
    | some c => some c
    | none => best.head?

/-! ## The next move -/

/-- What a step does: it runs an instruction or event, or the state has moved already. -/
inductive Move where
  | run (i : Instr) (s : State)
  | done (s : State)
  deriving DecidableEq, Repr

/-- The barriers of the block of a crew. -/
def State.barriersOf (s : State) (c : Nat) : Nat :=
  match s.crews.find c with
  | some r => (s.packetOf r).barriers
  | none => 0

/-- A word of a crew takes its partition's issue for one clock (02 R55). -/
def State.takeClock (s : State) (c : Nat) : State :=
  match s.crews.find c with
  | some r => s.onPn r.pkey fun p => { p with issuer := some c, issueEnd := max p.issueEnd s.clk + 1 }
  | none => s

/-- Issue the next word of the group in progress. -/
def State.moveWord (s : State) (g : Issue) : Move :=
  match g.words with
  | [] => .done { s with issue := none }
  | w :: rest =>
    .run (wordInstr (s.barriersOf g.crew) g.hints w)
      { s.takeClock g.crew with issue := some { g with next := g.next + 4, words := rest } }

/-- The chosen crew issues the first word of its next group, or meets a breakpoint or a fetch fault. -/
def State.moveCrew (s : State) (c : Nat) : Move :=
  match s.crews.find c with
  | none => .done s
  | some r =>
    let s1 := s.moveRecent c r
    let pc := r.headPc
    let x := s1.fetchGroup r pc 3
    let g : Issue := { crew := c, addr := pc, next := pc, hints := [], words := x.2.1 }
    match s.breakAt c r pc (wordsKnown x) with
    | some i =>
      .done (s1.raise c { groupTrap g r 0x13 r.head (BitVec.ofNat 16 i) 0 0 with flg := 0x20 } false)
    | none =>
      match x.1 with
      | some _ => .run .fetchFault { s1 with issue := some { g with words := [] } }
      | none => x.2.2.moveWord g

/-- A partition's selection clock (13 R343): none while the words of the last group still issue (02 R55). -/
def State.moveClock (s : State) (k : Nat) : Move :=
  if s.clk < (s.pn k).issueEnd then .done s
  else
    let s0 := (s.replayers k).foldl (fun u c => u.replayCopies c) s
    let s1 := (s0.candidates k).foldl (fun u e => u.settleCrew e.1) s0
    match s1.select k with
    | none => .done s1
    | some c => s1.moveCrew c

/-! ## Clocks (01 R20, 14 R382, R384; 16 R418) -/

/-- The stall reason of a resident crew that issues nothing; a STARTING crew's is 15, other. -/
def Crew.reason (r : Crew) : Option Nat :=
  match r.phase with
  | .ready => some 1
  | .waiting n => some n
  | .starting => some 15
  | .saved => none
  | .exited => none

/-- Charge clocks to every resident crew: to reason 0 while its group's words issue, the rest to its own reason (01 R20). -/
def State.chargeAll (s : State) (n : Nat) : State :=
  { s with crews := s.crews.map fun e =>
      (e.1, match e.2.reason with
        | some m => let k := min n (s.issueLeft e.1 e.2); (e.2.charge 0 k).charge m (n - k)
        | none => e.2) }

/-! ### Samples (14 R382) -/

/-- The reason that a noted crew's clk is charged to: 0 where its partition issues a word of it on that clk, else the crew's own. -/
def State.noteReason (s : State) (x : SampleNote) : Nat :=
  let p := s.pn (partKey x.core x.partition)
  if p.issuer = some x.crew ∧ x.clk < p.issueEnd then 0 else ((s.crews.find x.crew).bind Crew.reason).getD 1

/-- What sample n, on a clk, notes of a crew as that clk begins. -/
def State.noteOf (s : State) (n clk : Nat) (e : Nat × Crew) : SampleNote :=
  { n := n, clk := clk, crew := e.1, core := e.2.core, partition := e.2.partition, slot := e.2.slot, pc := e.2.headPc, lanes := e.2.head
    flg := (if e.2.matrix then 1 else 0) + (if (s.auxOf e.1).trap.nesting then 2 else 0), index := e.2.index
    handle := (s.packetOf e.2).handle, bl := ((s.blockOf e.2).map (·.bl)).getD 0, reason := none }

/-- The notes of sample n of a context: of its crews on partition n mod 32 of each core, by slot. -/
def State.notesOf (s : State) (ctx n clk : Nat) : List SampleNote :=
  (List.range 8).flatMap fun slot => (s.crews.filter fun e =>
    e.2.partition == n % 32 && e.2.slot == slot && e.2.resident && s.ctxOf e.2 == ctx).map (s.noteOf n clk)

/-- Sampling over the next k clocks: the notes of the present clk get their reason, and the samples of the clocks that begin are noted,
those that pass as well with their reason at once. -/
def State.sampleOver (s : State) (k : Nat) : State :=
  let sized := fun (x : SampleNote) => if x.reason.isNone && decide (x.clk < s.clk + k) then { x with reason := some (s.noteReason x) } else x
  { s with hostIf := { s.hostIf with dbg := s.hostIf.dbg.map fun e =>
      let d := e.2
      let per := 2 ^ d.splog.toNat
      let lo := (s.clk - d.sampStart) / per + 1
      let new := if d.sampen then
          (List.range ((s.clk + k - d.sampStart) / per + 1 - lo)).flatMap fun i =>
            s.notesOf e.1 (lo + i) (d.sampStart + (lo + i) * per)
        else []
      (e.1, { d with notes := (d.notes ++ new).map sized }) } }

/-- TIME after some nanoseconds: it slews by at most 100 ppm (16 R418). -/
def Ptp.advance (p : Ptp) (ns : Nat) : Int × Ptp :=
  let x : Int := (p.frac : Int) + (ns : Int) * max (-100) (min 100 p.slew)
  ((ns : Int) + x / 1000000, { p with frac := (x % 1000000).toNat })

/-- Clocks and nanoseconds pass. -/
def State.elapse (s : State) (clks ns : Nat) : State :=
  let t := if clks = 0 then s else (s.sampleOver clks).chargeAll clks
  let x := t.links.ptp.advance ns
  { t with clk := t.clk + clks, time := t.time + BitVec.ofInt 64 x.1, links := { t.links with ptp := x.2 } }

/-- A firmware core halts on a bad capability (16 R411): the watchdog will restart the pithead. -/
def State.haltPithead (s : State) (cause : Byte) (src idx : Nat) : State :=
  let t := s.crashRecord cause.toNat src idx
  { t with pithead := { t.pithead with up := false, halted := true } }

/-- Whether an instruction of the table is an event or a command, not a step of a crew's group. -/
def isEvent : Instr → Bool
  | .illegalInstruction _ => false
  | .reservedBit _ => false
  | .illegalHint _ => false
  | .fetchFault => false
  | i => (encode i).isNone

/-- Write host bytes into the packet slots of BAR2; the rest of a page ignores writes (16 R407). -/
def State.bar2Put (s : State) (off : Nat) (bs : List Byte) : State :=
  { s with mem := { s.mem with bar2 := (List.range bs.length).foldl (fun m i =>
      let o := off + i
      if o < 0x40000 ∧ o % 4096 < 0xFC0 then Sparse.put 0 m o (bs.getD i 0) else m) s.mem.bar2 } }

/-- Act on an input. -/
def State.moveInput (s : State) : Input → Move
  | .clock core part => s.moveClock (partKey core part)
  | .event i => if isEvent i then .run i s else .done s
  | .elapse clks ns => .done (s.elapse clks ns)
  | .hostStore a bs => .done (s.hostPut a bs)
  | .bar2Store o bs => .done (s.bar2Put o bs)
  | .evictL1 core t pa => .done (s.l1Evict core t pa)
  | .evictL2 t pa => .done (s.l2Give (t.ckey (pa / 128)))
  | .evictCode core ctx n =>
    .done (s.onCore core fun k => { k with icache := k.icache.filter fun l => !(l.ctx == ctx && l.vline == n) })
  | .badCapability cause =>
    .done (if 1 ≤ cause.toNat ∧ cause.toNat ≤ 4 then { s with pithead := { s.pithead with badCap := some cause } } else s)
  | .firmwareFault cause =>
    .done (if s.pithead.up ∧ 1 ≤ cause.toNat ∧ cause.toNat ≤ 4 then s.haltPithead cause 4 0 else s)
  | .tripAtCommand => .done { s with pithead := { s.pithead with trip := true } }

/-- The command at the head of the command queue, as the table names it (16 Table 16.4); none where the queue is empty
or the pithead takes nothing. -/
def State.nextCommand (s : State) : Option Instr :=
  let q := s.hostIf.cmdq
  if !s.pithead.up || q.prod = q.cons then none
  else
    let b := fun (i : Nat) => (s.hostGet (q.entryAddr 64 q.cons + i)).toNat
    match b 0 + 256 * b 1 with
    | 1 => some .ctxcreate
    | 2 => some .ctxdestroy
    | 3 => if b 17 = 1 then some .regionRemove else some .regionLoad
    | 4 => some .chainload
    | 5 => some .chainunload
    | 6 => if b 17 = 1 then some .headHfillOnly else some .head
    | 7 => some .keyload
    | 8 => some .dbggrant
    | 9 => some .dbgrevoke
    | 10 => some .lamps
    | 11 => if b 20 = 1 then some .preemptBlock else if b 20 = 2 then some .preemptCrew else some .preemptLaunch
    | 12 => if b 20 = 2 then some .faultansDeliver else some .faultansRetry
    | 13 => if b 36 % 2 = 1 then some .stageinTable else some .stagein
    | 14 => if b 36 % 2 = 1 then some .stageoutTable else some .stageout
    | 15 => some .keyframe
    | 16 => some .attest
    | _ => some .ctxcreate

/-- The moves of one crew beside issuing. -/
def crewMoves (c : Nat) (r : Crew) (a : CrewAux) : List Instr :=
  (match r.phase with
    | .starting => [.crewStartComplete c]
    | .ready => []
    | .waiting _ => [.schedStallExpiry c, .waitResolved c]
    | .saved => [.crewResume c]
    | .exited => [])
    ++ (if a.returning.isEmpty then [] else [.loadReturn c]) ++ (if a.storeQ.isEmpty then [] else [.storeEventPerform c])
    ++ if a.preempt.isSome then [.preemptionRetry c, .preemptionEntry c] else []

/-- Every move the machine's own agents can make: the strip scheduler's before the dispatcher's (13 R341), and the moves of
one clock at the end. -/
def State.moves (s : State) : List Input :=
  let ev := fun (is : List Instr) => is.map Input.event
  ev (s.nextCommand.toList) ++ ev (if s.boot.status == .verifying then [.bootVerifyComplete] else [])
    ++ ev (if s.pithead.up then [.invalidation, .heldRecordPost] else if s.boot.status == .running then [if s.pithead.halted then .watchdogRestart else .pitheadRestartDone] else [])
    ++ ev (s.chains.flatMap fun c => let h := BitVec.ofNat 16 c.1
        [.chainRelease h, .progressReport h, .chainLate h, .chainReserveDeadline h, .reservationGrant h])
    ++ ev (s.launches.flatMap fun e => [.launchReady e.1, .launchBlocking e.1]) ++ ev (if s.launches.isEmpty then [] else [.blockPlacement])
    ++ ev (s.crews.flatMap fun e => crewMoves e.1 e.2 (s.auxOf e.1))
    ++ ev (s.latches.map fun l => .gangTimeout l.1)
    ++ ev (s.partitions.flatMap fun p => [.mmaStreamEnd (p.1 / 32) (p.1 % 32), .wldComplete (p.1 / 32) (p.1 % 32),
        .accstComplete (p.1 / 32) (p.1 % 32)])
    ++ ev (s.cores.flatMap fun c => [.l1DirtyExpiry c.1, .wcLineExpiry c.1, .copyComplete c.1 0, .copyComplete c.1 1,
        .copyComplete c.1 2, .copyComplete c.1 3, .sample c.1])
    ++ ev ((List.range 12).flatMap fun c => [.lampHoldExpiry c, .lampBurstExpiry c, .lampBurstIdle c, .lampDrainDone c])
    ++ [.event .lampRoundAdvance]
    ++ ev ((List.range s.invals.length).map fun n => .invalidationComplete n)
    ++ ev (s.links.heads.flatMap fun h => [.stripDue (BitVec.ofNat 6 h.1), .displayReadingEnd (BitVec.ofNat 6 h.1)])
    ++ ev (if s.links.heads.isEmpty then [] else (List.range 8).map fun e => .encoderRow (BitVec.ofNat 3 e))
    ++ ev (s.blocks.map fun b => .blockRetire b.1)
    ++ ((s.crews.filter fun e => e.2.resident).map fun e => e.2.pkey).eraseDups.map fun k => .clock (k / 32) (k % 32)

/-- With no choice listed, the agents move in turn, and a clock and a nanosecond pass when each has had its turn (log
entry 2). -/
def State.moveDefault (s : State) : Move :=
  let ms := s.moves
  match ms[s.turn]? with
  | some m => ({ s with turn := s.turn + 1 }).moveInput m
  | none => .done { s.elapse 1 1 with turn := 0 }

/-- The next move: a word of the group in progress, else the first listed choice, else the default. -/
def State.nextMove (s : State) : Move :=
  match s.issue with
  | some g => s.moveWord g
  | none =>
    match s.inputs with
    | m :: rest => ({ s with inputs := rest }).moveInput m
    | [] => s.moveDefault

/-! ## Hints and the faults of words (02 R50-R58, 05 R127) -/

/-- HINT_WIDE (02 R58). -/
def execHintWide (p : BitVec 20) (s : State) : Host.Outcome State Fault Refusal := runHint s (.wide p)

/-- HINT_SRC3 (02 R58). -/
def execHintSrc3 (r : VReg) (s : State) : Host.Outcome State Fault Refusal := runHint s (.src3 r)

/-- HINT_OFF (02 R58). -/
def execHintOff (p : BitVec 20) (s : State) : Host.Outcome State Fault Refusal := runHint s (.off p)

/-- HINT_ORDER (02 R58). -/
def execHintOrder (o : MemOrder) (sc : Scope) (s : State) : Host.Outcome State Fault Refusal := runHint s (.order o sc)

/-- HINT_CACHE (02 R58). -/
def execHintCache (p : CachePolicy) (s : State) : Host.Outcome State Fault Refusal := runHint s (.cache p)

/-- HINT_LASTREAD (02 R58): the marked registers keep their contents. -/
def execHintLastread (p : BitVec 4) (s : State) : Host.Outcome State Fault Refusal := runHint s (.lastread p)

/-- HINT_ROUND (02 R58). -/
def execHintRound (r : Rm) (s : State) : Host.Outcome State Fault Refusal := runHint s (.round r)

/-- HINT_SCHED (02 R58): it acts when its group completes. -/
def execHintSched (p : SchedHint) (s : State) : Host.Outcome State Fault Refusal := runHint s (.sched p)

/-- ILLEGAL_INSTRUCTION (02 R50, R51). -/
def execIllegalInstruction (_w : Word) (s : State) : Host.Outcome State Fault Refusal :=
  runFault s fun s _ r => Res.raise r s 0x01

/-- RESERVED_BIT (02 R49). -/
def execReservedBit (_w : Word) (s : State) : Host.Outcome State Fault Refusal :=
  runFault s fun s _ r => Res.raise r s 0x08

/-- ILLEGAL_HINT (02 R54, R56). -/
def execIllegalHint (_w : Word) (s : State) : Host.Outcome State Fault Refusal :=
  runFault s fun s _ r => Res.raise r s 0x02

/-- FETCH_FAULT (05 R127, 02 R55): the fault of the group's fetch, at the group's address. -/
def execFetchFault (s : State) : Host.Outcome State Fault Refusal :=
  match s.issue with
  | none => .fault .noIssuer
  | some g =>
    match s.crews.find g.crew with
    | none => .fault .noIssuer
    | some r =>
      let x := s.fetchGroup r g.addr 3
      match x.1 with
      | none => .next { x.2.2 with issue := none }
      | some f => .next (g.close r (s.auxOf g.crew).trap.nesting false (.trap f.code r.head 0 f.level f.addr x.2.2))

end Sys2Proof.Machine
end

