-- ==== Sys2Proof/Machine/Launch.lean ====
section
/-!
DEFINITION. Launches and blocks: submission, readiness, placement, the start, waiting and retirement of crews and blocks,
and the store path's own events (01 R16-R20, R28, R29, R34, R37; 08 R219; 12 R309, R312; 13 R335-R342; 16 R407, R408).
-/

namespace Sys2Proof.Machine

/-! ## Record buffers of the debug window (14 R375) -/

/-- Write a record to a buffer: dropped and counted where it would make (WR - RD) mod 2^32 exceed COUNT, or where its write cannot be
performed. -/
def State.bufferPut (s : State) (ctx : Nat) (b : RecBuf) (rec : List Byte) : RecBuf × State :=
  if b.count.toNat < (b.wr + 1 - b.rd).toNat then ({ b with drop := satInc b.drop }, s)
  else
    let x := s.devWrite ctx (b.base + BitVec.ofNat 64 (rec.length * (b.wr.toNat % b.count.toNat))) rec
    if x.1 then ({ b with wr := b.wr + 1 }, x.2) else ({ b with drop := satInc b.drop }, x.2)

/-- Post a block record (14 R381). -/
def State.postBlockRec (s : State) (ctx : Nat) (rec : List Byte) : State :=
  let x := s.bufferPut ctx (s.dbgOf ctx).blocks rec
  x.2.putDbg ctx { x.2.dbgOf ctx with blocks := x.1 }

/-- Post a sample (14 R382). -/
def State.postSample (s : State) (ctx : Nat) (rec : List Byte) : State :=
  let x := s.bufferPut ctx (s.dbgOf ctx).samples rec
  x.2.putDbg ctx { x.2.dbgOf ctx with samples := x.1 }

/-! ## Submission (13 R335-R337, 16 R407, R408) -/

/-- A field of n bits of bytes, from byte o. -/
def wordAt (w : Nat) (bs : List Byte) (o n : Nat) : BitVec w := BitVec.ofNat w (leVal ((bs.drop o).take n))

/-- The packet in 64 bytes (13 Table 13.1). -/
def Packet.ofBytes (bs : List Byte) : Packet :=
  { entry := wordAt 64 bs 0 8, args := wordAt 64 bs 8 8, gridX := wordAt 32 bs 16 4, gridY := wordAt 16 bs 20 2,
    gridZ := wordAt 16 bs 22 2, crews := wordAt 8 bs 24 1, regs8 := wordAt 8 bs 25 1, spreadP := wordAt 8 bs 26 1,
    spreadF := wordAt 8 bs 27 1, bankKib := wordAt 16 bs 28 2, tiles := wordAt 8 bs 30 1, lflags := wordAt 8 bs 31 1,
    start := wordAt 64 bs 32 8, region := wordAt 64 bs 40 8, pred := wordAt 32 bs 48 4, handle := wordAt 32 bs 52 4,
    seed := wordAt 64 bs 56 8 }

/-- A spread within its limits for a number of crews. -/
def spreadOk (sp crews : Nat) : Bool := (sp == 1 || sp == 2 || sp == 4 || sp == 8) && decide (sp ≤ crews)

/-- Whether the fields of reason 3 keep their limits (13 Tables 13.1, 13.2). -/
def Packet.limitsOk (p : Packet) : Bool :=
  decide (1 ≤ p.crews.toNat) && decide (p.crews.toNat ≤ 96) && decide (1 ≤ p.regs8.toNat) && decide (p.regs8.toNat ≤ 16)
    && spreadOk p.spreadP.toNat p.crews.toNat && spreadOk p.spreadF.toNat p.crews.toNat && decide (p.tiles.toNat ≤ 32)
    && p.lflags.extractLsb' 6 2 == 0 && decide (p.barriers ≤ 16)

/-- Whether a part of a block at spread S fits a core (reason 4). -/
def Packet.partFits (p : Packet) (sp : Nat) : Bool :=
  decide (1024 * p.bankKib.toNat + 128 * p.window * perPart p.crews.toNat sp ≤ 3145728)

/-- Whether a block at spread S fits every budget of a chain that is otherwise empty (reason 5). -/
def State.blockFitsEmpty (s : State) (ctx : Nat) (p : Packet) (sp : Nat) : Bool :=
  (s.regionChain ctx p.rslot).all fun k =>
    match s.region ctx k with
    | none => true
    | some g =>
      (!g.override.getLsbD 4 || decide (p.crews.toNat ≤ g.crews.toNat))
        && (!g.override.getLsbD 5 || decide (blockKib p sp ≤ g.bankKib.toNat))

/-- Whether an unretired launch of a context holds a handle. -/
def State.handleHeld (s : State) (ctx : Nat) (h : Word) : Bool := s.launches.any fun e => e.2.ctx == ctx && e.2.packet.handle == h

/-- The reason a packet submitted through page c is rejected, the first of 13 Table 13.2. -/
def State.rejection (s : State) (c : Nat) (p : Packet) : Option Nat :=
  let ctx := (p.region.extractLsb' 8 6).toNat
  if s.pithead.badCap.isSome then some 9
  else if ctx ≠ c ∨ (s.region c p.rslot).isNone then some 1
  else if p.entry.extractLsb' 0 2 ≠ 0 ∨ !canonical p.entry then some 2
  else if !p.limitsOk then some 3
  else if !(p.partFits p.spreadP.toNat && p.partFits p.spreadF.toNat) then some 4
  else if !(s.blockFitsEmpty c p p.spreadP.toNat && s.blockFitsEmpty c p p.spreadF.toNat) then some 5
  else if p.handle ≠ 0 ∧ s.handleHeld c p.handle then some 6
  else if p.handle ≠ 0 ∧ p.pred = p.handle then some 7
  else if p.region.extractLsb' 14 50 ≠ 0 then some 8
  else none

/-- The launch that a PRED names: the latest accepted unretired one with that handle (13 R337). -/
def State.predOf (s : State) (ctx : Nat) (h : Word) : Option Nat :=
  if h = 0 then none
  else ((s.launches.filter fun e => e.2.ctx == ctx && e.2.packet.handle == h).map (·.1)).max?

/-- Accept a doorbell: the packet is copied, checked, and accepted or rejected. -/
def State.acceptBell (s : State) (page slot : Nat) : State :=
  let c := s.ctlOf page
  let n := c.subcnt + 1
  let s1 := s.putCtl page { c with subcnt := n }
  let base := 4096 * page + 64 * slot
  let p := Packet.ofBytes ((List.range 64).map fun i => Sparse.get 0 s.mem.bar2 (base + i))
  match s.rejection page p with
  | some why =>
    let s2 := match s1.pithead.badCap with
      | some cause => ({ s1 with pithead := { s1.pithead with badCap := none } }).crashRecord cause.toNat 2 (64 * page + slot)
      | none => s1
    s2.postCompletion (completionRec 2 why page p.handle n.toNat s.time 0)
  | none =>
    { s1 with
      launches := s1.launches.put s1.nextId
        { packet := p, ctx := page, subseq := n.toNat, pred := s1.predOf page p.pred, ready := false, next := 0,
          passed := none, blocking := false, retiredBlocks := 0, ending := false, left := [] }
      nextId := s1.nextId + 1 }

/-- DOORBELL (16 R407): ignored above slot 62; kept for the pithead while it takes none. -/
def execDoorbell (page : BitVec 6) (slot : Word) (s : State) : Host.Outcome State Fault Refusal :=
  if 62 < slot.toNat then .next s
  else if !s.pithead.up then
    .next { s with pithead := { s.pithead with bells := s.pithead.bells ++ [(page.toNat, slot.toNat)] } }
  else .next (s.acceptBell page.toNat slot.toNat)

/-! ## Readiness (13 R338, R341, R347) -/

/-- Whether a block counts as started-next. -/
def State.startedNext (s : State) (b : Nat) : Bool :=
  (s.crewsOf b).all fun e => e.2.phase == .exited || (s.auxOf e.1).startedNext

/-- The early-successor point of a launch: one whose fault domain has ended reaches it as it retires (13 R347). -/
def State.earlyPoint (s : State) (l : Nat) (k : Launch) : Bool :=
  !k.ending && decide (k.packet.blocks ≤ k.next) && (s.blocks.filter fun e => e.2.launch == l).all fun e => s.startedNext e.1

/-- Whether a launch's predecessor condition holds. -/
def State.predDone (s : State) (k : Launch) : Bool :=
  match k.pred with
  | none => true
  | some p =>
    match s.launches.find p with
    | none => true
    | some q => k.packet.early && s.earlyPoint p q

/-- LAUNCH_READY (13 R338); an empty grid retires as it becomes ready (00 R10). -/
def execLaunchReady (launch : Nat) (s : State) : Host.Outcome State Fault Refusal :=
  match s.launches.find launch with
  | none => .next s
  | some k =>
    if k.ready || k.ending || decide (s.time < k.packet.start) || !s.predDone k then .next s
    else
      let t := { s with launches := s.launches.put launch { k with ready := true } }
      if k.packet.blocks = 0 then .next (t.retireLaunch launch 0) else .next t

/-- LAUNCH_BLOCKING (13 R341). -/
def execLaunchBlocking (launch : Nat) (s : State) : Host.Outcome State Fault Refusal :=
  match s.launches.find launch with
  | none => .next s
  | some k =>
    match k.passed with
    | some t =>
      if decide (k.next < k.packet.blocks) && decide (t.toNat + 1000000 ≤ s.time.toNat) then
        .next { s with launches := s.launches.put launch { k with blocking := true } }
      else .next s
    | none => .next s

/-! ## What is free (01 R18, R28) -/

/-- The crews resident on a core. -/
def State.onCoreCrews (s : State) (core : Nat) : Tbl Crew := s.crews.filter fun e => e.2.core == core && e.2.resident

/-- The sum over the placed parts on a core of a figure of their launch's packet, the block's spread and the part. -/
def State.partSum (s : State) (core : Nat) (f : Packet → Nat → Nat → Nat) : Nat :=
  s.blocks.foldl (fun n b =>
    let p := ((s.launches.find b.2.launch).map (·.packet)).getD Packet.blank
    b.2.parts.foldl (fun n j => if j.2.core = core then n + f p b.2.spread j.1 else n) n) 0

/-- The thread-local bytes of one crew under a region's values: T (01 R28). -/
def tlsSize (g : Region) (e : Region) : Nat := 32 * g.tlsLane.toNat + 256 * e.rsent.toNat

/-- TLSLANE, E, the pool and its size in force for a launch region. -/
def State.tlsOf (s : State) (ctx slot : Nat) : Nat × Nat × DWord × Nat :=
  let lane := ((s.inForce ctx slot 8).map (·.tlsLane.toNat)).getD 0
  let ent := ((s.inForce ctx slot 7).map (·.rsent.toNat)).getD 0
  match s.inForce ctx slot 12 with
  | some g => (lane, ent, g.tlsPool, g.tlsPoolSize.toNat)
  | none => (lane, ent, 0, 0)

/-- The free slots of a partition that a crew of a launch region may take: not held, and with a thread-local block
inside the pool. -/
def State.freeSlots (s : State) (ctx rslot core part : Nat) : List Nat :=
  let t := s.tlsOf ctx rslot
  let size := 32 * t.1 + 256 * t.2.1
  (List.range 8).filter fun i =>
    !(s.crews.any fun e => e.2.core == core && e.2.partition == part && e.2.slot == i && e.2.resident)
      && decide (size * (slotNumber core part i + 1) ≤ t.2.2.2 ∨ size = 0)

/-- The partitions that running chains hold (13 R351). -/
def State.reserved (s : State) : List Nat :=
  s.chains.vals.flatMap fun c => if c.state == .running || c.state == .late then c.held else []

/-- Whether crews of a class may be placed on a partition. -/
def State.openTo (s : State) (cls core part : Nat) : Bool := cls == 0 || !(s.reserved.contains (partKey core part))

/-- The crews of residue ρ on a part with n crews (08 R219). -/
def residueCrews (n rho : Nat) : Nat := (n + 31 - rho) / 32

/-- Insert a partition before the first with fewer free slots. -/
def insFree (x : Nat × Nat) : List (Nat × Nat) → List (Nat × Nat)
  | [] => [x]
  | y :: t => if y.2 < x.2 then x :: y :: t else y :: insFree x t

/-- The partitions of a core for the residues of a part with n crews, in order of residue; none where they do not fit. -/
def State.residueParts (s : State) (ctx rslot cls core n : Nat) : Option (List Nat) :=
  let free := ((List.range 32).filter (s.openTo cls core)).foldl (fun l p =>
    insFree (p, (s.freeSlots ctx rslot core p).length) l) []
  if (List.range (min n 32)).all fun rho => decide (residueCrews n rho ≤ ((free.getD rho (0, 0)).2)) then
    some ((free.take (min n 32)).map (·.1))
  else none

/-- Whether part j of a block at a spread fits a core: its partitions by residue. -/
def State.partOn (s : State) (k : Launch) (sp cls core j : Nat) : Option (List Nat) :=
  let p := k.packet
  if 3072 < s.partSum core partKib + partKib p sp j then none
  else if 512 < s.partSum core (fun p _ _ => p.barriers) + p.barriers then none
  else if 1024 < s.partSum core (fun p _ _ => p.tiles.toNat) + p.tiles.toNat then none
  else s.residueParts k.ctx p.rslot cls core (crewsOn p.crews.toNat sp j)

/-- Insert a core before the first with fewer free crew slots. -/
def insCore (x : Nat × Nat) : List (Nat × Nat) → List (Nat × Nat)
  | [] => [x]
  | y :: t => if y.2 < x.2 then x :: y :: t else y :: insCore x t

/-- The first S cores of a cluster by free crew slots, in ascending logical order (13 R340). -/
def State.rankCores (s : State) (cluster sp : Nat) : List Nat :=
  let ranked := (s.clusterCores cluster).foldl (fun l c => insCore (c, 256 - (s.onCoreCrews c).length) l) []
  let chosen := (ranked.take sp).map (·.1)
  (s.clusterCores cluster).filter chosen.contains

/-- The cores and partitions of a block's parts on a cluster; none where a part or a budget does not fit. -/
def State.clusterFit (s : State) (k : Launch) (sp cluster : Nat) : Option (List (Nat × List Nat)) :=
  let p := k.packet
  let cls := s.classOf k.ctx p.rslot
  let cores := s.rankCores cluster sp
  if cores.length < sp ∨ !s.fits k.ctx p.rslot p.crews.toNat (blockKib p sp) 0 then none
  else
    (List.range sp).foldl (fun (acc : Option (List (Nat × List Nat))) j =>
      match acc with
      | none => none
      | some l => (s.partOn k sp cls (cores.getD j 0) j).map fun ps => l ++ [(cores.getD j 0, ps)]) (some [])

/-- The clusters in the order of R340: after the one last used, wrapping. -/
def State.clusterOrder (s : State) : List Nat :=
  let n := s.partNo.sizes.length
  let first := match s.lastCluster with
    | some c => c + 1
    | none => 0
  (List.range n).map fun i => (first + i) % n

/-- A block's place: its spread, cluster, and parts. -/
def State.place (s : State) (k : Launch) : Option (Nat × Nat × List (Nat × List Nat)) :=
  let try' := fun (sp : Nat) => s.clusterOrder.findSome? fun c => (s.clusterFit k sp c).map fun ps => (sp, c, ps)
  match try' k.packet.spreadP.toNat with
  | some x => some x
  | none => if k.packet.spreadF = k.packet.spreadP then none else try' k.packet.spreadF.toNat

/-! ## The start of a crew (01 R21, R24, R25, R28, R34) -/

/-- The gang register with no member. -/
def noGang : BitVec 48 := 0xFFFFFFFFFFFF

/-- A crew's registers and hidden state at its start, at a PC with a privilege. -/
def crewStart (launch block index part core partition slot : Nat) (p : Packet) (pc : PC) (priv : Bool) : Crew :=
  { launch := launch, block := block, index := index, part := part, core := core, partition := partition, slot := slot
    phase := .starting, stallEnd := 0, begunWld := false, tookPlanes := false
    pcs := List.replicate 32 pc, exited := 0
    heldPcs := List.replicate 32 (p.entry.setWidth 57), heldExited := 0
    rstk := [], sregs := Sparse.put 0 [] 1 p.args, kregs := [], qregs := []
    mode := modeWord false 0 priv noGang, flags := 0, rngKey := p.seed, rngSel := false, rngIdx := []
    retired := 0, retStop := 0, retStopEn := false, stalls := [] }

/-- A crew's hidden state at its start in a slot: its thread-local block, its trap record's place, and the values of its launch
region that it keeps (01 R28, R34, R38). -/
def State.auxStart (s : State) (ctx rslot core part slot : Nat) : CrewAux :=
  let t := s.tlsOf ctx rslot
  let n := slotNumber core part slot
  let st := s.startedOf ctx rslot
  { CrewAux.blank with
    started := st
    trapRec := st.saveArea + BitVec.ofNat 64 (64 * n)
    tlsBase := t.2.2.1 + BitVec.ofNat 64 ((32 * t.1 + 256 * t.2.1) * n)
    tlsLane := t.1, rsEnt := t.2.1 }

/-- PRIVOK in force for a region. -/
def State.privOk (s : State) (ctx rslot : Nat) : Bool := ((s.inForce ctx rslot 2).map fun g => g.rflags.getLsbD 0).getD false

/-- Put a crew in a slot of a partition, STARTING, at the least-recent end; its core's L1 drops what is clean. -/
def State.seat (s : State) (c : Nat) (r : Crew) (a : CrewAux) : State :=
  (((s.putCrew c r).putAux c a).onPn r.pkey fun p => { p with recency := c :: p.recency.filter (· != c) }).l1DropClean r.core

/-! ## Placement (13 R339-R341) -/

/-- Place the crews of part j, each on the partition of its residue, in the lowest free slot there. -/
def State.seatPart (s : State) (l b : Nat) (k : Launch) (sp j core : Nat) (parts : List Nat) : State :=
  let p := k.packet
  let q := perPart p.crews.toNat sp
  (List.range (crewsOn p.crews.toNat sp j)).foldl (fun u i =>
    let pt := parts.getD (i % 32) 0
    match (u.freeSlots k.ctx p.rslot core pt).head? with
    | none => u
    | some sl =>
      u.seat (128 * b + (q * j + i)) (crewStart l b (q * j + i) j core pt sl p (p.entry.setWidth 57) (u.privOk k.ctx p.rslot))
        (u.auxStart k.ctx p.rslot core pt sl)) s

/-- Place block `k.next` of a launch. -/
def State.placeBlock (s : State) (l : Nat) (k : Launch) (x : Nat × Nat × List (Nat × List Nat)) : State :=
  let b := s.nextId
  let p := k.packet
  let blk : Block :=
    { launch := l, bl := k.next, spread := x.1, cluster := x.2.1
      parts := (List.range x.1).map fun j => (j, { Part.blank with core := (x.2.2.getD j (0, [])).1 })
      gens := [], epoch := 0, stalls := [], tplace := s.time, charged := blockKib p x.1 }
  let s1 : State := { s with
    nextId := b + 1, lastCluster := some x.2.1, blocks := s.blocks.put b blk
    launches := s.launches.put l { k with next := k.next + 1, passed := none, blocking := false } }
  let s2 := s1.chargeChain k.ctx p.rslot fun g =>
    { g with crewsUsed := g.crewsUsed + p.crews.toNat, bankUsed := g.bankUsed + blockKib p x.1 }
  (List.range x.1).foldl (fun u j => u.seatPart l b k x.1 j (x.2.2.getD j (0, [])).1 (x.2.2.getD j (0, [])).2) s2

/-- The order of ready launches: class, START, acceptance (13 R341). -/
def keyBefore (a b : Nat × Nat × Nat) : Bool :=
  decide (a.1 < b.1) || (a.1 == b.1 && (decide (a.2.1 < b.2.1) || (a.2.1 == b.2.1 && decide (a.2.2 < b.2.2))))

/-- A launch's key. -/
def State.keyOf (s : State) (l : Nat) (k : Launch) : Nat × Nat × Nat :=
  (s.classOf k.ctx k.packet.rslot, k.packet.start.toNat, l)

/-- Insert a launch into a list in key order. -/
def State.insLaunch (s : State) (x : Nat × Launch) : List (Nat × Launch) → List (Nat × Launch)
  | [] => [x]
  | y :: t => if keyBefore (s.keyOf x.1 x.2) (s.keyOf y.1 y.2) then x :: y :: t else y :: s.insLaunch x t

/-- Whether a crew of a launch is SAVED (14 R368). -/
def State.savedOf (s : State) (l : Nat) : Bool := s.crews.any fun e => e.2.launch == l && e.2.phase == .saved

/-- The ready launches with a block to place, in key order. -/
def State.waitingLaunches (s : State) : List (Nat × Launch) :=
  (s.launches.filter fun e => e.2.ready && decide (e.2.next < e.2.packet.blocks)).foldl (fun l e => s.insLaunch e l) []

/-- Try launches in key order: the first whose block fits places it, those before it are passed over; nothing after a
blocking launch places. -/
def State.placeFirst (s : State) : List (Nat × Launch) → State
  | [] => s
  | (l, k) :: rest =>
    match (if s.savedOf l then none else s.place k) with
    | some x => s.placeBlock l k x
    | none =>
      let t := if s.savedOf l || k.passed.isSome then s
        else { s with launches := s.launches.put l { k with passed := some s.time } }
      if k.blocking then t else t.placeFirst rest

/-! ## Crews between states (01 R19, R20; 02 R58) -/

/-- CREW_START_COMPLETE (01 R19). -/
def execCrewStartComplete (crew : Nat) (s : State) : Host.Outcome State Fault Refusal :=
  .next (s.onCrew crew fun r => if r.phase == .starting then { r with phase := .ready } else r)

/-- SCHED_STALL_EXPIRY (02 R58). -/
def execSchedStallExpiry (crew : Nat) (s : State) : Host.Outcome State Fault Refusal :=
  .next (s.onCrew crew fun r =>
    if r.phase == .waiting 15 && r.stallEnd != 0 && decide (r.stallEnd ≤ s.clk) then { r with phase := .ready, stallEnd := 0 } else r)

/-- WAIT_RESOLVED (01 R19): a crew waiting on its group goes on once the group need not wait; another wait that still
holds becomes its reason. A wait for a fetch ends with the lines of the group in the instruction cache (log entry 92). A suspension ends
by FAULTANS and a SCHED stall by its expiry. -/
def execWaitResolved (crew : Nat) (s : State) : Host.Outcome State Fault Refusal :=
  match s.crews.find crew with
  | none => .next s
  | some r =>
    let a := s.auxOf crew
    match r.phase with
    | .waiting n =>
      if a.susp.isSome || (n == 15 && r.stallEnd != 0) || a.held then .next s
      else if s.clk < r.stallEnd then .next (s.putCrew crew { r with phase := .waiting 15 })
      else
        let s := if n = 12 then (s.fetchGroup r r.headPc 3).2.2 else s
        match s.crewWait crew r with
        | none => .next (s.putCrew crew { r with phase := .ready })
        | some (m, t) => .next (t.onCrew crew fun r => { r with phase := .waiting m })
    | .starting => .next s
    | .ready => .next s
    | .saved => .next s
    | .exited => .next s

/-- LOAD_RETURN (05 R109): the oldest result still returning whose answers are in arrives. -/
def execLoadReturn (crew : Nat) (s : State) : Host.Outcome State Fault Refusal :=
  .next (s.onAux crew fun a => { a with returning := dropFirst (s.arrives crew) a.returning })

/-! ## The store path (11 R289, 12 R309, R312) -/

/-- STORE_EVENT_PERFORM (11 R289). -/
def execStoreEventPerform (crew : Nat) (s : State) : Host.Outcome State Fault Refusal :=
  match s.crews.find crew with
  | none => .next s
  | some r => .next (s.drainOne crew r)

/-- The sectors of a core's L1 that have been dirty for 2048 clk. -/
def State.dirtyDue (s : State) (core : Nat) : List Nat :=
  ((s.coreOf core).l1At.filter fun e => match e.2 with
    | some t => decide (t + 2048 ≤ s.clk)
    | none => false).map (·.1)

/-- Write the dirty bytes of some sectors of a core's L1 to the L2; they stay, clean. -/
def State.l1CleanSectors (s : State) (core : Nat) (due : List Nat) : State :=
  let c := s.coreOf core
  let es := c.l1.filter fun e => due.contains (sectorKey e.1)
  ((s.toL2 es).poisonOut c.l1Poison es).onCore core fun c =>
    { c with
      l1 := l1Settled c.l1 fun k => due.contains (sectorKey k)
      l1At := c.l1At.filter fun e => !due.contains e.1 }

/-- L1_DIRTY_EXPIRY (12 R309): sectors dirty for 2048 clk are written to the L2 and stay, clean. -/
def execL1DirtyExpiry (core : Nat) (s : State) : Host.Outcome State Fault Refusal :=
  .next (s.l1CleanSectors core (s.dirtyDue core))

/-- WC_LINE_EXPIRY (12 R312). -/
def execWcLineExpiry (core : Nat) (s : State) : Host.Outcome State Fault Refusal :=
  let old := fun (w : WcLine) => decide (w.start + 2048 ≤ s.clk)
  .next ((((s.coreOf core).wc.filter old).foldl (fun u w => u.wcWrite core w) s).onCore core fun c =>
    { c with wc := c.wc.filter fun w => !old w })

/-! ## Retirement (01 R17, 13 R342, 14 R381) -/

/-- A block record (14 Table 14.10). -/
def State.blockRec (s : State) (k : Block) (l : Launch) : List Byte :=
  leBytes 4 l.packet.handle.toNat ++ [BitVec.ofNat 8 l.ctx, BitVec.ofNat 8 k.spread, l.packet.crews, 0] ++ leBytes 8 k.bl
    ++ leBytes 8 k.tplace.toNat ++ leBytes 8 s.time.toNat
    ++ (List.range 16).flatMap fun n => leBytes 4 (min (2 ^ 32 - 1) (Sparse.get 0 k.stalls n))

/-- Whether every crew of a block has exited and its stores and copies are done, those included that await their replay (14 R369,
R371). -/
def State.blockDone (s : State) (b : Nat) : Bool :=
  (s.crewsOf b).all fun e =>
    e.2.phase == .exited && (s.auxOf e.1).storeQ.isEmpty && (s.auxOf e.1).replay.isEmpty
      && !((s.coreOf e.2.core).queues.vals.any fun q => q.any fun j => j.crew == e.1)

/-- BLOCK_RETIRE (01 R17): what the block's crews stored is written out of its cores, and once
no peer's acknowledgement is due (11 R305) the block goes, and with its last block the launch (13 R342). -/
def execBlockRetire (block : Nat) (s : State) : Host.Outcome State Fault Refusal :=
  match s.blocks.find block with
  | none => .next s
  | some k =>
    if !s.blockDone block then .next s
    else
      match s.launches.find k.launch with
      | none => .next (s.removeBlock block)
      | some l =>
        let s1 := k.parts.foldl (fun u j => u.releaseAt j.2.core true) s
        if s1.awaiting then .next s1
        else
          let s2 := if (s1.dbgOf l.ctx).blkrec then s1.postBlockRec l.ctx (s1.blockRec k l) else s1
          let s3 := s2.removeBlock block
          let n := l.retiredBlocks + 1
          let s4 := { s3 with launches := s3.launches.upd k.launch fun l => { l with retiredBlocks := n } }
          .next (if n = l.packet.blocks then s4.retireLaunch k.launch 0 else s4)

end Sys2Proof.Machine
end

