-- ==== Sys2Proof/Machine/Preempt.lean ====
section
/-!
DEFINITION. Pre-emption and resumption (14 R363-R368), and the answers to suspended faults (14 R374).
-/

namespace Sys2Proof.Machine

/-- Send a pre-emption request to a crew; `d` is 1 for the strip scheduler and 2 for a pithead command. A crew that holds
no slot drops it, and a request already pending stands (14 R363). -/
def State.requestPreempt (s : State) (c : Nat) (d : BitVec 16) : State :=
  match s.crews.find c with
  | none => s
  | some r =>
    if r.resident then
      s.onAux c fun a => if a.preempt.isSome then a else { a with preempt := some d, preemptClk := s.clk, retryAt := 0 }
    else s

/-- The address of save frame f of a crew's save area (14 R365). -/
def Started.frameAddr (t : Started) (f : Nat) : DWord := t.saveArea + BitVec.ofNat 64 (0x180000 + 65536 * f)

/-- The lowest free save frame of a crew's save area, of as many as CREWS was in force as the crew started (01 R38). -/
def State.freeFrameOf (s : State) (ctx : Nat) (t : Started) : Option Nat :=
  let held := ((t.saveSlot.bind (s.region ctx)).map (·.saves)).getD []
  (List.range t.saveFrames).find? fun f => !held.contains f

/-- Hold a save frame. -/
def State.holdFrame (s : State) (ctx : Nat) (t : Started) (f : Nat) : State :=
  match t.saveSlot with
  | some k => s.onRegion ctx k fun g => { g with saves := g.saves ++ [f] }
  | none => s

/-- Whether a crew's MMA is under way: it streams, or it stands in a rendezvous that may yet complete, or completed, on the clk of
the request (08 R212, R222). -/
def State.mmaHolds (s : State) (c : Nat) (r : Crew) (a : CrewAux) : Bool :=
  (s.pn r.pkey).streams.any (fun x => x.crew == c) || s.completesFirst c a
    || s.latches.any fun l => (l.2.arrivals.any fun x => x.crew == c) && l.2.completed.isNone && s.clk == a.preemptClk

/-- Whether a pending request of a crew is taken now: between groups, outside a handler, and not before an MMA under way ends. -/
def State.takesPreempt (s : State) (c : Nat) (r : Crew) (a : CrewAux) : Bool :=
  !a.trap.nesting && a.retryAt == 0 && !s.mmaHolds c r a && match r.phase with
    | .ready => true
    | .waiting _ => true
    | .starting => false
    | .saved => false
    | .exited => false

/-- PREEMPTION_ENTRY (14 R363-R365): the crew enters its save routine with the lowest free frame; with none free the
request is dropped, to be repeated. A suspension's token is void. -/
def execPreemptionEntry (crew : Nat) (s : State) : Host.Outcome State Fault Refusal :=
  match s.crews.find crew with
  | none => .next s
  | some r =>
    let a := s.auxOf crew
    match a.preempt with
    | none => .next s
    | some d =>
      if !s.takesPreempt crew r a then .next s
      else
        let ctx := s.ctxOf r
        match s.freeFrameOf ctx a.started with
        | none => .next (s.putAux crew { a with retryAt := s.time.toNat + 1000 })
        | some f =>
          let place := a.started.frameAddr f
          let s1 := (s.holdFrame ctx a.started f).putAux crew { a with
            preempt := none, susp := none, frame := some f, frameAt := place, frameSlot := a.started.saveSlot }
          let s2 := s1.putCrew crew { r with stallEnd := 0 }
          let q : TrapReq :=
            { code := 0x20, lanes := 0, detail := d, level := 0, addr := 0, pc := r.headPc, retired := r.retired, flg := 0,
              token := BitVec.ofNat 32 f }
          .next (s2.trapEntry crew q place)

/-- PREEMPTION_RETRY (14 R365): a dropped request is repeated after 1 µs. -/
def execPreemptionRetry (crew : Nat) (s : State) : Host.Outcome State Fault Refusal :=
  let a := s.auxOf crew
  if a.retryAt ≠ 0 ∧ a.retryAt ≤ s.time.toNat then .next (s.putAux crew { a with retryAt := 0 }) else .next s

/-- The slot a SAVED crew can resume in: free, on its own core and partition, open to its class. -/
def State.resumeSlot (s : State) (r : Crew) : Option Nat :=
  let ctx := s.ctxOf r
  let rs := (s.packetOf r).rslot
  if s.openTo (s.classOf ctx rs) r.core r.partition then (s.freeSlots ctx rs r.core r.partition).head? else none

/-- Whether another SAVED crew of the launch comes before a frame and can resume (14 R368). -/
def State.earlierSaved (s : State) (c : Nat) (r : Crew) (f : Nat) : Bool :=
  s.crews.any fun e =>
    e.1 != c && e.2.launch == r.launch && e.2.phase == .saved && (s.resumeSlot e.2).isSome
      && match (s.auxOf e.1).frame with
        | some g => decide (g < f)
        | none => false

/-- Seat a resumed crew in a slot, to run its restore routine at an entry (14 R368). A request deferred by the save routine is not
carried over, which the spec leaves open (log entry 94). -/
def State.reseat (s : State) (c : Nat) (r : Crew) (f slot : Nat) (e : PC × Bool) : State :=
  let ctx := s.ctxOf r
  let p := s.packetOf r
  let old := s.auxOf c
  let place := old.frameAt
  let x := s.devRead ctx (place + 39) 1
  let spriv := match x.1 with
    | some (b :: _) => b.getLsbD 0
    | _ => false
  let r1 := (crewStart r.launch r.block r.index r.part r.core r.partition slot p e.1 e.2).setS 1 place
  let a1 := { s.auxStart ctx p.rslot r.core r.partition slot with
    trap := { cause := 0x20, nesting := true, spriv := spriv, detail := 0 }
    frame := some f, frameAt := place, frameSlot := old.frameSlot, restored := true, replay := old.replay
    startedNext := old.startedNext, touched := old.touched, heldSlots := old.frames.map fun f => (f.extractLsb' 240 8).toNat }
  (x.2.zeroWindow r1).seat c r1 a1

/-- CREW_RESUME (14 R368): the crew starts anew under its launch region's values; an absent entry 0x21 ends that region's fault
domain (log entry 18). -/
def execCrewResume (crew : Nat) (s : State) : Host.Outcome State Fault Refusal :=
  match s.crews.find crew with
  | none => .next s
  | some r =>
    match r.phase, (s.auxOf crew).frame, s.resumeSlot r with
    | .saved, some f, some slot =>
      if s.earlierSaved crew r f then .next s
      else
        let e := s.tableEntry (s.ctxOf r) (s.startedOf (s.ctxOf r) (s.packetOf r).rslot).trapTab 0x21
        let place := (s.auxStart (s.ctxOf r) (s.packetOf r).rslot r.core r.partition slot).trapRec
        match e.1 with
        | some x => .next (e.2.reseat crew r f slot x)
        | none =>
          .next (e.2.terminate crew r
            { code := 0x21, lanes := 0, detail := 0, level := 0, addr := 0, pc := r.headPc, retired := r.retired, flg := 0,
              token := 0 } place)
    | _, _, _ => .next s

/-! ## Answers to suspended faults (14 R374) -/

/-- The crew that waits under a token. -/
def State.suspendedBy (s : State) (ctx : Nat) (token : Word) : Option (Nat × Suspension) :=
  s.crews.findSome? fun e =>
    match (s.auxOf e.1).susp with
    | some u => if u.token = token ∧ token ≠ 0 ∧ s.ctxOf e.2 = ctx ∧ e.2.resident then some (e.1, u) else none
    | none => none

/-- The retry verdict: the crew reissues its group, held at a BAR if it is (07 R192), and what awaits replay is replayed; a void
token is ignored. -/
def State.answerRetry (s : State) (ctx : Nat) (token : Word) : State :=
  match s.suspendedBy ctx token with
  | none => s
  | some (c, _) =>
    ((s.onCrew c fun r => { r with phase := .ready }).onAux c fun a => { a with susp := none }).holdCrew c |>.replayCopies c

/-- The deliver verdict: the crew takes the trap with the same record, its TIME included. -/
def State.answerDeliver (s : State) (ctx : Nat) (token : Word) : State :=
  match s.suspendedBy ctx token with
  | none => s
  | some (c, u) =>
    match s.crews.find c with
    | none => s
    | some r =>
      (s.onAux c fun a => { a with susp := none }).trapEntry c
        { code := u.code, lanes := u.lanes, detail := u.detail, level := u.level, addr := u.addr, pc := r.headPc,
          retired := r.retired, flg := if u.replay then 0x18 else 0x10, token := u.token, time := some u.time } (s.auxOf c).trapRec

end Sys2Proof.Machine
end

