-- ==== Sys2Proof/Machine/Chains.lean ====
section
/-!
DEFINITION. The strip scheduler: releases, reservations, progress, misses and the event log (13 R348-R356).
-/

namespace Sys2Proof.Machine

/-! ## The descriptor and the event log -/

/-- The hardware-maintained bytes of a descriptor, offsets 0x50 to 0x6B (13 Table 13.5). -/
def Chain.fieldBytes (c : Chain) : List Byte :=
  [BitVec.ofNat 8 c.state.code, BitVec.ofNat 8 c.levelNow, 0, 0] ++ leBytes 4 c.overruns.toNat ++ leBytes 8 c.pred.toNat
    ++ leBytes 8 c.inst.toNat ++ leBytes 4 c.count.toNat

/-- Write a chain's maintained fields back; a write-back that cannot be performed is dropped (13 R348). -/
def State.writeChain (s : State) (h : Nat) : State :=
  match s.chains.find h with
  | none => s
  | some c =>
    if s.windowOk c.ctx (c.va + 0x50) 28 true then (s.devWrite c.ctx (c.va + 0x50) c.fieldBytes).2 else s

/-- Change a chain and write it back. -/
def State.onChain (s : State) (h : Nat) (f : Chain → Chain) : State := ({ s with chains := s.chains.upd h f }).writeChain h

/-- The deadline of an instance. -/
def Chain.deadline (c : Chain) (n : Nat) : Nat := c.releaseOf n + c.drel.toNat

/-- An event record (13 Table 13.7). -/
def Chain.event (c : Chain) (h kind : Nat) (time : Nat) (inst : Nat) : List Byte :=
  leBytes 8 time ++ leBytes 2 h ++ [BitVec.ofNat 8 kind, BitVec.ofNat 8 c.levelNow] ++ leBytes 4 inst
    ++ leBytes 8 c.pred.toNat ++ leBytes 4 c.count.toNat ++ leBytes 4 0

/-- Log an event of a chain as it stands. -/
def State.logChain (s : State) (h kind time inst : Nat) : State :=
  match s.chains.find h with
  | none => s
  | some c => s.postEvent c.ctx (c.event h kind time inst)

/-- Count an overrun (events 2-4), modulo 2^32: the spec is silent on a count past its width (log entry 94). -/
def Chain.miss (c : Chain) : Chain := { c with overruns := c.overruns + 1 }

/-! ## Partitions (13 R350-R352) -/

/-- The cores of a chain. -/
def State.chainCores (s : State) (c : Chain) : List Nat := (List.range c.ncore).map fun i => (c.core0 + i) % s.ncores

/-- Whether any chain holds a partition. -/
def State.partHeld (s : State) (k : Nat) : Bool := s.chains.vals.any fun c => c.held.contains k

/-- The chains in RESERVING, earliest deadline first, then the lowest handle. -/
def State.waitingChains (s : State) : List Nat :=
  let ins := fun (l : List (Nat × Chain)) (x : Nat × Chain) =>
    let before := fun (y : Nat × Chain) => decide (y.2.deadline y.2.inst.toNat ≤ x.2.deadline x.2.inst.toNat)
    l.filter before ++ [x] ++ l.filter fun y => !before y
  ((s.chains.filter fun e => e.2.state == .reserving).foldl ins []).map (·.1)

/-- Whether a charge of partitions fits every PARTS budget along a region chain (13 R350). -/
def State.fitsParts (s : State) (ctx slot parts : Nat) : Bool :=
  (s.regionChain ctx slot).all fun k =>
    match s.region ctx k with
    | none => true
    | some g => !g.override.getLsbD 6 || decide (g.partsUsed + parts ≤ g.parts.toNat)

/-- Give a reserving chain the lowest-numbered partitions of its cores that no chain holds, up to its number on each. What it was given it
keeps where a lower one frees before its set is whole, which the spec leaves open (log entry 99). -/
def State.giveParts (s : State) (h : Nat) : State :=
  match s.chains.find h with
  | none => s
  | some c =>
    let got := (s.chainCores c).flatMap fun core =>
      let mine := (c.held.filter fun k => k / 32 == core).length
      ((List.range 32).filter fun p => !s.partHeld (partKey core p)).take (c.rparts - mine) |>.map (partKey core)
    { s with chains := s.chains.put h { c with held := c.held ++ got } }

/-- Hand the free partitions to the waiting chains. -/
def State.dealParts (s : State) : State := s.waitingChains.foldl (fun u h => u.giveParts h) s

/-- Whether a reserving chain has its whole set. -/
def State.setWhole (s : State) (c : Chain) : Bool :=
  (s.chainCores c).all fun core => decide (c.rparts ≤ (c.held.filter fun k => k / 32 == core).length)

/-- End a reservation: the chain goes IDLE, reports of the instance that ended are dropped (13 R353), its partitions are freed and its PARTS charge is released (13 R352). -/
def State.endReservation (s : State) (h : Nat) : State :=
  match s.chains.find h with
  | none => s
  | some c =>
    let held := c.state != .idle
    let s1 := s.onChain h fun c => { c with state := .idle, held := [], reports := [] }
    let s2 := if held then s1.chargeChain c.ctx c.rslot fun g => { g with partsUsed := g.partsUsed - c.rparts * c.ncore } else s1
    s2.dealParts

/-! ## Release and admission (13 R349, R350) -/

/-- Whether an instance's release time has come while the chain is not IDLE: its skip comes before the chain's other
actions of that time, so that event 4 stands before events 3, 1 and 2 (13 R349, R356). -/
def State.skipDue (s : State) (c : Chain) : Bool :=
  c.state != .idle && !(c.period == 0 && c.next != 0) && decide (c.releaseOf c.next ≤ s.time.toNat)

/-- CHAIN_RELEASE (13 R349, R350): the next instance's release time has come; it is skipped while the chain is not IDLE,
refused where a PARTS budget would be exceeded, else charged. Of two chains released on one clock the one whose release is taken first
is dealt partitions first, which the spec leaves open (log entry 94). -/
def execChainRelease (handle : BitVec 16) (s : State) : Host.Outcome State Fault Refusal :=
  let h := handle.toNat
  match s.chains.find h with
  | none => .next s
  | some c =>
    let n := c.next
    if s.time.toNat < c.releaseOf n ∨ (c.period = 0 ∧ n ≠ 0) then .next s
    else if c.state ≠ .idle then
      .next ((s.onChain h fun c => { c.miss with next := n + 1 }).logChain h 4 s.time.toNat n)
    else
      let parts := c.rparts * c.ncore
      if !s.fitsParts c.ctx c.rslot parts then
        .next ((s.onChain h fun c => { c.miss with next := n + 1, inst := BitVec.ofNat 64 n }).logChain h 3 s.time.toNat n)
      else
        let s1 := s.chargeChain c.ctx c.rslot fun g => { g with partsUsed := g.partsUsed + parts }
        .next ((s1.onChain h fun c =>
          { c with next := n + 1, inst := BitVec.ofNat 64 n, state := .reserving, held := [] }).dealParts)

/-- CHAIN_RESERVE_DEADLINE (13 R349): TIME passes the deadline before a grant. -/
def execChainReserveDeadline (handle : BitVec 16) (s : State) : Host.Outcome State Fault Refusal :=
  let h := handle.toNat
  match s.chains.find h with
  | none => .next s
  | some c =>
    let d := c.deadline c.inst.toNat
    if c.state ≠ .reserving ∨ s.time.toNat ≤ d ∨ s.skipDue c then .next s
    else .next (((s.onChain h Chain.miss).logChain h 2 (d + 1) c.inst.toNat).endReservation h)

/-! ## The grant (13 R351) -/

/-- Replace ARG1 of a frame (09 Table 9.1). -/
def frameArg1 (f : Frame) (x : Nat) : Frame :=
  (f &&& ~~~ ((0xFFFFFFFF#256) <<< 192)) ||| (BitVec.ofNat 256 (x % 2 ^ 32) <<< 192)

/-- The class-3 crews resident on a set of partitions. -/
def State.backgroundOn (s : State) (ks : List Nat) : List Nat :=
  (s.crews.filter fun e => e.2.resident && ks.contains e.2.pkey && s.crewClass e.1 e.2 == 3).map (·.1)

/-- RESERVATION_GRANT (13 R351): with its whole set held, a reserving chain runs: class-3 crews there are pre-empted, and
the chain's frame is pushed; a push that cannot be made is event 3. -/
def execReservationGrant (handle : BitVec 16) (s : State) : Host.Outcome State Fault Refusal :=
  let h := handle.toNat
  let s0 := s.dealParts
  match s0.chains.find h with
  | none => .next s0
  | some c =>
    if c.state ≠ .reserving ∨ !s0.setWhole c ∨ c.deadline c.inst.toNat < s.time.toNat ∨ s.skipDue c then .next s0
    else
      let n := c.inst.toNat
      let s1 := (s0.backgroundOn c.held).foldl (fun u x => u.requestPreempt x 1) s0
      let s2 := s1.onChain h fun c =>
        { c with state := .running, levelNow := c.level, levelWas := c.level, levelClk := s.clk, count := 0, pred := 0, base := (BitVec.ofNat 64 (c.releaseOf n), 0) }
      match s2.pushFrame c.core0 c.ctx 0 (frameArg1 c.frame n) with
      | .ok t => .next (t.retryView c.core0 c.ctx 0)
      | .error _ => .next (((s2.onChain h Chain.miss).logChain h 3 s.time.toNat n).endReservation h)

/-! ## Progress (13 R353, R354) -/

/-- The report to process next: the earliest stamp, the first received among equals. -/
def firstReport (rs : List (DWord × Nat)) : Option (DWord × Nat) :=
  rs.foldl (fun b x => match b with
    | none => some x
    | some y => if x.1 < y.1 then some x else some y) none

/-- The predicted finish from a report (13 R353), saturated. -/
def Chain.predict (c : Chain) (t u : Nat) : Nat :=
  let tb := c.base.1.toNat
  let ub := c.base.2.toNat
  let num : Int := ((t : Int) - (tb : Int)) * ((c.work.toNat : Int) - (u : Int))
  let q : Int := -((-num) / ((u : Int) - (ub : Int)))
  (min ((2 ^ 64 : Int) - 1) (max 0 ((t : Int) + q))).toNat

/-- Process one report of a chain: finish, predict, step. The event's TIME is that of its processing, not the report's stamp, which the spec
leaves open (log entry 94). -/
def State.report (s : State) (h : Nat) (c : Chain) (x : DWord × Nat) : State :=
  let s0 : State := { s with chains := s.chains.upd h fun c => { c with reports := dropFirst (fun y => y == x) c.reports } }
  match c.state with
  | .idle => s0
  | .reserving => s0
  | _ =>
    let t := x.1.toNat
    let u := c.count.toNat + x.2
    let s1 := s0.onChain h fun c => { c with count := BitVec.ofNat 32 (min u (2 ^ 32 - 1)) }
    if c.work.toNat ≤ u then s1.endReservation h
    else if c.state = .running ∧ c.base.2.toNat < u then
      let p := c.predict t u
      let s2 := s1.onChain h fun c => { c with pred := BitVec.ofNat 64 p }
      if c.deadline c.inst.toNat < p + c.guard.toNat ∧ !c.pin ∧ c.levelNow < 4 then
        (s2.onChain h fun c => { c with
          levelNow := c.levelNow + 1, levelWas := if c.levelClk = s.clk then c.levelWas else c.levelNow, levelClk := s.clk, base := (x.1, BitVec.ofNat 32 (min u (2 ^ 32 - 1))) }).logChain h 1
          s.time.toNat c.inst.toNat
      else s2
    else s1

/-- PROGRESS_REPORT (13 R353, R356): a report stamped after the deadline is held while the chain is RUNNING. -/
def execProgressReport (handle : BitVec 16) (s : State) : Host.Outcome State Fault Refusal :=
  let h := handle.toNat
  match s.chains.find h with
  | none => .next s
  | some c =>
    match firstReport c.reports with
    | none => .next s
    | some x =>
      if (c.state = .running ∧ c.deadline c.inst.toNat < x.1.toNat) ∨ s.skipDue c then .next s else .next (s.report h c x)

/-- CHAIN_LATE (13 R356): 1,000 ns past the deadline, with no report stamped in time left to process. -/
def execChainLate (handle : BitVec 16) (s : State) : Host.Outcome State Fault Refusal :=
  let h := handle.toNat
  match s.chains.find h with
  | none => .next s
  | some c =>
    let d := c.deadline c.inst.toNat
    if c.state ≠ .running ∨ s.time.toNat < d + 1000 ∨ c.reports.any (fun x => decide (x.1.toNat ≤ d)) ∨ s.skipDue c then .next s
    else .next ((s.onChain h fun c => { c.miss with state := .late }).logChain h 2 (d + 1) c.inst.toNat)

/-! ## The dispatcher follows (13 R341) -/

/-- Whether the strip scheduler has an action of the present clock to take for a chain. -/
def State.chainActs (s : State) (c : Chain) : Bool :=
  let d := c.deadline c.inst.toNat
  let release := decide (c.releaseOf c.next ≤ s.time.toNat) && (c.period != 0 || c.next == 0)
  match c.state with
  | .idle => release || !c.reports.isEmpty
  | .reserving => release || decide (d < s.time.toNat) || s.setWhole c || !c.reports.isEmpty
  | .running => release || c.reports.any (fun x => decide (x.1.toNat ≤ d)) || decide (d + 1000 ≤ s.time.toNat)
  | .late => release || !c.reports.isEmpty

/-- Whether the strip scheduler has an action of the present clock left. -/
def State.stripActs (s : State) : Bool := s.dealParts.chains.vals.any s.dealParts.chainActs

/-- BLOCK_PLACEMENT (13 R340, R341): the strip scheduler acts before the dispatcher in a clock, and no crew starts before TIME has
stepped to the grandmaster (16 R418; log entry 67). -/
def execBlockPlacement (s : State) : Host.Outcome State Fault Refusal :=
  if s.stripActs || !s.links.ptp.locked then .next s else .next (s.placeFirst s.waitingLaunches)

end Sys2Proof.Machine
end

