-- ==== Sys2Proof/Machine/Heads.lean ====
section
/-!
DEFINITION. Virtual heads: their events, their enabling and disabling, and the encoder rows with rate control and RTP (15).
-/

namespace Sys2Proof.Machine

/-! ## The head's own events (15 R392, R394) -/

/-- STRIP_DUE (15 R392): the next due update, after the display readings that end before it. -/
def execStripDue (head : BitVec 6) (s : State) : Host.Outcome State Fault Refusal :=
  let h := head.toNat
  let x := s.headOf h
  if x.dueBy s.time.toNat then .next ((s.showTo h x.nextDueTime (x.nextDue - x.eng.disp)).dueUpdate h) else .next s

/-- DISPLAY_READING_END (15 R387, R394): the strip's last line has been emitted; due updates of an earlier time come first. -/
def execDisplayReadingEnd (head : BitVec 6) (s : State) : Host.Outcome State Fault Refusal :=
  let h := head.toNat
  let x := s.headOf h
  if x.emittedBy s.time.toNat then .next ((s.dueBefore h x.shownTime (x.dueBound x.shownTime)).endShown h) else .next s

/-! ## Enabling and disabling (15 R391) -/

/-- Clear the CBMP bits of pending indices. -/
def clearPending (hdr : RingHdr) (ms : List StripMark) : RingHdr :=
  ms.foldl (fun h m => if m.pending then h.unmark (m.idx % 2 ^ 32) else h) hdr

/-- EN has cleared: the updates that are due are made, readings end, marks go, the header keeps the rest. -/
def State.disableHead (s : State) (h : Nat) : State :=
  let r := (s.catchHead h).ringOf h
  let x := r.2.headOf h
  let s1 := match r.1 with
    | some hdr =>
      let k := clearPending hdr x.eng.marks
      let live := if k.rflg.testBit 8 then k.rflg - 256 else k.rflg
      (r.2.devWrite x.regs.ctx x.regs.ring { k with rflg := live }.bytes).2
    | none => r.2
  s1.putHead h { regs := { x.regs with hctl := x.regs.hctl &&& ~~~ 1#64 }, eng := Engine.zero }

/-- The first frame whose first line starts at a TIME or later: the serialiser starts with it (log entry 86). -/
def HeadRegs.frameFrom (r : HeadRegs) (time : Nat) : Nat :=
  ((time - (r.epoch.toNat + r.vstart * r.lper.toNat / 65536)) * 65536 + r.fper.toNat - 1) / r.fper.toNat

/-- EN has been set: A ← L + N, LIVE, the engine at frame F0. -/
def State.enableHead (s : State) (h : Nat) : State :=
  let r := s.ringOf h
  let x := r.2.headOf h
  let s1 := match r.1 with
    | some hdr => (r.2.devWrite x.regs.ctx x.regs.ring { hdr with a := (hdr.l + hdr.n) % 2 ^ 32, rflg := hdr.rflg ||| 256 }.bytes).2
    | none => r.2
  s1.putHead h { x with eng := { Engine.zero with
    full := (x.regs.erate.extractLsb' 32 32).toNat / 2, seq := x.regs.ertp2.setWidth 16, lastKey := x.regs.f0
    golden := x.regs.f0, disp := x.regs.frameFrom s.time.toNat * x.regs.ns, fills := [(s.time.toNat, x.regs.fill)] } }

/-! ## The encoder (15 R395-R400) -/

/-- The superblock rows of a frame. -/
def HeadRegs.rows (r : HeadRegs) : Nat := (r.h + 63) / 64

/-- The bytes of the encoder state area. -/
def HeadRegs.stateBytes (r : HeadRegs) : Nat := 9 * (64 * ((r.w + 63) / 64)) * (64 * ((r.h + 63) / 64)) + 2 ^ 20

/-- The pages of the encoder state area with their first physical addresses: write-back pages of LPDDR6 with W (15 R398), or the
first fault. Of a page that is mapped but is no write-back page of this device's LPDDR6 the spec gives no fault: the model records Permission
at level 5 (log entry 98). -/
def State.stateAreaPages (s : State) (r : HeadRegs) : List (DWord × Except (BitVec 8 × BitVec 8) Nat) :=
  (List.range ((r.stateBytes + 4095) / 4096)).map fun i =>
    let va := r.estate + BitVec.ofNat 64 (4096 * i)
    (va, match (s.xlate none r.ctx true .write va).1 with
      | .error f => .error (f.code, f.level)
      | .ok (t, pa) => if t.attr = 0 ∧ s.isLocal t ∧ rangeOf pa = .lpddr then .ok pa else .error (0x07, 5))

/-- Whether the state area is mapped as R398 needs it. -/
def State.stateAreaMapped (s : State) (r : HeadRegs) : Bool :=
  (s.stateAreaPages r).all fun p => match p.2 with
    | .ok _ => true
    | .error _ => false

/-- The first fault on the encoder state area: of its mapping, or an uncorrectable error in a sector (12 R321). -/
def State.stateAreaFault (s : State) (r : HeadRegs) : Option (DWord × BitVec 8 × BitVec 8) :=
  (s.stateAreaPages r).findSome? fun p => match p.2 with
    | .error f => some (p.1, f.1, f.2)
    | .ok pa => ((List.range 128).find? fun j => s.poisoned (pa + 32 * j) 32).map fun j =>
        (p.1 + BitVec.ofNat 64 (32 * j), 0x06, 8)

/-- The row of a head that stands next: its frame, its number, and the index of the last strip it needs. -/
def Head.nextRow (x : Head) : Nat × Nat × Nat :=
  let f := x.regs.f0 + x.eng.row / x.regs.rows
  let r := x.eng.row % x.regs.rows
  (f, r, f * x.regs.ns + min (64 * r + 63) (x.regs.h - 1) / x.regs.sh)

/-- The time at which a head's next row became ready for an engine; none where it is not. -/
def Head.readyRow (x : Head) (engine : Nat) : Option Nat :=
  if !x.regs.en ∨ !x.regs.codes ∨ x.regs.engine ≠ engine ∨ x.regs.rows = 0 ∨ x.regs.ns = 0 ∨ x.regs.sh = 0 then none
  else
    let i := x.nextRow.2.2
    if i < x.nextDue then some (x.regs.dueTime (i / x.regs.ns) (i % x.regs.ns)) else none

/-- The head whose row an engine codes next: the earliest ready, the lowest head among equals (15 R396). -/
def State.rowHead (s : State) (engine : Nat) : Option Nat :=
  (s.links.heads.foldl (fun (b : Option (Nat × Nat)) e =>
    match e.2.readyRow engine, b with
    | none, b => b
    | some t, none => some (e.1, t)
    | some t, some y => if t < y.2 then some (e.1, t) else some y) none).map (·.1)

/-- The qindex of a row (15 R399). -/
def HeadRegs.qindex (r : HeadRegs) (full : Nat) : Nat :=
  let vbv := (r.erate.extractLsb' 32 32).toNat
  let base : Int := ((r.eqp.extractLsb' 16 8).toNat : Int)
  let gain : Int := ((r.eqp.extractLsb' 24 16).toNat : Int)
  let q : Int := base + gain * ((full : Int) - ((vbv / 2 : Nat) : Int)) / (vbv : Int)
  (max ((r.eqp.extractLsb' 0 8).toNat : Int) (min ((r.eqp.extractLsb' 8 8).toNat : Int) q)).toNat

/-- BR, the bits of a row (15 R399). -/
def HeadRegs.rowBits (r : HeadRegs) : Nat :=
  (r.erate.extractLsb' 0 32).toNat * r.fper.toNat / (65536 * 1000000) / r.rows

/-- Whether a frame is a key frame (15 R398). -/
def Head.keyFrame (x : Head) (f : Nat) : Bool :=
  let keyint := (x.regs.egop.extractLsb' 0 16).toNat
  f == x.regs.f0 || x.eng.keyReq || (keyint != 0 && decide (x.eng.lastKey + keyint ≤ f))

/-- Whether a frame refreshes GOLDEN: a key frame, and every GOLDINT frames, counted from the last refresh: from where, the spec leaves
open (15 R398; log entry 94). -/
def Head.goldenFrame (x : Head) (f : Nat) (key : Bool) : Bool :=
  let n := (x.regs.egop.extractLsb' 16 16).toNat
  key || (n != 0 && decide (x.eng.golden + n ≤ f))

/-- An unsigned number in LEB128, as the AV1 RTP payload format writes lengths. -/
def leb128 : Nat → Nat → List Byte
  | 0, _ => []
  | k + 1, n => if n < 128 then [BitVec.ofNat 8 n] else BitVec.ofNat 8 (128 + n % 128) :: leb128 k (n / 128)

/-- Cut bytes into pieces of at most n bytes. -/
def pieces (n : Nat) : Nat → List Byte → List (List Byte)
  | 0, _ => []
  | k + 1, bs => if bs.length ≤ n then [bs] else bs.take n :: pieces n k (bs.drop n)

/-- The RTP payloads of one OBU (15 R400): an aggregation header with W = 0, Z and Y on fragments and N where asked, then
the length and the bytes. -/
def obuPayloads (mtu : Nat) (first : Bool) (bs : List Byte) : List (List Byte) :=
  let ps := pieces (mtu - 3) (bs.length + 1) bs
  (List.range ps.length).map fun i =>
    let p := ps.getD i []
    let z : Nat := if i = 0 then 0 else 128
    let y : Nat := if i + 1 = ps.length then 0 else 64
    let n : Nat := if first && i == 0 then 8 else 0
    BitVec.ofNat 8 (z + y + n) :: (leb128 3 p.length ++ p)

/-- The RTP timestamp of a frame. -/
def HeadRegs.stamp (r : HeadRegs) (f : Nat) : Word :=
  BitVec.ofNat 32 ((r.ertp2.extractLsb' 16 32).toNat + 9 * r.frameTime f / 100000)

/-- An egress entry before it is written. -/
def Egress.zero : Egress :=
  { dmac := 0, valid := false, v6 := false, dscp := 0, sip := 0, dip := 0, sport := 0, dport := 0, drops := 0, ident := 0 }

/-- The sum of 16-bit words, most significant byte first, the last one padded with zero. -/
def wordSum : List Byte → Nat
  | [] => 0
  | [a] => 256 * a.toNat
  | a :: b :: t => 256 * a.toNat + b.toNat + wordSum t

/-- The UDP checksum of data between an entry's addresses and ports (16 R419). -/
def Egress.checksum (e : Egress) (data : List Byte) : BitVec 16 :=
  let n := if e.v6 then 16 else 4
  let len := 8 + data.length
  BitVec.ofNat 16 (65535 - (wordSum (beBytes n e.sip.toNat) + wordSum (beBytes n e.dip.toNat) + 17 + len
    + e.sport.toNat + e.dport.toNat + len + wordSum data) % 65535)

/-- The RTP header of a packet (RFC 3550; 15 R400). -/
def RtpPacket.header (p : RtpPacket) : List Byte :=
  [0x80, BitVec.ofNat 8 ((if p.marker then 128 else 0) + p.payloadType.toNat)] ++ beBytes 2 p.seq.toNat
    ++ beBytes 4 p.stamp.toNat ++ beBytes 4 p.ssrc.toNat

/-- Send one RTP packet of a head through the egress filter (16 R419). -/
def State.sendRtp (s : State) (h : Nat) (stamp : Word) (marker : Bool) (payload : List Byte) : State :=
  let x := s.headOf h
  let e := (s.links.egress.find h).getD Egress.zero
  let s1 := s.putHead h { x with eng := { x.eng with seq := x.eng.seq + 1 } }
  if e.valid then
    let p : RtpPacket :=
      { head := h, port := x.regs.ertp.extractLsb' 40 3, entry := e, ssrc := x.regs.ertp.setWidth 32
        payloadType := x.regs.ertp.extractLsb' 32 7, seq := x.eng.seq, stamp := stamp, marker := marker, payload := payload
        df := !e.v6, checksum := 0 }
    { s1 with links := { s1.links with
        sent := s1.links.sent ++ [{ p with checksum := e.checksum (p.header ++ payload) }]
        egress := s1.links.egress.put h { e with ident := e.ident + 1 } } }
  else { s1 with links := { s1.links with egress := s1.links.egress.put h { e with drops := e.drops + 1 } } }

/-- Send payloads in order; the marker stands on the last when asked. -/
def State.sendAll (s : State) (h : Nat) (stamp : Word) (mark : Bool) (ps : List (List Byte)) : State :=
  (List.range ps.length).foldl (fun u i => u.sendRtp h stamp (mark && i + 1 == ps.length) (ps.getD i [])) s

/-- The strips of frame f whose last row is r or before it. -/
def HeadRegs.stripsEnded (g : HeadRegs) (f r idx : Nat) : Bool :=
  idx / g.ns == f && decide (min (g.sh * (idx % g.ns) + g.sh - 1) (g.h - 1) / 64 ≤ r)

/-- Stop a head on a fault of its state area (15 R398, 16 R424). -/
def State.stopHead (s : State) (h f : Nat) (va : DWord) (code level : BitVec 8) : State :=
  let ctx := (s.headOf h).regs.ctx
  (s.disableHead h).postEvent ctx (leBytes 8 s.time.toNat ++ leBytes 2 h ++ [6, 0] ++ leBytes 4 f ++ leBytes 8 va.toNat
    ++ [code, level, 0, 0] ++ leBytes 4 0)

/-- A sample as an encoder codes it: with BITS8 rounded to 8 bits (15 R395). -/
def HeadRegs.sample (r : HeadRegs) (v : Nat) : Nat := if r.hctl.getLsbD 7 then min 255 ((v + 2) / 4) else v

/-- A line as a row codes it: the slot's samples; of a missed strip, skipped blocks in an inter frame, and in a key frame the fill
colour (15 R397). -/
def HeadRegs.codedLine (r : HeadRegs) (key : Bool) (slot : Option (List Nat)) (fill : List Nat) : CodedLine :=
  match slot with
  | some xs => .samples (xs.map r.sample)
  | none => if key then .samples (((List.range r.w).map fun i => fill.getD (i % fill.length) 0).map r.sample) else .skip

/-- A head's next row as its engine codes it (15 R396, R397). A consumed strip whose ring header can no longer be read is coded as a missed
one, on which the spec is silent (log entry 62). -/
def State.codedRow (s : State) (h : Nat) (key golden : Bool) (q : Nat) : CodedRow :=
  let x := s.headOf h
  let g := x.regs
  let f := x.nextRow.1
  let r := x.nextRow.2.1
  let slot := fun (st : Nat) => match (s.ringOf h).1, x.consumed (f * g.ns + st) with
    | some hdr, true => some (s.slotBytes x hdr (f * g.ns + st))
    | _, _ => none
  let lines := (List.range 64).map (64 * r + ·) |>.filter fun y => decide (y < g.h)
  let cLines := (List.range 32).map (32 * r + ·) |>.filter fun c => decide (2 * c < g.h)
  { frame := f, row := r, key := key, golden := golden, qindex := q, tile := (0, r), shown := true
    refs := if key then [] else [(.last, f - 1), (.golden, x.eng.golden)]
    luma := lines.map fun y =>
      let st := y / g.sh
      g.codedLine key ((slot st).map fun bs => g.lumaLine bs (y % g.sh)) [(fillParts (x.fillOf f st)).1]
    chroma := cLines.map fun c =>
      let st := 2 * c / g.sh
      g.codedLine key ((slot st).map fun bs => g.chromaLine bs (c % (g.sh / 2)))
        [(fillParts (x.fillOf f st)).2.1, (fillParts (x.fillOf f st)).2.2] }

/-- The tools of every engine (15 Table 15.7). -/
def codingTools : CodingTools :=
  { refs := [.last, .golden], refsPerBlock := 1, tileCols := 1, rowsPerTile := 1
    intra := [.dc, .directional, .smooth, .paeth, .cfl], inter := [.newMv, .nearestMv, .nearMv, .globalMv], identityMotion := true
    eightTap := true, sides := [4, 8, 16, 32], kinds := [.dct, .adst, .identity], filters := [.deblocking, .cdef, .wiener] }

/-- What a head's sequence header says (15 Table 15.7): Main profile, at most level 5.1, 8 or 10 bits, 4:2:0, BT.709 in limited
range. -/
def HeadRegs.seqHeader (r : HeadRegs) : SeqHeader :=
  { width := r.w, height := r.h, profile := 0, maxLevelIdx := 13, bitDepth := if r.hctl.getLsbD 7 then 8 else 10
    subsampling := (1, 1), primaries := 1, transfer := 1, matrix := 1, fullRange := false, chromaPosition := 0, superblock := 64
    stillPicture := false, reducedStillPicture := false, filmGrain := false, superres := false, tools := codingTools }

/-- The engine works in its state area: every byte there becomes a free value (15 R398). -/
def State.writeStateArea (s : State) (r : HeadRegs) : State :=
  (({ s with fresh := s.fresh + 1 }).devWrite r.ctx r.estate
    ((List.range r.stateBytes).map fun i => Config.encoderState s.fresh i)).2

/-- Code the next row of a head whose state area stands, and send it (15 R396-R400): its bits are a function of the sequence header
and of every row that the encoder has coded since its enable (R397; log entries 1 and 60). A frame that refreshes GOLDEN becomes it with its
last row: the rows before it still refer to the old one (R395, R398). -/
def State.codeRow (s : State) (h : Nat) : State :=
  let x := s.headOf h
  let f := x.nextRow.1
  let r := x.nextRow.2.1
  let key := if r = 0 then x.keyFrame f else x.eng.lastKey == f
  let golden := x.goldenFrame f key
  let coded := x.eng.coded ++ [s.codedRow h key golden (x.regs.qindex x.eng.full)]
  let obu := Config.tileGroup x.regs.seqHeader coded
  let mtu := (x.regs.ertp.extractLsb' 48 16).toNat
  let ps := (if key && r == 0 then obuPayloads mtu true (Config.seqHeader x.regs.seqHeader) else []) ++ obuPayloads mtu false obu
  let eng := { x.eng with
    row := x.eng.row + 1, full := x.eng.full + 8 * obu.length - x.regs.rowBits
    keyReq := if r = 0 then false else x.eng.keyReq, lastKey := if key then f else x.eng.lastKey
    golden := if golden && r + 1 == x.regs.rows then f else x.eng.golden, coded := coded }
  let s1 := (s.putHead h { x with eng := eng }).writeStateArea x.regs
  (s1.sendAll h (x.regs.stamp f) (r + 1 == x.regs.rows) ps).endReadings h false (x.regs.stripsEnded f r)

/-- The heads of an engine do what they have to do by now, so that every row that has become ready stands ready (15 R396). -/
def State.catchEngine (s : State) (engine : Nat) : State :=
  ((s.links.heads.filter fun e => e.2.regs.en && e.2.regs.codes && e.2.regs.engine == engine).map (·.1)).foldl
    (fun u h => u.catchHead h) s

/-- ENCODER_ROW (15 R396-R400): the engine codes the row that was ready first; a fault on the state area stops the head. -/
def execEncoderRow (engine : BitVec 3) (s : State) : Host.Outcome State Fault Refusal :=
  let t := s.catchEngine engine.toNat
  match t.rowHead engine.toNat with
  | none => .next t
  | some h =>
    let x := t.headOf h
    match t.stateAreaFault x.regs with
    | some e => .next (t.stopHead h x.nextRow.1 e.1 e.2.1 e.2.2)
    | none => .next (t.codeRow h)

end Sys2Proof.Machine
end

