-- ==== Sys2Proof/Machine/Commands.lean ====
section
/-!
DEFINITION. The pithead's commands (16 R404-R406, R410, R411, R414): how one is taken from the queue and ended, and the
effect of each operation of Table 16.4 but HEAD's.
-/

namespace Sys2Proof.Machine

/-! ## Taking and ending a command -/

/-- A command: its queue index and its 64 bytes. -/
structure Cmd where
  index : Word
  bytes : List Byte
  deriving DecidableEq, Repr

/-- n bytes of a command from offset o, as a number. -/
def Cmd.num (c : Cmd) (o n : Nat) : Nat := leVal ((c.bytes.drop o).take n)

/-- Whether n bytes from offset o are zero. -/
def Cmd.zero (c : Cmd) (o n : Nat) : Bool := c.num o n == 0

/-- CTX. -/
def Cmd.ctx (c : Cmd) : Nat := c.num 8 1

/-- The command at the head of the queue. -/
def State.cmd (s : State) : Cmd :=
  let q := s.hostIf.cmdq
  { index := q.cons, bytes := s.hostRead (q.entryAddr 64 q.cons) 64 }

/-- How a command's handling ends: its effect is done, it ends with a STATUS and no effect, the firmware's access at an address
is refused by the windows (16 R410), or it is not over yet, with the state in which it waits for a peer. -/
inductive CmdEnd where
  | ok (s : State)
  | status (n : Nat)
  | refused (addr : DWord)
  | later (s : State)
  deriving DecidableEq, Repr

/-- Consume a command's entry and write its record. -/
def State.recordCommand (s : State) (c : Cmd) (status : Nat) : State :=
  ({ s with hostIf := { s.hostIf with cmdq := { s.hostIf.cmdq with cons := s.hostIf.cmdq.cons + 1 } } }).postCompletion
    (completionRec 1 status c.ctx (BitVec.ofNat 32 (c.num 4 4)) 0 s.time 0)

/-- The watchdog's trip: the pithead alone restarts, with a crash record (16 R412, R414). A command that awaits a peer and has committed
nothing is to run again; one that has committed is only to have its record. -/
def State.watchdog (s : State) : State :=
  let p := s.pithead
  let kept := (p.staged.filter Staging.sent).map fun g => { g with again := true }
  ({ s with pithead := { p with up := false, halted := false, staged := kept, restarts := p.restarts + 1 } }).crashRecord 6 4 0

/-- End a command: its index is journaled with its effect, the entry is consumed and the record written; a trip between
the commit and the record leaves the record to the restart, and a command that committed nothing to run again (16 R414). -/
def State.endCommand (s : State) (c : Cmd) (status : Nat) : State :=
  let p := s.pithead
  let s1 : State := { s with pithead := { p with journal := if status = 0 then c.index else p.journal, staged := none } }
  if p.trip then
    ({ s1 with pithead := { s1.pithead with trip := false, committed := status == 0 || p.staged.any Staging.sent } }).watchdog
  else s1.recordCommand c status

/-! ## Frames to peers of a command (11 R305, 12 R333, 16 R406, R414) -/

/-- Whether a peer has yet to acknowledge a frame sent under a number. -/
def State.stageOwed (s : State) (n : Nat) : Bool :=
  s.links.peers.any fun p => p.2.up && p.2.unacked.any fun f => f.group == n

/-- Frames sent to peers in reaching this state are noted under a number of their own; where there are any, the command waits for their
acknowledgements, `sent` when it is committed. -/
def State.stageFrames (s before : State) (sent : Bool) : Option State :=
  let u := s.noteFlights before [] before.nextId
  if u.stageOwed before.nextId then
    some { u with
      nextId := u.nextId + 1
      pithead := { u.pithead with staged := some { group := before.nextId, sent := sent, lost := false, again := false } } }
  else none

/-- A committed command that awaits peers gets its record once they have answered: STATUS 1 where one was lost, but STATUS 0 after a
restart, which knows the journal alone (16 R406, R414; log entry 103). -/
def State.endStaged (s : State) (c : Cmd) (g : Staging) : State :=
  if s.stageOwed g.group then s else s.endCommand c (if g.lost && !g.again then 1 else 0)

/-- After a restart, write the record of a command that was committed and has none (16 R414). -/
def State.recordCommitted (s : State) : State :=
  if s.pithead.committed then ({ s with pithead := { s.pithead with committed := false } }).recordCommand s.cmd 0 else s

/-- Run the command at the head of the queue when it is the one named; `owned` is whether its CTX must exist. LAMPS ignores CTX. A
command that meets a bad capability and has no record yet meets it again when it is run again, and one that is committed is not run again
(16 R411, R414). -/
def runCommand (i : Instr) (owned : Bool) (s : State) (f : Cmd → State → CmdEnd) : Host.Outcome State Fault Refusal :=
  if s.nextCommand = some i then
    let c := s.cmd
    match s.pithead.staged.filter Staging.sent, s.pithead.badCap with
    | some g, _ => .next (s.endStaged c g)
    | none, some cause =>
      let s1 := if s.pithead.trip then s else { s with pithead := { s.pithead with badCap := none } }
      .next ((s1.crashRecord cause.toNat 1 c.index.toNat).endCommand c 3)
    | none, none =>
      if !c.zero 2 2 || !c.zero 9 7 || (i != .lamps && decide (64 ≤ c.ctx)) then .next (s.endCommand c 1)
      else if owned && (s.ctxs.find c.ctx).isNone then .next (s.endCommand c 2)
      else
        match f c s with
        | .ok t => .next (t.endCommand c 0)
        | .status n => .next (s.endCommand c n)
        | .refused va => .next ((s.crashRecord 7 1 c.index.toNat (some va)).endCommand c 2)
        | .later t => .next t
  else .next s

/-- Read n bytes of a context's memory for the firmware: refused outside its windows (16 R410). The command waits for a peer that is
asked, and then goes on with what the peer answered; a peer that is lost is a translation fault (12 R333). -/
def State.fwRead (s : State) (ctx va n : Nat) : Except CmdEnd (List Byte × State) :=
  if !s.windowOk ctx (BitVec.ofNat 64 va) n false then .error (.refused (BitVec.ofNat 64 va))
  else
    match s.devRead ctx (BitVec.ofNat 64 va) n, s.pithead.staged with
    | (none, _), _ => .error (.status 1)
    | (some bs, t), none =>
      match t.stageFrames s false with
      | some u => .error (.later u)
      | none => .ok (bs, t)
    | (some bs, t), some g =>
      if g.lost then .error (.status 1)
      else if s.stageOwed g.group then .error (.later s)
      else .ok (bs, { t with links := s.links })

/-! ## Contexts (OP 1, 2) -/

/-- CTXCREATE; an OP that Table 16.4 does not list ends here with STATUS 1. -/
def execCtxcreate (s : State) : Host.Outcome State Fault Refusal :=
  runCommand .ctxcreate false s fun c s =>
    let base := c.num 16 8
    let area := c.num 24 8
    let size := c.num 32 8
    if c.num 0 2 ≠ 1 ∨ !c.zero 40 24 ∨ (s.ctxs.find c.ctx).isSome then .status 1
    else if base % 4096 ≠ 0 ∨ area % 4096 ≠ 0 ∨ size % 4096 ≠ 0 ∨ size = 0 ∨ 2 ^ 30 < size then .status 1
    else if base < area ∨ area + size < base + 4096 ∨ rangeOf (area + size - 1) ≠ .lpddr then .status 1
    else
      .ok { s with ctxs := s.ctxs.put c.ctx { tableBase := BitVec.ofNat 48 base, area := BitVec.ofNat 48 area, areaSize := size, slots := [] } }

/-- Whether anything of a context is resident: an unretired launch, a chain, an enabled head. -/
def State.ctxBusy (s : State) (ctx : Nat) : Bool :=
  s.launches.any (fun e => e.2.ctx == ctx) || s.chains.any (fun e => e.2.ctx == ctx)
    || s.links.heads.any fun e => e.2.regs.en && e.2.regs.ctx == ctx

/-- Forget a context's frames and code lines on a core. -/
def Core.forget (k : Core) (ctx : Nat) : Core :=
  { k with
    views := k.views.filter fun v => v.1 / 4 != ctx
    park := k.park.filter fun p => p.ctx != ctx
    icache := k.icache.filter fun l => l.ctx != ctx }

/-- Forget a context's cached translations. -/
def XCache.forget (x : XCache) (ctx : Nat) : XCache :=
  { tlb := x.tlb.filter fun e => e.ctx != ctx, walks := x.walks.filter fun e => e.ctx != ctx
    cores := x.cores.map fun k => (k.1, k.2.filter fun e => e.ctx != ctx) }

/-- CTXDESTROY: taken once nothing of the context is resident. -/
def execCtxdestroy (s : State) : Host.Outcome State Fault Refusal :=
  runCommand .ctxdestroy true s fun c s =>
    if !c.zero 16 48 then .status 1
    else if s.ctxBusy c.ctx then .later s
    else
      .ok { s with
        ctxs := s.ctxs.del c.ctx
        mem := { s.mem with xlats := s.mem.xlats.map fun e => (e.1, e.2.forget c.ctx) }
        cores := s.cores.map fun e => (e.1, e.2.forget c.ctx)
        hostIf := { s.hostIf with grants := s.hostIf.grants.filter fun g => g.2 != c.ctx } }

/-! ## Regions (OP 3; 01 R35-R38, R438) -/

/-- The region an RCB describes, with nothing used. -/
def Region.ofBytes (va : Nat) (bs : List Byte) : Region :=
  { va := BitVec.ofNat 64 va, parent := wordAt 64 bs 0 8, override := wordAt 32 bs 8 4, cls := wordAt 8 bs 12 1,
    fdom := wordAt 8 bs 13 1, rflags := wordAt 8 bs 14 1, deqcap := wordAt 8 bs 15 1, crews := wordAt 32 bs 16 4,
    bankKib := wordAt 32 bs 20 4, parts := wordAt 16 bs 24 2, rsent := wordAt 16 bs 26 2, tlsLane := wordAt 32 bs 28 4,
    saveArea := wordAt 64 bs 32 8, trapTab := wordAt 64 bs 40 8, spillBase := wordAt 64 bs 48 8,
    spillFrames := wordAt 32 bs 56 4, tlsPool := wordAt 64 bs 64 8, tlsPoolSize := wordAt 64 bs 72 8,
    crewsUsed := 0, bankUsed := 0, partsUsed := 0, chunks := [], saves := [] }

/-- Whether an RCB keeps its reserved bytes, field limits and override rules (01 R35, R36). -/
def Region.fieldsOk (g : Region) (bs : List Byte) : Bool :=
  leVal ((bs.drop 60).take 4) == 0 && leVal ((bs.drop 90).take 166) == 0
    && g.override.extractLsb' 13 19 == 0 && decide (g.cls.toNat ≤ 3) && g.rflags.extractLsb' 2 6 == 0
    && decide (g.parts.toNat ≤ 3072) && g.tlsLane.toNat % 4 == 0 && g.saveArea.toNat % 256 == 0 && g.trapTab.toNat % 256 == 0
    && g.spillBase.toNat % 32 == 0 && g.spillFrames.toNat % 128 == 0 && g.tlsPool.toNat % 256 == 0
    && (g.parent != 0 || g.override.extractLsb' 0 13 == 0x1FFF)
    && (!(g.override.getLsbD 7 || g.override.getLsbD 8) || g.override.getLsbD 12)

/-- Whether a frame of a context that names a slot is held anywhere: in a view, a spill chunk, the park store, a crew's frame stack,
or a saved stack that its crew's restore routine has yet to bring back (01 R438). -/
def State.frameHeld (s : State) (ctx slot : Nat) : Bool :=
  let names := fun (f : Frame) => frameRslot f == slot
  (s.cores.any fun e =>
    e.2.views.any (fun v => v.1 / 4 == ctx && (v.2.chip.any names || v.2.chunks.any fun c => c.rslots.contains slot))
      || e.2.park.any fun p => p.ctx == ctx && names p.frame)
    || s.crews.any fun e => s.ctxOf e.2 == ctx && ((s.auxOf e.1).frames.any names || (s.auxOf e.1).heldSlots.contains slot)

/-- Whether a slot is busy (01 R438). -/
def State.slotBusy (s : State) (ctx slot : Nat) (g : Region) (slots : Tbl Region) : Bool :=
  g.crewsUsed != 0 || g.bankUsed != 0 || g.partsUsed != 0
    || slots.any (fun e => e.1 != slot && e.2.parent == g.va && e.2.parent != 0)
    || s.chains.any (fun e => e.2.ctx == ctx && e.2.rslot == slot)
    || s.launches.any (fun e => e.2.ctx == ctx && e.2.packet.rslot == slot)
    || s.frameHeld ctx slot

/-- Whether a region may stand in a slot: its parent and the depths below it (01 R438). -/
def parentOk (slots : Tbl Region) (slot : Nat) (g : Region) : Bool :=
  let new := slots.put slot g
  (if slot = 0 then g.parent == 0
    else
      match slots.find? fun e => e.1 != slot && e.2.va == g.parent with
      | none => false
      | some p => g.parent != 0 && g.parent != g.va && !(chainFrom slots p.1 17).contains slot)
    && new.all fun e => decide ((chainFrom new e.1 17).length ≤ 16)

/-- Whether the page of an address is mapped with the Privileged bit (01 R35). -/
def State.privPage (s : State) (ctx : Nat) (va : DWord) : Bool :=
  match s.walk (va.setWidth 57).toNat (s.rootOf ctx) 5 with
  | .ok l => l.pte.getLsbD 4
  | .error _ => false

/-- Set a slot of a context. -/
def State.putSlot (s : State) (ctx slot : Nat) (g : Region) : State :=
  { s with ctxs := s.ctxs.upd ctx fun x => { x with slots := x.slots.put slot g } }

/-- REGION, action 0 (01 R438); an action that is neither ends here with STATUS 1. -/
def execRegionLoad (s : State) : Host.Outcome State Fault Refusal :=
  runCommand .regionLoad true s fun c s =>
    let slot := c.num 16 1
    let va := c.num 24 8
    if c.num 17 1 ≠ 0 ∨ !c.zero 18 6 ∨ !c.zero 32 32 ∨ va % 256 ≠ 0 then .status 1
    else
      match s.fwRead c.ctx va 256 with
      | .error e => e
      | .ok (bs, t) =>
        let g := Region.ofBytes va bs
        let slots : Tbl Region := ((t.ctxs.find c.ctx).map (·.slots)).getD []
        if !t.privPage c.ctx g.va || !g.fieldsOk bs then .status 1
        else
          match slots.find slot with
          | none => if parentOk slots slot g then .ok (t.putSlot c.ctx slot g) else .status 1
          | some old =>
            if old.va = g.va then
              if (old.parent ≠ g.parent ∧ t.slotBusy c.ctx slot old slots) ∨ !parentOk slots slot g then .status 1
              else
                .ok (t.putSlot c.ctx slot { g with
                  crewsUsed := old.crewsUsed, bankUsed := old.bankUsed, partsUsed := old.partsUsed, chunks := old.chunks
                  saves := old.saves })
            else if t.slotBusy c.ctx slot old slots || !parentOk (slots.del slot) slot g then .status 1
            else .ok (t.putSlot c.ctx slot g)

/-- REGION, action 1 (01 R438). -/
def execRegionRemove (s : State) : Host.Outcome State Fault Refusal :=
  runCommand .regionRemove true s fun c s =>
    let slot := c.num 16 1
    if !c.zero 18 46 ∨ slot = 0 then .status 1
    else
      let slots : Tbl Region := ((s.ctxs.find c.ctx).map (·.slots)).getD []
      match slots.find slot with
      | none => .status 1
      | some g =>
        if s.slotBusy c.ctx slot g slots then .status 1
        else .ok { s with ctxs := s.ctxs.upd c.ctx fun x => { x with slots := x.slots.del slot } }

/-! ## Chains (OP 4, 5; 13 R348, R349) -/

/-- The chain a descriptor describes, IDLE. -/
def Chain.ofBytes (ctx va : Nat) (bs : List Byte) : Chain :=
  let n := fun (o k : Nat) => leVal ((bs.drop o).take k)
  { ctx := ctx, va := BitVec.ofNat 64 va, release0 := wordAt 64 bs 0 8, period := wordAt 64 bs 8 8, drel := wordAt 32 bs 16 4,
    guard := wordAt 32 bs 20 4, work := wordAt 32 bs 24 4, rparts := n 28 1, ncore := n 29 1, core0 := n 30 2,
    frame := wordAt 256 bs 32 32, level := n 64 1, pin := (wordAt 8 bs 65 1).getLsbD 0, rslot := n 66 1, state := .idle,
    levelNow := n 64 1, overruns := 0, pred := 0, inst := 0, count := 0, next := 0, base := (0, 0), reports := [], held := []
    levelWas := n 64 1, levelClk := 0 }

/-- Whether a descriptor keeps its limits and reserved bytes (13 R348). -/
def State.descriptorOk (s : State) (c : Chain) (bs : List Byte) : Bool :=
  let n := fun (o k : Nat) => leVal ((bs.drop o).take k)
  decide (1 ≤ c.drel.toNat) && (c.period == 0 || decide (c.drel.toNat ≤ c.period.toNat)) && decide (c.guard.toNat < c.drel.toNat)
    && decide (1 ≤ c.work.toNat) && decide (1 ≤ c.rparts) && decide (c.rparts ≤ 32) && decide (1 ≤ c.ncore)
    && decide (c.ncore ≤ s.ncores) && decide (c.core0 < s.ncores) && decide (c.level ≤ 4) && decide (n 65 1 ≤ 1)
    && decide (n 67 1 ≤ 63) && decide (n 70 2 ≤ 0xFFFE) && n 72 8 == 0 && n 82 2 == 0 && n 108 20 == 0
    && frameClass c.frame == 0 && frameRslot c.frame == c.rslot && c.frame.extractLsb' 224 16 == 0
    && (frameFault c.frame).isNone

/-- The first instance whose release time is not past (13 R349). -/
def Chain.firstDue (c : Chain) (time : Nat) : Nat :=
  if time ≤ c.release0.toNat then 0
  else if c.period = 0 then 1
  else (time - c.release0.toNat + c.period.toNat - 1) / c.period.toNat

/-- CHAINLOAD (13 R348). -/
def execChainload (s : State) : Host.Outcome State Fault Refusal :=
  runCommand .chainload true s fun c s =>
    let va := c.num 24 8
    if !c.zero 16 8 ∨ !c.zero 32 32 ∨ va % 128 ≠ 0 then .status 1
    else
      match s.fwRead c.ctx va 128 with
      | .error e => e
      | .ok (bs, t) =>
        let k := Chain.ofBytes c.ctx va bs
        let h := leVal ((bs.drop 70).take 2)
        if !t.descriptorOk k bs || (t.chains.find h).isSome || (t.region c.ctx k.rslot).isNone
            || t.chains.any (fun e => e.2.ctx == c.ctx && e.2.rslot == k.rslot) || t.classOf c.ctx k.rslot != 0 then .status 1
        else .ok (({ t with chains := t.chains.put h { k with next := k.firstDue t.time.toNat } }).writeChain h)

/-- CHAINUNLOAD (13 R349). -/
def execChainunload (s : State) : Host.Outcome State Fault Refusal :=
  runCommand .chainunload true s fun c s =>
    let h := c.num 16 2
    if !c.zero 18 46 then .status 1
    else
      match s.chains.find h with
      | none => .status 1
      | some k =>
        if k.ctx ≠ c.ctx then .status 2
        else
          let t := s.endReservation h
          .ok { t with chains := t.chains.del h }

/-! ## Keys, debug rights, lamps (OP 7-10) -/

/-- KEYLOAD (12 R319): a key of zeros revokes the slot. -/
def execKeyload (s : State) : Host.Outcome State Fault Refusal :=
  runCommand .keyload true s fun c s =>
    let slot := c.num 16 1
    let at' := c.num 24 8
    if slot = 0 ∨ !c.zero 17 7 ∨ !c.zero 32 32 ∨ at' % 64 ≠ 0 then .status 1
    else
      let key := s.hostRead at' 64
      let others := s.hostIf.grants.filter fun g => g.1 != slot
      if leVal key = 0 then .ok { s with hostIf := { s.hostIf with keys := s.hostIf.keys.del slot, grants := others } }
      else
        .ok { s with hostIf := { s.hostIf with keys := s.hostIf.keys.put slot key, grants := others ++ [(slot, c.ctx)] } }

/-- DBGGRANT (14 R379). -/
def execDbggrant (s : State) : Host.Outcome State Fault Refusal :=
  runCommand .dbggrant true s fun c s =>
    if !c.zero 16 48 then .status 1 else .ok (s.putDbg c.ctx { s.dbgOf c.ctx with dbgen := true })

/-- A comparator that revocation has zeroed. -/
def WatchPt.revoked : WatchPt := { addr := 0, en := false, r := false, w := false, logsz := 0 }

/-- DBGREVOKE (14 R379). -/
def execDbgrevoke (s : State) : Host.Outcome State Fault Refusal :=
  runCommand .dbgrevoke true s fun c s =>
    if !c.zero 16 48 then .status 1
    else
      .ok (s.putDbg c.ctx { s.dbgOf c.ctx with
        dbgen := false, bpen := false, wpen := false, sampen := false, blkrec := false, racedet := false, bps := [], notes := []
        wps := (List.range 8).map fun i => (i, WatchPt.revoked) })

/-- LAMPS (13 R344): effect at a round boundary; its CTX is ignored. -/
def execLamps (s : State) : Host.Outcome State Fault Refusal :=
  runCommand .lamps false s fun c s =>
    let n := c.num 16 1
    if !c.zero 17 47 ∨ n = 0 ∨ Config.lampCeiling < n then .status 1
    else .ok { s with lamps := { s.lamps with next := n } }

/-! ## Pre-emption and fault answers (OP 11, 12) -/

/-- The unretired launch of a context that a handle names, the latest accepted. -/
def State.launchNamed (s : State) (ctx h : Nat) : Option Nat := s.predOf ctx (BitVec.ofNat 32 h)

/-- Send requests to the crews of a launch that a test picks. -/
def State.preemptWhere (s : State) (ctx h : Nat) (p : Nat → Crew → Bool) : State :=
  match s.launchNamed ctx h with
  | none => s
  | some l => ((s.crews.filter fun e => e.2.launch == l && p e.1 e.2).map (·.1)).foldl (fun u x => u.requestPreempt x 2) s

/-- Whether a crew is of block Bl. -/
def State.inBlock (s : State) (r : Crew) (bl : Nat) : Bool := ((s.blockOf r).map (·.bl)) == some bl

/-- PREEMPT, target 0 (16 Table 16.4); a target above 2 ends here with STATUS 1. -/
def execPreemptLaunch (s : State) : Host.Outcome State Fault Refusal :=
  runCommand .preemptLaunch true s fun c s =>
    if c.num 20 1 ≠ 0 ∨ !c.zero 21 43 then .status 1 else .ok (s.preemptWhere c.ctx (c.num 16 4) fun _ _ => true)

/-- PREEMPT, target 1. -/
def execPreemptBlock (s : State) : Host.Outcome State Fault Refusal :=
  runCommand .preemptBlock true s fun c s =>
    if !c.zero 21 3 ∨ !c.zero 32 32 then .status 1
    else .ok (s.preemptWhere c.ctx (c.num 16 4) fun _ r => s.inBlock r (c.num 24 8))

/-- PREEMPT, target 2. -/
def execPreemptCrew (s : State) : Host.Outcome State Fault Refusal :=
  runCommand .preemptCrew true s fun c s =>
    if !c.zero 21 3 ∨ !c.zero 33 31 then .status 1
    else .ok (s.preemptWhere c.ctx (c.num 16 4) fun _ r => s.inBlock r (c.num 24 8) && r.index == c.num 32 1)

/-- FAULTANS, verdict 1 (14 R374); a verdict that is neither ends here with STATUS 1. -/
def execFaultansRetry (s : State) : Host.Outcome State Fault Refusal :=
  runCommand .faultansRetry true s fun c s =>
    if c.num 20 1 ≠ 1 ∨ !c.zero 21 43 then .status 1 else .ok (s.answerRetry c.ctx (BitVec.ofNat 32 (c.num 16 4)))

/-- FAULTANS, verdict 2. -/
def execFaultansDeliver (s : State) : Host.Outcome State Fault Refusal :=
  runCommand .faultansDeliver true s fun c s =>
    if !c.zero 21 43 then .status 1 else .ok (s.answerDeliver c.ctx (BitVec.ofNat 32 (c.num 16 4)))

/-! ## Staging (OP 13, 14; 16 R406) -/

/-- Whether the operands of a staging command keep their limits. -/
def Cmd.stageOk (c : Cmd) : Bool :=
  c.num 16 8 % 4 == 0 && c.num 24 8 % 4 == 0 && c.num 32 4 % 4 == 0 && decide (4 ≤ c.num 32 4)
    && decide (c.num 32 4 ≤ 16 * 2 ^ 20) && decide (c.num 36 1 ≤ 1) && c.zero 37 27

/-- Whether n bytes lie inside a context's table area. -/
def State.inTable (s : State) (ctx pa n : Nat) : Bool :=
  match s.ctxs.find ctx with
  | some x => decide (x.area.toNat ≤ pa) && decide (pa + n ≤ x.area.toNat + x.areaSize)
  | none => false

/-- STAGEIN (16 R406): it is committed as it writes, and its record, a SYSTEM release of its writes, awaits the peers that have one to
perform (11 R303, R305; 16 R414). -/
def execStagein (s : State) : Host.Outcome State Fault Refusal :=
  runCommand .stagein true s fun c s =>
    let n := c.num 32 4
    let va : DWord := BitVec.ofNat 64 (c.num 24 8)
    if !c.stageOk then .status 1
    else if !s.windowOk c.ctx va n true then .refused va
    else
      match s.devWrite c.ctx va (s.hostRead (c.num 16 8) n) with
      | (true, t) =>
        match t.stageFrames s true with
        | some u => .later { u with pithead := { u.pithead with journal := c.index } }
        | none => .ok t
      | (false, _) => .status 1

/-- STAGEIN with TABLE: plaintext under key id 0. -/
def execStageinTable (s : State) : Host.Outcome State Fault Refusal :=
  runCommand .stageinTable true s fun c s =>
    let n := c.num 32 4
    let pa := c.num 24 8
    if !c.stageOk || !s.inTable c.ctx pa n then .status 1
    else
      let bs := s.hostRead (c.num 16 8) n
      .ok (s.homeWrite s.walkTag (l2How s.walkTag.attr .dflt) ((List.range n).map fun i => (pa + i, bs.getD i 0)))

/-- STAGEOUT (16 R406): the host's bytes are written once a peer that holds some has answered. -/
def execStageout (s : State) : Host.Outcome State Fault Refusal :=
  runCommand .stageout true s fun c s =>
    if !c.stageOk then .status 1
    else
      match s.fwRead c.ctx (c.num 24 8) (c.num 32 4) with
      | .ok (bs, t) => .ok (t.hostPut (c.num 16 8) bs)
      | .error e => e

/-- STAGEOUT with TABLE. -/
def execStageoutTable (s : State) : Host.Outcome State Fault Refusal :=
  runCommand .stageoutTable true s fun c s =>
    let n := c.num 32 4
    let pa := c.num 24 8
    if !c.stageOk || !s.inTable c.ctx pa n || s.poisoned pa n then .status 1
    else .ok (s.hostPut (c.num 16 8) ((List.range n).map fun i => s.sliceGet s.walkTag (pa + i)))

/-! ## KEYFRAME and ATTEST (OP 15, 16) -/

/-- KEYFRAME (15 R398). -/
def execKeyframe (s : State) : Host.Outcome State Fault Refusal :=
  runCommand .keyframe true s fun c s =>
    let h := c.num 16 1
    let x := s.headOf h
    if !c.zero 17 47 ∨ 63 < h then .status 1
    else if x.regs.en ∧ x.regs.ctx ≠ c.ctx then .status 2
    else if x.regs.en then .ok (s.putHead h { x with eng := { x.eng with keyReq := true } })
    else .ok s

/-- DEVID (00 R3). -/
def State.devid (s : State) : Word :=
  (if s.partNo.full then 0x9612 else 0x9610) ||| (Config.step.setWidth 32 <<< 16) ||| (BitVec.ofNat 32 s.ncores <<< 24)

/-- What an attestation report says, before its signature; its layout is the model's (log entry 51). -/
def State.attestation (s : State) (nonce : List Byte) : List Byte :=
  nonce ++ leBytes 4 s.devid.toNat ++ leBytes 4 s.boot.fwver.toNat ++ leBytes 4 s.boot.svn.toNat ++ leBytes 4 s.boot.rollback
    ++ beBytes 48 s.boot.imageHash.toNat ++ beBytes 48 s.boot.rsaHash.toNat ++ beBytes 48 s.boot.slhHash.toNat
    ++ [(BitVec.ofBool s.boot.jtagLocked).setWidth 8]

/-- ATTEST (16 R417): the report, and an ECDSA P-384 signature under a device key that no rule gives, a free value (log entry 1). -/
def execAttest (s : State) : Host.Outcome State Fault Refusal :=
  runCommand .attest false s fun c s =>
    let at' := c.num 24 8
    if at' % 4096 ≠ 0 ∨ !c.zero 32 32 then .status 1
    else
      let report := s.attestation (s.hostRead (c.num 16 8) 48)
      .ok (s.hostPut at' (report ++ (List.range 96).map fun n => Config.attest report n))

end Sys2Proof.Machine
end

