-- ==== Sys2Proof/Machine/Debug.lean ====
section
/-!
DEFINITION. Sampling (14 R375, R382).
-/

namespace Sys2Proof.Machine

/-- The sample record (14 Table 14.11) of a note whose reason is known. The PC and the lanes are those at the start of the clk, of the
group that the crew issues on it if it does; while the later words of a group issue they are those after it, which the spec leaves
open (log entry 94). -/
def SampleNote.record (x : SampleNote) (ctx reason : Nat) : List Byte :=
  leBytes 8 x.pc.toNat ++ leBytes 4 x.lanes.toNat
    ++ [BitVec.ofNat 8 reason, BitVec.ofNat 8 x.partition, BitVec.ofNat 8 x.slot, BitVec.ofNat 8 x.flg]
    ++ leBytes 2 x.core ++ [BitVec.ofNat 8 x.index, BitVec.ofNat 8 ctx] ++ leBytes 4 x.n ++ leBytes 4 x.handle.toNat ++ leBytes 4 x.bl

/-- Whether a note is one of a core's whose clk has passed. -/
def SampleNote.ripe (x : SampleNote) (core : Nat) : Bool := x.core == core && x.reason.isSome

/-- A core's samples of one context whose clocks have passed, in order: one record for each crew noted. -/
def State.sampleCtx (s : State) (core ctx : Nat) : State :=
  let d := s.dbgOf ctx
  let ripe := d.notes.filter fun x => x.ripe core
  if ripe.isEmpty then s
  else ripe.foldl (fun u x => u.postSample ctx (x.record ctx (x.reason.getD 1)))
    (s.putDbg ctx { d with notes := d.notes.filter fun x => !x.ripe core })

/-- SAMPLE (14 R382). -/
def execSample (core : Nat) (s : State) : Host.Outcome State Fault Refusal :=
  .next (s.hostIf.dbg.keys.foldl (fun u ctx => u.sampleCtx core ctx) s)

end Sys2Proof.Machine
end

