-- ==== Sys2Proof/Machine/HeadCmd.lean ====
section
/-!
DEFINITION. The HEAD command (15 R385-R391, R395, R398; 16 Table 16.4): an image's checks, the checks of an image that
enables its head, and the writing of the registers.
-/

namespace Sys2Proof.Machine

/-- The registers in a 128-byte image; HSTAT and the words shown as zero are ignored. -/
def HeadRegs.ofBytes (bs : List Byte) : HeadRegs :=
  { hctl := wordAt 64 bs 0 8, epoch := wordAt 64 bs 8 8, fper := wordAt 64 bs 16 8, lper := wordAt 64 bs 24 8,
    geom := wordAt 64 bs 32 8, due := wordAt 64 bs 40 8, ring := wordAt 64 bs 48 8, fill := wordAt 32 bs 56 4,
    consumed := 0, missed := 0, estate := wordAt 64 bs 72 8, erate := wordAt 64 bs 80 8, eqp := wordAt 64 bs 88 8,
    egop := wordAt 64 bs 96 8, ertp := wordAt 64 bs 104 8, ertp2 := wordAt 64 bs 112 8 }

/-- Whether the bits that Table 15.1 shows as zero are zero. -/
def HeadRegs.zerosOk (r : HeadRegs) : Bool :=
  r.hctl.extractLsb' 14 2 == 0 && r.geom.extractLsb' 52 12 == 0 && r.due.extractLsb' 16 48 == 0 && r.fill.extractLsb' 30 2 == 0
    && r.eqp.extractLsb' 40 24 == 0 && r.egop.extractLsb' 32 32 == 0 && !r.ertp.getLsbD 39
    && r.ertp.extractLsb' 43 5 == 0 && r.ertp2.extractLsb' 48 16 == 0

/-- Whether the fields of the picture keep the limits of Table 15.1. -/
def HeadRegs.limitsOk (r : HeadRegs) : Bool :=
  r.cons != 0 && r.w % 2 == 0 && decide (64 ≤ r.w) && decide (r.w ≤ 7680) && decide (16 ≤ r.h) && decide (r.h ≤ 4320)
    && r.sh % 8 == 0 && decide (8 ≤ r.sh) && decide (r.sh ≤ 64) && r.ns == (r.h + r.sh - 1) / r.sh
    && decide (2 ^ 16 ≤ r.lper.toNat) && r.ring.toNat % 64 == 0 && r.estate.toNat % 4096 == 0

/-- Whether the encoder's fields keep the limits of Table 15.1, which bind every image, whatever its CONS (15 R385). -/
def HeadRegs.encoderOk (r : HeadRegs) : Bool :=
  let f := fun (v : DWord) (o n : Nat) => (v.extractLsb' o n).toNat
  decide (1 ≤ f r.eqp 0 8) && decide (f r.eqp 0 8 ≤ f r.eqp 8 8) && decide (96 ≤ f r.ertp 32 7)
    && decide (256 ≤ f r.ertp 48 16) && decide (f r.ertp 48 16 ≤ 8960)

/-- Whether an image keeps Table 15.1. -/
def HeadRegs.imageOk (r : HeadRegs) : Bool := r.zerosOk && r.limitsOk && r.encoderOk

/-- The limits of R386 on the times. -/
def HeadRegs.timesOk (r : HeadRegs) : Bool :=
  decide (0 ≤ (r.vstart : Int) + r.dline) && decide (r.sh * r.ns * r.lper.toNat < r.fper.toNat)

/-- The least SLOTSZ (15 R389). -/
def HeadRegs.slotSize (r : HeadRegs) : Nat := 3 * r.pitch * r.sh / 2

/-- Whether a ring header keeps Table 9.6 and stands as a head that is to be enabled needs it (09 R241; 15 R391). -/
def HeadRegs.headerOk (r : HeadRegs) (h : RingHdr) : Bool :=
  let q := r.f0 * r.ns % 2 ^ 32
  !h.bad && h.cons == r.cons && h.retain == 0 && decide (2 ≤ h.n) && decide (r.slotSize ≤ h.slotsz) && h.a == q && h.f == q && h.l == q
    && h.cbmp == 0 && h.rflg == 0

/-- The range of local memory that an address of a context translates to. -/
def State.rangeAt (s : State) (ctx : Nat) (va : DWord) : Option PRange :=
  match (s.xlate none ctx true .read va).1 with
  | .error _ => none
  | .ok (t, pa) => if s.isLocal t then some (rangeOf pa) else none

/-- Whether every slot lies in strip SRAM, on pages mapped in the context (15 R388). -/
def State.slotsOk (s : State) (ctx : Nat) (h : RingHdr) : Bool :=
  let size := h.n * h.slotsz
  decide (size ≤ 0x4000000) && (List.range ((h.base % 4096 + size + 4095) / 4096)).all fun i =>
    s.rangeAt ctx (BitVec.ofNat 64 (h.base / 4096 * 4096 + 4096 * i)) == some .strip

/-- The share of an engine that a head takes, as a fraction (15 R395). -/
def HeadRegs.share (r : HeadRegs) : Nat × Nat := (4096 * ((r.w + 63) / 64) * ((r.h + 63) / 64) * 65536, r.fper.toNat)

/-- Whether an engine holds its enabled heads and one more. -/
def State.engineFits (s : State) (h : Nat) (r : HeadRegs) : Bool :=
  let others := (s.links.heads.filter fun e => e.1 != h && e.2.regs.en && e.2.regs.codes && e.2.regs.engine == r.engine).map
    (·.2.regs)
  let sum := (r :: others).foldl (fun (x : Nat × Nat) (g : HeadRegs) =>
    (x.1 * g.share.2 + g.share.1 * x.2, x.2 * g.share.2)) (0, 1)
  decide (sum.1 ≤ sum.2)

/-- Whether the DisplayPort port of a head shows no other head (15 R394). -/
def State.portFree (s : State) (h : Nat) (r : HeadRegs) : Bool :=
  !r.shows || !(s.links.heads.any fun e =>
    e.1 != h && e.2.regs.en && e.2.regs.shows && e.2.regs.hctl.getLsbD 3 == r.hctl.getLsbD 3)

/-- Whether an encoder can take a head (15 R395, R398). -/
def State.coderOk (s : State) (h : Nat) (r : HeadRegs) : Bool :=
  !r.codes || (decide (r.w ≤ 4096) && decide (r.h ≤ 4096) && s.engineFits h r && s.stateAreaMapped r)

/-- Write an image that enables its head. -/
def State.enableImage (s : State) (ctx h : Nat) (r : HeadRegs) : CmdEnd :=
  if r.ctx ≠ ctx then .status 2
  else if !r.timesOk then .status 1
  else
    match s.fwRead ctx r.ring.toNat 64 with
    | .error e => e
    | .ok (bs, t) =>
      let hdr := RingHdr.ofBytes bs
      let place := t.rangeAt ctx r.ring
      if !r.headerOk hdr || !t.slotsOk ctx hdr || !(place == some .strip || place == some .lpddr) || !t.coderOk h r
          || !t.portFree h r then .status 1
      else .ok ((t.putHead h { regs := r, eng := Engine.zero }).enableHead h)

/-- Give a head a fill colour: an enabled one keeps when it was written, since it takes effect at the next strip whose due time it
precedes (15 R385). -/
def State.putFill (s : State) (h : Nat) (fill : Word) : State :=
  let x := s.headOf h
  s.putHead h
    { regs := { x.regs with fill := fill }
      eng := if x.regs.en then { x.eng with fills := x.eng.fills ++ [(s.time.toNat, fill)] } else x.eng }

/-- Write an image to a head (15 R385): the counts of HSTAT stay. -/
def State.writeImage (s : State) (ctx h : Nat) (r : HeadRegs) : CmdEnd :=
  let x := s.headOf h
  let g := { r with consumed := x.regs.consumed, missed := x.regs.missed }
  if !g.imageOk then .status 1
  else if x.regs.en then
    if !g.en then
      let t := s.disableHead h
      .ok (t.putHead h { regs := { g with consumed := (t.headOf h).regs.consumed, missed := (t.headOf h).regs.missed }, eng := Engine.zero })
    else if { x.regs with fill := g.fill } = g then .ok (s.putFill h g.fill)
    else .status 1
  else if g.en then s.enableImage ctx h g
  else .ok (s.putHead h { x with regs := g })

/-- What both forms of HEAD share: the operands, the owner of the head, the image. -/
def headImage (only : Nat) (c : Cmd) (s : State) (f : Nat → HeadRegs → State → CmdEnd) : CmdEnd :=
  let h := c.num 16 1
  let x := s.headOf h
  if 63 < h ∨ c.num 17 1 ≠ only ∨ !c.zero 18 6 ∨ !c.zero 32 32 then .status 1
  else if x.regs.en ∧ x.regs.ctx ≠ c.ctx then .status 2
  else
    match s.fwRead c.ctx (c.num 24 8) 128 with
    | .error e => e
    | .ok (bs, t) => f h (HeadRegs.ofBytes bs) t

/-- HEAD (15 R385). -/
def execHead (s : State) : Host.Outcome State Fault Refusal :=
  runCommand .head true s fun c s => headImage 0 c s fun h r t => t.writeImage c.ctx h r

/-- HEAD with HFILLONLY (16 Table 16.4). -/
def execHeadHfillOnly (s : State) : Host.Outcome State Fault Refusal :=
  runCommand .headHfillOnly true s fun c s => headImage 1 c s fun h r t =>
    if !r.imageOk then .status 1 else .ok (t.putFill h r.fill)

end Sys2Proof.Machine
end

