-- ==== Sys2Proof/Machine/Registers.lean ====
section
/-!
DEFINITION. The BAR0 register file as the host reads and writes it (16 Table 16.1, R401, R403, R409, R412, R415, R418-R422;
14 R375; 15 R385; 12 R313) and the writes that act.
-/

namespace Sys2Proof.Machine

/-! ## The debug windows (14 Tables 14.5-14.8) -/

/-- DBGCTL. -/
def DebugWin.ctl (d : DebugWin) : DWord :=
  let bit := fun (b : Bool) (n : Nat) => (BitVec.ofBool b).setWidth 64 <<< n
  bit d.dbgen 0 ||| bit d.bpen 1 ||| bit d.wpen 2 ||| bit d.sampen 3 ||| bit d.blkrec 4 ||| bit d.racedet 5
    ||| (d.splog.setWidth 64 <<< 8)

/-- A record buffer's registers: base, capacity, records written, consumed and dropped. -/
def RecBuf.bytes (b : RecBuf) : List Byte :=
  leBytes 8 b.base.toNat ++ leBytes 4 b.count.toNat ++ leBytes 4 b.wr.toNat ++ leBytes 4 b.rd.toNat ++ leBytes 4 b.drop.toNat

/-- Write byte o of a record buffer's registers; WR is read-only. -/
def RecBuf.setByte (r : RecBuf) (o : Nat) (b : Byte) : RecBuf :=
  if o < 8 then { r with base := setByte64 r.base o b }
  else if o < 12 then { r with count := setByte32 r.count (o - 8) b }
  else if o < 16 then r
  else if o < 20 then { r with rd := setByte32 r.rd (o - 16) b }
  else if o < 24 then { r with drop := setByte32 r.drop (o - 20) b }
  else r

/-- A breakpoint comparator's word. -/
def bpWord (b : Bool × BitVec 55) : DWord := (BitVec.ofBool b.1).setWidth 64 ||| (b.2.setWidth 64 <<< 2)

/-- A watchpoint comparator before it is written. -/
def WatchPt.zero : WatchPt := { addr := 0, en := false, r := false, w := false, logsz := 2 }

/-- WPCTL. -/
def WatchPt.ctl (w : WatchPt) : DWord :=
  (BitVec.ofBool w.en).setWidth 64 ||| ((BitVec.ofBool w.r).setWidth 64 <<< 1) ||| ((BitVec.ofBool w.w).setWidth 64 <<< 2)
    ||| (w.logsz.setWidth 64 <<< 3)

/-- Byte o of a debug window as the host reads it (14 R375): zero while DBGEN is 0. -/
def DebugWin.byte (d : DebugWin) (o : Nat) : Byte :=
  let wp := (d.wps.find ((o - 0x100) / 16)).getD WatchPt.zero
  if !d.dbgen then 0
  else if o < 8 then (leBytes 8 d.ctl.toNat).getD o 0
  else if 0x10 ≤ o ∧ o < 0x28 then d.samples.bytes.getD (o - 0x10) 0
  else if 0x30 ≤ o ∧ o < 0x48 then d.blocks.bytes.getD (o - 0x30) 0
  else if 0x80 ≤ o ∧ o < 0xA0 then
    (leBytes 8 (bpWord ((d.bps.find ((o - 0x80) / 8)).getD (false, 0))).toNat).getD (o % 8) 0
  else if 0x100 ≤ o ∧ o < 0x180 then
    if o % 16 < 8 then (leBytes 8 wp.addr.toNat).getD (o % 16) 0 else (leBytes 8 wp.ctl.toNat).getD (o % 16 - 8) 0
  else 0

/-- The SPLOG that a written value reads back as. -/
def splogOf (v : BitVec 5) : BitVec 5 := if v.toNat < 8 ∨ 24 < v.toNat then 8 else v

/-- Write byte o of DBGCTL at a clk; sampling starts where SAMPEN becomes 1, with sample 0 (14 R382). The shadow values of race detection
stay while RACEDET is clear and count when it is set again, on which the spec is silent (log entry 100). -/
def DebugWin.setCtl (d : DebugWin) (clk : Nat) (first : List SampleNote) (o : Nat) (b : Byte) : DebugWin :=
  if o = 0 then
    let d1 := { d with bpen := b.getLsbD 1, wpen := b.getLsbD 2, sampen := b.getLsbD 3, blkrec := b.getLsbD 4, racedet := b.getLsbD 5 }
    if b.getLsbD 3 && !d.sampen then { d1 with sampStart := clk, notes := d.notes ++ first } else d1
  else if o = 1 then { d with splog := splogOf (b.setWidth 5) }
  else d

/-- Write byte o of a debug window; ignored while DBGEN is 0. -/
def DebugWin.setByte (d : DebugWin) (clk : Nat) (first : List SampleNote) (o : Nat) (b : Byte) : DebugWin :=
  let i := (o - 0x100) / 16
  let wp := (d.wps.find i).getD WatchPt.zero
  if !d.dbgen then d
  else if o < 8 then d.setCtl clk first o b
  else if 0x10 ≤ o ∧ o < 0x28 then { d with samples := d.samples.setByte (o - 0x10) b }
  else if 0x30 ≤ o ∧ o < 0x48 then { d with blocks := d.blocks.setByte (o - 0x30) b }
  else if 0x80 ≤ o ∧ o < 0xA0 then
    let v := setByte64 (bpWord ((d.bps.find ((o - 0x80) / 8)).getD (false, 0))) (o % 8) b
    { d with bps := d.bps.put ((o - 0x80) / 8) (v.getLsbD 0, v.extractLsb' 2 55) }
  else if 0x100 ≤ o ∧ o < 0x180 then
    if o % 16 < 8 then { d with wps := d.wps.put i { wp with addr := setByte64 wp.addr (o % 16) b &&& 0x01FFFFFFFFFFFFFF } }
    else if o % 16 = 8 then
      { d with wps := d.wps.put i { wp with en := b.getLsbD 0, r := b.getLsbD 1, w := b.getLsbD 2, logsz := b.extractLsb' 3 5 } }
    else d
  else d

/-! ## Heads, egress, peers, the always-on region -/

/-- The 128 bytes of a head's registers (15 Table 15.1). -/
def HeadRegs.bytes (r : HeadRegs) : List Byte :=
  ([r.hctl, r.epoch, r.fper, r.lper, r.geom, r.due, r.ring].flatMap fun v => leBytes 8 v.toNat) ++ leBytes 4 r.fill.toNat
    ++ leBytes 4 0 ++ leBytes 4 r.consumed.toNat ++ leBytes 4 r.missed.toNat
    ++ ([r.estate, r.erate, r.eqp, r.egop, r.ertp, r.ertp2].flatMap fun v => leBytes 8 v.toNat) ++ leBytes 8 0

/-- The 64 bytes of an egress entry (16 Table 16.7). -/
def Egress.bytes (e : Egress) : List Byte :=
  let flags : Nat := (if e.valid then 1 else 0) + (if e.v6 then 2 else 0) + 4 * e.dscp.toNat
  leBytes 6 e.dmac.toNat ++ leBytes 2 flags ++ leBytes 16 e.sip.toNat ++ leBytes 16 e.dip.toNat ++ leBytes 2 e.sport.toNat
    ++ leBytes 2 e.dport.toNat ++ leBytes 4 e.drops.toNat ++ List.replicate 16 0

/-- Write byte o of an egress entry. -/
def Egress.setByte (e : Egress) (o : Nat) (b : Byte) : Egress :=
  if 44 ≤ o then e
  else
    let bs := e.bytes.set o b
    let f := fun (w o n : Nat) => BitVec.ofNat w (leVal ((bs.drop o).take n))
    let g := (bs.getD 6 0)
    { e with
      dmac := f 48 0 6, valid := g.getLsbD 0, v6 := g.getLsbD 1, dscp := g.extractLsb' 2 6, sip := f 128 8 16, dip := f 128 24 16
      sport := f 16 40 2, dport := f 16 42 2 }

/-- A peer before it is written. -/
def Peer.zero : Peer := { mac := 0, ports := 0, valid := false, up := true, txSeq := 0, rxSeq := 0, unacked := [], since := 0 }

/-- The 16 bytes of a peer entry (16 R420). -/
def Peer.bytes (p : Peer) : List Byte :=
  leBytes 6 p.mac.toNat ++ [p.ports, (BitVec.ofBool p.valid).setWidth 8] ++ List.replicate 8 0

/-- Write byte o of a peer entry. -/
def Peer.setByte (p : Peer) (o : Nat) (b : Byte) : Peer :=
  if o < 6 then { p with mac := BitVec.ofNat 48 (leVal ((leBytes 6 p.mac.toNat).set o b)) }
  else if o = 6 then { p with ports := b }
  else if o = 7 then { p with valid := b.getLsbD 0 }
  else p

/-- Byte o of the always-on region (16 R412). -/
def Pithead.byte (p : Pithead) (o : Nat) : Byte :=
  if o < 8 then (leBytes 8 p.crashes.toNat).getD o 0
  else if o < 12 then (leBytes 4 p.restarts.toNat).getD (o - 8) 0
  else if 16 ≤ o ∧ o < 20 then (leBytes 4 p.journal.toNat).getD (o - 16) 0
  else if o < 128 then 0
  else if o < 61440 then Sparse.get 0 p.records o
  else Config.certificate (o - 61440)

/-- BOOTST. -/
def BootSt.code : BootSt → Nat
  | .idle => 0
  | .verifying => 1
  | .failed => 2
  | .running => 3

/-! ## BAR0 (16 Table 16.1) -/

/-- The registers of offsets below 0x4000 that are words of their own, as (offset, bytes). -/
def State.barWords (s : State) : List (Nat × List Byte) :=
  [(0x0000, leBytes 4 s.devid.toNat), (0x1000, leBytes 8 s.boot.addr.toNat), (0x1008, [if s.boot.go then 1 else 0]),
    (0x1010, leBytes 4 s.boot.status.code), (0x1100, leBytes 4 s.health.cecnt.toNat), (0x1104, leBytes 4 s.health.uecnt.toNat),
    (0x1108, leBytes 8 s.health.uelast.toNat), (0x2000, leBytes 4 s.health.pwrcap), (0x3000, leBytes 4 s.links.fabid.toNat),
    (0x3180, [if s.links.ptp.syncLost then 1 else 0]), (0x3188, leBytes 8 s.links.ptp.offset.toNat)]

/-- Byte `off` of BAR0 as the host reads it: zero where Table 16.1 has nothing. -/
def State.barByte (s : State) (off : Nat) : Byte :=
  if 0x100 ≤ off ∧ off < 0x120 then queueByte s.hostIf.cmdq (off - 0x100)
  else if 0x120 ≤ off ∧ off < 0x140 then queueByte s.hostIf.invq (off - 0x120)
  else if 0x140 ≤ off ∧ off < 0x160 then queueByte s.hostIf.cplq (off - 0x140)
  else if 0x3010 ≤ off ∧ off < 0x3110 then
    ((s.links.peers.find ((off - 0x3010) / 16)).getD Peer.zero).bytes.getD (off % 16) 0
  else if 0x10000 ≤ off ∧ off < 0x11000 then
    ((s.links.egress.find ((off - 0x10000) / 64)).getD Egress.zero).bytes.getD (off % 64) 0
  else if 0x100000 ≤ off ∧ off < 0x140000 then (s.dbgOf ((off - 0x100000) / 4096)).byte (off % 4096)
  else if 0x200000 ≤ off ∧ off < 0x202000 then (s.headOf ((off - 0x200000) / 128)).regs.bytes.getD (off % 128) 0
  else if 0x300000 ≤ off ∧ off < 0x310000 then s.pithead.byte (off - 0x300000)
  else if 0x400000 ≤ off ∧ off < 0x440000 then (s.ctlOf ((off - 0x400000) / 4096)).byte (off % 4096)
  else
    match s.barWords.find? fun w => decide (w.1 ≤ off) && decide (off < w.1 + w.2.length) with
    | some w => w.2.getD (off - w.1) 0
    | none => 0

/-- Write byte `off` of BAR0 by the host: the registers with no behaviour of their own (16 R403); the rest ignore it. -/
def State.barPut (s : State) (off : Nat) (b : Byte) : State :=
  let h := s.hostIf
  if 0x100 ≤ off ∧ off < 0x120 then { s with hostIf := { h with cmdq := h.cmdq.setByte (off - 0x100) b } }
  else if 0x120 ≤ off ∧ off < 0x140 then { s with hostIf := { h with invq := h.invq.setByte (off - 0x120) b } }
  else if 0x140 ≤ off ∧ off < 0x160 then { s with hostIf := { h with cplq := h.cplq.setByte (off - 0x140) b } }
  else if 0x1000 ≤ off ∧ off < 0x1008 then { s with boot := { s.boot with addr := setByte64 s.boot.addr (off - 0x1000) b } }
  else if 0x3010 ≤ off ∧ off < 0x3110 then
    let d := (off - 0x3010) / 16
    { s with links := { s.links with peers := s.links.peers.put d (((s.links.peers.find d).getD Peer.zero).setByte (off % 16) b) } }
  else if 0x10000 ≤ off ∧ off < 0x11000 then
    let d := (off - 0x10000) / 64
    { s with links := { s.links with egress := s.links.egress.put d (((s.links.egress.find d).getD Egress.zero).setByte (off % 64) b) } }
  else if 0x100000 ≤ off ∧ off < 0x140000 then
    let c := (off - 0x100000) / 4096
    s.putDbg c ((s.dbgOf c).setByte s.clk (s.notesOf c 0 s.clk) (off % 4096) b)
  else if 0x400000 ≤ off ∧ off < 0x440000 then
    let c := (off - 0x400000) / 4096
    s.putCtl c ((s.ctlOf c).setByte true (off % 4096) b)
  else s

/-- REGISTER_WRITE (16 R403): the bytes of the value, least significant first. -/
def execRegisterWrite (off size : Nat) (v : DWord) (s : State) : Host.Outcome State Fault Refusal :=
  .next ((List.range (min size 8)).foldl (fun u i => u.barPut (off + i) (v.extractLsb' (8 * i) 8)) s)

/-- ISUBMIT (16 R409). -/
def execIsubmit (ctx : BitVec 6) (s : State) : Host.Outcome State Fault Refusal := .next (s.submitInval ctx.toNat)

/-- FABID_WRITE (16 R420): ignored while a context exists. -/
def execFabidWrite (v : Word) (s : State) : Host.Outcome State Fault Refusal :=
  if s.ctxs.isEmpty then .next { s with links := { s.links with fabid := v.setWidth 4 } } else .next s

/-- PWRCAP_WRITE (16 R422): clamped to 1400. -/
def execPwrcapWrite (v : Word) (s : State) : Host.Outcome State Fault Refusal :=
  .next { s with health := { s.health with pwrcap := min v.toNat 1400 } }

/-- ECLR_COUNTERS (16 Table 16.8). -/
def execEclrCounters (s : State) : Host.Outcome State Fault Refusal :=
  .next { s with health := { s.health with cecnt := 0, uecnt := 0 } }

/-- ECLR_UELAST (16 Table 16.8). -/
def execEclrUelast (s : State) : Host.Outcome State Fault Refusal :=
  .next { s with health := { s.health with uelast := 0 } }

end Sys2Proof.Machine
end

