-- ==== Sys2Proof/Machine/Inval.lean ====
section
/-!
DEFINITION. Invalidations (12 R330, R331; 16 R409) and the records held for the host (16 R402, R414).
-/

namespace Sys2Proof.Machine

/-- An invalidation descriptor (12 Table 12.9) and where it came from: a context's window, or the host's queue. -/
structure InvalDesc where
  va : DWord
  len : DWord
  ctx : Nat
  flags : Byte
  rsvd : Nat
  done : DWord
  src : Option Nat
  deriving DecidableEq, Repr

/-- The descriptor in 32 bytes. -/
def InvalDesc.ofBytes (src : Option Nat) (bs : List Byte) : InvalDesc :=
  { va := wordAt 64 bs 0 8, len := wordAt 64 bs 8 8, ctx := fieldAt bs 16 1, flags := wordAt 8 bs 17 1, rsvd := fieldAt bs 18 6,
    done := wordAt 64 bs 24 8, src := src }

/-- Whether the pithead takes a descriptor (12 R330). -/
def State.invalOk (s : State) (d : InvalDesc) : Bool :=
  d.rsvd == 0 && d.flags.extractLsb' 3 5 == 0 && d.va.toNat % 4096 == 0 && canonical d.va && d.len.toNat % 4096 == 0
    && d.done.toNat % 8 == 0 && decide (d.ctx < 64)
    && match d.src with
      | some c => d.ctx == c
      | none => (s.ctxs.find d.ctx).isSome

/-- Whether the pithead can write a descriptor's completion word (16 R409). -/
def State.doneOk (s : State) (src : Option Nat) (ctx : Nat) (done : DWord) : Bool :=
  match src with
  | some _ => s.windowOk ctx done 8 true
  | none => true

/-- Write a completion word: at a host bus address, or in the context whose window submitted the descriptor. -/
def State.writeDone (s : State) (src : Option Nat) (done : DWord) (v : Nat) : State :=
  match src with
  | some c => (s.devWrite c done (leBytes 8 v)).2
  | none => s.hostPut done.toNat (leBytes 8 v)

/-- Whether n bytes from an address meet a descriptor's range. -/
def InvalDesc.meets (d : InvalDesc) (lo n : Nat) : Bool :=
  let a := (d.va.setWidth 57).toNat
  d.len == 0 || (decide (lo < a + d.len.toNat) && decide (a < lo + n))

/-- Remove a cluster's cached translations that a descriptor covers. -/
def XCache.drop (x : XCache) (d : InvalDesc) : XCache :=
  let keep := fun (e : TlbEntry) => !(e.ctx == d.ctx && d.meets e.lo e.size && (d.flags.getLsbD 0 || !e.pte.getLsbD 11))
  { tlb := x.tlb.filter keep
    cores := x.cores.map fun k => (k.1, k.2.filter keep)
    walks := x.walks.filter fun e =>
      !(e.ctx == d.ctx && d.flags.getLsbD 1 && d.meets (e.index * 2 ^ (12 + 9 * e.left)) (2 ^ (12 + 9 * e.left))) }

/-- An invalidation takes effect at T0 (12 R331): its number tells the accesses before it from those after it. -/
def State.invalidate (s : State) (d : InvalDesc) : State :=
  let code := fun (l : ILine) => l.ctx == d.ctx && d.flags.getLsbD 2 && d.meets (l.vline * 128) 128
  { s with
    mem := { s.mem with xlats := s.mem.xlats.map fun e => (e.1, e.2.drop d) }
    cores := s.cores.map fun e => (e.1, { e.2 with icache := e.2.icache.filter fun l => !code l })
    invals := s.invals ++ [{ done := d.done, src := d.src, ctx := d.ctx, before := s.nextId + 1 }]
    nextId := s.nextId + 1 }

/-- Take one descriptor: a rejected one ends with 2 in its completion word. -/
def State.takeInval (s : State) (d : InvalDesc) : State :=
  if !s.doneOk d.src (d.src.getD 0) d.done then s
  else if s.invalOk d then s.invalidate d
  else s.writeDone d.src d.done 2

/-- The next descriptor: the host queue's, then one submitted through a window. -/
def State.nextInval (s : State) : Option (InvalDesc × State) :=
  let q := s.hostIf.invq
  if q.prod ≠ q.cons then
    some (InvalDesc.ofBytes none (s.hostRead (q.entryAddr 32 q.cons) 32),
      { s with hostIf := { s.hostIf with invq := { q with cons := q.cons + 1 } } })
  else
    match s.hostIf.isubs with
    | [] => none
    | (c, v) :: rest => some (InvalDesc.ofBytes (some c) (leBytes 32 v.toNat), { s with hostIf := { s.hostIf with isubs := rest } })

/-- INVALIDATION (12 R330, R331). A bad capability here is outside a command or packet: the pithead halts (16 R411). -/
def execInvalidation (s : State) : Host.Outcome State Fault Refusal :=
  if !s.pithead.up then .next s
  else
    match s.nextInval with
    | none => .next s
    | some (d, t) =>
      match s.pithead.badCap with
      | some cause =>
        .next (({ s with pithead := { s.pithead with badCap := none } }).haltPithead cause 3 s.hostIf.invq.cons.toNat)
      | none => .next (t.takeInval d)

/-- Whether the accesses of a context that were issued before a number have drained: loads and atomics still to return, stores,
write-combining lines, copies, and what a peer has yet to acknowledge. -/
def State.drainedBefore (s : State) (ctx n : Nat) : Bool :=
  (s.crews.all fun e => s.ctxOf e.2 != ctx || ((s.auxOf e.1).storeQ.all (fun x => decide (n ≤ x.seq))
      && (s.auxOf e.1).returning.all fun t => t.lost.isSome || decide (n ≤ t.issued)))
    && (s.cores.all fun k => k.2.wc.all fun w => decide (n ≤ w.seq))
    && (s.links.peers.all fun p => p.2.unacked.all fun f => decide (n ≤ f.group))
    && s.cores.all fun k => k.2.queues.all fun q => q.2.all fun j =>
      decide (n ≤ j.seq) || (match s.crews.find j.crew with
        | some r => s.ctxOf r != ctx
        | none => true)

/-- INVALIDATION_COMPLETE (12 R331): what the cores hold dirty is written to the L2 and the completion word becomes 1. -/
def execInvalidationComplete (n : Nat) (s : State) : Host.Outcome State Fault Refusal :=
  match s.invals[n]? with
  | none => .next s
  | some v =>
    if !s.pithead.up || !s.drainedBefore v.ctx v.before then .next s
    else
      let t := s.cores.keys.foldl (fun u k => u.l1WriteBack k) { s with invals := s.invals.eraseIdx n }
      if t.doneOk v.src v.ctx v.done then .next (t.writeDone v.src v.done 1) else .next (t.crashRecord 7 3 v.ctx (some v.done))

/-! ## Held records (16 R402, R414) -/

/-- Write the first completion record held. -/
def State.postHeldCompletion (s : State) : State :=
  match s.pithead.held with
  | [] => s
  | rec :: rest =>
    let q := s.hostIf.cplq
    if q.full then s
    else
      let t := s.hostPut (q.entryAddr 32 q.prod) rec
      ({ t with
          hostIf := { t.hostIf with cplq := { q with prod := q.prod + 1 } }
          pithead := { t.pithead with held := rest } }).msix 0

/-- Post a context's first event record held. -/
def State.postHeldEvent (s : State) (ctx : Nat) : State :=
  let p := s.ctlOf ctx
  match p.heldEvents with
  | [] => s
  | rec :: rest => (s.putCtl ctx { p with heldEvents := rest }).pushEvent ctx rec

/-- Write a context's first fault record held. -/
def State.postHeldFault (s : State) (ctx : Nat) : State :=
  let p := s.ctlOf ctx
  match p.heldFaults with
  | [] => s
  | rec :: rest =>
    if p.fltq.full then s
    else
      ((s.hostPut (p.fltq.entryAddr 64 p.fltq.prod) rec).putCtl ctx
        { p with fltq := { p.fltq with prod := p.fltq.prod + 1 }, heldFaults := rest }).msix 2

/-- HELD_RECORD_POST (16 R402): the first record held for each queue that has room. -/
def execHeldRecordPost (s : State) : Host.Outcome State Fault Refusal :=
  if !s.pithead.up then .next s
  else .next (s.hostIf.ctl.keys.foldl (fun u c => (u.postHeldEvent c).postHeldFault c) s.postHeldCompletion)

end Sys2Proof.Machine
end

