-- ==== Sys2Proof/Machine/Device.lean ====
section
/-!
DEFINITION. The device around the cores: boot, resets and the pithead's watchdog, errors, power, PTP, the fabric, module
management and link training (16 R401, R411-R423; 12 R321, R333; 15 R394).
-/

namespace Sys2Proof.Machine

/-! ## Boot (16 R415, R416) -/

/-- BOOT_GO: taken while the ROM waits. -/
def execBootGo (s : State) : Host.Outcome State Fault Refusal :=
  if s.boot.status = .idle ∨ s.boot.status = .failed then
    .next { s with boot := { s.boot with go := true, status := .verifying } }
  else .next s

/-- Take the doorbells rung while the pithead took none. -/
def State.takeBells (s : State) : State :=
  s.pithead.bells.foldl (fun u b => u.acceptBell b.1 b.2) { s with pithead := { s.pithead with bells := [] } }

/-- A firmware image as its header divides it (16 R415): M ends at SIGOFF, where the signatures follow. -/
structure Image where
  fwver : Nat
  svn : Nat
  commit : Bool
  rsaKey : List Byte
  slhKey : List Byte
  m : List Byte
  rsaSig : List Byte
  slhSig : List Byte
  deriving DecidableEq, Repr

/-- The image that BOOTADDR names in host memory. -/
def State.image (s : State) : Image :=
  let at' := s.boot.addr.toNat
  let header := s.hostRead at' 456
  let off := fieldAt header 16 4
  { fwver := fieldAt header 4 4, svn := fieldAt header 8 4, commit := fieldAt header 12 4 % 2 == 1, rsaKey := (header.drop 24).take 384
    slhKey := (header.drop 408).take 48, m := s.hostRead at' off, rsaSig := s.hostRead (at' + off) 384
    slhSig := s.hostRead (at' + off + 384) 16224 }

/-- Whether an image passes every check of the ROM (16 R415; log entries 66 and 76). -/
def Boot.accepts (b : Boot) (x : Image) : Bool :=
  beVal (sha384 x.rsaKey) == b.rsaHash.toNat && beVal (sha384 x.slhKey) == b.slhHash.toNat && decide (b.rollback ≤ x.svn)
    && decide (x.svn ≤ 64) && rsaPssOk (leVal x.rsaKey) x.rsaSig x.m && slhDsaOk x.slhKey x.slhSig x.m

/-- The image runs (16 R416, R422): fuses are blown up to SVN for COMMIT, and the firmware sets 10 lamps. -/
def State.runImage (s : State) (x : Image) : State :=
  let rollback := if x.commit then max s.boot.rollback x.svn else s.boot.rollback
  ({ s with
      boot := { s.boot with
        status := .running, fwver := BitVec.ofNat 32 x.fwver, svn := BitVec.ofNat 32 x.svn, rollback := rollback
        imageHash := BitVec.ofNat 384 (beVal (sha384 x.m)) }
      pithead := { s.pithead with up := true }
      lamps := { s.lamps with next := 10 } }).takeBells

/-- BOOT_VERIFY_COMPLETE (16 R415). -/
def execBootVerifyComplete (s : State) : Host.Outcome State Fault Refusal :=
  if s.boot.status ≠ .verifying then .next s
  else if s.boot.accepts s.image then .next (s.runImage s.image)
  else .next (({ s with boot := { s.boot with status := .failed, go := false } }).crashRecord 8 4 0)

/-! ## Resets (16 R412, R415, R421) -/

/-- The device restarts into the boot ROM: what is outside it, its fuses and the always-on region stay. -/
def State.deviceReset (s : State) : State :=
  let r := State.resetOf s.partNo
  { r with
    mem := { r.mem with host := s.mem.host }
    boot := { r.boot with
      rollback := s.boot.rollback, rsaHash := s.boot.rsaHash, slhHash := s.boot.slhHash, jtagLocked := s.boot.jtagLocked }
    pithead := { r.pithead with
      journal := s.pithead.journal, restarts := s.pithead.restarts, crashes := s.pithead.crashes, records := s.pithead.records }
    inputs := s.inputs
    fresh := s.fresh }

/-- DEVICE_RESET (16 R415). -/
def execDeviceReset (s : State) : Host.Outcome State Fault Refusal := .next s.deviceReset

/-- The rollback count that the image being verified blows fuses up to: its SVN with COMMIT set and every check passed,
else the count as it stands (16 R416). -/
def State.fuseGoal (s : State) : Nat :=
  if decide (s.boot.status = .verifying) && s.image.commit && s.boot.accepts s.image then s.image.svn else s.boot.rollback

/-- POWER_LOSS (16 R412): the always-on region goes too; lost while fuses are blown, power leaves a count between the old
one and SVN (R416). -/
def execPowerLoss (s : State) : Host.Outcome State Fault Refusal :=
  let t := s.deviceReset
  let n := s.boot.rollback + Config.pick s.fresh % (s.fuseGoal - s.boot.rollback + 1)
  .next { t with
    pithead := State.reset.pithead
    boot := { t.boot with rollback := n }
    fresh := if s.fuseGoal = s.boot.rollback then s.fresh else s.fresh + 1 }

/-- WATCHDOG_RESTART (16 R414): the firmware has made no progress; the pithead alone restarts. -/
def execWatchdogRestart (s : State) : Host.Outcome State Fault Refusal :=
  if s.boot.status ≠ .running then .next s
  else .next s.watchdog

/-- PITHEAD_RESTART_DONE (16 R414): a committed command gets its record, and commands and doorbells are taken again. -/
def execPitheadRestartDone (s : State) : Host.Outcome State Fault Refusal :=
  if s.boot.status ≠ .running ∨ s.pithead.up ∨ s.pithead.halted then .next s
  else .next ({ s with pithead := { s.pithead with up := true } }).recordCommitted.takeBells

/-! ## Errors (12 R321, 16 R421) -/

/-- CORRECTED_ERROR (16 R421). -/
def execCorrectedError (_store : ErrStore) (_pa : BitVec 48) (s : State) : Host.Outcome State Fault Refusal :=
  .next { s with health := { s.health with cecnt := satInc s.health.cecnt } }

/-- The code of a store in UELAST (16 Table 16.8). -/
def errCode : ErrStore → Nat
  | .l1 _ => 1
  | .l2 => 2
  | .strip => 3
  | .lpddr => 4

/-- Poison a sector of a store: the sectors that a core's L1 holds at the address, whatever their view and key, or the sector of the
L2, the strip SRAM or LPDDR6 (12 R321). -/
def State.poisonSector (s : State) (store : ErrStore) (q : Nat) : State :=
  let shared : State :=
    { s with mem := { s.mem with poison := if s.mem.poison.contains q then s.mem.poison else s.mem.poison ++ [q] } }
  match store with
  | .l1 core =>
    s.onCore core fun c =>
      { c with l1Poison := (c.l1Poison ++ ((c.l1.filter fun e => e.1 / 512 / 32 == q).map fun e => sectorKey e.1)).eraseDups }
  | .l2 => shared
  | .strip => shared
  | .lpddr => shared

/-- UNCORRECTABLE_ERROR (12 R321, 16 R421). -/
def execUncorrectableError (store : ErrStore) (pa : BitVec 48) (s : State) : Host.Outcome State Fault Refusal :=
  let q := pa.toNat / 32
  let t := s.poisonSector store q
  .next (({ t with health := { t.health with
    uecnt := satInc t.health.uecnt, uelast := BitVec.ofNat 64 (32 * q + 2 ^ 48 * errCode store) } }).msix 3)

/-! ## Power (16 R422) -/

/-- The arithmetic clock one step down. -/
def Health.slower (h : Health) : Health := { h with mhz := max 470 (h.mhz - 20) }

/-- POWER_THROTTLE: from the average over 10 ms, in W. -/
def execPowerThrottle (watts : Nat) (s : State) : Host.Outcome State Fault Refusal :=
  let h := { s.health with watts := watts }
  if h.pwrcap < watts then .next { s with health := h.slower }
  else if watts < h.pwrcap then .next { s with health := { h with mhz := min 940 (h.mhz + 20) } }
  else .next { s with health := h }

/-- THERMAL_THROTTLE. -/
def execThermalThrottle (celsius : Nat) (s : State) : Host.Outcome State Fault Refusal :=
  let h := { s.health with celsius := celsius }
  .next { s with health := if 105 < celsius then h.slower else h }

/-- THERMAL_RESET: TIME is unaffected. -/
def execThermalReset (celsius : Nat) (s : State) : Host.Outcome State Fault Refusal :=
  let t := { s with health := { s.health with celsius := celsius } }
  if 115 ≤ celsius then
    .next { t.deviceReset with time := s.time, health := { t.deviceReset.health with celsius := celsius } }
  else .next t

/-! ## PTP (16 R418) -/

/-- Whether TIME may step: no crew is resident and no head is enabled. -/
def State.mayStep (s : State) : Bool := !(s.crews.any fun e => e.2.resident) && !(s.links.heads.any fun e => e.2.regs.en)

/-- The servo takes an offset e of the grandmaster from TIME, in ns: at first lock TIME steps, while no crew is resident; else it
slews, and an offset beyond 1 ms sets SYNCLOST (16 R418; log entry 67). -/
def State.discipline (s : State) (e : Int) : State :=
  let p := s.links.ptp
  let far := decide (1000000 < e.natAbs)
  let step := if p.locked then far && s.mayStep else !(s.crews.any fun x => x.2.resident)
  let q := { p with locked := true, syncLost := p.syncLost || (far && (p.locked || !step)) }
  if step then
    { s with
      time := s.time + BitVec.ofInt 64 e, links := { s.links with ptp := { q with offset := 0, slew := 0, frac := 0 } } }
  else
    { s with links := { s.links with ptp := { q with offset := BitVec.ofInt 64 e, slew := max (-100) (min 100 e) } } }

/-- A Sync's times are known: the master's as it left and TIME as it came; a Delay_Req goes out (16 R418). -/
def State.askDelay (s : State) (m : PtpMsg) (t1 t2 : DWord) : State :=
  let p := s.links.ptp
  let d : PtpSent := { port := m.port, transport := m.transport, seq := p.nextSeq, time := s.time }
  { s with links := { s.links with ptp := { p with
      syncAt := none, asked := some (d, t1, t2), nextSeq := p.nextSeq + 1, sent := p.sent ++ [d] } } }

/-- The offset of the master from TIME: half of (t1 - t2) + (t4 - t3), with the delay the same both ways (16 R418; log entry 67). -/
def ptpOffset (t1 t2 t3 t4 : DWord) : Int := ((t1 - t2).toInt + (t4 - t3).toInt) / 2

/-- PTP_MESSAGE (16 R418): a Sync of a one-step master carries its time and that of a two-step master waits for its Follow_Up; the
answer to the device's Delay_Req ends the exchange, and the servo acts. -/
def execPtpMessage (msg : PtpMsg) (s : State) : Host.Outcome State Fault Refusal :=
  let p := s.links.ptp
  match msg.body with
  | .sync false t1 => .next (s.askDelay msg t1 s.time)
  | .sync true _ => .next { s with links := { s.links with ptp := { p with syncAt := some (msg.seq, s.time) } } }
  | .followUp t1 =>
    match p.syncAt with
    | some x => if x.1 = msg.seq then .next (s.askDelay msg t1 x.2) else .next s
    | none => .next s
  | .delayResp t4 =>
    match p.asked with
    | some x =>
      if x.1.seq = msg.seq then
        .next (({ s with links := { s.links with ptp := { p with asked := none } } }).discipline
          (ptpOffset x.2.1 x.2.2 x.1.time t4))
      else .next s
    | none => .next s

/-! ## The fabric (16 R420, 12 R333) -/

/-- What a peer's read-modify-write stores of n bytes, if anything. -/
def peerNew (op : PeerOp) (n : Nat) (x old : List Byte) : Option (List Byte) :=
  match op with
  | .atom a => some (atomBytes n a x old)
  | .swap => some x
  | .cas => casBytes n x old
  | .xadd => some (accAddBytes x old)
  | .xrd clear _ => if clear then some (List.replicate n 0) else none
  | .ring w => ringStore w (BitVec.ofNat 64 (leVal x)) none old

/-- Write the bytes that a peer's read-modify-write stores, if any. -/
def State.servePut (s : State) (t : MemTag) (pa n : Nat) (new : Option (List Byte)) : State :=
  match new with
  | some bs => s.homeWrite t (l2How t.attr .dflt) ((List.range n).map fun i => (pa + i, bs.getD i 0))
  | none => s

/-- Answer a peer. -/
def State.answerPeer (s : State) (peer : BitVec 4) (bs : List Byte) : State := s.sendPeer peer (.response bs)

/-- Perform a ring instruction of a peer at this device's L2: as a crew's here, the head that consumes the ring makes its due updates
first and keeps its marks (15 R392, R393). -/
def State.serveRing (s : State) (t : MemTag) (pa : Nat) (which : BitVec 2) (x : List Byte) : List Byte × State :=
  let s1 := s.catchUp t pa
  let eng := s1.engAt t pa
  let v : DWord := BitVec.ofNat 64 (leVal x)
  let old := (List.range 64).map fun i => s1.sliceGet t (pa + i)
  let u := s1.servePut t pa 64 (ringStore which v eng old)
  match ringOp which v eng old with
  | .ok _ _ e => (old, u.keepMarks t pa e)
  | .fault _ => (old, s1)
  | .wait => (old, s1)

/-- Perform a peer's request at this device's L2, under its page's attribute and key (12 R333). -/
def State.serve (s : State) (peer : BitVec 4) : FabricReq → State
  | .read pa n attr key =>
    let t : MemTag := { attr := attr, key := key, home := s.links.fabid }
    let x := s.homeRead t (l2How attr .dflt) pa.toNat n
    x.2.answerPeer peer x.1
  | .write pa attr key bs =>
    let t : MemTag := { attr := attr, key := key, home := s.links.fabid }
    let ws := (List.range bs.length).filterMap fun i => ((bs[i]?).getD none).map fun b => (pa.toNat + i, b)
    (s.homeWrite t (l2How attr .dflt) ws).answerPeer peer []
  | .atomic pa attr key op n x =>
    let t : MemTag := { attr := attr, key := key, home := s.links.fabid }
    match op with
    | .ring w =>
      let y := s.serveRing t pa.toNat w x
      y.2.answerPeer peer y.1
    | op =>
      let old := (List.range n).map fun i => s.sliceGet t (pa.toNat + i)
      (s.servePut t pa.toNat n (peerNew op n x old)).answerPeer peer old
  | .response _ => s
  | .ack _ => s

/-- Change a peer's entry. -/
def State.onPeer (s : State) (peer : BitVec 4) (f : Peer → Peer) : State :=
  { s with links := { s.links with peers := s.links.peers.upd peer.toNat f } }

/-- Whether a cumulative acknowledgement covers a sequence number, which run modulo 2^32. -/
def ackCovers (ack seq : Word) : Bool := decide ((ack - seq).toNat < 2 ^ 31)

/-- A peer has acknowledged the frames up to a number. -/
def State.takeAck (s : State) (peer : BitVec 4) (ack : Word) : State :=
  (s.onPeer peer fun p =>
    let left := p.unacked.filter fun f => !ackCovers ack f.seq
    { p with up := true, unacked := left, since := if left.length < p.unacked.length then s.time else p.since }).retireEnding

/-- Send a peer the number of the last frame that came in order; such a frame takes no sequence number. -/
def State.sendAck (s : State) (peer : BitVec 4) : State :=
  match s.links.peers.find peer.toNat with
  | none => s
  | some p =>
    if !p.valid then s
    else { s with links := { s.links with
      outgoing := s.links.outgoing ++ [s.linkFrame peer.toNat p p.txSeq (.ack (p.rxSeq - 1))] } }

/-- FABRIC_FRAME (16 R420): a frame of a peer in the table acknowledges what its header says; the next in sequence is performed
and acknowledged, and any other is discarded and answered with the acknowledgement alone. -/
def execFabricFrame (peer : BitVec 4) (msg : FabricMsg) (s : State) : Host.Outcome State Fault Refusal :=
  match s.links.peers.find peer.toNat with
  | none => .next s
  | some p =>
    if !p.valid then .next s
    else
      let t := s.takeAck peer msg.ack
      match msg.req with
      | .ack _ => .next t
      | req =>
        if msg.seq ≠ p.rxSeq then .next (t.sendAck peer)
        else .next (((t.onPeer peer fun p => { p with rxSeq := p.rxSeq + 1 }).serve peer req).sendAck peer)

/-- FABRIC_RETRANSMIT (16 R420): the frames not acknowledged are sent again, in order, while the peer's entry is valid (R419). -/
def execFabricRetransmit (peer : BitVec 4) (s : State) : Host.Outcome State Fault Refusal :=
  match s.links.peers.find peer.toNat with
  | none => .next s
  | some p =>
    if !p.valid then .next s
    else .next { s with links := { s.links with
      outgoing := s.links.outgoing ++ p.unacked.map fun f => s.linkFrame peer.toNat p f.seq f.req } }

/-- The copy of a crew that a number names: its queue, and the tile that it fills. -/
def State.copyNumbered (s : State) (c core group : Nat) : Option (Nat × Option Nat) :=
  ((s.coreOf core).queues.vals.flatten.find? fun j => j.crew == c && j.seq == group).map fun j =>
    (j.queue, if wordKind j.word = 1 then some (wordTile j.word) else none)

/-- An access of a crew ends with a peer's loss: the destination that awaits it keeps its address for the group that will wait on
it, a copy's is kept for the groups that wait on the copy, and a store's for the next group that waits on stores (12 R333). -/
def State.loseAccess (s : State) (group : Nat) (x : Nat × DWord) : State :=
  match s.crews.find x.1 with
  | none => s
  | some r =>
    s.onAux x.1 fun a =>
      if a.returning.any fun t => t.group == group && group != 0 then
        { a with returning := a.returning.map fun t =>
            if t.group == group && t.lost.isNone then { t with lost := some x.2 } else t }
      else
        match s.copyNumbered x.1 r.core group with
        | some q => { a with lostCopies := a.lostCopies ++ [(q.1, q.2, x.2)] }
        | none => { a with lostStores := a.lostStores ++ [x.2] }

/-- The pithead's command that awaits frames among these has lost its peer (12 R333, 16 R406). -/
def Pithead.loseFrames (p : Pithead) (fs : List Flight) : Pithead :=
  { p with staged := p.staged.map fun g => if fs.any fun f => f.group == g.group then { g with lost := true } else g }

/-- PEER_UNREACHABLE (12 R333, 16 R420): a peer that has acknowledged nothing for 1 ms. Each access in flight to it ends. -/
def execPeerUnreachable (peer : BitVec 4) (s : State) : Host.Outcome State Fault Refusal :=
  match s.links.peers.find peer.toNat with
  | none => .next s
  | some p =>
    if p.unacked.isEmpty ∨ s.time.toNat < p.since.toNat + 1000000 then .next s
    else
      let t0 := s.onPeer peer fun p => { p with up := false, unacked := [] }
      let t := { t0 with pithead := t0.pithead.loseFrames p.unacked }
      .next (p.unacked.foldl (fun u f => f.sources.foldl (fun u x => u.loseAccess f.group x) u) t).retireEnding

/-! ## Module management and links (16 R401, R423; 15 R394) -/

/-- I3C_READ (16 R423): item 0 the temperature, 1 the power, 2 DEVID, 3 BOOTST, 4 the crash count; the reading stands on the bus
(log entry 75). -/
def execI3cRead (item : BitVec 8) (s : State) : Host.Outcome State Fault Refusal :=
  let reading := match item.toNat with
    | 0 => leBytes 4 s.health.celsius
    | 1 => leBytes 4 s.health.watts
    | 2 => leBytes 4 s.devid.toNat
    | 3 => leBytes 4 s.boot.status.code
    | 4 => leBytes 8 s.pithead.crashes.toNat
    | _ => []
  .next { s with health := { s.health with i3c := reading } }

/-- The fuses as JTAG reads them (16 R415, R416, R423): the rollback field, its lowest fuses blown, the key hashes and the lock. -/
def Boot.fuses (b : Boot) : List Byte :=
  leBytes 8 (2 ^ b.rollback - 1) ++ beBytes 48 b.rsaHash.toNat ++ beBytes 48 b.slhHash.toNat ++ [(BitVec.ofBool b.jtagLocked).setWidth 8]

/-- JTAG_ACCESS (16 R423): a fuse read; internal access has no effect that the spec gives, and none where it is locked. -/
def execJtagAccess (internal : Bool) (s : State) : Host.Outcome State Fault Refusal :=
  if internal then .next s else .next { s with health := { s.health with jtag := s.boot.fuses } }

/-- DISPLAYPORT_LINK_TRAINING: 1, 2 or 4 lanes. -/
def execDisplayportLinkTraining (port : Bool) (rate : DpRate) (lanes : Nat) (s : State) :
    Host.Outcome State Fault Refusal :=
  if lanes = 1 ∨ lanes = 2 ∨ lanes = 4 then
    .next { s with links := { s.links with dp := s.links.dp.put (if port then 1 else 0) { rate := some rate, lanes := lanes } } }
  else .next s

/-- PCIE_LINK_TRAINING (16 R401): a rate of PCIe up to 64 GT/s over 1, 2 or 4 lanes. -/
def execPcieLinkTraining (rate : PcieRate) (width : Nat) (s : State) : Host.Outcome State Fault Refusal :=
  if width = 1 ∨ width = 2 ∨ width = 4 then .next { s with health := { s.health with pcie := some (rate, width) } } else .next s

end Sys2Proof.Machine
end

