-- ==== Sys2Proof/Machine/Float.lean ====
section
/-!
DEFINITION. The floating-point, packed, conversion and cross-lane instructions and FFLAGS (06).
-/

namespace Sys2Proof

/-! ## Pairings of DOT (02 Table 2.5) -/

/-- A pairing: the sub-elements' count and width, and the formats of A and B. -/
inductive DotParts where
  | float (n w : Nat) (fa fb : FFmt)
  | int (n w : Nat) (fa fb : IFmt)
  deriving DecidableEq, Repr

/-- DOT2's pairings. -/
def Pair2.parts : Pair2 → DotParts
  | .fp16 => .float 2 16 .fp16 .fp16
  | .bf16 => .float 2 16 .bf16 .bf16

/-- DOT4's pairings. -/
def Pair4.parts : Pair4 → DotParts
  | .ss => .int 4 8 .int8 .int8
  | .uu => .int 4 8 .uint8 .uint8
  | .su => .int 4 8 .int8 .uint8
  | .e4e4 => .float 4 8 .e4m3 .e4m3
  | .e5e5 => .float 4 8 .e5m2 .e5m2
  | .e4e5 => .float 4 8 .e4m3 .e5m2

/-- DOT8's pairings. -/
def Pair8.parts : Pair8 → DotParts
  | .ss => .int 8 4 .int4 .int4
  | .uu => .int 8 4 .uint4 .uint4
  | .su => .int 8 4 .int4 .uint4
  | .e2e2 => .float 8 4 .e2m1 .e2m1

end Sys2Proof

namespace Sys2Proof.Machine

/-- Write D in the lanes of a mask with values that raise sticky flags (06 R136). -/
def flagLanes (d : VReg) (m : LaneMask) (f : Nat → Word × FFlags) : BodyFn := fun s g r =>
  let fl := (lanesOf m).foldl (fun x l => x ||| (f l).2) 0
  .next ((s.mapLanes r d m fun l => (f l).1).putCrew g.crew { r with flags := r.flags ||| fl })

/-- An encoding with its flags, zero-extended to a lane. -/
def wordFlags (x : Nat × FFlags) : Word × FFlags := (BitVec.ofNat 32 x.1, x.2)

/-- Sub-element i of width w. -/
def subElem (x : Word) (w i : Nat) : Nat := x.toNat / 2 ^ (w * i) % 2 ^ w

/-- HADD2's sum. -/
def hadd (rm : Rm) (a b _c : XVal) : XVal × FFlags := exactSum rm [a, b]
/-- HMUL2's product. -/
def hmul (_rm : Rm) (a b _c : XVal) : XVal × FFlags := exactProd a b
/-- HFMA2's and BFMA2's fused sum. -/
def hfma (rm : Rm) (a b c : XVal) : XVal × FFlags :=
  let p := exactProd a b
  let t := exactSum rm [p.1, c]
  (t.1, p.2 ||| t.2)

/-- Two packed halves, each rounded once (06 R147). -/
def packed2 (f : FFmt) (rm : Rm) (op : Rm → XVal → XVal → XVal → XVal × FFlags) (a b c : Word) : Word × FFlags :=
  let half := fun i =>
    let x := op rm (valueOf f (subElem a 16 i)) (valueOf f (subElem b 16 i)) (valueOf f (subElem c 16 i))
    let y := roundTo f rm x.1
    (y.1, x.2 ||| y.2)
  (BitVec.ofNat 32 ((half 1).1 * 65536 + (half 0).1), (half 0).2 ||| (half 1).2)

/-- A dot product plus the addend (04 R97). -/
def dotSum (p : DotParts) (rm : Rm) (a b c : Word) : Word × FFlags :=
  match p with
  | .float n w fa fb =>
    let ps := (List.range n).map fun i => exactProd (valueOf fa (subElem a w i)) (valueOf fb (subElem b w i))
    let t := exactSum rm (ps.map (·.1) ++ [val32 c])
    let y := round32 rm t.1
    (y.1, ps.foldl (fun f x => f ||| x.2) (t.2 ||| y.2))
  | .int n w fa fb =>
    let t := (List.range n).foldl (fun (t : Int) i => t + intVal fa (subElem a w i) * intVal fb (subElem b w i)) c.toInt
    (BitVec.ofInt 32 t, 0)

/-- The element PACK inserts (06 R153). -/
def packElem (f : ElemFmt) (rm : Rm) (x : Word) : Nat × FFlags :=
  match f with
  | .float e => convFF e .fp32 rm true x.toNat
  | .int e => (lowBits e.width (satInt e x.toInt), 0)

/-- The word UNPACK gives for a sub-element (06 R154). -/
def unpackElem (f : ElemFmt) (b : Nat) : Word :=
  match f with
  | .float e => BitVec.ofNat 32 (convFF .fp32 e .rne false b).1
  | .int e => BitVec.ofInt 32 (intVal e b)

/-- The lane-position bit that stage s of the network pairs on (06 R156). -/
def stageBit (s : Nat) : Nat := if s ≤ 4 then 4 - s else s - 4

/-- One stage of the network. -/
def benesStage (q : BitVec 144) (xs : List Word) (st : Nat) : List Word :=
  let b := stageBit st
  allLanes.map fun p =>
    let j := p / 2 ^ (b + 1) * 2 ^ b + p % 2 ^ b
    let other := if p / 2 ^ b % 2 = 0 then p + 2 ^ b else p - 2 ^ b
    xs.getD (if q.getLsbD (16 * st + j) then other else p) 0

/-- The nine stages (06 R158). -/
def benes (q : BitVec 144) (xs : List Word) : List Word := (List.range 9).foldl (benesStage q) xs

/-- The combination of values under an operation, its identity for none (04 R98, 06 Table 6.8). -/
def combine (op : RedOp) (rm : Rm) (xs : List Word) : Word × FFlags :=
  match op with
  | .add => (xs.foldl (· + ·) 0, 0)
  | .min => (xs.foldl (fun x y => if x.slt y then x else y) 0x7FFFFFFF, 0)
  | .max => (xs.foldl (fun x y => if x.slt y then y else x) 0x80000000, 0)
  | .minu => (xs.foldl (fun x y => if x.ult y then x else y) 0xFFFFFFFF, 0)
  | .maxu => (xs.foldl (fun x y => if x.ult y then y else x) 0, 0)
  | .fadd =>
    match xs with
    | [] => (0, 0)
    | _ :: _ =>
      let t := exactSum rm (xs.map val32)
      let y := round32 rm t.1
      (y.1, t.2 ||| y.2)
  | .fmin => (xs.foldl (minMax32 true) 0x7F800000, 0)
  | .fmax => (xs.foldl (minMax32 false) 0xFF800000, 0)

/-! ## FP32 arithmetic, packed arithmetic, conversions -/

/-- FADD (06 R139). -/
def execFadd (d a b : VReg) (k : KReg) (s : State) : Host.Outcome State Fault Refusal :=
  runGroup (.fadd d a b k) s noWait fun s g r =>
    flagLanes d (r.active k) (fun l => addX (rmOf g.hints) (val32 (s.getV r a.toNat l)) (val32 (s.getV r b.toNat l))) s g r

/-- FSUB (06 R139). -/
def execFsub (d a b : VReg) (k : KReg) (s : State) : Host.Outcome State Fault Refusal :=
  runGroup (.fsub d a b k) s noWait fun s g r =>
    flagLanes d (r.active k) (fun l => addX (rmOf g.hints) (val32 (s.getV r a.toNat l)) (val32 (s.getV r b.toNat l)).neg) s g r

/-- FMUL (06 R139). -/
def execFmul (d a b : VReg) (k : KReg) (s : State) : Host.Outcome State Fault Refusal :=
  runGroup (.fmul d a b k) s noWait fun s g r =>
    flagLanes d (r.active k) (fun l => mulX (rmOf g.hints) (val32 (s.getV r a.toNat l)) (val32 (s.getV r b.toNat l))) s g r

/-- FMA (06 R140): the addend is the old D or SRC3's register. -/
def execFma (d a b : VReg) (k : KReg) (s : State) : Host.Outcome State Fault Refusal :=
  runGroup (.fma d a b k) s noWait fun s g r =>
    let c := (src3Of g.hints).getD d
    flagLanes d (r.active k) (fun l => fmaX (rmOf g.hints) false (val32 (s.getV r a.toNat l)) (val32 (s.getV r b.toNat l))
      (val32 (s.getV r c.toNat l))) s g r

/-- FNMA (06 R140): the addend is the old D or SRC3's register. -/
def execFnma (d a b : VReg) (k : KReg) (s : State) : Host.Outcome State Fault Refusal :=
  runGroup (.fnma d a b k) s noWait fun s g r =>
    let c := (src3Of g.hints).getD d
    flagLanes d (r.active k) (fun l => fmaX (rmOf g.hints) true (val32 (s.getV r a.toNat l)) (val32 (s.getV r b.toNat l))
      (val32 (s.getV r c.toNat l))) s g r

/-- FMIN (06 R141). -/
def execFmin (d a b : VReg) (k : KReg) (s : State) : Host.Outcome State Fault Refusal :=
  runGroup (.fmin d a b k) s noWait (vec2 d a b k (minMax32 true))

/-- FMAX (06 R141). -/
def execFmax (d a b : VReg) (k : KReg) (s : State) : Host.Outcome State Fault Refusal :=
  runGroup (.fmax d a b k) s noWait (vec2 d a b k (minMax32 false))

/-- FCMP (06 R142). -/
def execFcmp (cc : FpCond) (t : KReg) (a b : VReg) (k : KReg) (s : State) : Host.Outcome State Fault Refusal :=
  runGroup (.fcmp cc t a b k) s noWait fun s g r =>
    let one := fun l => fcmpBit cc (s.getV r a.toNat l) (s.getV r b.toNat l)
    let fl := (lanesOf (r.active k)).foldl (fun f l => f ||| (one l).2) 0
    let r1 := r.setLanes t (r.active k) fun l => (one l).1
    .next (s.putCrew g.crew { r1 with flags := r1.flags ||| fl })

/-- FDIV (06 R139). -/
def execFdiv (d a b : VReg) (k : KReg) (s : State) : Host.Outcome State Fault Refusal :=
  runGroup (.fdiv d a b k) s noWait fun s g r =>
    flagLanes d (r.active k) (fun l => divX (rmOf g.hints) (val32 (s.getV r a.toNat l)) (val32 (s.getV r b.toNat l))) s g r

/-- FSQRT (06 R139). -/
def execFsqrt (d a : VReg) (k : KReg) (s : State) : Host.Outcome State Fault Refusal :=
  runGroup (.fsqrt d a k) s noWait fun s g r =>
    flagLanes d (r.active k) (fun l => sqrtX (rmOf g.hints) (val32 (s.getV r a.toNat l))) s g r

/-- FRCP (06 R146): within the bounds of 04 R104, a free value inside them (log entry 3). -/
def execFrcp (d a : VReg) (k : KReg) (s : State) : Host.Outcome State Fault Refusal :=
  runGroup (.frcp d a k) s noWait fun s g r =>
    flagLanes d (r.active k) (fun l => special32 .rcp (s.getV r a.toNat l)) s g r

/-- FRSQ (06 R146): within the bounds of 04 R104, a free value inside them (log entry 3). -/
def execFrsq (d a : VReg) (k : KReg) (s : State) : Host.Outcome State Fault Refusal :=
  runGroup (.frsq d a k) s noWait fun s g r =>
    flagLanes d (r.active k) (fun l => special32 .rsq (s.getV r a.toNat l)) s g r

/-- FEXP2 (06 R146): within the bounds of 04 R104, a free value inside them (log entry 3). -/
def execFexp2 (d a : VReg) (k : KReg) (s : State) : Host.Outcome State Fault Refusal :=
  runGroup (.fexp2 d a k) s noWait fun s g r =>
    flagLanes d (r.active k) (fun l => special32 .exp2 (s.getV r a.toNat l)) s g r

/-- FLOG2 (06 R146): within the bounds of 04 R104, a free value inside them (log entry 3). -/
def execFlog2 (d a : VReg) (k : KReg) (s : State) : Host.Outcome State Fault Refusal :=
  runGroup (.flog2 d a k) s noWait fun s g r =>
    flagLanes d (r.active k) (fun l => special32 .log2 (s.getV r a.toNat l)) s g r

/-- FSIN (06 R146): within the bounds of 04 R104, a free value inside them (log entry 3). -/
def execFsin (d a : VReg) (k : KReg) (s : State) : Host.Outcome State Fault Refusal :=
  runGroup (.fsin d a k) s noWait fun s g r =>
    flagLanes d (r.active k) (fun l => special32 .sin (s.getV r a.toNat l)) s g r

/-- FCOS (06 R146): within the bounds of 04 R104, a free value inside them (log entry 3). -/
def execFcos (d a : VReg) (k : KReg) (s : State) : Host.Outcome State Fault Refusal :=
  runGroup (.fcos d a k) s noWait fun s g r =>
    flagLanes d (r.active k) (fun l => special32 .cos (s.getV r a.toNat l)) s g r

/-- FABS (06 R143). -/
def execFabs (d a : VReg) (k : KReg) (s : State) : Host.Outcome State Fault Refusal :=
  runGroup (.fabs d a k) s noWait (vec1 d a k fun x => if isNan32 x then 0x7FC00000 else x &&& 0x7FFFFFFF)

/-- FNEG (06 R143). -/
def execFneg (d a : VReg) (k : KReg) (s : State) : Host.Outcome State Fault Refusal :=
  runGroup (.fneg d a k) s noWait (vec1 d a k fun x => if isNan32 x then 0x7FC00000 else x ^^^ 0x80000000)

/-- FRINT (06 R144). -/
def execFrint (d a : VReg) (k : KReg) (s : State) : Host.Outcome State Fault Refusal :=
  runGroup (.frint d a k) s noWait fun s g r =>
    flagLanes d (r.active k) (fun l => frint32 (rmOf g.hints) (s.getV r a.toNat l)) s g r

/-- FCLASS (06 R145). -/
def execFclass (d a : VReg) (k : KReg) (s : State) : Host.Outcome State Fault Refusal :=
  runGroup (.fclass d a k) s noWait (vec1 d a k fclass32)

/-- HADD2 (06 R147). -/
def execHadd2 (d a b : VReg) (k : KReg) (s : State) : Host.Outcome State Fault Refusal :=
  runGroup (.hadd2 d a b k) s noWait fun s g r =>
    flagLanes d (r.active k) (fun l => packed2 .fp16 (rmOf g.hints) hadd (s.getV r a.toNat l) (s.getV r b.toNat l) 0) s g r

/-- HMUL2 (06 R147). -/
def execHmul2 (d a b : VReg) (k : KReg) (s : State) : Host.Outcome State Fault Refusal :=
  runGroup (.hmul2 d a b k) s noWait fun s g r =>
    flagLanes d (r.active k) (fun l => packed2 .fp16 (rmOf g.hints) hmul (s.getV r a.toNat l) (s.getV r b.toNat l) 0) s g r

/-- HFMA2 (06 R147). -/
def execHfma2 (d a b : VReg) (k : KReg) (s : State) : Host.Outcome State Fault Refusal :=
  runGroup (.hfma2 d a b k) s noWait fun s g r =>
    let c := (src3Of g.hints).getD d
    flagLanes d (r.active k) (fun l => packed2 .fp16 (rmOf g.hints) hfma (s.getV r a.toNat l) (s.getV r b.toNat l)
      (s.getV r c.toNat l)) s g r

/-- BFMA2 (06 R147). -/
def execBfma2 (d a b : VReg) (k : KReg) (s : State) : Host.Outcome State Fault Refusal :=
  runGroup (.bfma2 d a b k) s noWait fun s g r =>
    let c := (src3Of g.hints).getD d
    flagLanes d (r.active k) (fun l => packed2 .bf16 (rmOf g.hints) hfma (s.getV r a.toNat l) (s.getV r b.toNat l)
      (s.getV r c.toNat l)) s g r

/-- DOT2 (06 R148): on the head run. -/
def execDot2 (d a b : VReg) (p : Pair2) (s : State) : Host.Outcome State Fault Refusal :=
  runGroup (.dot2 d a b p) s noWait fun s g r =>
    let c := (src3Of g.hints).getD d
    flagLanes d r.head (fun l => dotSum p.parts (rmOf g.hints) (s.getV r a.toNat l) (s.getV r b.toNat l)
      (s.getV r c.toNat l)) s g r

/-- DOT4 (06 R148): on the head run. -/
def execDot4 (d a b : VReg) (p : Pair4) (s : State) : Host.Outcome State Fault Refusal :=
  runGroup (.dot4 d a b p) s noWait fun s g r =>
    let c := (src3Of g.hints).getD d
    flagLanes d r.head (fun l => dotSum p.parts (rmOf g.hints) (s.getV r a.toNat l) (s.getV r b.toNat l)
      (s.getV r c.toNat l)) s g r

/-- DOT8 (06 R148): on the head run. -/
def execDot8 (d a b : VReg) (p : Pair8) (s : State) : Host.Outcome State Fault Refusal :=
  runGroup (.dot8 d a b p) s noWait fun s g r =>
    let c := (src3Of g.hints).getD d
    flagLanes d r.head (fun l => dotSum p.parts (rmOf g.hints) (s.getV r a.toNat l) (s.getV r b.toNat l)
      (s.getV r c.toNat l)) s g r

/-- CVTF (06 R150): on the head run. -/
def execCvtf (d a : VReg) (sat : Bool) (rm : Rm) (fs fd : FFmt) (s : State) : Host.Outcome State Fault Refusal :=
  runGroup (.cvtf d a sat rm fs fd) s noWait fun s g r =>
    flagLanes d r.head (fun l => wordFlags (convFF fd fs rm sat ((s.getV r a.toNat l).toNat % 2 ^ fs.width))) s g r

/-- CVTFI (06 R151): on the head run; an integer result is extended as its format is signed. -/
def execCvtfi (d a : VReg) (rm : Rm) (fs : FFmt) (fd : IFmt) (s : State) : Host.Outcome State Fault Refusal :=
  runGroup (.cvtfi d a rm fs fd) s noWait fun s g r =>
    flagLanes d r.head (fun l =>
      let x := toIntX fd rm (valueOf fs ((s.getV r a.toNat l).toNat % 2 ^ fs.width))
      (BitVec.ofInt 32 x.1, x.2)) s g r

/-- CVTIF (06 R152): on the head run. -/
def execCvtif (d a : VReg) (sat : Bool) (rm : Rm) (fs : IFmt) (fd : FFmt) (s : State) : Host.Outcome State Fault Refusal :=
  runGroup (.cvtif d a sat rm fs fd) s noWait fun s g r =>
    flagLanes d r.head (fun l => wordFlags (convIF fd rm sat (intVal fs ((s.getV r a.toNat l).toNat % 2 ^ fs.width)))) s g r

/-- PACK (06 R153): on the head run. -/
def execPack (d a : VReg) (rm : Rm) (n : BitVec 3) (f : ElemFmt) (s : State) : Host.Outcome State Fault Refusal :=
  runGroup (.pack d a rm n f) s noWait fun s g r =>
    flagLanes d r.head (fun l =>
      let e := packElem f rm (s.getV r a.toNat l)
      let m : Word := BitVec.ofNat 32 (2 ^ f.width - 1) <<< (f.width * n.toNat)
      ((s.getV r d.toNat l &&& ~~~ m) ||| (BitVec.ofNat 32 e.1 <<< (f.width * n.toNat)), e.2)) s g r

/-- UNPACK (06 R154): on the head run. -/
def execUnpack (d a : VReg) (n : BitVec 3) (f : ElemFmt) (s : State) : Host.Outcome State Fault Refusal :=
  runGroup (.unpack d a n f) s noWait fun s _ r =>
    .next (s.mapLanes r d r.head fun l => unpackElem f ((s.getV r a.toNat l).toNat / 2 ^ (f.width * n.toNat) % 2 ^ f.width))

/-! ## Moving values between lanes -/

/-- ROUTESET (06 R157): once for the crew. -/
def execRouteset (d : QReg) (a : VReg) (s : State) : Host.Outcome State Fault Refusal :=
  runGroup (.routeset d a) s noWait fun s g r =>
    let v := fun j => s.getV r a.toNat j
    .next (s.putCrew g.crew (r.setQ d ((v 4).setWidth 16 ++ v 3 ++ v 2 ++ v 1 ++ v 0)))

/-- ROUTE (06 R158). -/
def execRoute (d a : VReg) (b : QReg) (k : KReg) (s : State) : Host.Outcome State Fault Refusal :=
  runGroup (.route d a b k) s noWait fun s _ r =>
    let xs := benes (r.qreg b) (allLanes.map fun l => s.getV r a.toNat l)
    .next (s.mapLanes r d (r.active k) fun l => xs.getD l 0)

/-- SHFL (06 R159). -/
def execShfl (d a b : VReg) (k : KReg) (s : State) : Host.Outcome State Fault Refusal :=
  runGroup (.shfl d a b k) s noWait fun s _ r =>
    .next (s.mapLanes r d (r.active k) fun l => s.getV r a.toNat ((s.getV r b.toNat l).toNat % 32))

/-- BALLOT (06 R160): once for the crew. -/
def execBallot (d : SReg) (a : VReg) (k : KReg) (s : State) : Host.Outcome State Fault Refusal :=
  runGroup (.ballot d a k) s noWait (scalarTo d fun s r =>
    (maskOf fun l => (r.active k).getLsbD l && s.getV r a.toNat l != 0).setWidth 64)

/-! ## REDUCE and SCAN -/

/-- REDUCE (06 R161, R162). -/
def execReduce (d a : VReg) (b : KReg) (op : RedOp) (s : State) : Host.Outcome State Fault Refusal :=
  runGroup (.reduce d a b op) s noWait fun s g r =>
    let x := combine op (rmOf g.hints) ((lanesOf (r.active b)).map fun l => (s.getV r a.toNat l))
    flagLanes d r.head (fun _ => x) s g r

/-- SCAN (06 R161, R162): inclusive. -/
def execScan (d a : VReg) (b : KReg) (op : RedOp) (s : State) : Host.Outcome State Fault Refusal :=
  runGroup (.scan d a b op) s noWait fun s g r =>
    flagLanes d r.head (fun l =>
      combine op (rmOf g.hints) (((lanesOf (r.active b)).filter (· ≤ l)).map fun l => (s.getV r a.toNat l))) s g r

/-- XSCAN (06 R161, R162): exclusive. -/
def execXscan (d a : VReg) (b : KReg) (op : RedOp) (s : State) : Host.Outcome State Fault Refusal :=
  runGroup (.xscan d a b op) s noWait fun s g r =>
    flagLanes d r.head (fun l =>
      combine op (rmOf g.hints) (((lanesOf (r.active b)).filter (· < l)).map fun l => (s.getV r a.toNat l))) s g r

/-! ## FFLAGS (06 R163) -/

/-- FRFLAGS: read. -/
def execFrflags (a : SReg) (s : State) : Host.Outcome State Fault Refusal :=
  runGroup (.frflags a) s noWait (scalarTo a fun _ r => r.flags.setWidth 64)

/-- FWFLAGS: write. -/
def execFwflags (a : SReg) (s : State) : Host.Outcome State Fault Refusal :=
  runGroup (.fwflags a) s noWait fun s g r => .next (s.putCrew g.crew { r with flags := (r.sreg a).setWidth 6 })

/-- FCFLAGS: clear those named. -/
def execFcflags (a : SReg) (s : State) : Host.Outcome State Fault Refusal :=
  runGroup (.fcflags a) s noWait fun s g r =>
    .next (s.putCrew g.crew { r with flags := r.flags &&& ~~~ (r.sreg a).setWidth 6 })

/-- FRCFLAGS: read and clear all. -/
def execFrcflags (a : SReg) (s : State) : Host.Outcome State Fault Refusal :=
  runGroup (.frcflags a) s noWait fun s g r =>
    .next (s.putCrew g.crew { r.setS a (r.flags.setWidth 64) with flags := 0 })

end Sys2Proof.Machine
end

