-- ==== Sys2Proof/Machine/Integer.lean ====
section
/-!
DEFINITION. The integer, logic, mask, move and scalar instructions (05 R107-R126).
-/

namespace Sys2Proof.Machine

/-- The high word of a product. -/
def mulHigh (signed : Bool) (x y : Word) : Word :=
  if signed then ((x.signExtend 64) * (y.signExtend 64)).extractLsb' 32 32
  else ((x.setWidth 64) * (y.setWidth 64)).extractLsb' 32 32

/-- SDiv(a, b) (05 R111). -/
def sdiv32 (x y : Word) : Word :=
  if y = 0 then 0xFFFFFFFF else BitVec.ofInt 32 (Int.tdiv x.toInt y.toInt)

/-- SRem(a, b) (05 R111). -/
def srem32 (x y : Word) : Word := if y = 0 then x else BitVec.ofInt 32 (Int.tmod x.toInt y.toInt)

/-- The conditions of ICMP, ICMPI and SCMP (02 Table 2.2). -/
def intCond {n : Nat} (cc : IntCond) (x y : BitVec n) : Bool :=
  match cc with
  | .eq => x == y
  | .ne => x != y
  | .lt => x.slt y
  | .le => x.sle y
  | .gt => y.slt x
  | .ge => y.sle x
  | .ltu => x.ult y
  | .leu => x.ule y
  | .gtu => y.ult x
  | .geu => y.ule x

/-- The width w = h - p + 1 of a bit field, cut short at bit 31 (05 R116). -/
def fieldWidth (len pos : BitVec 5) : Nat := min (pos.toNat + len.toNat) 31 - pos.toNat + 1

/-- The mask 2^w - 1. -/
def fieldMask (w : Nat) : Word := BitVec.ofNat 32 (2 ^ w - 1)

/-- The number of one bits. -/
def onesIn (x : Word) : Nat := ((List.range 32).filter fun i => x.getLsbD i).length

/-- The number of zero bits above the highest one bit. -/
def leadingZeros (x : Word) : Nat := if x = 0 then 32 else 31 - Nat.log2 x.toNat

/-- ADD (05 R111): Trunc(a + b, 32). -/
def execAdd (d a b : VReg) (k : KReg) (s : State) : Host.Outcome State Fault Refusal :=
  runGroup (.add d a b k) s noWait (vec2 d a b k fun x y => x + y)

/-- SUB (05 R111): Trunc(a - b, 32). -/
def execSub (d a b : VReg) (k : KReg) (s : State) : Host.Outcome State Fault Refusal :=
  runGroup (.sub d a b k) s noWait (vec2 d a b k fun x y => x - y)

/-- ADDI (05 R113): adds the immediate in every lane of the head run. -/
def execAddi (d a : VReg) (i : BitVec 10) (s : State) : Host.Outcome State Fault Refusal :=
  runGroup (.addi d a i) s noWait fun s g r => vecI d a (fun x => x + (imm10 g.hints i).setWidth 32) s g r

/-- MUL (05 R111): the low word of the product. -/
def execMul (d a b : VReg) (k : KReg) (s : State) : Host.Outcome State Fault Refusal :=
  runGroup (.mul d a b k) s noWait (vec2 d a b k fun x y => x * y)

/-- MULHI (05 R111): the high word of the signed product. -/
def execMulhi (d a b : VReg) (k : KReg) (s : State) : Host.Outcome State Fault Refusal :=
  runGroup (.mulhi d a b k) s noWait (vec2 d a b k (mulHigh true))

/-- MULHIU (05 R111): the high word of the unsigned product. -/
def execMulhiu (d a b : VReg) (k : KReg) (s : State) : Host.Outcome State Fault Refusal :=
  runGroup (.mulhiu d a b k) s noWait (vec2 d a b k (mulHigh false))

/-- MAD (05 R112): a * b + c, where c is the old D or SRC3's register. -/
def execMad (d a b : VReg) (k : KReg) (s : State) : Host.Outcome State Fault Refusal :=
  runGroup (.mad d a b k) s noWait fun s g r =>
    let c := (src3Of g.hints).getD d
    .next (s.mapLanes r d (r.active k) fun l => s.getV r a.toNat l * s.getV r b.toNat l + s.getV r c.toNat l)

/-- DIV (05 R111): SDiv(a, b). -/
def execDiv (d a b : VReg) (k : KReg) (s : State) : Host.Outcome State Fault Refusal :=
  runGroup (.div_ d a b k) s noWait (vec2 d a b k sdiv32)

/-- DIVU (05 R111): floor(a / b), all ones for b = 0. -/
def execDivu (d a b : VReg) (k : KReg) (s : State) : Host.Outcome State Fault Refusal :=
  runGroup (.divu d a b k) s noWait (vec2 d a b k fun x y => if y = 0 then 0xFFFFFFFF else x / y)

/-- REM (05 R111): SRem(a, b). -/
def execRem (d a b : VReg) (k : KReg) (s : State) : Host.Outcome State Fault Refusal :=
  runGroup (.rem d a b k) s noWait (vec2 d a b k srem32)

/-- REMU (05 R111): the remainder, a for b = 0. -/
def execRemu (d a b : VReg) (k : KReg) (s : State) : Host.Outcome State Fault Refusal :=
  runGroup (.remu d a b k) s noWait (vec2 d a b k fun x y => if y = 0 then x else x % y)

/-- MIN (05 R111): the lesser, signed. -/
def execMin (d a b : VReg) (k : KReg) (s : State) : Host.Outcome State Fault Refusal :=
  runGroup (.min_ d a b k) s noWait (vec2 d a b k fun x y => if x.slt y then x else y)

/-- MAX (05 R111): the greater, signed. -/
def execMax (d a b : VReg) (k : KReg) (s : State) : Host.Outcome State Fault Refusal :=
  runGroup (.max_ d a b k) s noWait (vec2 d a b k fun x y => if x.slt y then y else x)

/-- MINU (05 R111): the lesser, unsigned. -/
def execMinu (d a b : VReg) (k : KReg) (s : State) : Host.Outcome State Fault Refusal :=
  runGroup (.minu d a b k) s noWait (vec2 d a b k fun x y => if x.ult y then x else y)

/-- MAXU (05 R111): the greater, unsigned. -/
def execMaxu (d a b : VReg) (k : KReg) (s : State) : Host.Outcome State Fault Refusal :=
  runGroup (.maxu d a b k) s noWait (vec2 d a b k fun x y => if x.ult y then y else x)

/-- AND (05 R114). -/
def execAnd (d a b : VReg) (k : KReg) (s : State) : Host.Outcome State Fault Refusal :=
  runGroup (.and_ d a b k) s noWait (vec2 d a b k fun x y => x &&& y)

/-- OR (05 R114). -/
def execOr (d a b : VReg) (k : KReg) (s : State) : Host.Outcome State Fault Refusal :=
  runGroup (.or_ d a b k) s noWait (vec2 d a b k fun x y => x ||| y)

/-- XOR (05 R114). -/
def execXor (d a b : VReg) (k : KReg) (s : State) : Host.Outcome State Fault Refusal :=
  runGroup (.xor_ d a b k) s noWait (vec2 d a b k fun x y => x ^^^ y)

/-- ANDN (05 R114): a AND NOT b. -/
def execAndn (d a b : VReg) (k : KReg) (s : State) : Host.Outcome State Fault Refusal :=
  runGroup (.andn d a b k) s noWait (vec2 d a b k fun x y => x &&& ~~~ y)

/-- ANDI (05 R114): with the sign-extended immediate, on the head run. -/
def execAndi (d a : VReg) (i : BitVec 10) (s : State) : Host.Outcome State Fault Refusal :=
  runGroup (.andi d a i) s noWait fun s g r => vecI d a (fun x => x &&& (imm10 g.hints i).setWidth 32) s g r

/-- ORI (05 R114): with the sign-extended immediate, on the head run. -/
def execOri (d a : VReg) (i : BitVec 10) (s : State) : Host.Outcome State Fault Refusal :=
  runGroup (.ori d a i) s noWait fun s g r => vecI d a (fun x => x ||| (imm10 g.hints i).setWidth 32) s g r

/-- XORI (05 R114): with the sign-extended immediate, on the head run. -/
def execXori (d a : VReg) (i : BitVec 10) (s : State) : Host.Outcome State Fault Refusal :=
  runGroup (.xori d a i) s noWait fun s g r => vecI d a (fun x => x ^^^ (imm10 g.hints i).setWidth 32) s g r

/-- SHL (05 R115): left by B bits [4:0]. -/
def execShl (d a b : VReg) (k : KReg) (s : State) : Host.Outcome State Fault Refusal :=
  runGroup (.shl d a b k) s noWait (vec2 d a b k fun x y => x <<< (y.toNat % 32))

/-- SHR (05 R115): right, logical. -/
def execShr (d a b : VReg) (k : KReg) (s : State) : Host.Outcome State Fault Refusal :=
  runGroup (.shr d a b k) s noWait (vec2 d a b k fun x y => x >>> (y.toNat % 32))

/-- SAR (05 R115): right, arithmetic. -/
def execSar (d a b : VReg) (k : KReg) (s : State) : Host.Outcome State Fault Refusal :=
  runGroup (.sar d a b k) s noWait (vec2 d a b k fun x y => x.sshiftRight (y.toNat % 32))

/-- SHLI (05 R115). -/
def execShli (d a : VReg) (n : BitVec 5) (s : State) : Host.Outcome State Fault Refusal :=
  runGroup (.shli d a n) s noWait (vecI d a fun x => x <<< n.toNat)

/-- SHRI (05 R115). -/
def execShri (d a : VReg) (n : BitVec 5) (s : State) : Host.Outcome State Fault Refusal :=
  runGroup (.shri d a n) s noWait (vecI d a fun x => x >>> n.toNat)

/-- SARI (05 R115). -/
def execSari (d a : VReg) (n : BitVec 5) (s : State) : Host.Outcome State Fault Refusal :=
  runGroup (.sari d a n) s noWait (vecI d a fun x => x.sshiftRight n.toNat)

/-- BFX (05 R116): the bits [h:p] of a, zero-extended. -/
def execBfx (d a : VReg) (len pos : BitVec 5) (s : State) : Host.Outcome State Fault Refusal :=
  runGroup (.bfx d a len pos) s noWait (vecI d a fun x => (x >>> pos.toNat) &&& fieldMask (fieldWidth len pos))

/-- BFXS (05 R116): the bits [h:p] of a, sign-extended. -/
def execBfxs (d a : VReg) (len pos : BitVec 5) (s : State) : Host.Outcome State Fault Refusal :=
  runGroup (.bfxs d a len pos) s noWait (vecI d a fun x =>
    let w := fieldWidth len pos
    (x <<< (32 - w - pos.toNat)).sshiftRight (32 - w))

/-- BFI (05 R116): the low bits of A placed in the field of D. -/
def execBfi (d a : VReg) (len pos : BitVec 5) (s : State) : Host.Outcome State Fault Refusal :=
  runGroup (.bfi d a len pos) s noWait fun s _ r =>
    let m := fieldMask (fieldWidth len pos) <<< pos.toNat
    .next (s.mapLanes r d r.head fun l =>
      (s.getV r d.toNat l &&& ~~~ m) ||| ((s.getV r a.toNat l <<< pos.toNat) &&& m))

/-- POPC (05 R117): the number of one bits. -/
def execPopc (d a : VReg) (k : KReg) (s : State) : Host.Outcome State Fault Refusal :=
  runGroup (.popc d a k) s noWait (vec1 d a k fun x => BitVec.ofNat 32 (onesIn x))

/-- CLZ (05 R117): the number of zero bits above the highest one bit. -/
def execClz (d a : VReg) (k : KReg) (s : State) : Host.Outcome State Fault Refusal :=
  runGroup (.clz d a k) s noWait (vec1 d a k fun x => BitVec.ofNat 32 (leadingZeros x))

/-- BREV (05 R117): bit i moves to bit 31 - i. -/
def execBrev (d a : VReg) (k : KReg) (s : State) : Host.Outcome State Fault Refusal :=
  runGroup (.brev d a k) s noWait (vec1 d a k fun x => x.reverse)

/-- ICMP (05 R118): the active lanes' bits of KT. -/
def execIcmp (cc : IntCond) (t : KReg) (a b : VReg) (k : KReg) (s : State) : Host.Outcome State Fault Refusal :=
  runGroup (.icmp cc t a b k) s noWait fun s g r =>
    .next (s.putCrew g.crew (r.setLanes t (r.active k) fun l => intCond cc (s.getV r a.toNat l) (s.getV r b.toNat l)))

/-- ICMPI (05 R118): against the immediate, on the head run. -/
def execIcmpi (cc : IntCond) (t : KReg) (a : VReg) (i : BitVec 10) (s : State) : Host.Outcome State Fault Refusal :=
  runGroup (.icmpi cc t a i) s noWait fun s g r =>
    .next (s.putCrew g.crew (r.setLanes t r.head fun l => intCond cc (s.getV r a.toNat l) ((imm10 g.hints i).setWidth 32)))

/-- SEL (05 R119): A where the selecting mask's bit is 1, else B, on the head run. -/
def execSel (d a b : VReg) (k : KReg) (s : State) : Host.Outcome State Fault Refusal :=
  runGroup (.sel d a b k) s noWait fun s _ r =>
    .next (s.mapLanes r d r.head fun l => if (r.kreg k).getLsbD l then s.getV r a.toNat l else s.getV r b.toNat l)

/-- KAND (05 R120). -/
def execKand (d a b : KReg) (s : State) : Host.Outcome State Fault Refusal :=
  runGroup (.kand d a b) s noWait (maskTo d fun r => r.kreg a &&& r.kreg b)

/-- KOR (05 R120). -/
def execKor (d a b : KReg) (s : State) : Host.Outcome State Fault Refusal :=
  runGroup (.kor d a b) s noWait (maskTo d fun r => r.kreg a ||| r.kreg b)

/-- KXOR (05 R120). -/
def execKxor (d a b : KReg) (s : State) : Host.Outcome State Fault Refusal :=
  runGroup (.kxor d a b) s noWait (maskTo d fun r => r.kreg a ^^^ r.kreg b)

/-- KANDN (05 R120): A AND NOT B. -/
def execKandn (d a b : KReg) (s : State) : Host.Outcome State Fault Refusal :=
  runGroup (.kandn d a b) s noWait (maskTo d fun r => r.kreg a &&& ~~~ r.kreg b)

/-- KTOV (05 R121): all ones or zero by the bit of A. -/
def execKtov (d : VReg) (a k : KReg) (s : State) : Host.Outcome State Fault Refusal :=
  runGroup (.ktov d a k) s noWait fun s _ r =>
    .next (s.mapLanes r d (r.active k) fun l => if (r.kreg a).getLsbD l then 0xFFFFFFFF else 0)

/-- VTOK (05 R121): the active lanes' bits from whether A is nonzero. -/
def execVtok (d : KReg) (a : VReg) (k : KReg) (s : State) : Host.Outcome State Fault Refusal :=
  runGroup (.vtok d a k) s noWait fun s g r =>
    .next (s.putCrew g.crew (r.setLanes d (r.active k) fun l => s.getV r a.toNat l != 0))

/-- MOVI (05 R122): the immediate's low 32 bits in every lane of the head run. -/
def execMovi (d : VReg) (i : BitVec 17) (s : State) : Host.Outcome State Fault Refusal :=
  runGroup (.movi d i) s noWait fun s g r => .next (s.mapLanes r d r.head fun _ => (imm17 g.hints i).setWidth 32)

/-- MOV (05 R122). -/
def execMov (d a : VReg) (k : KReg) (s : State) : Host.Outcome State Fault Refusal :=
  runGroup (.mov d a k) s noWait (vec1 d a k fun x => x)

/-- BCAST (05 R123): the low word of a scalar in every active lane. -/
def execBcast (d : VReg) (a : SReg) (k : KReg) (s : State) : Host.Outcome State Fault Refusal :=
  runGroup (.bcast d a k) s noWait fun s _ r => .next (s.mapLanes r d (r.active k) fun _ => (r.sreg a).setWidth 32)

/-- GETLANE (05 R123): one lane of a vector, whatever the lane's state. -/
def execGetlane (d : SReg) (a : VReg) (lane : BitVec 5) (s : State) : Host.Outcome State Fault Refusal :=
  runGroup (.getlane d a lane) s noWait (scalarTo d fun s r => (s.getV r a.toNat lane.toNat).setWidth 64)

/-- ADD64 (05 R124): a pair plus a sign-extended word, active lanes. -/
def execAdd64 (d a b : VReg) (k : KReg) (s : State) : Host.Outcome State Fault Refusal :=
  runGroup (.add64 d a b k) s noWait fun s _ r =>
    .next ((lanesOf (r.active k)).foldl (fun u l =>
      u.putV2 r d.toNat l (s.getV2 r a.toNat l + (s.getV r b.toNat l).signExtend 64)) s)

/-- LEA (05 R124): a pair plus a zero-extended word shifted left, on the head run. -/
def execLea (d a b : VReg) (sh : BitVec 3) (s : State) : Host.Outcome State Fault Refusal :=
  runGroup (.lea d a b sh) s noWait fun s _ r =>
    .next ((lanesOf r.head).foldl (fun u l =>
      u.putV2 r d.toNat l (s.getV2 r a.toNat l + ((s.getV r b.toNat l).setWidth 64 <<< sh.toNat))) s)

/-- SADD. (05 Table 5.4) -/
def execSadd (d a b : SReg) (s : State) : Host.Outcome State Fault Refusal :=
  runGroup (.sadd d a b) s noWait (scalarTo d fun _ r => r.sreg a + r.sreg b)

/-- SSUB. (05 Table 5.4) -/
def execSsub (d a b : SReg) (s : State) : Host.Outcome State Fault Refusal :=
  runGroup (.ssub d a b) s noWait (scalarTo d fun _ r => r.sreg a - r.sreg b)

/-- SMUL. (05 Table 5.4) -/
def execSmul (d a b : SReg) (s : State) : Host.Outcome State Fault Refusal :=
  runGroup (.smul d a b) s noWait (scalarTo d fun _ r => r.sreg a * r.sreg b)

/-- SAND. (05 Table 5.4) -/
def execSand (d a b : SReg) (s : State) : Host.Outcome State Fault Refusal :=
  runGroup (.sand d a b) s noWait (scalarTo d fun _ r => r.sreg a &&& r.sreg b)

/-- SOR. (05 Table 5.4) -/
def execSor (d a b : SReg) (s : State) : Host.Outcome State Fault Refusal :=
  runGroup (.sor d a b) s noWait (scalarTo d fun _ r => r.sreg a ||| r.sreg b)

/-- SXOR. (05 Table 5.4) -/
def execSxor (d a b : SReg) (s : State) : Host.Outcome State Fault Refusal :=
  runGroup (.sxor d a b) s noWait (scalarTo d fun _ r => r.sreg a ^^^ r.sreg b)

/-- SADDI. (05 Table 5.4) -/
def execSaddi (d a : SReg) (i : BitVec 10) (s : State) : Host.Outcome State Fault Refusal :=
  runGroup (.saddi d a i) s noWait fun s g r => scalarTo d (fun _ r => r.sreg a + imm10 g.hints i) s g r

/-- SSHLI. (05 Table 5.4) -/
def execSshli (d a : SReg) (n : BitVec 6) (s : State) : Host.Outcome State Fault Refusal :=
  runGroup (.sshli d a n) s noWait (scalarTo d fun _ r => r.sreg a <<< n.toNat)

/-- SSHRI. (05 Table 5.4) -/
def execSshri (d a : SReg) (n : BitVec 6) (s : State) : Host.Outcome State Fault Refusal :=
  runGroup (.sshri d a n) s noWait (scalarTo d fun _ r => r.sreg a >>> n.toNat)

/-- SSARI. (05 Table 5.4) -/
def execSsari (d a : SReg) (n : BitVec 6) (s : State) : Host.Outcome State Fault Refusal :=
  runGroup (.ssari d a n) s noWait (scalarTo d fun _ r => (r.sreg a).sshiftRight n.toNat)

/-- SMOVI. (05 Table 5.4) -/
def execSmovi (d : SReg) (i : BitVec 17) (s : State) : Host.Outcome State Fault Refusal :=
  runGroup (.smovi d i) s noWait fun s g r => scalarTo d (fun _ _ => imm17 g.hints i) s g r

/-- SCMP (05 R126): all 32 bits of KT. -/
def execScmp (cc : IntCond) (t : KReg) (a b : SReg) (s : State) : Host.Outcome State Fault Refusal :=
  runGroup (.scmp cc t a b) s noWait (maskTo t fun r => if intCond cc (r.sreg a) (r.sreg b) then 0xFFFFFFFF else 0)

end Sys2Proof.Machine
end

