-- ==== Sys2Proof/Machine/Lamps.lean ====
section
/-!
DEFINITION. What the matrix array and the lamp ring do by the clock: the ends of MMA, WLD and ACCST, the gang timer, and
the lamp states of Table 13.3 (08 R208, R212, R216, R222; 13 R344, R345).
-/

namespace Sys2Proof.Machine

/-! ## The matrix array (08) -/

/-- MMA_STREAM_END (08 R212): an MMA issued 40 clk ago has finished streaming. -/
def execMmaStreamEnd (core part : Nat) (s : State) : Host.Outcome State Fault Refusal :=
  .next (s.onPn (partKey core part) fun p =>
    { p with streams := dropFirst (fun x => decide (x.start + 40 ≤ s.clk)) p.streams })

/-- WLD_COMPLETE (08 R208): the shadow plane is valid 32 clk after the WLD issued. -/
def execWldComplete (core part : Nat) (s : State) : Host.Outcome State Fault Refusal :=
  .next (s.onPn (partKey core part) fun p =>
    match p.wld with
    | some w => if w.2 + 32 ≤ s.clk then { p with wld := none, wldRead := none, shadow := { p.shadow with valid := true } } else p
    | none => p)

/-- ACCST_COMPLETE (08 R216): the bank writes of an ACCST issued 40 clk ago are done; PEND falls and the tile may become
READY. -/
def execAccstComplete (core part : Nat) (s : State) : Host.Outcome State Fault Refusal :=
  let k := partKey core part
  let due := fun (x : AccStore) => decide (x.start + 40 ≤ s.clk)
  match (s.pn k).accst.find? due with
  | none => .next s
  | some x =>
    let t := s.onPn k fun p => { p with accst := dropFirst due p.accst }
    let e := Sparse.get TileEntry.zero (t.partOf x.block x.part).tiles x.tile
    .next (t.putTile x.block x.part x.tile (e.step true))

/-- GANG_TIMEOUT (08 R222). -/
def execGangTimeout (leader : Nat) (s : State) : Host.Outcome State Fault Refusal :=
  match s.latches.find leader with
  | none => .next s
  | some l =>
    if !l.complete leader && decide (l.start + 2 ^ 20 ≤ s.clk) then .next (s.gangFault leader l none 0x0E) else .next s

/-! ## The lamp ring (13 R344, R345) -/

/-- LAMP_HOLD_EXPIRY (13 R345). -/
def execLampHoldExpiry (cluster : Nat) (s : State) : Host.Outcome State Fault Refusal :=
  match s.lamps.at cluster with
  | .hold t => .next (if t + 8 ≤ s.clk then s.setLamp cluster .done else s)
  | .dark => .next s
  | .burst _ _ => .next s
  | .drain => .next s
  | .done => .next s

/-- LAMP_BURST_EXPIRY (13 R345). -/
def execLampBurstExpiry (cluster : Nat) (s : State) : Host.Outcome State Fault Refusal :=
  match s.lamps.at cluster with
  | .burst t _ => .next (if t + 4096 ≤ s.clk then s.setLamp cluster .drain else s)
  | .dark => .next s
  | .hold _ => .next s
  | .drain => .next s
  | .done => .next s

/-- LAMP_BURST_IDLE (13 R345). -/
def execLampBurstIdle (cluster : Nat) (s : State) : Host.Outcome State Fault Refusal :=
  match s.lamps.at cluster with
  | .burst _ m => .next (if m + 256 ≤ s.clk then s.setLamp cluster .drain else s)
  | .dark => .next s
  | .hold _ => .next s
  | .drain => .next s
  | .done => .next s

/-- Whether every MMA of a cluster has finished streaming. -/
def State.clusterIdle (s : State) (cluster : Nat) : Bool :=
  s.partitions.all fun p => !((s.clusterCores cluster).contains (p.1 / 32)) || p.2.streams.isEmpty

/-- LAMP_DRAIN_DONE (13 R345). -/
def execLampDrainDone (cluster : Nat) (s : State) : Host.Outcome State Fault Refusal :=
  match s.lamps.at cluster with
  | .drain => .next (if s.clusterIdle cluster then s.setLamp cluster .done else s)
  | .dark => .next s
  | .hold _ => .next s
  | .burst _ _ => .next s
  | .done => .next s

/-- Whether every cluster that holds a lamp is DONE. -/
def LampRing.roundOver (r : LampRing) : Bool :=
  (List.range 12).all fun c => !r.lit c || r.at c == .done

/-- The states at the start of a round. -/
def LampRing.fresh (r : LampRing) (clk : Nat) : Tbl Lamp :=
  (List.range 12).map fun c => (c, if r.lit c then .hold clk else .dark)

/-- Whether a waiting crew's MMA stands at the lamp step, whatever the reason it is charged (08 R212, 14 R384). -/
def State.atLamp (s : State) (c : Nat) (r : Crew) : Bool :=
  match r.phase with
  | .waiting _ =>
    match s.peekGroup c r with
    | some (.mma n tr z gang sb t f, g) =>
      (issueFault s c r g.hints (.mma n tr z gang sb t f)).isNone && match mmaStand n tr z gang sb t f s g r with
        | .lamp _ => true
        | _ => false
    | _ => false
  | _ => false

/-- The cores of the crews that wait at the lamp step. -/
def State.lampWaiters (s : State) : List Nat := (s.crews.filter fun e => s.atLamp e.1 e.2).map fun e => e.2.core

/-- LAMP_ROUND_ADVANCE (13 R345): when every lamp holder is DONE the advance begins; 8 clk later the next round begins,
with the L then in force, and clusters where an MMA already waits begin their bursts. -/
def execLampRoundAdvance (s : State) : Host.Outcome State Fault Refusal :=
  match s.lamps.advance with
  | none => .next (if s.lamps.roundOver then { s with lamps := { s.lamps with advance := some (s.clk + 8) } } else s)
  | some t =>
    if s.clk < t then .next s
    else
      let r : LampRing := { s.lamps with count := s.lamps.next, k := (s.lamps.k + 1) % 12, advance := none }
      let u := { s with lamps := { r with clusters := r.fresh s.clk } }
      .next (u.lampWaiters.foldl (fun v core => v.wantLamp core) u)

end Sys2Proof.Machine
end

