-- ==== Sys2Proof/Machine/Dispatch.lean ====
section
/-!
DEFINITION. One arm per constructor of `Instr`: each calls the one definition that gives it its meaning.
-/

namespace Sys2Proof.Machine

/-- The meaning of one step. -/
def exec (i : Instr) (s : State) : Host.Outcome State Fault Refusal :=
  match i with
  | .add d a b k => Sys2Proof.Machine.execAdd d a b k s
  | .sub d a b k => Sys2Proof.Machine.execSub d a b k s
  | .addi d a imm => Sys2Proof.Machine.execAddi d a imm s
  | .mul d a b k => Sys2Proof.Machine.execMul d a b k s
  | .mulhi d a b k => Sys2Proof.Machine.execMulhi d a b k s
  | .mulhiu d a b k => Sys2Proof.Machine.execMulhiu d a b k s
  | .mad d a b k => Sys2Proof.Machine.execMad d a b k s
  | .div_ d a b k => Sys2Proof.Machine.execDiv d a b k s
  | .divu d a b k => Sys2Proof.Machine.execDivu d a b k s
  | .rem d a b k => Sys2Proof.Machine.execRem d a b k s
  | .remu d a b k => Sys2Proof.Machine.execRemu d a b k s
  | .min_ d a b k => Sys2Proof.Machine.execMin d a b k s
  | .max_ d a b k => Sys2Proof.Machine.execMax d a b k s
  | .minu d a b k => Sys2Proof.Machine.execMinu d a b k s
  | .maxu d a b k => Sys2Proof.Machine.execMaxu d a b k s
  | .and_ d a b k => Sys2Proof.Machine.execAnd d a b k s
  | .or_ d a b k => Sys2Proof.Machine.execOr d a b k s
  | .xor_ d a b k => Sys2Proof.Machine.execXor d a b k s
  | .andn d a b k => Sys2Proof.Machine.execAndn d a b k s
  | .andi d a imm => Sys2Proof.Machine.execAndi d a imm s
  | .ori d a imm => Sys2Proof.Machine.execOri d a imm s
  | .xori d a imm => Sys2Proof.Machine.execXori d a imm s
  | .shl d a b k => Sys2Proof.Machine.execShl d a b k s
  | .shr d a b k => Sys2Proof.Machine.execShr d a b k s
  | .sar d a b k => Sys2Proof.Machine.execSar d a b k s
  | .shli d a n => Sys2Proof.Machine.execShli d a n s
  | .shri d a n => Sys2Proof.Machine.execShri d a n s
  | .sari d a n => Sys2Proof.Machine.execSari d a n s
  | .bfx d a len pos => Sys2Proof.Machine.execBfx d a len pos s
  | .bfxs d a len pos => Sys2Proof.Machine.execBfxs d a len pos s
  | .bfi d a len pos => Sys2Proof.Machine.execBfi d a len pos s
  | .popc d a k => Sys2Proof.Machine.execPopc d a k s
  | .clz d a k => Sys2Proof.Machine.execClz d a k s
  | .brev d a k => Sys2Proof.Machine.execBrev d a k s
  | .icmp cc t a b k => Sys2Proof.Machine.execIcmp cc t a b k s
  | .icmpi cc t a imm => Sys2Proof.Machine.execIcmpi cc t a imm s
  | .sel d a b k => Sys2Proof.Machine.execSel d a b k s
  | .kand d a b => Sys2Proof.Machine.execKand d a b s
  | .kor d a b => Sys2Proof.Machine.execKor d a b s
  | .kxor d a b => Sys2Proof.Machine.execKxor d a b s
  | .kandn d a b => Sys2Proof.Machine.execKandn d a b s
  | .ktov d a k => Sys2Proof.Machine.execKtov d a k s
  | .vtok d a k => Sys2Proof.Machine.execVtok d a k s
  | .movi d imm => Sys2Proof.Machine.execMovi d imm s
  | .mov d a k => Sys2Proof.Machine.execMov d a k s
  | .bcast d a k => Sys2Proof.Machine.execBcast d a k s
  | .getlane d a lane => Sys2Proof.Machine.execGetlane d a lane s
  | .add64 d a b k => Sys2Proof.Machine.execAdd64 d a b k s
  | .lea d a b sh => Sys2Proof.Machine.execLea d a b sh s
  | .sadd d a b => Sys2Proof.Machine.execSadd d a b s
  | .ssub d a b => Sys2Proof.Machine.execSsub d a b s
  | .saddi d a imm => Sys2Proof.Machine.execSaddi d a imm s
  | .smul d a b => Sys2Proof.Machine.execSmul d a b s
  | .sand d a b => Sys2Proof.Machine.execSand d a b s
  | .sor d a b => Sys2Proof.Machine.execSor d a b s
  | .sxor d a b => Sys2Proof.Machine.execSxor d a b s
  | .sshli d a n => Sys2Proof.Machine.execSshli d a n s
  | .sshri d a n => Sys2Proof.Machine.execSshri d a n s
  | .smovi d imm => Sys2Proof.Machine.execSmovi d imm s
  | .scmp cc t a b => Sys2Proof.Machine.execScmp cc t a b s
  | .ssari d a n => Sys2Proof.Machine.execSsari d a n s
  | .fadd d a b k => Sys2Proof.Machine.execFadd d a b k s
  | .fsub d a b k => Sys2Proof.Machine.execFsub d a b k s
  | .fmul d a b k => Sys2Proof.Machine.execFmul d a b k s
  | .fma d a b k => Sys2Proof.Machine.execFma d a b k s
  | .fnma d a b k => Sys2Proof.Machine.execFnma d a b k s
  | .fmin d a b k => Sys2Proof.Machine.execFmin d a b k s
  | .fmax d a b k => Sys2Proof.Machine.execFmax d a b k s
  | .fcmp cc t a b k => Sys2Proof.Machine.execFcmp cc t a b k s
  | .fdiv d a b k => Sys2Proof.Machine.execFdiv d a b k s
  | .fsqrt d a k => Sys2Proof.Machine.execFsqrt d a k s
  | .frcp d a k => Sys2Proof.Machine.execFrcp d a k s
  | .frsq d a k => Sys2Proof.Machine.execFrsq d a k s
  | .fexp2 d a k => Sys2Proof.Machine.execFexp2 d a k s
  | .flog2 d a k => Sys2Proof.Machine.execFlog2 d a k s
  | .fsin d a k => Sys2Proof.Machine.execFsin d a k s
  | .fcos d a k => Sys2Proof.Machine.execFcos d a k s
  | .fabs d a k => Sys2Proof.Machine.execFabs d a k s
  | .fneg d a k => Sys2Proof.Machine.execFneg d a k s
  | .frint d a k => Sys2Proof.Machine.execFrint d a k s
  | .fclass d a k => Sys2Proof.Machine.execFclass d a k s
  | .hadd2 d a b k => Sys2Proof.Machine.execHadd2 d a b k s
  | .hmul2 d a b k => Sys2Proof.Machine.execHmul2 d a b k s
  | .hfma2 d a b k => Sys2Proof.Machine.execHfma2 d a b k s
  | .bfma2 d a b k => Sys2Proof.Machine.execBfma2 d a b k s
  | .dot2 d a b p => Sys2Proof.Machine.execDot2 d a b p s
  | .dot4 d a b p => Sys2Proof.Machine.execDot4 d a b p s
  | .dot8 d a b p => Sys2Proof.Machine.execDot8 d a b p s
  | .cvtf d a sat rm fs fd => Sys2Proof.Machine.execCvtf d a sat rm fs fd s
  | .cvtfi d a rm fs fd => Sys2Proof.Machine.execCvtfi d a rm fs fd s
  | .cvtif d a sat rm fs fd => Sys2Proof.Machine.execCvtif d a sat rm fs fd s
  | .pack d a rm n f => Sys2Proof.Machine.execPack d a rm n f s
  | .unpack d a n f => Sys2Proof.Machine.execUnpack d a n f s
  | .routeset d a => Sys2Proof.Machine.execRouteset d a s
  | .route d a b k => Sys2Proof.Machine.execRoute d a b k s
  | .shfl d a b k => Sys2Proof.Machine.execShfl d a b k s
  | .ballot d a k => Sys2Proof.Machine.execBallot d a k s
  | .reduce d a b op => Sys2Proof.Machine.execReduce d a b op s
  | .scan d a b op => Sys2Proof.Machine.execScan d a b op s
  | .xscan d a b op => Sys2Proof.Machine.execXscan d a b op s
  | .ld d a sb w k => Sys2Proof.Machine.execLd d a sb w k s
  | .ldb d a sb w k => Sys2Proof.Machine.execLdb d a sb w k s
  | .st d a sb w k => Sys2Proof.Machine.execSt d a sb w k s
  | .stb d a sb half k => Sys2Proof.Machine.execStb d a sb half k s
  | .ldx d a sb w k => Sys2Proof.Machine.execLdx d a sb w k s
  | .stx d a sb w k => Sys2Proof.Machine.execStx d a sb w k s
  | .lds d a sb w k => Sys2Proof.Machine.execLds d a sb w k s
  | .sts d a sb w k => Sys2Proof.Machine.execSts d a sb w k s
  | .ldt d a t w k => Sys2Proof.Machine.execLdt d a t w k s
  | .atom d a sb f op => Sys2Proof.Machine.execAtom d a sb f op s
  | .atom64 d a sb f op => Sys2Proof.Machine.execAtom64 d a sb f op s
  | .swap d a sb wide f k => Sys2Proof.Machine.execSwap d a sb wide f k s
  | .cas d a sb wide f k => Sys2Proof.Machine.execCas d a sb wide f k s
  | .xadd d a sb f k => Sys2Proof.Machine.execXadd d a sb f k s
  | .xrd d a sb f k => Sys2Proof.Machine.execXrd d a sb f k s
  | .xrdc d a sb f k => Sys2Proof.Machine.execXrdc d a sb f k s
  | .fence o sc => Sys2Proof.Machine.execFence o sc s
  | .qfence m => Sys2Proof.Machine.execQfence m s
  | .bar b => Sys2Proof.Machine.execBar b s
  | .barrive b => Sys2Proof.Machine.execBarrive b s
  | .barwait b => Sys2Proof.Machine.execBarwait b s
  | .tiledef t a => Sys2Proof.Machine.execTiledef t a s
  | .tileset t st => Sys2Proof.Machine.execTileset t st s
  | .tileq d t => Sys2Proof.Machine.execTileq d t s
  | .cclean a sb f k => Sys2Proof.Machine.execCclean a sb f k s
  | .cflush a sb f k => Sys2Proof.Machine.execCflush a sb f k s
  | .prefetch a sb f k => Sys2Proof.Machine.execPrefetch a sb f k s
  | .prefetchl2 a sb f k => Sys2Proof.Machine.execPrefetchl2 a sb f k s
  | .mmodeOn p => Sys2Proof.Machine.execMmodeOn p s
  | .wld sb t f => Sys2Proof.Machine.execWld sb t f s
  | .mma n tr z g sb t f => Sys2Proof.Machine.execMma n tr z g sb t f s
  | .gang a => Sys2Proof.Machine.execGang a s
  | .accz n => Sys2Proof.Machine.execAccz n s
  | .accst n t c => Sys2Proof.Machine.execAccst n t c s
  | .accld n t c => Sys2Proof.Machine.execAccld n t c s
  | .accfl d n => Sys2Proof.Machine.execAccfl d n s
  | .spawn a => Sys2Proof.Machine.execSpawn a s
  | .take d => Sys2Proof.Machine.execTake d s
  | .join a sc => Sys2Proof.Machine.execJoin a sc s
  | .joinq d a sc => Sys2Proof.Machine.execJoinq d a sc s
  | .depset a b => Sys2Proof.Machine.execDepset a b s
  | .depdec a => Sys2Proof.Machine.execDepdec a s
  | .racq d a => Sys2Proof.Machine.execRacq d a s
  | .rcommit a b => Sys2Proof.Machine.execRcommit a b s
  | .rpeek d a => Sys2Proof.Machine.execRpeek d a s
  | .rrel a b => Sys2Proof.Machine.execRrel a b s
  | .copy q c a b z => Sys2Proof.Machine.execCopy q c a b z s
  | .cbset a => Sys2Proof.Machine.execCbset a s
  | .copycb q c a b => Sys2Proof.Machine.execCopycb q c a b s
  | .br o off => Sys2Proof.Machine.execBr o off s
  | .j off => Sys2Proof.Machine.execJ off s
  | .jr a k => Sys2Proof.Machine.execJr a k s
  | .call off => Sys2Proof.Machine.execCall off s
  | .callr a k => Sys2Proof.Machine.execCallr a k s
  | .brs a c off => Sys2Proof.Machine.execBrs a c off s
  | .bin d a sb w k => Sys2Proof.Machine.execBin d a sb w k s
  | .cover d a b k => Sys2Proof.Machine.execCover d a b k s
  | .ztest cc t a b k => Sys2Proof.Machine.execZtest cc t a b k s
  | .texq d a sb m k => Sys2Proof.Machine.execTexq d a sb m k s
  | .texw d a b k => Sys2Proof.Machine.execTexw d a b k s
  | .rate d => Sys2Proof.Machine.execRate d s
  | .chainq d a => Sys2Proof.Machine.execChainq d a s
  | .progress x => Sys2Proof.Machine.execProgress x s
  | .rng d k => Sys2Proof.Machine.execRng d k s
  | .rngkey a => Sys2Proof.Machine.execRngkey a s
  | .trap x => Sys2Proof.Machine.execTrap x s
  | .rdsv d id => Sys2Proof.Machine.execRdsv d id s
  | .wrsv a id => Sys2Proof.Machine.execWrsv a id s
  | .rdtime d => Sys2Proof.Machine.execRdtime d s
  | .waitt a => Sys2Proof.Machine.execWaitt a s
  | .frflags a => Sys2Proof.Machine.execFrflags a s
  | .fwflags a => Sys2Proof.Machine.execFwflags a s
  | .fcflags a => Sys2Proof.Machine.execFcflags a s
  | .frcflags a => Sys2Proof.Machine.execFrcflags a s
  | .rdstate d item => Sys2Proof.Machine.execRdstate d item s
  | .wrstate a item => Sys2Proof.Machine.execWrstate a item s
  | .brk x => Sys2Proof.Machine.execBrk x s
  | .hintWide p => Sys2Proof.Machine.execHintWide p s
  | .hintSrc3 r => Sys2Proof.Machine.execHintSrc3 r s
  | .hintOff p => Sys2Proof.Machine.execHintOff p s
  | .hintOrder o sc => Sys2Proof.Machine.execHintOrder o sc s
  | .hintCache p => Sys2Proof.Machine.execHintCache p s
  | .hintLastread p => Sys2Proof.Machine.execHintLastread p s
  | .hintRound r => Sys2Proof.Machine.execHintRound r s
  | .hintSched p => Sys2Proof.Machine.execHintSched p s
  | .schedStallExpiry crew => Sys2Proof.Machine.execSchedStallExpiry crew s
  | .doorbell page slot => Sys2Proof.Machine.execDoorbell page slot s
  | .launchReady launch => Sys2Proof.Machine.execLaunchReady launch s
  | .launchBlocking launch => Sys2Proof.Machine.execLaunchBlocking launch s
  | .crewStartComplete crew => Sys2Proof.Machine.execCrewStartComplete crew s
  | .waitResolved crew => Sys2Proof.Machine.execWaitResolved crew s
  | .loadReturn crew => Sys2Proof.Machine.execLoadReturn crew s
  | .storeEventPerform crew => Sys2Proof.Machine.execStoreEventPerform crew s
  | .l1DirtyExpiry core => Sys2Proof.Machine.execL1DirtyExpiry core s
  | .wcLineExpiry core => Sys2Proof.Machine.execWcLineExpiry core s
  | .blockRetire block => Sys2Proof.Machine.execBlockRetire block s
  | .preemptionEntry crew => Sys2Proof.Machine.execPreemptionEntry crew s
  | .preemptionRetry crew => Sys2Proof.Machine.execPreemptionRetry crew s
  | .crewResume crew => Sys2Proof.Machine.execCrewResume crew s
  | .gangTimeout leader => Sys2Proof.Machine.execGangTimeout leader s
  | .mmaStreamEnd core part => Sys2Proof.Machine.execMmaStreamEnd core part s
  | .wldComplete core part => Sys2Proof.Machine.execWldComplete core part s
  | .accstComplete core part => Sys2Proof.Machine.execAccstComplete core part s
  | .copyComplete core queue => Sys2Proof.Machine.execCopyComplete core queue s
  | .lampHoldExpiry cluster => Sys2Proof.Machine.execLampHoldExpiry cluster s
  | .lampBurstExpiry cluster => Sys2Proof.Machine.execLampBurstExpiry cluster s
  | .lampBurstIdle cluster => Sys2Proof.Machine.execLampBurstIdle cluster s
  | .lampDrainDone cluster => Sys2Proof.Machine.execLampDrainDone cluster s
  | .invalidationComplete n => Sys2Proof.Machine.execInvalidationComplete n s
  | .chainRelease handle => Sys2Proof.Machine.execChainRelease handle s
  | .reservationGrant handle => Sys2Proof.Machine.execReservationGrant handle s
  | .chainReserveDeadline handle => Sys2Proof.Machine.execChainReserveDeadline handle s
  | .progressReport handle => Sys2Proof.Machine.execProgressReport handle s
  | .chainLate handle => Sys2Proof.Machine.execChainLate handle s
  | .stripDue head => Sys2Proof.Machine.execStripDue head s
  | .displayReadingEnd head => Sys2Proof.Machine.execDisplayReadingEnd head s
  | .encoderRow engine => Sys2Proof.Machine.execEncoderRow engine s
  | .isubmit ctx => Sys2Proof.Machine.execIsubmit ctx s
  | .fabidWrite v => Sys2Proof.Machine.execFabidWrite v s
  | .pwrcapWrite v => Sys2Proof.Machine.execPwrcapWrite v s
  | .registerWrite off size v => Sys2Proof.Machine.execRegisterWrite off size v s
  | .sample core => Sys2Proof.Machine.execSample core s
  | .ptpMessage msg => Sys2Proof.Machine.execPtpMessage msg s
  | .fabricFrame peer msg => Sys2Proof.Machine.execFabricFrame peer msg s
  | .fabricRetransmit peer => Sys2Proof.Machine.execFabricRetransmit peer s
  | .peerUnreachable peer => Sys2Proof.Machine.execPeerUnreachable peer s
  | .correctedError store pa => Sys2Proof.Machine.execCorrectedError store pa s
  | .uncorrectableError store pa => Sys2Proof.Machine.execUncorrectableError store pa s
  | .powerThrottle watts => Sys2Proof.Machine.execPowerThrottle watts s
  | .thermalThrottle celsius => Sys2Proof.Machine.execThermalThrottle celsius s
  | .thermalReset celsius => Sys2Proof.Machine.execThermalReset celsius s
  | .i3cRead item => Sys2Proof.Machine.execI3cRead item s
  | .jtagAccess internal => Sys2Proof.Machine.execJtagAccess internal s
  | .illegalInstruction w => Sys2Proof.Machine.execIllegalInstruction w s
  | .reservedBit w => Sys2Proof.Machine.execReservedBit w s
  | .illegalHint w => Sys2Proof.Machine.execIllegalHint w s
  | .displayportLinkTraining port rate lanes => Sys2Proof.Machine.execDisplayportLinkTraining port rate lanes s
  | .pcieLinkTraining rate width => Sys2Proof.Machine.execPcieLinkTraining rate width s
  | .dcfence => Sys2Proof.Machine.execDcfence s
  | .predwait => Sys2Proof.Machine.execPredwait s
  | .startnext => Sys2Proof.Machine.execStartnext s
  | .mmodeOff => Sys2Proof.Machine.execMmodeOff s
  | .wswap => Sys2Proof.Machine.execWswap s
  | .done => Sys2Proof.Machine.execDone s
  | .ret => Sys2Proof.Machine.execRet s
  | .exit => Sys2Proof.Machine.execExit s
  | .nop => Sys2Proof.Machine.execNop s
  | .yield => Sys2Proof.Machine.execYield s
  | .rett => Sys2Proof.Machine.execRett s
  | .blockPlacement => Sys2Proof.Machine.execBlockPlacement s
  | .lampRoundAdvance => Sys2Proof.Machine.execLampRoundAdvance s
  | .invalidation => Sys2Proof.Machine.execInvalidation s
  | .ctxcreate => Sys2Proof.Machine.execCtxcreate s
  | .ctxdestroy => Sys2Proof.Machine.execCtxdestroy s
  | .regionLoad => Sys2Proof.Machine.execRegionLoad s
  | .regionRemove => Sys2Proof.Machine.execRegionRemove s
  | .chainload => Sys2Proof.Machine.execChainload s
  | .chainunload => Sys2Proof.Machine.execChainunload s
  | .head => Sys2Proof.Machine.execHead s
  | .headHfillOnly => Sys2Proof.Machine.execHeadHfillOnly s
  | .keyload => Sys2Proof.Machine.execKeyload s
  | .dbggrant => Sys2Proof.Machine.execDbggrant s
  | .dbgrevoke => Sys2Proof.Machine.execDbgrevoke s
  | .lamps => Sys2Proof.Machine.execLamps s
  | .preemptLaunch => Sys2Proof.Machine.execPreemptLaunch s
  | .preemptBlock => Sys2Proof.Machine.execPreemptBlock s
  | .preemptCrew => Sys2Proof.Machine.execPreemptCrew s
  | .faultansRetry => Sys2Proof.Machine.execFaultansRetry s
  | .faultansDeliver => Sys2Proof.Machine.execFaultansDeliver s
  | .stagein => Sys2Proof.Machine.execStagein s
  | .stageinTable => Sys2Proof.Machine.execStageinTable s
  | .stageout => Sys2Proof.Machine.execStageout s
  | .stageoutTable => Sys2Proof.Machine.execStageoutTable s
  | .keyframe => Sys2Proof.Machine.execKeyframe s
  | .attest => Sys2Proof.Machine.execAttest s
  | .eclrCounters => Sys2Proof.Machine.execEclrCounters s
  | .eclrUelast => Sys2Proof.Machine.execEclrUelast s
  | .bootGo => Sys2Proof.Machine.execBootGo s
  | .bootVerifyComplete => Sys2Proof.Machine.execBootVerifyComplete s
  | .heldRecordPost => Sys2Proof.Machine.execHeldRecordPost s
  | .watchdogRestart => Sys2Proof.Machine.execWatchdogRestart s
  | .pitheadRestartDone => Sys2Proof.Machine.execPitheadRestartDone s
  | .deviceReset => Sys2Proof.Machine.execDeviceReset s
  | .powerLoss => Sys2Proof.Machine.execPowerLoss s
  | .fetchFault => Sys2Proof.Machine.execFetchFault s

end Sys2Proof.Machine
end

