-- ==== Sys2Proof/Machine/Step.lean ====
section
/-!
DEFINITION. One step of the machine, and the state that is about to run a given instruction word.
-/

namespace Sys2Proof.Machine

/-- One step: the next move of the machine's agents (log entry 2), run by `exec` where it is an instruction or an event. -/
def step (s : State) : Host.Outcome State Fault Refusal :=
  match s.nextMove with
  | .run i t => exec i t
  | .done t => .next t

/-- The packet of the launch that `withFetchWord` places: one block of one crew, W = 128, 64 KiB of scratchpad, 32 tiles,
16 barriers, entry 0x20000, context 0, region slot 0. -/
def fetchPacket : Packet :=
  { Packet.blank with
    entry := 0x20000, gridX := 1, gridY := 1, gridZ := 1, crews := 1, regs8 := 16, spreadP := 1, spreadF := 1, bankKib := 64
    tiles := 32, lflags := 0x20, handle := 1 }

/-- The root region of that launch's context, which sets every field: class 0, PRIVOK, no trap handler mapped in. -/
def fetchRegion : Region :=
  { va := 0x30000, parent := 0, override := 0x1FFF, cls := 0, fdom := 0, rflags := 3, deqcap := 0, crews := 96, bankKib := 4096
    parts := 3072, rsent := 0, tlsLane := 0, saveArea := 0x40000, trapTab := 0x50000, spillBase := 0x60000, spillFrames := 128
    tlsPool := 0, tlsPoolSize := 0, crewsUsed := 1, bankUsed := 80, partsUsed := 0, chunks := [], saves := [] }

/-- Context 0, with the table at physical 0x10000. -/
def fetchContext : Context := { tableBase := 0x10000, area := 0x10000, areaSize := 0x4000, slots := [(0, fetchRegion)] }

/-- Write an n-byte number at a physical address, as the slice of local memory. -/
def State.poke (s : State) (pa n v : Nat) : State :=
  (List.range n).foldl (fun u i => u.slicePut u.walkTag none (pa + i) (BitVec.ofNat 8 (v / 256 ^ i))) s

/-- The page table of context 0: one leaf of 1 GiB that maps the first GiB onto itself, to read, write and fetch. -/
def State.pokeTable (s : State) : State :=
  ((s.poke 0x10000 8 0x11001).poke 0x11000 8 0x12001).poke 0x12000 8 (0xF + 2 ^ 56 * s.links.fabid.toNat)

/-- s with one crew ready to issue the word at 0x20000 as the only crew of partition 0 of core 0 (log entry 2). -/
def State.withCrew (s : State) : State :=
  let b := s.nextId
  let l := b + 1
  let c := 128 * b
  let t := { s with
    nextId := b + 2
    crews := s.crews.filter fun e => e.2.pkey != 0
    ctxs := s.ctxs.put 0 fetchContext
    launches := s.launches.put l
      { packet := fetchPacket, ctx := 0, subseq := 1, pred := none, ready := true, next := 1, passed := none, blocking := false
        retiredBlocks := 0, ending := false, left := [] }
    blocks := s.blocks.put b
      { launch := l, bl := 0, spread := 1, cluster := 0, parts := [(0, Part.blank)], gens := [], epoch := 0, stalls := []
        tplace := s.time, charged := 80 } }
  let r := { crewStart l b 0 0 0 0 0 fetchPacket 0x20000 true with phase := .ready }
  let u := (t.seat c r (t.auxStart 0 0 0 0 0)).onPn 0 fun p => { p with issuer := none, issueEnd := 0 }
  { u with issue := none, inputs := [.clock 0 0] }

/-- The instruction-cache line of 0x20000 with an instruction's bits at its start. -/
def fetchLine (nbits w : Nat) : ILine :=
  { ctx := 0, vline := 0x20000 / 128, bytes := leBytes 12 (w % 2 ^ nbits) ++ List.replicate 116 0 }

/-- s about to fetch and run the instruction of `nbits` bits with the bits of w: a word at 0x20000, zeros after it, and its line in
the instruction cache, so that the crew does not wait for the fetch. -/
def State.withFetchWord (s : State) (nbits w : Nat) : State :=
  let t := { s with
    mem := { s.mem with xlats := [], poison := [] }
    cores := s.cores.put 0 { s.coreOf 0 with icache := [fetchLine nbits w] } }
  ((t.pokeTable).poke 0x20000 12 (w % 2 ^ nbits)).withCrew

end Sys2Proof.Machine
end

