-- ==== Sys2Proof/Safety.lean ====
section
/-!
DEFINITION. The terms that statements use: the memories' canonical form, steps, a group that issues and the state it
leaves, and what an instruction changes among the words of vector registers, bank windows and accumulators.
-/

namespace Sys2Proof.Machine

/-- The memories of a machine in canonical form: the physical store with its keys and metadata, the L2, host memory and the
packet window. -/
abbrev Memory.wf (m : Memory) : Bool :=
  Sparse.wf 0 m.phys && Sparse.wf 0 m.keys && Sparse.wf LineForm.plain m.forms && Sparse.wf none m.l2 && Sparse.wf 0 m.host
    && Sparse.wf 0 m.bar2

/-- A state that one step leads to. -/
def State.stepsTo (s t : State) : Prop := step s = .next t

/-- A step from the state ends in a next state. -/
def State.goesOn (s : State) : Prop := ∃ t, s.stepsTo t

/-! ## Groups -/

/-- The issue group g of crew r has reached instruction i, which passes every check at issue (02 R53), waits on no access that
the loss of a peer ended (12 R333), and is held back by no wait that instructions share (05 R109; 08 R204, R205). -/
structure Issues (s : State) (g : Issue) (r : Crew) (i : Instr) : Prop where
  issue : s.issue = some g
  crew : s.crews.find g.crew = some r
  passes : issueFault s g.crew r g.hints i = none
  kept : lostAccess s g.crew r g.hints i = none
  free : sharedWait s g.crew r g.hints i = none

/-- Instruction i issues: nothing holds it back, its own wait neither. -/
structure Runs (s : State) (g : Issue) (r : Crew) (i : Instr) : Prop where
  issues : Issues s g r i
  own : ownWait i s g r = none

/-- Whether a word of the opcode map encodes an instruction that is no hint. -/
def isGroup (i : Instr) : Bool := (encode i).isSome && (hintOf i).isNone

/-- What follows the end of a group: after RETT the crew's copies that await replay re-enter (10 R280). -/
def State.after (t : State) (i : Instr) (c : Nat) : State := if i = .rett then t.replayCopies c else t

/-- Whether a crew is between TrapEntry and RETT. -/
def State.nested (s : State) (c : Nat) : Bool := (s.auxOf c).trap.nesting

/-- The state after a group whose effect took s to u: the head run's lanes stand after the group. -/
def State.finish (s u : State) (g : Issue) (r : Crew) : State := g.close r (s.nested g.crew) false (.next u)

/-- The state after a group whose effect took s to u and set the lanes' PCs itself. -/
def State.finishMoved (s u : State) (g : Issue) (r : Crew) : State := g.close r (s.nested g.crew) false (.moved u)

/-- The state after a group that raised a fault at issue, from state u. -/
def State.finishFault (s u : State) (g : Issue) (r : Crew) (f : LaneTrap) : State :=
  g.close r (s.nested g.crew) false (Res.lanes u f)

/-- The marked lanes and the fault of Raise(code): the head run's, no level, address or detail (02 R53). -/
def raised (r : Crew) (code : BitVec 8) : LaneTrap :=
  { lanes := r.head, fault := { code := code, level := 0, addr := 0, detail := 0 } }

/-- The retired-count stop of a group that began in crew r, where u is the crew at its end (14 R378). -/
def State.stops (s : State) (g : Issue) (u : Crew) : Bool :=
  !s.nested g.crew && u.retStopEn && u.retired + 1 == u.retStop

/-! ## The words of vector registers, bank windows and accumulators -/

/-- Where a word lies: in a part's bank window, or among a partition's accumulators. -/
inductive Place where
  | bank (b j i : Nat)
  | acc (k i : Nat)
  deriving DecidableEq, Repr

/-- The word at a place. -/
def State.word (s : State) : Place → Word
  | .bank b j i => s.bankGet b j i
  | .acc k i => Sparse.get 0 (s.pn k).acc i

/-- Where word l of vector register n of a crew lies (01 R29; 08 R202). -/
def State.vplace (s : State) (r : Crew) (n l : Nat) : Place :=
  if r.matrix && decide (64 ≤ n) then .acc r.pkey (accIndex r.pair n l)
  else .bank r.block r.part (s.regBase r + 32 * n + l)

/-- Part j of block b. -/
def State.part? (s : State) (b j : Nat) : Option Part := (s.blocks.find b).bind fun k => k.parts.find j

/-- A part without its bank's words. -/
def Part.bare (p : Part) : Part := { p with bank := [] }

/-- A block without its parts. -/
def Block.bare (k : Block) : Block := { k with parts := [] }

/-- A partition without its accumulators' words. -/
def Partition.bare (p : Partition) : Partition := { p with acc := [] }

/-- u differs from s at most in words of bank windows and accumulators. -/
structure SameButWords (s u : State) : Prop where
  rest : { u with blocks := s.blocks, partitions := s.partitions } = s
  blocks : ∀ b, (u.blocks.find b).map Block.bare = (s.blocks.find b).map Block.bare
  parts : ∀ b j, (u.part? b j).map Part.bare = (s.part? b j).map Part.bare
  partitions : ∀ k, (u.pn k).bare = (s.pn k).bare

/-- From s to u, word l of vector register n of crew r takes the value `f n l` wherever `w n l` holds; no other word of
a vector register, a bank window or an accumulator changes, nor does anything else. -/
structure WritesV (s u : State) (r : Crew) (w : Nat → Nat → Prop) (f : Nat → Nat → Word) : Prop where
  same : SameButWords s u
  new : ∀ n l, n < 128 → l < 32 → w n l → u.getV r n l = f n l
  old : ∀ p, (∀ n l, n < 128 → l < 32 → w n l → s.vplace r n l ≠ p) → u.word p = s.word p
  kept : ∀ n l, n < 128 → l < 32 → ¬ w n l → u.getV r n l = s.getV r n l

/-- p' holds f m n at row m and column n of physical accumulator tile t; its other tiles' elements are p's (08 R200). -/
structure SetsTile (p p' : Partition) (t : Nat) (f : Nat → Nat → Word) : Prop where
  new : ∀ m n, m < 32 → n < 32 → p'.elem t m n = f m n
  other : ∀ t' m n, t' ≠ t → m < 32 → n < 32 → p'.elem t' m n = p.elem t' m n

/-! ## Bytes of memory -/

/-- The n bytes that a plain load of crew c finds on a cacheable local page: of each its newest pending store that forwards, else its
core's L1's where that is dirty or holds all n, else the slice's, so that what no store of the core gives is of one instant (11 R286,
R291; 12 R309). -/
def State.sees (s : State) (c : Nat) (r : Crew) (t : MemTag) (pa n : Nat) : List Byte :=
  let whole := ∀ i, i < n → (Sparse.get none (s.coreOf r.core).l1 (t.ckey (pa + i))).isSome = true
  (List.range n).map fun i => (forwarded (s.auxOf c).storeQ t (pa + i)).getD
    (match Sparse.get none (s.coreOf r.core).l1 (t.ckey (pa + i)) with
      | some b => if whole ∨ b.dirty = true then b.val else s.sliceGet t (pa + i)
      | none => s.sliceGet t (pa + i))

/-- The cache keys of the sectors that n bytes at a place lie in. -/
def sectorsAt (p : MemTag × Nat) (n : Nat) : List Nat := (List.range n).map fun i => p.1.ckey ((p.2 + i) / 32)

/-- An access of n bytes at a place does not fill into a core's L1 a sector that one of another place needs: it hits, or their sectors
differ. -/
def State.leaves (s : State) (core n : Nat) (p q : MemTag × Nat) : Prop :=
  (∀ i, i < n → (Sparse.get none (s.coreOf core).l1 (p.1.ckey (p.2 + i))).isSome = true) ∨ ∀ k ∈ sectorsAt p n, k ∉ sectorsAt q n

/-- A load of crew c need perform no store of its own first: none that waits in its queue for its bytes fails to forward, and its
core's write-combining buffer does not hold its line (11 R290; 12 R312). -/
def State.undelayed (s : State) (c : Nat) (r : Crew) (p : MemTag × Nat) (n : Nat) : Prop :=
  mustFollow (s.auxOf c).storeQ false p.1 p.2 n = false ∧
  ∀ w ∈ (s.coreOf r.core).wc, w.line = p.2 / 128 → w.tag.same p.1 = false

/-- The lines, by cache key, that n bytes at each of some places lie in. -/
def linesAt (ps : List (MemTag × Nat)) (n : Nat) : List Nat :=
  (ps.flatMap fun p => (List.range n).map fun j => p.1.ckey ((p.2 + j) / 128)).eraseDups

/-- Neither a core's L1 nor the L2 has to give a line up for some lines (12 Table 12.1). -/
def State.roomFor (s : State) (core : Nat) (ls : List Nat) : Prop :=
  ∀ k ∈ ls, ((s.coreOf core).l1Set k).length + ls.length ≤ 12 ∧ (s.l2Set k).length + ls.length ≤ 16

/-- Whether two addresses under two tags name one byte of a slice: strip SRAM has one copy of a byte, LPDDR6 one for each
view and key (12 R308). -/
def sameByte (t : MemTag) (pa : Nat) (t' : MemTag) (pa' : Nat) : Prop :=
  pa = pa' ∧ (rangeOf pa = .strip ∨ t.ckey pa = t'.ckey pa)

/-! ## The pithead's commands -/

/-- Command i stands at the head of the command queue and reaches its operation: it is not committed already, no bad capability, zero
reserved bytes, a context number below 64 except for LAMPS, which ignores it, and the context there where the operation needs one (16
R405, R410, R411, R414). -/
structure Takes (s : State) (i : Instr) (owned : Bool) : Prop where
  next : s.nextCommand = some i
  fresh : ∀ g, s.pithead.staged = some g → g.sent = false
  sound : s.pithead.badCap = none
  zero : s.cmd.zero 2 2 = true ∧ s.cmd.zero 9 7 = true
  low : i = .lamps ∨ s.cmd.ctx < 64
  there : owned = true → (s.ctxs.find s.cmd.ctx).isSome = true

/-! ## The scalar, mask and route registers of a crew -/

/-- r' is r with scalar register d set to v; nothing changes for s0 (01 R21). -/
structure SetsS (r r' : Crew) (d : SReg) (v : DWord) : Prop where
  rest : { r' with sregs := r.sregs } = r
  new : d ≠ 0 → r'.sreg d = v
  other : ∀ n, n ≠ d → r'.sreg n = r.sreg n
  zero : d = 0 → r' = r

/-- r' is r with bit l of mask register t set to `f l` for every lane l; nothing changes for k0 (01 R21). -/
structure SetsK (r r' : Crew) (t : KReg) (f : Nat → Bool) : Prop where
  rest : { r' with kregs := r.kregs } = r
  new : t ≠ 0 → ∀ l, l < 32 → (r'.kreg t).getLsbD l = f l
  other : ∀ n, n ≠ t → r'.kreg n = r.kreg n
  zero : t = 0 → r' = r

/-- r' is r with route register q set to v. -/
structure SetsQ (r r' : Crew) (q : QReg) (v : BitVec 144) : Prop where
  rest : { r' with qregs := r.qregs } = r
  new : r'.qreg q = v
  other : ∀ n, n ≠ q → r'.qreg n = r.qreg n

/-- r' is r with the lanes of the head run at the PCs that f gives; the other lanes stay (01 R11-R13). -/
structure MovesHead (r r' : Crew) (f : Nat → PC) : Prop where
  rest : { r' with pcs := r.pcs } = r
  new : ∀ l, l < 32 → r.head.getLsbD l = true → r'.pc l = f l
  other : ∀ l, l < 32 → r.head.getLsbD l = false → r'.pc l = r.pc l

/-- From s to u, nothing changes but memory and the caches, the store path's own records of crew c (its store queue, the
lines it has touched, the registers still returning), the control pages and requests to peers that its accesses reach,
and the counters that number events and free values. -/
structure OnlyMemory (s u : State) (c : Nat) : Prop where
  rest : { u with mem := s.mem, cores := s.cores, aux := s.aux, links := s.links, hostIf := s.hostIf, nextId := s.nextId,
                  fresh := s.fresh } = s
  links : { u.links with peers := s.links.peers, outgoing := s.links.outgoing } = s.links
  hostIf : { u.hostIf with ctl := s.hostIf.ctl, isubs := s.hostIf.isubs } = s.hostIf
  others : ∀ x, x ≠ c → u.auxOf x = s.auxOf x
  own : { u.auxOf c with storeQ := (s.auxOf c).storeQ, touched := (s.auxOf c).touched, returning := (s.auxOf c).returning }
    = s.auxOf c
  cores : ∀ k, { u.coreOf k with
    l1 := (s.coreOf k).l1, l1At := (s.coreOf k).l1At, l1Poison := (s.coreOf k).l1Poison, wc := (s.coreOf k).wc } = s.coreOf k

/-- Crew c has no store pending, and its core no byte in the L1 or the write-combining buffer: its accesses meet the slices alone. -/
structure Quiet (s : State) (c : Nat) (r : Crew) : Prop where
  stores : (s.auxOf c).storeQ = []
  l1 : (s.coreOf r.core).l1 = []
  wc : (s.coreOf r.core).wc = []

/-- The part that holds a crew's vector registers is there. -/
def State.seated (s : State) (r : Crew) : Prop := (s.part? r.block r.part).isSome

end Sys2Proof.Machine
end

