-- ==== Sys2Proof/Safety/Tables.lean ====
section
/-!
DEFINITION. What the spec's tables give the instructions of one shape, in exact arithmetic on integers: the values that
statements name beside the machine's own definitions.
-/

namespace Sys2Proof.Machine.Spec

/-! ## Operands -/

/-- An immediate or offset of n bits as an integer: sign-extended, below WIDE's payload where the group has one (02 R58). -/
def immInt {n : Nat} (hs : List Hint) (i : BitVec n) : Int :=
  match wideOf hs with
  | none => i.toInt
  | some p => p.toInt * (2 ^ n : Nat) + (i.toNat : Int)

/-- The addend register of a multiply-add: D, or SRC3's (02 R58). -/
def addend (hs : List Hint) (d : VReg) : VReg := (src3Of hs).getD d

/-- The quotient of 05 R111's SDiv: truncated, and -1 for a zero divisor. -/
def quot (x y : Int) : Int := if y = 0 then -1 else Int.tdiv x y

/-- The remainder of SRem: it has the dividend's sign, and is the dividend for a zero divisor. -/
def remn (x y : Int) : Int := if y = 0 then x else Int.tmod x y

/-- The width of the field [h:p], h = p + len cut at 31 (05 R116). -/
def bits (len pos : BitVec 5) : Nat := min 31 (pos.toNat + len.toNat) + 1 - pos.toNat

/-- A field of w bits at p of a number. -/
def field (x p w : Nat) : Nat := x / 2 ^ p % 2 ^ w

/-- A number of w bits read as two's complement. -/
def signed (w x : Nat) : Int := if 2 * x < 2 ^ w then (x : Int) else (x : Int) - (2 ^ w : Nat)

/-- The word of an integer, and of a natural number. -/
def int (x : Int) : Word := BitVec.ofInt 32 x
/-- The word of a natural number. -/
def nat (x : Nat) : Word := BitVec.ofNat 32 x

/-! ## Integer and logic lanes (05 R107-R117) -/

/-- What an integer or logic instruction writes: its destination, the lanes it writes, and each lane's value. -/
def integer (s : State) (r : Crew) (hs : List Hint) : Instr → Option (VReg × LaneMask × (Nat → Word)) :=
  let v := fun (a : VReg) (l : Nat) => s.getV r a.toNat l
  let si := fun (a : VReg) (l : Nat) => (v a l).toInt
  let ui := fun (a : VReg) (l : Nat) => (v a l).toNat
  fun
  | .add d a b k => some (d, r.active k, fun l => int (si a l + si b l))
  | .sub d a b k => some (d, r.active k, fun l => int (si a l - si b l))
  | .addi d a i => some (d, r.head, fun l => int (si a l + immInt hs i))
  | .mul d a b k => some (d, r.active k, fun l => int (si a l * si b l))
  | .mulhi d a b k => some (d, r.active k, fun l => int (si a l * si b l / (2 ^ 32 : Nat)))
  | .mulhiu d a b k => some (d, r.active k, fun l => nat (ui a l * ui b l / 2 ^ 32))
  | .mad d a b k => some (d, r.active k, fun l => int (si a l * si b l + si (addend hs d) l))
  | .div_ d a b k => some (d, r.active k, fun l => int (quot (si a l) (si b l)))
  | .divu d a b k => some (d, r.active k, fun l => if ui b l = 0 then 0xFFFFFFFF else nat (ui a l / ui b l))
  | .rem d a b k => some (d, r.active k, fun l => int (remn (si a l) (si b l)))
  | .remu d a b k => some (d, r.active k, fun l => if ui b l = 0 then v a l else nat (ui a l % ui b l))
  | .min_ d a b k => some (d, r.active k, fun l => int (min (si a l) (si b l)))
  | .max_ d a b k => some (d, r.active k, fun l => int (max (si a l) (si b l)))
  | .minu d a b k => some (d, r.active k, fun l => nat (min (ui a l) (ui b l)))
  | .maxu d a b k => some (d, r.active k, fun l => nat (max (ui a l) (ui b l)))
  | .and_ d a b k => some (d, r.active k, fun l => v a l &&& v b l)
  | .or_ d a b k => some (d, r.active k, fun l => v a l ||| v b l)
  | .xor_ d a b k => some (d, r.active k, fun l => v a l ^^^ v b l)
  | .andn d a b k => some (d, r.active k, fun l => v a l &&& ~~~ v b l)
  | .andi d a i => some (d, r.head, fun l => v a l &&& int (immInt hs i))
  | .ori d a i => some (d, r.head, fun l => v a l ||| int (immInt hs i))
  | .xori d a i => some (d, r.head, fun l => v a l ^^^ int (immInt hs i))
  | .shl d a b k => some (d, r.active k, fun l => nat (ui a l * 2 ^ (ui b l % 32)))
  | .shr d a b k => some (d, r.active k, fun l => nat (ui a l / 2 ^ (ui b l % 32)))
  | .sar d a b k => some (d, r.active k, fun l => int (si a l / (2 ^ (ui b l % 32) : Nat)))
  | .shli d a n => some (d, r.head, fun l => nat (ui a l * 2 ^ n.toNat))
  | .shri d a n => some (d, r.head, fun l => nat (ui a l / 2 ^ n.toNat))
  | .sari d a n => some (d, r.head, fun l => int (si a l / (2 ^ n.toNat : Nat)))
  | .bfx d a len pos => some (d, r.head, fun l => nat (field (ui a l) pos.toNat (bits len pos)))
  | .bfxs d a len pos => some (d, r.head, fun l => int (signed (bits len pos) (field (ui a l) pos.toNat (bits len pos))))
  | .bfi d a len pos =>
    some (d, r.head, fun l =>
      nat (ui d l - field (ui d l) pos.toNat (bits len pos) * 2 ^ pos.toNat + field (ui a l) 0 (bits len pos) * 2 ^ pos.toNat))
  | .popc d a k => some (d, r.active k, fun l => nat ((List.range 32).map fun i => field (ui a l) i 1).sum)
  | .clz d a k => some (d, r.active k, fun l => nat (32 - (ui a l).size))
  | .brev d a k =>
    some (d, r.active k, fun l => nat ((List.range 32).map fun i => field (ui a l) i 1 * 2 ^ (31 - i)).sum)
  | _ => none

/-! ## Moves between lanes and registers, and values that raise no flag (05 R119-R123; 06 R141, R143, R145, R154, R158,
R159; 10 R258, R263, R273) -/

/-- What a selection, a move, or another lane value that raises no flag writes. -/
def moves (s : State) (c : Nat) (r : Crew) (hs : List Hint) : Instr → Option (VReg × LaneMask × (Nat → Word)) :=
  let v := fun (a : VReg) (l : Nat) => s.getV r a.toNat l
  fun
  | .sel d a b k => some (d, r.head, fun l => if (r.kreg k).getLsbD l then v a l else v b l)
  | .ktov d a k => some (d, r.active k, fun l => if (r.kreg a).getLsbD l then 0xFFFFFFFF else 0)
  | .movi d i => some (d, r.head, fun _ => int (immInt hs i))
  | .mov d a k => some (d, r.active k, fun l => v a l)
  | .bcast d a k => some (d, r.active k, fun _ => (r.sreg a).setWidth 32)
  | .shfl d a b k => some (d, r.active k, fun l => v a ((v b l).toNat % 32))
  | .route d a q k => some (d, r.active k, fun l => (benes (r.qreg q) (allLanes.map fun l => v a l)).getD l 0)
  | .fmin d a b k => some (d, r.active k, fun l => minMax32 true (v a l) (v b l))
  | .fmax d a b k => some (d, r.active k, fun l => minMax32 false (v a l) (v b l))
  | .fabs d a k => some (d, r.active k, fun l => if isNan32 (v a l) then 0x7FC00000 else nat (field (v a l).toNat 0 31))
  | .fneg d a k => some (d, r.active k, fun l => if isNan32 (v a l) then 0x7FC00000 else v a l + 0x80000000)
  | .fclass d a k => some (d, r.active k, fun l => fclass32 (v a l))
  | .unpack d a n f => some (d, r.head, fun l => unpackElem f (field (v a l).toNat (f.width * n.toNat) f.width))
  | .cover d a b k => some (d, r.active k, fun l => coverWord (v d l) (v a l) (v b l))
  | .texw d a b k => some (d, r.active k, fun l => texWeights (v a l) (v b l))
  | .rdsv (.vec d) id => some (d, r.head, fun l => nat (s.sysValue c r id.toNat l).toNat)
  | _ => none

/-! ## Floating point, packed and converted lanes (06 R139-R153, R161, R162) -/

/-- The values of the lanes that take part in REDUCE, SCAN or XSCAN and satisfy a test, lanes ascending. -/
def parts (s : State) (r : Crew) (a : VReg) (k : KReg) (p : Nat → Bool) : List Word :=
  ((lanesOf (r.active k)).filter p).map fun l => s.getV r a.toNat l

/-- What an instruction that raises sticky flags writes: its destination, the lanes, and each lane's value and flags. -/
def floats (s : State) (r : Crew) (hs : List Hint) : Instr → Option (VReg × LaneMask × (Nat → Word × FFlags)) :=
  let v := fun (a : VReg) (l : Nat) => s.getV r a.toNat l
  let x := fun (a : VReg) (l : Nat) => val32 (s.getV r a.toNat l)
  let rm := rmOf hs
  fun
  | .fadd d a b k => some (d, r.active k, fun l => addX rm (x a l) (x b l))
  | .fsub d a b k => some (d, r.active k, fun l => addX rm (x a l) (x b l).neg)
  | .fmul d a b k => some (d, r.active k, fun l => mulX rm (x a l) (x b l))
  | .fma d a b k => some (d, r.active k, fun l => fmaX rm false (x a l) (x b l) (x (addend hs d) l))
  | .fnma d a b k => some (d, r.active k, fun l => fmaX rm true (x a l) (x b l) (x (addend hs d) l))
  | .fdiv d a b k => some (d, r.active k, fun l => divX rm (x a l) (x b l))
  | .fsqrt d a k => some (d, r.active k, fun l => sqrtX rm (x a l))
  | .frcp d a k => some (d, r.active k, fun l => special32 .rcp (v a l))
  | .frsq d a k => some (d, r.active k, fun l => special32 .rsq (v a l))
  | .fexp2 d a k => some (d, r.active k, fun l => special32 .exp2 (v a l))
  | .flog2 d a k => some (d, r.active k, fun l => special32 .log2 (v a l))
  | .fsin d a k => some (d, r.active k, fun l => special32 .sin (v a l))
  | .fcos d a k => some (d, r.active k, fun l => special32 .cos (v a l))
  | .frint d a k => some (d, r.active k, fun l => frint32 rm (v a l))
  | .hadd2 d a b k => some (d, r.active k, fun l => packed2 .fp16 rm hadd (v a l) (v b l) 0)
  | .hmul2 d a b k => some (d, r.active k, fun l => packed2 .fp16 rm hmul (v a l) (v b l) 0)
  | .hfma2 d a b k => some (d, r.active k, fun l => packed2 .fp16 rm hfma (v a l) (v b l) (v (addend hs d) l))
  | .bfma2 d a b k => some (d, r.active k, fun l => packed2 .bf16 rm hfma (v a l) (v b l) (v (addend hs d) l))
  | .dot2 d a b p => some (d, r.head, fun l => dotSum p.parts rm (v a l) (v b l) (v (addend hs d) l))
  | .dot4 d a b p => some (d, r.head, fun l => dotSum p.parts rm (v a l) (v b l) (v (addend hs d) l))
  | .dot8 d a b p => some (d, r.head, fun l => dotSum p.parts rm (v a l) (v b l) (v (addend hs d) l))
  | .cvtf d a sat m fs fd => some (d, r.head, fun l => wordFlags (convFF fd fs m sat (field (v a l).toNat 0 fs.width)))
  | .cvtfi d a m fs fd =>
    some (d, r.head, fun l =>
      let y := toIntX fd m (valueOf fs (field (v a l).toNat 0 fs.width))
      (int y.1, y.2))
  | .cvtif d a sat m fs fd =>
    some (d, r.head, fun l => wordFlags (convIF fd m sat (intVal fs (field (v a l).toNat 0 fs.width))))
  | .pack d a m n f =>
    some (d, r.head, fun l =>
      let e := packElem f m (v a l)
      let p := f.width * n.toNat
      ((v d l &&& ~~~ (nat (2 ^ f.width - 1) <<< p)) ||| (nat e.1 <<< p), e.2))
  | .reduce d a k op => some (d, r.head, fun _ => combine op rm (parts s r a k fun _ => true))
  | .scan d a k op => some (d, r.head, fun l => combine op rm (parts s r a k (· ≤ l)))
  | .xscan d a k op => some (d, r.head, fun l => combine op rm (parts s r a k (· < l)))
  | _ => none

/-! ## Masks (05 R118, R120, R121, R126) -/

/-- The conditions of the integer comparisons (02 Table 2.2) on signed and unsigned values. -/
def holds (cc : IntCond) (sx sy : Int) (ux uy : Nat) : Bool :=
  match cc with
  | .eq => decide (ux = uy)
  | .ne => decide (ux ≠ uy)
  | .lt => decide (sx < sy)
  | .le => decide (sx ≤ sy)
  | .gt => decide (sy < sx)
  | .ge => decide (sy ≤ sx)
  | .ltu => decide (ux < uy)
  | .leu => decide (ux ≤ uy)
  | .gtu => decide (uy < ux)
  | .geu => decide (uy ≤ ux)

/-- What a comparison or mask instruction writes: its mask register and each lane's bit. -/
def masks (s : State) (r : Crew) (hs : List Hint) : Instr → Option (KReg × (Nat → Bool)) :=
  let v := fun (a : VReg) (l : Nat) => s.getV r a.toNat l
  let old := fun (t : KReg) (m : LaneMask) (f : Nat → Bool) (l : Nat) => if m.getLsbD l then f l else (r.kreg t).getLsbD l
  let bit := fun (a : KReg) (l : Nat) => (r.kreg a).getLsbD l
  fun
  | .icmp cc t a b k =>
    some (t, old t (r.active k) fun l => holds cc (v a l).toInt (v b l).toInt (v a l).toNat (v b l).toNat)
  | .icmpi cc t a i =>
    let y := int (immInt hs i)
    some (t, old t r.head fun l => holds cc (v a l).toInt y.toInt (v a l).toNat y.toNat)
  | .vtok t a k => some (t, old t (r.active k) fun l => decide (v a l ≠ 0))
  | .kand t a b => some (t, fun l => bit a l && bit b l)
  | .kor t a b => some (t, fun l => bit a l || bit b l)
  | .kxor t a b => some (t, fun l => bit a l != bit b l)
  | .kandn t a b => some (t, fun l => bit a l && !bit b l)
  | .scmp cc t a b =>
    some (t, fun _ => holds cc (r.sreg a).toInt (r.sreg b).toInt (r.sreg a).toNat (r.sreg b).toNat)
  | _ => none

/-! ## Scalars (05 R123, R125; 06 R160, R163; 10 R265, R273, R275, R277) -/

/-- What a scalar instruction writes. -/
def scalars (s : State) (c : Nat) (r : Crew) (hs : List Hint) : Instr → Option (SReg × DWord) :=
  let si := fun (a : SReg) => (r.sreg a).toInt
  let ui := fun (a : SReg) => (r.sreg a).toNat
  fun
  | .sadd d a b => some (d, BitVec.ofInt 64 (si a + si b))
  | .ssub d a b => some (d, BitVec.ofInt 64 (si a - si b))
  | .saddi d a i => some (d, BitVec.ofInt 64 (si a + immInt hs i))
  | .smul d a b => some (d, BitVec.ofInt 64 (si a * si b))
  | .sand d a b => some (d, r.sreg a &&& r.sreg b)
  | .sor d a b => some (d, r.sreg a ||| r.sreg b)
  | .sxor d a b => some (d, r.sreg a ^^^ r.sreg b)
  | .sshli d a n => some (d, BitVec.ofNat 64 (ui a * 2 ^ n.toNat))
  | .sshri d a n => some (d, BitVec.ofNat 64 (ui a / 2 ^ n.toNat))
  | .ssari d a n => some (d, BitVec.ofInt 64 (si a / (2 ^ n.toNat : Nat)))
  | .smovi d i => some (d, BitVec.ofInt 64 (immInt hs i))
  | .getlane d a l => some (d, BitVec.ofNat 64 (s.getV r a.toNat l.toNat).toNat)
  | .ballot d a k =>
    some (d, BitVec.ofNat 64 (((List.range 32).filter fun l =>
      (r.active k).getLsbD l && decide (s.getV r a.toNat l ≠ 0)).map (2 ^ ·)).sum)
  | .frflags d => some (d, BitVec.ofNat 64 r.flags.toNat)
  | .rdtime d => some (d, s.time)
  | .rdsv (.scal d) id => some (d, s.sysValue c r id.toNat 0)
  | .rdstate d item => some (d, s.stateItem c r item.toNat)
  | .rate d => some (d, ((s.boundChain c r).map fun x => x.2.rate s.clk).getD 0x8000000000000000)
  | _ => none

/-! ## Memory accesses (02 Table 2.9, 07 R173, R182-R187, R196) -/

/-- The address S + A + OFF of a lane, modulo 2^64. -/
def addrSA (s : State) (r : Crew) (hs : List Hint) (a : VReg) (b : SReg) (l : Nat) : DWord :=
  BitVec.ofInt 64 ((r.sreg b).toNat + (s.getV r a.toNat l).toNat + (offOf hs).toInt)

/-- The address A pair + S + OFF of a lane, modulo 2^64. -/
def addrPair (s : State) (r : Crew) (hs : List Hint) (a : VReg) (b : SReg) (l : Nat) : DWord :=
  BitVec.ofInt 64 ((s.getV r a.toNat l).toNat + 2 ^ 32 * (s.getV r (a.toNat + 1) l).toNat + (r.sreg b).toNat + (offOf hs).toInt)

/-- The form that W[0] selects. -/
def addrForm (s : State) (r : Crew) (hs : List Hint) (f : Bool) (a : VReg) (b : SReg) (l : Nat) : DWord :=
  if f then addrPair s r hs a b l else addrSA s r hs a b l

/-- A vector load: its destination, lanes, bytes and registers, each lane's address, and how the bytes widen. -/
structure Load where
  d : VReg
  m : LaneMask
  n : Nat
  regs : Nat
  addr : Nat → DWord
  ext : List Byte → List Byte

/-- The loads of generic memory. -/
def loads (s : State) (r : Crew) (hs : List Hint) : Instr → Option Load
  | .ld d a b w k =>
    some { d := d, m := r.active k, n := w.bytes, regs := w.regs, addr := addrSA s r hs a b, ext := id }
  | .ldx d a b w k =>
    some { d := d, m := r.active k, n := w.bytes, regs := w.regs, addr := addrPair s r hs a b, ext := id }
  | .ldb d a b w k =>
    some { d := d, m := r.active k, n := w.bytes, regs := 1, addr := addrSA s r hs a b
           ext := fun bs => leBytes 4 (if w.signed then (signed (8 * w.bytes) (leVal bs) % (2 ^ 32 : Nat)).toNat else leVal bs) }
  | _ => none

/-- A store event as an instruction makes it: its kind, lanes, each lane's bytes' number, address and bytes. -/
structure Store where
  kind : StoreKind
  m : LaneMask
  n : Nat
  addr : Nat → DWord
  data : Nat → List Byte

/-- The low n bytes of the registers from v_d of a lane. -/
def lowBytes (s : State) (r : Crew) (d : VReg) (n l : Nat) : List Byte :=
  (List.range n).map fun i => BitVec.ofNat 8 ((s.getV r (d.toNat + i / 4) l).toNat / 256 ^ (i % 4))

/-- The stores to generic memory, and the cache maintenance that goes in order with them. -/
def stores (s : State) (r : Crew) (hs : List Hint) : Instr → Option Store
  | .st d a b w k =>
    some { kind := .write, m := r.active k, n := w.bytes, addr := addrSA s r hs a b, data := lowBytes s r d w.bytes }
  | .stx d a b w k =>
    some { kind := .write, m := r.active k, n := w.bytes, addr := addrPair s r hs a b, data := lowBytes s r d w.bytes }
  | .stb d a b h k =>
    some { kind := .write, m := r.active k, n := if h then 2 else 1, addr := addrSA s r hs a b
           data := lowBytes s r d (if h then 2 else 1) }
  | .cclean a b f k => some { kind := .clean, m := r.active k, n := 1, addr := addrForm s r hs f a b, data := fun _ => [0] }
  | .cflush a b f k => some { kind := .flush, m := r.active k, n := 1, addr := addrForm s r hs f a b, data := fun _ => [0] }
  | _ => none

/-- An atomic: its destination and registers, lanes, bytes and alignment, each lane's address, the request a peer gets,
each lane's operand, the bytes stored, if any, from operand and old bytes, and whether XRD's rounded value is what D receives. -/
structure Atomic where
  d : VReg
  regs : Nat
  m : LaneMask
  n : Nat
  align : Nat
  addr : Nat → DWord
  req : PeerOp
  opnd : State → Nat → List Byte
  f : List Byte → List Byte → Option (List Byte)
  put : State → Nat → List Byte → State

/-- The atomics. Accumulators are 64 bytes at a multiple of 16 that do not cross a 4 KiB boundary. -/
def atomics (s : State) (g : Issue) (r : Crew) : Instr → Option Atomic :=
  let hs := g.hints
  let old := fun (d : VReg) (u : State) (l : Nat) (bs : List Byte) => u.putBytes r d.toNat l bs
  let low := fun (d : VReg) (n : Nat) (u : State) (l : Nat) => lowBytes u r d n l
  let rd := fun (d a : VReg) (b : SReg) (f clear : Bool) (k : KReg) =>
    ({ d := d, regs := 1, m := r.active k, n := 64, align := 16, addr := addrForm s r hs f a b, req := .xrd clear (rmOf hs)
       opnd := fun _ _ => [], f := fun _ _ => if clear then some (List.replicate 64 0) else none
       put := fun u l bs => putRead d u g r l bs } : Atomic)
  fun
  | .atom d a b f op =>
    some { d := d, regs := 1, m := r.head, n := 4, align := 4, addr := addrForm s r hs f a b, req := .atom op, opnd := low d 4
           f := fun x o => some (atomBytes 4 op x o), put := old d }
  | .atom64 d a b f op =>
    some { d := d, regs := 2, m := r.head, n := 8, align := 8, addr := addrForm s r hs f a b, req := .atom op, opnd := low d 8
           f := fun x o => some (atomBytes 8 op x o), put := old d }
  | .swap d a b w f k =>
    let n := if w then 8 else 4
    some { d := d, regs := n / 4, m := r.active k, n := n, align := n, addr := addrForm s r hs f a b, req := .swap
           opnd := low d n, f := fun x _ => some x, put := old d }
  | .cas d a b w f k =>
    let n := if w then 8 else 4
    some { d := d, regs := n / 4, m := r.active k, n := n, align := n, addr := addrForm s r hs f a b, req := .cas
           opnd := low d (2 * n), f := fun x o => if o = x.take n then some (x.drop n) else none, put := old d }
  | .xadd d a b f k =>
    some { d := d, regs := 0, m := r.active k, n := 64, align := 16, addr := addrForm s r hs f a b, req := .xadd
           opnd := low d 4, f := fun x o => some (accAddBytes x o), put := fun u _ _ => u }
  | .xrd d a b f k => some (rd d a b f false k)
  | .xrdc d a b f k => some (rd d a b f true k)
  | _ => none

/-! ## Branches (05 R127-R130) -/

/-- A transfer's target: the word's address + 4 + 4 * OFF, modulo 2^57 (05 R127). -/
def target (w : PC) (off : Int) : PC := BitVec.ofInt 57 (w.toNat + 4 + 4 * off)

/-- A test of a value against zero (05 R128). -/
def test (t : VTest) (x : Int) : Bool :=
  match t with
  | .eqz => decide (x = 0)
  | .nez => decide (x ≠ 0)
  | .ltz => decide (x < 0)
  | .gez => decide (0 ≤ x)
  | .gtz => decide (0 < x)
  | .lez => decide (x ≤ 0)

/-- Where a branch or jump sends each lane of the head run. -/
def branch (s : State) (g : Issue) (r : Crew) : Instr → Option (Nat → PC)
  | .br (.vec t a) o =>
    some fun l => if test t (s.getV r a.toNat l).toInt then target g.wordAddr (immInt g.hints o) else g.next
  | .br (.mask set k) o =>
    some fun l => if (r.kreg k).getLsbD l = set then target g.wordAddr (immInt g.hints o) else g.next
  | .brs a t o => some fun _ => if test t (r.sreg a).toInt then target g.wordAddr (immInt g.hints o) else g.next
  | .j o => some fun _ => target g.wordAddr (immInt g.hints o)
  | _ => none

/-! ## Matrix products (08 R212) -/

/-- Element (m, j) of physical accumulator tile t after one MMA on a sub-block: the old element, or 0 with Z, plus the products of row
m of the activations and column j of the front plane's weights: exactly, modulo 2^32, where both formats are integers, and else as one
fused sum (04 R99, 08 R210, R212). -/
def mmaElement (p : Partition) (t : Nat) (f : MFmt) (tr z : Bool) (block : List Byte) (m j : Nat) : Word :=
  let fw := matElem (matOfBits p.front.fmt)
  let fa := matElem f
  let w := fun k => weightBits (matOfBits p.front.fmt) (fun i => Sparse.get 0 p.front.bytes i) k j
  let a := fun k => actBits f tr (fun i => block.getD i 0) m k
  let ks := List.range (matK f)
  let old := if z then 0 else p.elem t m j
  if matIsInt fw && matIsInt fa then Spec.int (old.toInt + (ks.map fun k => matInt fw (w k) * matInt fa (a k)).sum)
  else (mmaStep fw fa (ks.map w) (ks.map a) old).1

/-! ## Ring headers (09 R241-R243) -/

/-- The difference of two indices modulo 2^32. -/
def apart (x y : Nat) : Nat := (x + 2 ^ 32 - y) % 2 ^ 32

/-- The rules of 09 Table 9.6 and the order of the indices L, F and A (09 R242). -/
structure RingSound (h : RingHdr) : Prop where
  base : h.base % 128 = 0
  slot : h.slotsz ≠ 0 ∧ h.slotsz % 128 = 0
  count : ∃ k, k ≤ 6 ∧ h.n = 2 ^ k
  retain : h.retain < h.n
  kind : h.cons ≤ 3
  reserved : ∀ b ∈ h.rsvd, b = 0
  flags : h.rflg < if h.cons = 0 then 1 else 512
  span : apart h.a h.l ≤ h.n
  order : apart h.f h.l ≤ apart h.a h.l
  marks : ∀ b, h.cbmp.testBit b = true →
    b < h.n ∧ ∃ j, (if h.cons = 0 then apart h.f h.l else 0) ≤ j ∧ j < apart h.a h.l ∧ (h.l + j) % h.n = b

/-- Whether a ring instruction has its effect on a sound header of a ring that no live head consumes: no cause of 09 R243, and no
wait. -/
def ringGoes (h : RingHdr) (which : BitVec 2) (x : Nat) : Prop :=
  match which.toNat with
  | 0 => h.cons = 0 ∧ apart h.a h.l + h.retain < h.n
  | 1 => x < 2 ^ 32 ∧ apart x h.f < apart h.a h.f ∧ h.cbmp.testBit (x % h.n) = false
  | 2 => True
  | _ => h.cons = 0 ∧ x < 2 ^ 32 ∧ x ≤ apart h.f h.l

/-! ## State items (10 Tables 10.7, 10.8) -/

/-- Whether an item of a group is one that the tables define. -/
def itemDefined (group i : Nat) : Bool :=
  match group with
  | 0 => i < 29
  | 1 | 2 | 3 | 4 | 6 => i < 32
  | 5 => i < 28
  | 7 => true
  | _ => false

/-- The bits that an item's layout holds zero: the first bit of each field, and its width. -/
def itemZeros (group i : Nat) : List (Nat × Nat) :=
  match group, i with
  | 0, 0 => [(5, 3), (56, 8)]
  | 0, 3 => [(48, 16)]
  | 0, 4 => [(48, 15)]
  | 0, 5 => [(10, 6), (32, 32)]
  | 0, 7 => [(1, 63)]
  | 0, 8 => [(48, 16)]
  | 0, 9 => [(3, 1), (5, 1), (11, 1), (13, 1), (16, 48)]
  | 0, 10 => [(9, 55)]
  | 0, 11 => [(4, 4), (10, 54)]
  | 0, n => if 13 ≤ n then [(32, 32)] else []
  | 1, _ => [(57, 6)]
  | 2, _ => [(18, 14)]
  | 3, _ => [(57, 7)]
  | 5, n => if 16 ≤ n ∧ (n - 16) % 3 = 2 then [(16, 48)] else []
  | 6, _ => [(44, 4)]
  | _, _ => []

/-- The tile state that STATE names (07 Table 7.3). -/
def tileState (v : BitVec 2) : TileSt := if v = 0 then .empty else if v = 1 then .filling else if v = 2 then .ready else .draining

end Sys2Proof.Machine.Spec
end

