-- ==== Sys2Proof/Certificates/Slice0/Obligations.lean ====
section
/-!
DEFINITION. The statements for the provers. Each docstring names the rules of spec/ it rests on.
-/

open Sys2Proof Sys2Proof.Machine

/-! ## Words and instructions (02) -/

/-- Every well-formed instruction that has a word is read back from it, with each operand (02 R44-R58). -/
def Obligations.DecodeInvertsEncode : Prop :=
  ∀ (i : Instr) (w : Word), i.wf = true → encode i = some w → decode w = .ok i

/-- A word that decodes is the word of the instruction it decodes to, which is well formed (02 R44-R58). -/
def Obligations.EncodeInvertsDecode : Prop :=
  ∀ (w : Word) (i : Instr), decode w = .ok i → i.wf = true ∧ encode i = some w

/-- Words written out in the spec's examples and from its tables decode to the instructions they stand for. -/
def Obligations.WordsDecode : Prop :=
  decode 0x8004_0420 = .ok (.ld 2 1 1 .w4 0) ∧ decode 0x8204_0420 = .ok (.st 2 1 1 .w4 0) ∧
  decode 0x0304_0801 = .ok (.addi 2 2 1) ∧ decode 0x1A02_0002 = .ok (.shli 1 0 2) ∧
  decode 0xE100_0010 = .ok (.rdsv (.vec 0) 16) ∧ decode 0x1D02_0868 = .ok (.bfx 1 2 3 8) ∧
  decode 0x1E02_0868 = .ok (.bfxs 1 2 3 8) ∧ decode 0x6708_0C15 = .ok (.scan 4 3 2 .fadd) ∧
  decode 0x890A_0440 = .ok (.atom 5 1 2 false .add) ∧ decode 0xC600_0000 = .ok .exit ∧ decode 0xC700_0000 = .ok .nop ∧
  decode 0xA200_0000 = .ok .wswap ∧ decode 0xE800_0000 = .ok .rett ∧ decode 0x0106_0411 = .ok (.add 3 1 2 1) ∧
  decode 0xFF20_0010 = .ok (.hintOff 0x10)

/-- The all-zero word, and every word whose opcode Table 2.4 does not list, whatever its other bits: it decodes to no
instruction, and a group that comes to it raises Illegal Instruction (02 R50). -/
def Obligations.UnlistedOpcodesIllegal : Prop :=
  ∀ (w : Word), w = 0 ∨ (w.extractLsb' 24 8).toNat ∈ [0x00, 0x32, 0x33, 0x5B, 0x61, 0x8F]
      ++ (List.range 0x18).map (0x68 + ·) ++ (List.range 3).map (0x9D + ·) ++ (List.range 7).map (0xA9 + ·) ++ [0xBE, 0xBF]
      ++ (List.range 6).map (0xCA + ·) ++ (List.range 6).map (0xDA + ·) ++ (List.range 0x15).map (0xEA + ·) →
    decode w = .illegal ∧
    ∀ (s : State) (g : Issue) (r : Crew) (rest : List Word), s.issue = some g → g.words = w :: rest →
      s.crews.find g.crew = some r →
      let g' := { g with next := g.next + 4, words := rest }
      let t : State := { s.takeClock g.crew with issue := some g' }
      step s = .next (t.finishFault t g' r (raised r 0x01))

/-! ## Steps -/

/-- With a group in progress, a step issues its next word: exec of the instruction the word decodes to, in the state that
is past the word, which takes its partition's issue for one clock; a word that decodes to none, or a third hint, is issued as the
fault it raises (02 R50-R55). -/
def Obligations.StepIssuesWord : Prop :=
  ∀ (s : State) (g : Issue) (w : Word) (rest : List Word), s.issue = some g → g.words = w :: rest →
    let t : State := { s.takeClock g.crew with issue := some { g with next := g.next + 4, words := rest } }
    (∀ i, decode w = .ok i → (isHint w = true → g.hints.length < 2) → step s = exec i t) ∧
    (∀ i, decode w = .ok i → isHint w = true → 2 ≤ g.hints.length → step s = exec (.illegalHint w) t) ∧
    (decode w = .illegal → step s = exec (.illegalInstruction w) t) ∧
    (∀ i, decode w = .reserved i → badBarrier (s.barriersOf g.crew) i = false → step s = exec (.reservedBit w) t) ∧
    (∀ i, decode w = .reserved i → badBarrier (s.barriersOf g.crew) i = true → step s = exec (.illegalInstruction w) t) ∧
    (decode w = .badHint → step s = exec (.illegalHint w) t)

/-- On a partition's selection clock, once the words of its last group have issued, the chosen crew becomes the most recently
issued, its group is fetched from the head run's PC, and the first word issues (13 R343; 02 R54, R55). -/
def Claims.StepFetchesGroup : Prop :=
  ∀ (s : State) (core part c : Nat) (rest : List Input) (r : Crew) (w : Word) (ws : List Word),
    s.issue = none → s.inputs = .clock core part :: rest →
    let s0 : State := { s with inputs := rest }
    let s1 := (s0.candidates (partKey core part)).foldl (fun u e => u.settleCrew e.1) s0
    let x := (s1.moveRecent c r).fetchGroup r r.headPc 3
    (s.pn (partKey core part)).issueEnd ≤ s.clk →
    s1.select (partKey core part) = some c → s1.crews.find c = some r → x.1 = none → x.2.1 = w :: ws →
    s1.breakAt c r r.headPc (wordsKnown x) = none →
    step s = exec (wordInstr (x.2.2.barriersOf c) [] w) { x.2.2.takeClock c with
      issue := some { crew := c, addr := r.headPc, next := r.headPc + 4, hints := [], words := ws } }

/-- A word of a group of n words keeps its partition from selecting for one clock more: until the last has issued, a selection clock
changes nothing (02 R55). -/
def Claims.WordsTakeClocks : Prop :=
  ∀ (s : State) (core part c : Nat) (rest : List Input) (r : Crew),
    (s.crews.find c = some r → ((s.takeClock c).pn r.pkey).issueEnd = max (s.pn r.pkey).issueEnd s.clk + 1) ∧
    (s.issue = none → s.inputs = .clock core part :: rest → s.clk < (s.pn (partKey core part)).issueEnd →
      step s = .next { s with inputs := rest })

/-- An armed breakpoint that matches a word of the chosen group raises Breakpoint before anything of the group issues,
with FLG bit 5 and the lowest matching index (14 R376). -/
def Claims.StepMeetsBreakpoint : Prop :=
  ∀ (s : State) (core part c n : Nat) (rest : List Input) (r : Crew),
    s.issue = none → s.inputs = .clock core part :: rest →
    let s0 : State := { s with inputs := rest }
    let s1 := (s0.candidates (partKey core part)).foldl (fun u e => u.settleCrew e.1) s0
    let x := (s1.moveRecent c r).fetchGroup r r.headPc 3
    (s.pn (partKey core part)).issueEnd ≤ s.clk →
    s1.select (partKey core part) = some c → s1.crews.find c = some r →
    s1.breakAt c r r.headPc (wordsKnown x) = some n →
    step s = .next ((s1.moveRecent c r).raise c
      { code := 0x13, lanes := r.head, detail := BitVec.ofNat 16 n, level := 0, addr := 0, pc := r.headPc,
        retired := r.retired, flg := 0x20, token := 0 } false)

/-- A selection clock fetches the chosen crew's group and issues its first word, unless an armed breakpoint matches; each word of
a group takes one clock of its partition (13 R343; 02 R54, R55; 14 R376). -/
def Obligations.StepFetchesGroup : Prop :=
  Claims.StepFetchesGroup ∧ Claims.StepMeetsBreakpoint ∧ Claims.WordsTakeClocks

/-- A listed event is run by exec, and the list goes on; passing clocks move CLK and charge every resident crew, and nanoseconds
move TIME at the servo's rate, which is at most 100 ppm off (01 R20; 14 R384; 16 R418). The list of choices is the model's (log
entry 2), and so are the slew that the servo holds, clamped at 100 ppm, and the fraction of a nanosecond, carried in millionths (log
entry 67). -/
def Obligations.StepTakesEvent : Prop :=
  ∀ (s : State) (rest : List Input), s.issue = none →
    (∀ i, s.inputs = .event i :: rest → isEvent i = true → step s = exec i { s with inputs := rest }) ∧
    (∀ clks ns, s.inputs = .elapse clks ns :: rest → ∃ t, step s = .next t ∧ t.clk = s.clk + clks ∧
      t.time = s.time + BitVec.ofInt 64 ((ns : Int) + ((s.links.ptp.frac : Int) + ns * max (-100) (min 100 s.links.ptp.slew)) / 1000000) ∧
      t.mem = s.mem ∧ t.inputs = rest ∧ ∀ c r, s.crews.find c = some r → ∃ r', t.crews.find c = some r' ∧
        { r' with stalls := r.stalls } = r ∧ ∀ n, r.phase = .waiting n ∧ n ≠ 0 ∨ r.phase = .ready ∧ n = 1 → s.issueLeft c r = 0 →
          (Sparse.get 0 r'.stalls n).toNat = min (2 ^ 32 - 1) ((Sparse.get 0 r.stalls n).toNat + clks))

/-! ## Issue groups: faults, waits, completion (02 R53-R59, 01 R24, 14 R357-R378) -/

/-- A fault found at issue: the group traps with the code, its head run's lanes marked, and nothing committed. -/
def Claims.IssueFaultTraps : Prop :=
  ∀ (s : State) (g : Issue) (r : Crew) (i : Instr) (code : BitVec 8), s.issue = some g → s.crews.find g.crew = some r →
    isGroup i = true → issueFault s g.crew r g.hints i = some code →
    exec i s = .next ((s.finishFault s g r (raised r code)).after i g.crew)

/-- The order in which a decoded group's checks report: a barrier the block does not have, the hints, the register limits,
privilege, mode, convergence (02 R53). -/
def Claims.IssueFaultOrder : Prop :=
  ∀ (s : State) (c : Nat) (r : Crew) (hs : List Hint) (i : Instr),
    let checks : List (Bool × BitVec 8) :=
      [(badBarrier (s.packetOf r).barriers i, 0x01), (!distinctKinds hs || !hs.all (hintOk hs i), 0x02),
        (!(vecUses hs i).all (regOk (s.packetOf r).window), 0x03), (privileged i && !r.priv, 0x04),
        (modeFault s c r i, 0x0C), (crewLevel i && !r.converged, 0x17)]
    issueFault s c r hs i = (checks.find? (·.1)).map (·.2)

/-- A group that fails a check at issue traps, and the first check that fails in R53's order is the one reported (02 R53). -/
def Obligations.IssueFaults : Prop := Claims.IssueFaultTraps ∧ Claims.IssueFaultOrder

/-- A group that passes its checks but must wait, under the lower of the reasons that hold, commits nothing: its crew waits under
the reason with its PCs, RETIRED and registers as before, no group is in progress, and nothing else changes; only a WLD or MMA has
done what its first steps do, to its partition's planes, its gang's latch or its cluster's lamp (05 R109; 08 R204, R205, R208,
R212, R221; 14 R384). -/
def Obligations.WaitsHoldGroups : Prop :=
  ∀ (s : State) (g : Issue) (r : Crew) (i : Instr) (n : Nat), s.issue = some g → s.crews.find g.crew = some r →
    isGroup i = true → issueFault s g.crew r g.hints i = none → lostAccess s g.crew r g.hints i = none →
    ((sharedWait s g.crew r g.hints i = some n ∧ ∀ m, ownWait i s g r = some m → n ≤ m) ∨
      (ownWait i s g r = some n ∧ ∀ m, sharedWait s g.crew r g.hints i = some m → n ≤ m)) →
    ∃ t, exec i s = .next t ∧
      ((∀ sb tl f, i ≠ .wld sb tl f) → (∀ a tr z gang sb tl f, i ≠ .mma a tr z gang sb tl f) →
        t = { s.putCrew g.crew { r with phase := .waiting n } with issue := none }) ∧
      t.issue = none ∧ (∃ r', t.crews.find g.crew = some r' ∧ r'.phase = .waiting n ∧
        { r' with phase := r.phase, tookPlanes := r.tookPlanes, begunWld := r.begunWld } = r) ∧
      (∀ x, x ≠ g.crew → t.crews.find x = s.crews.find x) ∧
      { t with crews := s.crews, partitions := s.partitions, latches := s.latches, lamps := s.lamps, issue := s.issue } = s

/-- What the end of a group leaves beside its effect, without a SCHED hint, a BAR hold or a retired-count stop: RETIRED
one higher, the head run's live lanes after the group, breakpoints armed again, and no group in progress (01 R24, R11). -/
def Claims.GroupCloses : Prop :=
  ∀ (s u : State) (g : Issue) (r r' : Crew), u.crews.find g.crew = some r' → r'.resident = true →
    schedOfGroup g.hints = .none → (u.auxOf g.crew).held = false → s.stops g r' = false →
    ∃ a b, (s.finish u g r).crews.find g.crew = some a ∧ (s.finishMoved u g r).crews.find g.crew = some b ∧
      { a with pcs := r'.pcs, retired := r'.retired } = r' ∧ a.retired = r'.retired + 1 ∧
      (∀ l, l < 32 → a.pc l = if (r.head &&& r'.live).getLsbD l then g.next else r'.pc l) ∧
      b = { r' with retired := r'.retired + 1 } ∧
      ∀ t, t = s.finish u g r ∨ t = s.finishMoved u g r →
        t.issue = none ∧ t.auxOf g.crew = { u.auxOf g.crew with exempt := false } ∧
        (∀ x, x ≠ g.crew → t.crews.find x = u.crews.find x ∧ t.auxOf x = u.auxOf x) ∧
        { t with crews := u.crews, aux := u.aux, issue := u.issue } = u

/-- After a group with SCHED, where its end neither stops the crew nor meets a hold: YIELD makes the crew the most recently issued
of its partition; STALL n keeps it from issuing for n + 1 clk from the end of the group's words, charged to reason 15 (02 R58). -/
def Claims.SchedActs : Prop :=
  ∀ (s u : State) (g : Issue) (r r' : Crew), u.crews.find g.crew = some r' → r'.phase = .ready → (u.auxOf g.crew).held = false →
    s.stops g r' = false →
    let plain := (({ u with issue := none }).putCrew g.crew { r' with retired := r'.retired + 1 }).onAux g.crew fun a =>
      { a with exempt := false }
    (schedOfGroup g.hints = .yield → s.finishMoved u g r = plain.moveRecent g.crew { r' with retired := r'.retired + 1 } ∧
      ((s.finishMoved u g r).pn r'.pkey).recency.getLast? = some g.crew) ∧
    (∀ n, schedOfGroup g.hints = .stall n → s.finishMoved u g r = plain.putCrew g.crew
      { r' with retired := r'.retired + 1, phase := .waiting 15
                stallEnd := max (u.pn r'.pkey).issueEnd (u.clk + 1) + n.toNat + 1 })

/-- The end of a group, and the effect of its SCHED hint (01 R24, R11; 02 R58). -/
def Obligations.GroupCloses : Prop := Claims.GroupCloses ∧ Claims.SchedActs

/-- The retired-count stop, after every group that completes having begun with nesting clear: where RETSTOP bit 63 is set
and RETIRED then equals RETSTOP[47:0], the crew raises 0x15 with restart after the group, FLG bit 6 set, bit 63 clears, and the group's SCHED hint acts (02 R58);
where that group is a TRAP, Software Trap is taken instead, with FLG bit 6 set, and bit 63 clears (14 R378). -/
def Obligations.RetiredCountStop : Prop :=
  ∀ (s u : State) (g : Issue) (r r' : Crew), u.crews.find g.crew = some r' → r'.resident = true →
    (s.finish u g r = s.finishMoved (u.putCrew g.crew (r'.setPcs (r.head &&& r'.live) fun _ => g.next)) g r) ∧
    (s.nested g.crew = false → r'.retStopEn = true → r'.retired + 1 = r'.retStop → s.finishMoved u g r =
      (((({ u with issue := none }).putCrew g.crew { r' with retired := r'.retired + 1, retStopEn := false }).onAux g.crew
        fun a => { a with exempt := false }).raise g.crew
      { code := 0x15, lanes := r.head, detail := 0, level := 0, addr := 0, pc := g.addr, retired := r.retired, flg := 0x40,
        token := 0 } false).afterSched g.crew g.hints) ∧
    (s.nested g.crew = false → r.retStopEn = true → r.retired + 1 = r.retStop → ∀ x, Runs s g r (.trap x) →
      exec (.trap x) s = .next (((({ s with issue := none }).putCrew g.crew
        { r with pcs := (r.setPcs r.head fun _ => g.next).pcs, retired := r.retired + 1, retStopEn := false }).trapEntry g.crew
        { code := 0x12, lanes := r.head, detail := x, level := 0, addr := 0, pc := g.addr, retired := r.retired, flg := 0x40,
          token := 0 } (s.auxOf g.crew).trapRec).afterSched g.crew g.hints))

/-! ## Traps (14 R357-R374, 10 R272, R280, 01 R39) -/

/-- A group's fault is raised for its crew at the group's address, with RETIRED as before it; a crew that runs no handler
suspends where its launch region's pager, as it started with it, is off the device and the fault is Permission or Translation at
levels 1-5, and else traps; a watchpoint's record has FLG bit 5 (01 R38; 14 R357, R360, R361, R374). -/
def Obligations.FaultTrapsOrSuspends : Prop :=
  ∀ (s u : State) (g : Issue) (r r' : Crew) (f : LaneTrap), u.crews.find g.crew = some r' →
    let q : TrapReq :=
      { code := f.fault.code, lanes := f.lanes, detail := f.fault.detail, level := f.fault.level, addr := f.fault.addr,
        pc := g.addr, retired := r.retired, flg := if f.fault.code = 0x14 then 0x20 else 0, token := 0 }
    let v : State := { u with issue := none }
    let paged := (f.fault.code = 0x07 ∨ (f.fault.code = 0x06 ∧ 1 ≤ f.fault.level.toNat ∧ f.fault.level.toNat ≤ 5)) ∧
      (u.auxOf g.crew).started.pager = false
    (u.nested g.crew = false → paged → s.finishFault u g r f = v.suspend g.crew r' q false ∧
      ∃ x, (s.finishFault u g r f).crews.find g.crew = some x ∧ x = { r' with phase := .waiting 15 }) ∧
    (u.nested g.crew = true ∨ ¬ paged → s.finishFault u g r f = v.trapEntry g.crew q (u.auxOf g.crew).trapRec)

/-- Taking a trap: the record is a release, so that the crew's store queue is empty, or, while a load of the crew is owed by a peer, the
record stands last in the queue (11 R287; log entry 87); the PC table is held, the nesting bit, the cause, the detail and the saved
privilege are set, the handler's privilege is taken, and every live lane stands at the handler's entry (14 R360). -/
def Claims.TrapEntryTakes : Prop :=
  ∀ (s t u : State) (c : Nat) (q : TrapReq) (place : DWord) (r : Crew) (e : PC × Bool), s.crews.find c = some r →
    s.nested c = false → s.trapEntryOf c r q.code.toNat = (some e, t) →
    t.writeRecord c r place (t.trapRecord c r q) = (true, u) →
    let owed := ∃ x ∈ (t.auxOf c).returning, x.group ≠ 0 ∧ x.group < t.nextId ∧ x.lost = none ∧
      ∃ p ∈ t.links.peers, ∃ f ∈ p.2.unacked, f.group = x.group ∧ ∃ y ∈ f.sources, y.1 = c
    ∃ r', (s.trapEntry c q place).crews.find c = some r' ∧
      (∀ l, l < 32 → r'.pc l = if r.live.getLsbD l then e.1 else r.pc l) ∧ r'.exited = r.exited ∧ r'.heldPcs = r.pcs ∧
      r'.heldExited = r.exited ∧ r'.priv = e.2 ∧ r'.matrix = r.matrix ∧ r'.pair = r.pair ∧ r'.gang = r.gang ∧
      r'.phase = .ready ∧
      { r' with pcs := r.pcs, heldPcs := r.heldPcs, heldExited := r.heldExited, mode := r.mode, phase := r.phase,
                tookPlanes := r.tookPlanes, begunWld := r.begunWld } = r ∧
      (s.trapEntry c q place).auxOf c =
        { u.auxOf c with trap := { cause := q.code, nesting := true, spriv := r.priv, detail := q.detail }
                         holdIn := 0
                         exempt := (u.auxOf c).exempt && q.code == 0x20 } ∧
      (¬ owed → ((s.trapEntry c q place).auxOf c).storeQ = []) ∧
      (owed → ∃ e, ((s.trapEntry c q place).auxOf c).storeQ = (t.auxOf c).storeQ ++ [e] ∧ e.kind = .write ∧ e.release = some .device ∧
        e.addr = place ∧ e.bytes.map (·.2.byte) = t.trapRecord c r q) ∧
      (s.trapEntry c q place).mem = u.mem

/-- The record that trap entry writes, field by field (14 R361, Table 14.3): each row gives an offset, a size and the number that
those bytes hold, least significant first. -/
def Claims.TrapRecordBytes : Prop :=
  ∀ (s : State) (c : Nat) (r : Crew) (q : TrapReq),
    let bytes := s.trapRecord c r q
    let at_ := fun (o n : Nat) => leVal ((bytes.drop o).take n)
    let ovf := if ∃ l, l < 32 ∧ r.live.getLsbD l = true ∧ (r.rstack l).ovf = true then 2 ^ 48 else 0
    bytes.length = 64 ∧ at_ 0 1 = q.code.toNat ∧ at_ 1 1 = q.level.toNat ∧ at_ 2 2 = q.detail.toNat ∧ at_ 4 4 = q.lanes.toNat ∧
    at_ 8 8 = q.pc.toNat ∧ at_ 16 8 = q.addr.toNat ∧ at_ 24 8 = q.retired.toNat + ovf ∧ at_ 32 2 = r.core % 2 ^ 16 ∧
    at_ 34 1 = r.partition % 256 ∧ at_ 35 1 = r.index % 256 ∧ at_ 36 1 = s.rslotOf c r % 256 ∧ at_ 37 1 = s.ctxOf r % 256 ∧
    at_ 38 1 = r.part % 256 ∧
    (∀ b, b < 8 → (at_ 39 1).testBit b = (q.flg.getLsbD b || (b == 0 && r.priv) || (b == 1 && r.matrix) || (b == 2 && s.nested c))) ∧
    (∀ k, s.blockOf r = some k → at_ 40 8 = k.bl % 2 ^ 64) ∧ at_ 48 8 = (q.time.getD s.time).toNat ∧
    at_ 56 4 = (s.packetOf r).handle.toNat ∧ at_ 60 4 = q.token.toNat

/-- What taking a trap leaves, and the record it writes (14 R360, R361). -/
def Obligations.TrapEntryTakes : Prop := Claims.TrapEntryTakes ∧ Claims.TrapRecordBytes

/-- A fault while a handler runs, and a trap with no entry in the trap table, end the fault domain: the first is Fatal
(0x18) with the fault's code as its detail, no level, and its record at TRAPREC (14 R360, R361; 01 R39). -/
def Claims.TrapsThatEndTheDomain : Prop :=
  ∀ (s : State) (c : Nat) (q : TrapReq) (place : DWord) (r : Crew), s.crews.find c = some r →
    (s.nested c = true →
      s.trapEntry c q place =
        s.terminate c r { q with code := 0x18, detail := q.code.setWidth 16, level := 0 } (s.auxOf c).trapRec) ∧
    (∀ t, s.nested c = false → s.trapEntryOf c r q.code.toNat = (none, t) →
      s.trapEntry c q place = t.terminate c r q place)

/-- The end of a fault domain: every launch of the context whose crews started in it, or whose region has that FDOM in force while
it has no crew, loses its blocks and retires, once no peer has a write to acknowledge; the stores that its crews had queued behind a load
that a peer owes are left to it till then (11 R287; log entry 18); every other launch stays as it was (01 R38, R39; 11 R305). -/
def Claims.FaultDomainEnds : Prop :=
  ∀ (s : State) (ctx fdom l : Nat) (k : Launch), (s.launches.map (·.1)).Nodup → (s.blocks.map (·.1)).Nodup →
    s.launches.find l = some k →
    let t := s.endDomain ctx fdom
    let dies := k.ctx = ctx ∧ ((∃ e ∈ s.crews, e.2.launch = l ∧ (s.auxOf e.1).started.fdom = fdom) ∨
      (∀ e ∈ s.crews, e.2.launch ≠ l) ∧ ((s.inForce ctx k.packet.rslot 1).map (·.fdom.toNat)).getD 0 = fdom)
    (dies → (t.awaiting = false → t.launches.find l = none) ∧
      (t.awaiting = true → ∃ xs, t.launches.find l = some { k with ending := true, next := k.packet.blocks, left := xs }) ∧
      ∀ e ∈ t.blocks, e.2.launch ≠ l) ∧
    (¬ dies → k.ending = false → t.launches.find l = some k)

/-- The traps that end a fault domain, and what ends with it (14 R360, 01 R39). -/
def Obligations.TrapsThatEndTheDomain : Prop := Claims.TrapsThatEndTheDomain ∧ Claims.FaultDomainEnds

/-- RETT, in a privileged handler: the held PC table and the saved privilege come back, the nesting bit clears; M, PAIR and
the gang register stay (10 R280). -/
def Obligations.ReturnFromTrap : Prop :=
  ∀ (s : State) (g : Issue) (r : Crew), Runs s g r .rett →
    ∃ u r', exec .rett s = .next ((g.close r true true (.moved u)).replayCopies g.crew) ∧
      u.crews.find g.crew = some r' ∧ r'.pcs = r.heldPcs ∧ r'.exited = r.heldExited ∧
      r'.priv = (s.auxOf g.crew).trap.spriv ∧ r'.matrix = r.matrix ∧ r'.pair = r.pair ∧ r'.gang = r.gang ∧
      { r' with pcs := r.pcs, exited := r.exited, mode := r.mode } = r ∧
      (u.auxOf g.crew).trap = { (s.auxOf g.crew).trap with nesting := false } ∧
      (u.auxOf g.crew).exempt = true ∧ u.mem = s.mem ∧ ∀ x, x ≠ g.crew → u.crews.find x = s.crews.find x

/-- TRAP completes its group and then takes trap 0x12 with its immediate as the detail, and its SCHED hint acts; BRK raises 0x13
and commits nothing (02 R58; 10 R272; 14 R357). -/
def Obligations.SoftwareTraps : Prop :=
  ∀ (s : State) (g : Issue) (r : Crew) (x : BitVec 16),
    (Runs s g r (.trap x) →
      let t := (({ s with issue := none }).putCrew g.crew
        { r with pcs := (r.setPcs r.head fun _ => g.next).pcs, retired := r.retired + 1,
                 retStopEn := r.retStopEn && !s.stops g r }).trapEntry g.crew
        { code := 0x12, lanes := r.head, detail := x, level := 0, addr := 0, pc := g.addr, retired := r.retired,
          flg := if s.stops g r then 0x40 else 0, token := 0 } (s.auxOf g.crew).trapRec
      (schedOfGroup g.hints = .none ∨ t.crews.find g.crew = none → exec (.trap x) s = .next t) ∧
      ∀ r', t.crews.find g.crew = some r' → r'.phase = .ready →
        (schedOfGroup g.hints = .yield → exec (.trap x) s = .next (t.moveRecent g.crew r')) ∧
        ∀ n, schedOfGroup g.hints = .stall n → exec (.trap x) s = .next (t.putCrew g.crew
          { r' with phase := .waiting 15, stallEnd := max (t.pn r'.pkey).issueEnd (t.clk + 1) + n.toNat + 1 })) ∧
    (Runs s g r (.brk x) →
      exec (.brk x) s = .next (s.finishFault s g r
        { lanes := r.head, fault := { code := 0x13, level := 0, addr := 0, detail := x } }))

/-- Words that are no instruction raise their fault for the group; a fetch fault is reported at the group's address with
the fault of the word's own address (02 R49-R56, 05 R127). -/
def Claims.WordFaults : Prop :=
  ∀ (s : State) (g : Issue) (r : Crew) (w : Word), s.issue = some g → s.crews.find g.crew = some r →
    exec (.illegalInstruction w) s = .next (s.finishFault s g r (raised r 0x01)) ∧
    exec (.reservedBit w) s = .next (s.finishFault s g r (raised r 0x08)) ∧
    exec (.illegalHint w) s = .next (s.finishFault s g r (raised r 0x02)) ∧
    ∀ f ws t, s.fetchGroup r g.addr 3 = (some f, ws, t) →
      exec .fetchFault s = .next (s.finishFault t g r
        { lanes := r.head, fault := { code := f.code, level := f.level, addr := f.addr, detail := 0 } })

/-- A hint word joins its group and changes nothing else (02 R54-R58). -/
def Claims.HintsJoinTheirGroup : Prop :=
  ∀ (s : State) (g : Issue) (i : Instr) (h : Hint), s.issue = some g → hintOf i = some h →
    exec i s = .next { s with issue := some { g with hints := g.hints ++ [h] } }

/-- Hint words, and the words that are no instruction (02 R49-R58, 05 R127). -/
def Obligations.WordFaults : Prop := Claims.WordFaults ∧ Claims.HintsJoinTheirGroup

/-! ## Results of the arithmetic, mask, scalar and control instructions (05, 06) -/

/-- The integer and logic instructions: D takes the value the spec's operation gives, computed exactly and cut to 32 bits,
in the active lanes (or the head run's); every other lane, register, bank word and piece of state stays (05 R107-R117). -/
def Claims.IntegerLanes : Prop :=
  ∀ (s : State) (g : Issue) (r : Crew) (i : Instr) (d : VReg) (m : LaneMask) (f : Nat → Word),
    Spec.integer s r g.hints i = some (d, m, f) → Runs s g r i → s.seated r →
    ∃ u, WritesV s u r (fun n l => n = d.toNat ∧ m.getLsbD l = true) (fun _ l => f l) ∧ exec i s = .next (s.finish u g r)

/-! ### Numbers (04 R77-R106) -/

/-- A format's width, fraction bits, bias and largest finite encoding (04 Tables 4.1, 4.2). -/
def Claims.format : FFmt → Nat × Nat × Int × Nat
  | .fp32 => (32, 23, 127, 0x7F7FFFFF)
  | .fp16 => (16, 10, 15, 0x7BFF)
  | .bf16 => (16, 7, 127, 0x7F7F)
  | .e4m3 => (8, 3, 7, 0x7E)
  | .e5m2 => (8, 2, 15, 0x7B)
  | .e2m1 => (4, 1, 1, 0x7)

/-- An encoding is finite, with this sign and value (04 R78). -/
def Claims.Encodes (f : FFmt) (b : Nat) (neg : Bool) (x : ℝ) : Prop :=
  let (w, m, bias, largest) := Claims.format f
  let mag := b % 2 ^ (w - 1)
  let e : Nat := mag / 2 ^ m
  let part : ℝ := ((mag % 2 ^ m : Nat) : ℝ) / 2 ^ m
  b < 2 ^ w ∧ mag ≤ largest ∧ neg = b.testBit (w - 1) ∧
    x = (if neg then -1 else 1) * (if e = 0 then part * (2 : ℝ) ^ (1 - bias) else (1 + part) * (2 : ℝ) ^ ((e : Int) - bias))

/-- The whole number that a rounding mode takes for a real one (04 R85): the nearer, the even one at a tie; the one towards 0, +∞ or -∞;
or, for RTO, the odd one of its neighbours. -/
def Claims.Nearest (rm : Rm) (t : ℝ) (k : Int) : Prop :=
  match rm with
  | .rne => k = if t - ⌊t⌋ < 1 / 2 ∨ (t - ⌊t⌋ = 1 / 2 ∧ ⌊t⌋ % 2 = 0) then ⌊t⌋ else ⌈t⌉
  | .rtz => k = if 0 ≤ t then ⌊t⌋ else ⌈t⌉
  | .rup => k = ⌈t⌉
  | .rdn => k = ⌊t⌋
  | .rto => k = if ⌊t⌋ % 2 = 1 then ⌊t⌋ else ⌈t⌉

/-- RoundTo of a real number: the encoding, and the flags (04 R85, R86, Table 4.6). The value is rounded to the format's precision, with
the subnormals' spacing below the least normal; one beyond the largest finite value gives what Table 4.6 has for the mode, or the largest
with saturation, with OF and NX; else NX where it differs from the exact one, with UF where that is tiny. A zero has the sign given. -/
def Claims.Rounds (f : FFmt) (sat : Bool) (rm : Rm) (x : ℝ) (neg : Bool) (y : Nat) (fl : FFlags) : Prop :=
  let (w, m, bias, largest) := Claims.format f
  let step : ℝ := (2 : ℝ) ^ (max (Int.log 2 |x|) (1 - bias) - (m : Int))
  let sign := fun (s : Bool) => if s then 2 ^ (w - 1) else 0
  let high : ℝ := (1 + ((largest % 2 ^ m : Nat) : ℝ) / 2 ^ m) * (2 : ℝ) ^ (((largest / 2 ^ m : Nat) : Int) - bias)
  let s : Bool := decide (x < 0)
  let outward := rm = .rne ∨ (rm = .rup ∧ s = false) ∨ (rm = .rdn ∧ s = true)
  (x = 0 → y = sign neg ∧ fl = 0) ∧
  (x ≠ 0 → ∃ k : Int, Claims.Nearest rm (x / step) k ∧
    (|k * step| ≤ high → Claims.Encodes f y s (k * step) ∧
      (k * step = x → fl = 0) ∧ (k * step ≠ x → fl = if |x| < (2 : ℝ) ^ (1 - bias) then fUF ||| fNX else fNX)) ∧
    (high < |k * step| → fl = fOF ||| fNX ∧
      (sat = true ∨ f = .e2m1 → y = largest + sign s) ∧
      (sat = false → f = .e4m3 → (outward → y = 0x7F) ∧ (¬ outward → y = largest + sign s)) ∧
      (sat = false → f ≠ .e4m3 → f ≠ .e2m1 → (outward → y = largest + 1 + sign s) ∧ (¬ outward → y = largest + sign s))))

/-- The signed units of 2^-298 of a finite value. -/
def Claims.units : XVal → Int
  | .fin s m => if s then -(m : Int) else m
  | .inf _ => 0
  | .nan => 0

/-- The value of an encoding (04 R77-R79): a NaN, an infinity, or the finite value of R78. -/
def Claims.ValuesRead : Prop :=
  ∀ (f : FFmt) (b : Nat), let (w, _, _, largest) := Claims.format f
    let mag := b % 2 ^ (w - 1)
    b < 2 ^ w →
    (mag ≤ largest → ∃ neg m, valueOf f b = .fin neg m ∧ Claims.Encodes f b neg (Claims.units (.fin neg m) / 2 ^ 298)) ∧
    (mag = largest + 1 → f ≠ .e4m3 → f ≠ .e2m1 → valueOf f b = .inf (b.testBit (w - 1))) ∧
    (f = .e4m3 → mag = 0x7F → valueOf f b = .nan) ∧ (largest + 1 < mag → f ≠ .e4m3 → f ≠ .e2m1 → valueOf f b = .nan)

/-- Rounding, in every format and mode (04 R85, R86): RoundTo of a finite value, of an infinity, of a NaN. -/
def Claims.RoundsRight : Prop :=
  ∀ (f : FFmt) (rm : Rm), let (w, _, _, largest) := Claims.format f
    (∀ neg m, Claims.Rounds f false rm (Claims.units (.fin neg m) / 2 ^ 298) neg (roundTo f rm (.fin neg m)).1
      (roundTo f rm (.fin neg m)).2) ∧
    (f ≠ .e4m3 → f ≠ .e2m1 → ∀ neg, roundTo f rm (.inf neg) = (largest + 1 + (if neg then 2 ^ (w - 1) else 0), 0)) ∧
    roundTo f rm .nan = ((match f with
      | .fp32 => 0x7FC00000
      | .fp16 => 0x7E00
      | .bf16 => 0x7FC0
      | .e4m3 => 0x7F
      | .e5m2 => 0x7E
      | .e2m1 => 0), 0)

/-- Exact sums and products (04 R87, R95, R96): a NaN term, two infinities that differ, one infinity, the exact sum, the sign of a sum that
is zero; a product of finite operands, exactly, of zero and an infinity, and the signs. -/
def Claims.SumsAndProducts : Prop :=
  (∀ (rm : Rm) (xs : List XVal), xs ≠ [] →
    let t := (xs.map Claims.units).sum
    let finite := ∀ x ∈ xs, ∃ s m, x = .fin s m
    (.nan ∈ xs → exactSum rm xs = (.nan, 0)) ∧
    (.nan ∉ xs → .inf false ∈ xs → .inf true ∈ xs → exactSum rm xs = (.nan, fNV)) ∧
    (∀ s, .nan ∉ xs → .inf s ∈ xs → .inf (!s) ∉ xs → exactSum rm xs = (.inf s, 0)) ∧
    (finite → t ≠ 0 → exactSum rm xs = (.fin (decide (t < 0)) t.natAbs, 0)) ∧
    (finite → t = 0 → exactSum rm xs = (.fin (if ∀ x ∈ xs, x = .fin true 0 then true else if ∀ x ∈ xs, x = .fin false 0 then false
      else decide (rm = .rdn)) 0, 0))) ∧
  ∀ (f g : FFmt) (a b : Nat),
    (∀ s m u n, valueOf f a = .fin s m → valueOf g b = .fin u n → ∃ p, exactProd (.fin s m) (.fin u n) = (.fin (s != u) p, 0) ∧
      p * 2 ^ 298 = m * n) ∧
    ∀ (x y : XVal) (s u : Bool) (m : Nat), (exactProd .nan y = (.nan, 0)) ∧ (exactProd x .nan = (.nan, 0)) ∧
      (exactProd (.inf s) (.inf u) = (.inf (s != u), 0)) ∧ (exactProd (.inf s) (.fin u 0) = (.nan, fNV)) ∧
      (exactProd (.fin u 0) (.inf s) = (.nan, fNV)) ∧ (0 < m → exactProd (.inf s) (.fin u m) = (.inf (s != u), 0) ∧
        exactProd (.fin u m) (.inf s) = (.inf (s != u), 0))

/-- FADD and FSUB, FMUL, FMA and FNMA, FDIV and FSQRT on finite operands: the exact real result, rounded once, with its flags; a sum that
is zero by R87. What they do with NaNs and infinities, and where they are invalid or divide by zero (04 R87, R89, R103; 06 R139-R143). -/
def Claims.ArithmeticRounds : Prop :=
  let fin := fun (w : Word) => ∃ s m, val32 w = .fin s m
  let u := fun (w : Word) => Claims.units (val32 w)
  let unit : ℝ := 2 ^ 298
  let neg := fun (w : Word) => w.getLsbD 31
  let canon : Word := 0x7FC00000
  let rounds := fun (rm : Rm) (x : ℝ) (s : Bool) (p : Word × FFlags) => Claims.Rounds .fp32 false rm x s p.1.toNat p.2
  let zero := fun (rm : Rm) (s t : Bool) => if s = t then s else decide (rm = .rdn)
  ∀ (rm : Rm) (a b c : Word), fin a →
    (fin b → u a + u b ≠ 0 → rounds rm (((u a + u b : Int) : ℝ) / unit) false (addX rm (val32 a) (val32 b))) ∧
    (fin b → u a - u b ≠ 0 → rounds rm (((u a - u b : Int) : ℝ) / unit) false (addX rm (val32 a) (val32 b).neg)) ∧
    (fin b → u a + u b = 0 → u a ≠ 0 → rounds rm 0 (decide (rm = .rdn)) (addX rm (val32 a) (val32 b))) ∧
    (fin b → u a = 0 → u b = 0 → rounds rm 0 (zero rm (neg a) (neg b)) (addX rm (val32 a) (val32 b))) ∧
    (fin b → rounds rm (((u a * u b : Int) : ℝ) / unit ^ 2) (neg a != neg b) (mulX rm (val32 a) (val32 b))) ∧
    (fin b → fin c → ∀ np : Bool, let t : ℝ := (((if np then -1 else 1) * (u a * u b) : Int) : ℝ) / unit ^ 2 + (u c : ℝ) / unit
      (t ≠ 0 → rounds rm t false (fmaX rm np (val32 a) (val32 b) (val32 c))) ∧
      (t = 0 → u c ≠ 0 → rounds rm 0 (decide (rm = .rdn)) (fmaX rm np (val32 a) (val32 b) (val32 c))) ∧
      (t = 0 → u c = 0 → rounds rm 0 (zero rm ((neg a != neg b) != np) (neg c)) (fmaX rm np (val32 a) (val32 b) (val32 c)))) ∧
    (fin b → u b ≠ 0 → rounds rm ((u a : ℝ) / u b) (neg a != neg b) (divX rm (val32 a) (val32 b))) ∧
    (u b = 0 → fin b → (u a ≠ 0 → divX rm (val32 a) (val32 b) = (if neg a != neg b then 0xFF800000 else 0x7F800000, fDZ)) ∧
      (u a = 0 → divX rm (val32 a) (val32 b) = (canon, fNV))) ∧
    (0 ≤ u a → rounds rm (Real.sqrt ((u a : ℝ) / unit)) (neg a) (sqrtX rm (val32 a))) ∧
    (u a < 0 → sqrtX rm (val32 a) = (canon, fNV)) ∧
    (∀ s, val32 b = .inf s →
      addX rm (val32 a) (val32 b) = (b, 0) ∧ addX rm (val32 b) (val32 a) = (b, 0) ∧
      mulX rm (val32 a) (val32 b) = (if u a = 0 then (canon, fNV) else (if neg a != s then 0xFF800000 else 0x7F800000, 0)) ∧
      divX rm (val32 a) (val32 b) = (if neg a != s then 0x80000000 else 0, 0) ∧
      divX rm (val32 b) (val32 a) = (if neg a != s then 0xFF800000 else 0x7F800000, 0) ∧ divX rm (val32 b) (val32 b) = (canon, fNV) ∧
      addX rm (val32 b) (val32 b) = (b, 0) ∧ addX rm (val32 b) (val32 b).neg = (canon, fNV) ∧
      sqrtX rm (val32 b) = (if s then (canon, fNV) else (b, 0))) ∧
    (val32 b = .nan → addX rm (val32 a) (val32 b) = (canon, 0) ∧ addX rm (val32 b) (val32 a) = (canon, 0) ∧
      mulX rm (val32 a) (val32 b) = (canon, 0) ∧ fmaX rm false (val32 a) (val32 c) (val32 b) = (canon, (exactProd (val32 a) (val32 c)).2) ∧
      divX rm (val32 a) (val32 b) = (canon, 0) ∧ divX rm (val32 b) (val32 a) = (canon, 0) ∧ sqrtX rm (val32 b) = (canon, 0))

/-- Packed halves, dot products, FRINT and the conversions: each half is rounded once in its format; a dot product is the exact sum of the
products and the addend, rounded once, or in integers modulo 2^32; FRINT and the conversions to integers round to a whole number, the
latter saturating with NV; the conversions to floats round in the format, saturating where asked; and what they do with NaNs and infinities
(04 R90, R91, R97; 06 R144, R147-R153). -/
def Claims.ConversionsRound : Prop :=
  let canon := fun (f : FFmt) => (match f with
    | .fp32 => 0x7FC00000
    | .fp16 => 0x7E00
    | .bf16 => 0x7FC0
    | .e4m3 => 0x7F
    | .e5m2 => 0x7E
    | .e2m1 => 0 : Nat)
  let real := fun (s : Bool) (m : Nat) => (Claims.units (.fin s m) : ℝ) / 2 ^ 298
  (∀ (f : FFmt) (rm : Rm) (op : Rm → XVal → XVal → XVal → XVal × FFlags) (a b c : Word), f = .fp16 ∨ f = .bf16 →
    let h := fun (i : Nat) (w : Word) => valueOf f (w.toNat / 2 ^ (16 * i) % 2 ^ 16)
    let x := fun (i : Nat) => op rm (h i a) (h i b) (h i c)
    let y := fun (i : Nat) => roundTo f rm (x i).1
    let p := packed2 f rm op a b c
    p.1.toNat % 2 ^ 16 = (y 0).1 ∧ p.1.toNat / 2 ^ 16 = (y 1).1 ∧ p.2 = (x 0).2 ||| (y 0).2 ||| ((x 1).2 ||| (y 1).2)) ∧
  (∀ (n w : Nat) (fa fb : FFmt) (rm : Rm) (a b c : Word),
    let xa := fun (i : Nat) => valueOf fa (a.toNat / 2 ^ (w * i) % 2 ^ w)
    let xb := fun (i : Nat) => valueOf fb (b.toNat / 2 ^ (w * i) % 2 ^ w)
    (∀ i, i < n → (∃ s m, xa i = .fin s m) ∧ ∃ s m, xb i = .fin s m) → (∃ s m, val32 c = .fin s m) →
    let t : Int := ((List.range n).map fun i => Claims.units (xa i) * Claims.units (xb i)).sum + Claims.units (val32 c) * 2 ^ 298
    let p := dotSum (.float n w fa fb) rm a b c
    t ≠ 0 → Claims.Rounds .fp32 false rm ((t : ℝ) / 2 ^ 596) false p.1.toNat p.2) ∧
  (∀ (n w : Nat) (fa fb : IFmt) (rm : Rm) (a b c : Word), dotSum (.int n w fa fb) rm a b c =
    (Spec.int (c.toInt + ((List.range n).map fun i => intVal fa (a.toNat / 2 ^ (w * i) % 2 ^ w) *
      intVal fb (b.toNat / 2 ^ (w * i) % 2 ^ w)).sum), 0)) ∧
  (∀ (rm : Rm) (w : Word), (∀ s m, val32 w = .fin s m → ∃ k : Int, Claims.Nearest rm (real s m) k ∧
      Claims.Encodes .fp32 (frint32 rm w).1.toNat s k ∧ (frint32 rm w).2 = if k = real s m then 0 else fNX) ∧
    (∀ s, val32 w = .inf s → frint32 rm w = (w, 0)) ∧ (val32 w = .nan → frint32 rm w = (0x7FC00000, 0))) ∧
  (∀ (d : IFmt) (rm : Rm), toIntX d rm .nan = (0, fNV) ∧ (∀ s, toIntX d rm (.inf s) = (if s then intMin d else intMax d, fNV)) ∧
    ∀ s m, ∃ k : Int, Claims.Nearest rm (real s m) k ∧ toIntX d rm (.fin s m) =
      if k < intMin d then (intMin d, fNV) else if intMax d < k then (intMax d, fNV) else (k, if k = real s m then 0 else fNX)) ∧
  (∀ (d : FFmt) (rm : Rm) (sat : Bool) (x : Int), Claims.Rounds d sat rm x false (convIF d rm sat x).1 (convIF d rm sat x).2) ∧
  ∀ (d f : FFmt) (rm : Rm) (sat : Bool) (b : Nat), b < 2 ^ (Claims.format f).1 →
    let v := valueOf f b
    let high := fun (s : Bool) => (Claims.format d).2.2.2 + if s then 2 ^ ((Claims.format d).1 - 1) else 0
    (d = f → convFF d f rm sat b = (if v = .nan then canon d else b, 0)) ∧
    (d ≠ f → v = .nan → convFF d f rm sat b = (canon d, if d = .e2m1 then fNV else 0)) ∧
    (d ≠ f → ∀ s, v = .inf s → convFF d f rm sat b =
      if sat = true ∨ d = .e2m1 then (high s, fNV) else if d = .e4m3 then (0x7F, fNV)
      else ((Claims.format d).2.2.2 + 1 + if s then 2 ^ ((Claims.format d).1 - 1) else 0, 0)) ∧
    (d ≠ f → ∀ s m, v = .fin s m → Claims.Rounds d sat rm (real s m) s (convFF d f rm sat b).1 (convFF d f rm sat b).2)

/-- The arithmetic of the float instructions: what their values and flags are of the exact ones (04 R77-R97, R103; 06 R139-R153). -/
def Claims.FloatArithmetic : Prop :=
  Claims.ValuesRead ∧ Claims.RoundsRight ∧ Claims.SumsAndProducts ∧ Claims.ArithmeticRounds ∧ Claims.ConversionsRound

/-- A special function's result: within the bound of the exact one, NX, and UF where that is nonzero and below 2^-126; or an infinity with OF
and NX where it is beyond the largest finite value (04 R104). -/
def Claims.Within (p : Word × FFlags) (y tol : ℝ) : Prop :=
  let high : ℝ := (2 - (2 : ℝ) ^ (-23 : Int)) * 2 ^ 127
  (high < |y| → p = (if y < 0 then 0xFF800000 else 0x7F800000, fOF ||| fNX)) ∧
  (|y| ≤ high → (∃ s v, Claims.Encodes .fp32 p.1.toNat s v ∧ |v - y| ≤ tol) ∧
    p.2 = if y ≠ 0 ∧ |y| < (2 : ℝ) ^ (-126 : Int) then fUF ||| fNX else fNX)

/-- FRCP, FRSQ, FEXP2, FLOG2, FSIN and FCOS of every finite operand: the exact cases of Table 4.11, with no flag, and else a result within
its bound (04 R104). -/
def Claims.SpecialBounds : Prop :=
  let ulp := fun (y : ℝ) => (2 : ℝ) ^ (max (Int.log 2 |y|) (-126) - 23)
  let exact := fun (p : Word × FFlags) (y : ℝ) => (∃ s, Claims.Encodes .fp32 p.1.toNat s y) ∧ p.2 = 0
  ∀ (w : Word) (neg : Bool) (x : ℝ), Claims.Encodes .fp32 w.toNat neg x →
    (x ≠ 0 → let power := ∃ k : Int, |x| = (2 : ℝ) ^ k ∧ -149 ≤ -k ∧ -k ≤ 127;
      (power → exact (special32 .rcp w) (1 / x)) ∧ (¬ power → Claims.Within (special32 .rcp w) (1 / x) (ulp (1 / x)))) ∧
    (0 < x → let power := ∃ k : Int, x = (4 : ℝ) ^ k;
      (power → exact (special32 .rsq w) (1 / Real.sqrt x)) ∧
      (¬ power → Claims.Within (special32 .rsq w) (1 / Real.sqrt x) (ulp (1 / Real.sqrt x)))) ∧
    (let power := ∃ k : Int, x = k ∧ -149 ≤ k ∧ k ≤ 127;
      (power → exact (special32 .exp2 w) ((2 : ℝ) ^ x)) ∧ (¬ power → Claims.Within (special32 .exp2 w) ((2 : ℝ) ^ x) (2 * ulp ((2 : ℝ) ^ x)))) ∧
    (0 < x → let power := ∃ k : Int, x = (2 : ℝ) ^ k;
      (power → exact (special32 .log2 w) (Real.logb 2 x) ∧ (x = 1 → (special32 .log2 w).1 = 0)) ∧
      (¬ power → Claims.Within (special32 .log2 w) (Real.logb 2 x)
        (if 1 / 2 ≤ x ∧ x ≤ 2 then (2 : ℝ) ^ (-22 : Int) else 2 * ulp (Real.logb 2 x)))) ∧
    ((∀ k : Int, 4 * x = k →
      special32 .sin w = (if x = 0 then w else if k % 4 = 1 then 0x3F800000 else if k % 4 = 3 then 0xBF800000 else 0, 0) ∧
      special32 .cos w = (if k % 4 = 0 then 0x3F800000 else if k % 4 = 2 then 0xBF800000 else 0, 0)) ∧
     ((∀ k : Int, 4 * x ≠ k) →
      Claims.Within (special32 .sin w) (Real.sin (2 * Real.pi * x)) ((2 : ℝ) ^ (-22 : Int)) ∧
      Claims.Within (special32 .cos w) (Real.cos (2 * Real.pi * x)) ((2 : ℝ) ^ (-22 : Int)) ∧
      (special32 .sin w).1.toNat % 2 ^ 31 ≤ 0x3F800000 ∧ (special32 .cos w).1.toNat % 2 ^ 31 ≤ 0x3F800000))

/-- The special operands: NaNs, infinities, zeros, and values below zero (04 R89, R105, Table 4.12). -/
def Claims.SpecialOperands : Prop :=
  ∀ (w : Word),
    let canon : Word := 0x7FC00000
    let inf : Word := 0x7F800000
    let minf : Word := 0xFF800000
    (val32 w = .nan → ∀ fn, special32 fn w = (canon, 0)) ∧
    (w = minf → special32 .rcp w = (0x80000000, 0) ∧ special32 .rsq w = (canon, fNV) ∧ special32 .exp2 w = (0, 0) ∧
      special32 .log2 w = (canon, fNV)) ∧
    (w = inf → special32 .rcp w = (0, 0) ∧ special32 .rsq w = (0, 0) ∧ special32 .exp2 w = (inf, 0) ∧ special32 .log2 w = (inf, 0)) ∧
    (w = minf ∨ w = inf → special32 .sin w = (canon, fNV) ∧ special32 .cos w = (canon, fNV)) ∧
    (w = 0x80000000 ∨ w = 0 → special32 .rcp w = (if w = 0 then inf else minf, fDZ) ∧
      special32 .rsq w = (if w = 0 then inf else minf, fDZ) ∧ special32 .exp2 w = (0x3F800000, 0) ∧ special32 .log2 w = (minf, fDZ) ∧
      special32 .sin w = (w, 0) ∧ special32 .cos w = (0x3F800000, 0)) ∧
    (∀ m, val32 w = .fin true m → 0 < m → special32 .rsq w = (canon, fNV) ∧ special32 .log2 w = (canon, fNV))

/-- FRCP, FRSQ, FEXP2, FLOG2, FSIN and FCOS: their bounds, their exact cases, their special operands and their flags. Within the bounds
the result is the device's own, a free function of the operand (log entry 3) (04 R104-R106; 06 R146). -/
def Obligations.SpecialFunctions : Prop := Claims.SpecialBounds ∧ Claims.SpecialOperands

/-- FMIN and FMAX give the lesser or greater operand as values, -0 below +0, and the canonical NaN for a NaN operand; COVER keeps a mask's
bit where the edge's exact value at the pixel is above zero, or at zero by the tie rule; TEXW gives the footprint's fractions in units of
2^-8 (06 R141; 10 R258, R261, R263). -/
def Claims.LaneArithmetic : Prop :=
  (∀ (least : Bool) (a b : Word), let c := minMax32 least a b
    let u := fun (w : Word) => Claims.units (val32 w)
    ((val32 a = .nan ∨ val32 b = .nan) → c = 0x7FC00000) ∧
    (∀ s m t n, val32 a = .fin s m → val32 b = .fin t n → (c = a ∨ c = b) ∧ u c = (if least then min (u a) (u b) else max (u a) (u b)) ∧
      (u a = 0 → u b = 0 → c.getLsbD 31 = if least then a.getLsbD 31 || b.getLsbD 31 else a.getLsbD 31 && b.getLsbD 31)) ∧
    (∀ s, val32 a = .inf s → val32 b ≠ .nan → c = if s = least then a else b) ∧
    (∀ s, val32 b = .inf s → val32 a ≠ .nan → c = if s = least then b else a)) ∧
  (∀ (d a b : Word) (i : Nat), i < 32 →
    let x := (a.setWidth 16).toInt
    let y := ((a >>> 16).setWidth 16).toInt
    let e := b.toInt + x * (i % 4 : Nat) + y * (i / 4 : Nat)
    ((coverWord d a b).getLsbD i = true ↔ i < 16 ∧ d.getLsbD i = true ∧ (0 < e ∨ (e = 0 ∧ (0 < x ∨ (x = 0 ∧ 0 < y)))))) ∧
  ∀ (a b : Word), let part := fun (u log : Nat) => (((u * 2 ^ log : Nat) : Int) - 2 ^ 15) % 2 ^ 16
    ((texWeights a b).toNat : Int) = (part (a.toNat % 2 ^ 16) (b.toNat % 16) + 128) / 256
      + 2 ^ 16 * ((part (a.toNat / 2 ^ 16) (b.toNat / 16 % 16) + 128) / 256)

/-- Selections, moves, ROUTE, SHFL, RDSV and the lane values that raise no flag: D takes the value in the lanes the form
writes; nothing else changes (05 R119-R123; 06 R141, R143, R145, R154, R158, R159; 10 R258, R263, R273). -/
def Claims.MovedLanes : Prop :=
  ∀ (s : State) (g : Issue) (r : Crew) (i : Instr) (d : VReg) (m : LaneMask) (f : Nat → Word),
    Spec.moves s g.crew r g.hints i = some (d, m, f) → Runs s g r i → s.seated r →
    ∃ u, WritesV s u r (fun n l => n = d.toNat ∧ m.getLsbD l = true) (fun _ l => f l) ∧ exec i s = .next (s.finish u g r)

/-- The lane values that raise no flag, and the arithmetic of FMIN, FMAX, COVER and TEXW (05 R119-R123; 06 R141, R143, R145, R154, R158,
R159; 10 R258, R261, R263, R273). -/
def Obligations.MovedLanes : Prop := Claims.MovedLanes ∧ Claims.LaneArithmetic

/-- The floating-point, packed, conversion and reduction instructions: D takes each lane's value, FFLAGS gains exactly the
flags that some written lane raises, and nothing else changes (06 R136-R153, R161, R162). -/
def Claims.FloatLanes : Prop :=
  ∀ (s : State) (g : Issue) (r : Crew) (i : Instr) (d : VReg) (m : LaneMask) (f : Nat → Word × FFlags),
    Spec.floats s r g.hints i = some (d, m, f) → Runs s g r i → s.seated r →
    ∃ u fl, WritesV s u r (fun n l => n = d.toNat ∧ m.getLsbD l = true) (fun _ l => (f l).1) ∧
      (∀ b, b < 6 → (fl.getLsbD b = true ↔ r.flags.getLsbD b = true ∨
        ∃ l, l < 32 ∧ m.getLsbD l = true ∧ (f l).2.getLsbD b = true)) ∧
      exec i s = .next (s.finish (u.putCrew g.crew { r with flags := fl }) g r)

/-- The instructions that raise sticky flags, and what their values and flags are of the exact results (04 R77-R97, R103; 06 R136-R153,
R161, R162). -/
def Obligations.FloatLanes : Prop := Claims.FloatLanes ∧ Claims.FloatArithmetic

/-- ADD64 and LEA: the pair D takes the pair A plus B, sign-extended, or zero-extended and shifted left, modulo 2^64; ADD64
in the active lanes, LEA in the head run (05 R124). -/
def Claims.PairSums : Prop :=
  ∀ (s : State) (g : Issue) (r : Crew) (d a b : VReg), s.seated r →
    let half := fun (x : Nat → Int) (n l : Nat) => if n = d.toNat then Spec.int (x l) else Spec.int (x l / (2 ^ 32 : Nat))
    let pair := fun (l : Nat) =>
      ((s.getV r a.toNat l).toNat + 2 ^ 32 * (s.getV r (a.toNat + 1) l).toNat : Nat)
    let inD := fun (m : LaneMask) (n l : Nat) => (n = d.toNat ∨ n = d.toNat + 1) ∧ m.getLsbD l = true
    (∀ k, Runs s g r (.add64 d a b k) →
      ∃ u, WritesV s u r (inD (r.active k)) (half fun l => pair l + (s.getV r b.toNat l).toInt) ∧
        exec (.add64 d a b k) s = .next (s.finish u g r)) ∧
    (∀ sh, Runs s g r (.lea d a b sh) →
      ∃ u, WritesV s u r (inD r.head) (half fun l => pair l + ((s.getV r b.toNat l).toNat * 2 ^ sh.toNat : Nat)) ∧
        exec (.lea d a b sh) s = .next (s.finish u g r))

/-- The integer and logic instructions, those on pairs with them (05 R107-R117, R124). -/
def Obligations.IntegerLanes : Prop := Claims.IntegerLanes ∧ Claims.PairSums

/-- The comparisons into a mask, VTOK, SCMP and the mask logic: KT takes the new bits, its other bits stay, k0 stays all
ones, and nothing else changes (05 R108, R118, R120, R121, R126). -/
def Claims.MaskResults : Prop :=
  ∀ (s : State) (g : Issue) (r : Crew) (i : Instr) (t : KReg) (f : Nat → Bool),
    Spec.masks s r g.hints i = some (t, f) → Runs s g r i →
    ∃ r', SetsK r r' t f ∧ exec i s = .next (s.finish (s.putCrew g.crew r') g r)

/-- FCMP: the active lanes' bits of KT take the comparison, and FFLAGS gains the flags it raises (06 R142). -/
def Claims.FloatCompare : Prop :=
  ∀ (s : State) (g : Issue) (r : Crew) (cc : FpCond) (t : KReg) (a b : VReg) (k : KReg),
    Runs s g r (.fcmp cc t a b k) →
    let one := fun l => fcmpBit cc (s.getV r a.toNat l) (s.getV r b.toNat l)
    ∃ r' fl, SetsK r r' t (fun l => if (r.active k).getLsbD l then (one l).1 else (r.kreg t).getLsbD l) ∧
      (∀ i, i < 6 → (fl.getLsbD i = true ↔ r.flags.getLsbD i = true ∨
        ∃ l, l < 32 ∧ (r.active k).getLsbD l = true ∧ (one l).2.getLsbD i = true)) ∧
      exec (.fcmp cc t a b k) s = .next (s.finish (s.putCrew g.crew { r' with flags := fl }) g r)

/-- FCMP's conditions as values: on finite operands the order of their values, -0 equal to +0; with a NaN only NE and UN hold, and LT, LE, GT
and GE are invalid; an infinity is beyond every finite value (06 R142, Table 6.4). -/
def Claims.FloatOrder : Prop :=
  ∀ (cc : FpCond) (a b : Word),
    let holds : Int → Int → Bool := fun x y => match cc with
      | .eq => decide (x = y)
      | .ne => decide (x ≠ y)
      | .lt => decide (x < y)
      | .le => decide (x ≤ y)
      | .gt => decide (y < x)
      | .ge => decide (y ≤ x)
      | .un => false
      | .ord => true
    let u := fun (w : Word) => Claims.units (val32 w)
    (∀ s m t n, val32 a = .fin s m → val32 b = .fin t n → fcmpBit cc a b = (holds (u a) (u b), 0)) ∧
    (∀ s t m, val32 a = .inf s → val32 b = .fin t m → fcmpBit cc a b = (holds (if s then -1 else 1) 0, 0) ∧
      fcmpBit cc b a = (holds 0 (if s then -1 else 1), 0)) ∧
    (∀ s t, val32 a = .inf s → val32 b = .inf t → fcmpBit cc a b = (holds (if s then -1 else 1) (if t then -1 else 1), 0)) ∧
    ((val32 a = .nan ∨ val32 b = .nan) → fcmpBit cc a b = (decide (cc = .ne ∨ cc = .un),
      if cc = .lt ∨ cc = .le ∨ cc = .gt ∨ cc = .ge then fNV else 0))

/-- The instructions that write mask registers (05 R108, R118, R120, R121, R126; 06 R142). -/
def Obligations.MaskResults : Prop := Claims.MaskResults ∧ Claims.FloatCompare ∧ Claims.FloatOrder

/-- The scalar instructions, and those that read a value into a scalar: D takes it modulo 2^64, once for the crew, s0 stays
0, and nothing else changes (05 R108, R123, R125; 06 R160, R163; 10 R265, R273, R275, R277). -/
def Obligations.ScalarResults : Prop :=
  ∀ (s : State) (g : Issue) (r : Crew) (i : Instr) (d : SReg) (v : DWord),
    Spec.scalars s g.crew r g.hints i = some (d, v) → Runs s g r i →
    ∃ r', SetsS r r' d v ∧ exec i s = .next (s.finish (s.putCrew g.crew r') g r)

/-- ROUTESET, the FFLAGS writes, RNGKEY, GANG and WRSV: the one register named takes its value; nothing else changes. GANG
and WRSV are without the faults of their operand; WRSV makes the count read the value after the group (06 R157, R163; 08
R220; 10 R271, R274). -/
def Obligations.CrewRegisterWrites : Prop :=
  ∀ (s : State) (g : Issue) (r : Crew) (a : SReg),
    let done := fun (i : Instr) (x : Crew) => exec i s = .next (s.finish (s.putCrew g.crew x) g r)
    (∀ (q : QReg) (b : VReg), Runs s g r (.routeset q b) →
      ∃ x, SetsQ r x q (BitVec.ofNat 144 (((List.range 5).map fun j => (s.getV r b.toNat j).toNat * 2 ^ (32 * j)).sum)) ∧
        done (.routeset q b) x) ∧
    (Runs s g r (.fwflags a) → done (.fwflags a) { r with flags := (r.sreg a).setWidth 6 }) ∧
    (Runs s g r (.fcflags a) → done (.fcflags a) { r with flags := r.flags &&& ~~~ (r.sreg a).setWidth 6 }) ∧
    (Runs s g r (.frcflags a) →
      ∃ x, SetsS r x a (BitVec.ofNat 64 r.flags.toNat) ∧ done (.frcflags a) { x with flags := 0 }) ∧
    (Runs s g r (.rngkey a) → done (.rngkey a) { r with rngKey := r.sreg a, rngSel := true, rngIdx := [] }) ∧
    (Runs s g r (.gang a) → s.gangFaultOf r (r.sreg a) = none →
      ∃ x, x.gang = (r.sreg a).setWidth 48 ∧ x.matrix = r.matrix ∧ x.pair = r.pair ∧ x.priv = r.priv ∧
        { x with mode := r.mode } = r ∧ done (.gang a) x) ∧
    (∀ id, Runs s g r (.wrsv a id) → (r.sreg a).toNat < 2 ^ 48 →
      done (.wrsv a id) { r with retired := BitVec.ofNat 48 ((r.sreg a).toNat + 2 ^ 48 - 1) })

/-- BR, BRS and J: each lane of the head run goes to the target, where its test holds, or past the group; the other lanes
and all else stay (05 R127-R130). -/
def Claims.Branches : Prop :=
  ∀ (s : State) (g : Issue) (r : Crew) (i : Instr) (f : Nat → PC), Spec.branch s g r i = some f → Runs s g r i →
    ∃ r', MovesHead r r' f ∧ exec i s = .next (s.finishMoved (s.putCrew g.crew r') g r)

/-- JR: the active lanes of the head run go to the addresses in their pairs and its other lanes past the group; a target
that is not a multiple of 4, or not canonical, is the lane's Misaligned or Translation at level 0 (05 R131). -/
def Claims.RegisterJump : Prop :=
  ∀ (s : State) (g : Issue) (r : Crew) (a : VReg) (k : KReg), Runs s g r (.jr a k) →
    let t := fun (l : Nat) => s.getV2 r a.toNat l
    let bad := (lanesOf (r.active k)).filterMap fun l =>
      if (t l).toNat % 4 ≠ 0 then some (l, ({ code := 0x05, level := 0, addr := t l, detail := 0 } : LaneFault))
      else if ((t l).setWidth 57).signExtend 64 ≠ t l then some (l, { code := 0x06, level := 0, addr := t l, detail := 0 })
      else none
    (bad = [] → ∃ r', MovesHead r r' (fun l => if (r.active k).getLsbD l then (t l).setWidth 57 else g.next) ∧
      exec (.jr a k) s = .next (s.finishMoved (s.putCrew g.crew r') g r)) ∧
    (∀ w, worstOf bad = some w → exec (.jr a k) s = .next (s.finishFault s g r w))

/-- The branches: BR, BRS, J and JR (05 R127-R131). -/
def Obligations.Branches : Prop := Claims.Branches ∧ Claims.RegisterJump

/-- CALL and CALLR: each lane that calls pushes the address past the group and goes to its target; a push that overflows
the on-chip entries stores the oldest at its spill slot, in one store event; RSOVF and the depth are the stack's (05 R130,
R131; 01 R26, R27). -/
def Claims.Calls : Prop :=
  ∀ (s : State) (g : Issue) (r : Crew) (i : Instr) (m : LaneMask) (tgt : Nat → PC),
    ((∃ off, i = .call off ∧ m = r.head ∧ tgt = fun _ => Spec.target g.wordAddr (Spec.immInt g.hints off)) ∨
      ∃ a k, i = .callr a k ∧ m = r.active k ∧ targetFaults a k s r = [] ∧
        tgt = fun l => (s.getV2 r a.toNat l).setWidth 57) →
    Runs s g r i →
    let a := s.auxOf g.crew
    let ls := (lanesOf m).filter fun l => decide (16 ≤ (r.rstack l).depth) && a.rsEnt != 0
    let chk := s.gatherLanes (viaOf r) (s.ctxOf r) r.priv (spillAccs a r ls)
    chk.1 = [] →
    let t := if ls = [] then s else
      chk.2.2.storeEvent g.crew .write none .dflt ((ls.head?.map fun l => a.spillAddr ((r.rstack l).ptr % a.rsEnt) l).getD 0) 8
        (chk.2.1.map fun p => (p.2.1, p.2.2, leBytes 8 ((r.rstack p.1).chip.headD 0).toNat))
    ∃ r', { r' with pcs := r.pcs, rstk := r.rstk } = r ∧
      (∀ l, l < 32 → r'.rstack l = if m.getLsbD l then (r.rstack l).push a.rsEnt g.next else r.rstack l) ∧
      (∀ l, l < 32 → r'.pc l = if r.head.getLsbD l then (if m.getLsbD l then tgt l else g.next) else r.pc l) ∧
      exec i s = .next (s.finishMoved (t.putCrew g.crew r') g r)

/-- RET: each lane of the head run goes to its newest entry, which is popped; above depth 16 the entry at its spill slot is
loaded as the new oldest on chip (the value stated where the caches have room for its line, no store of the crew delays it, and no
lower lane fills its sector); a lane with an empty stack is Return-stack Underflow (05 R132, 01 R26). -/
def Claims.Returns : Prop :=
  ∀ (s : State) (g : Issue) (r : Crew), Runs s g r .ret →
    ((∀ l, l < 32 → r.head.getLsbD l = true → 0 < (r.rstack l).depth ∧ (r.rstack l).depth ≤ 16) →
      ∃ r', { r' with pcs := r.pcs, rstk := r.rstk } = r ∧
        (∀ l, l < 32 → r'.rstack l = if r.head.getLsbD l then (r.rstack l).pop (s.auxOf g.crew).rsEnt 0 else r.rstack l) ∧
        (∀ l, l < 32 → r'.pc l = if r.head.getLsbD l then (r.rstack l).top else r.pc l) ∧
        exec .ret s = .next (s.finishMoved (s.putCrew g.crew r') g r)) ∧
    (∀ m : LaneMask, (∀ l, l < 32 → m.getLsbD l = (r.head.getLsbD l && (r.rstack l).depth == 0)) → m ≠ 0 →
      exec .ret s = .next (s.finishFault s g r
        { lanes := m, fault := { code := 0x16, level := 0, addr := 0, detail := 0 } })) ∧
    ∀ t ps, (∀ l, l < 32 → r.head.getLsbD l = true → 0 < (r.rstack l).depth) →
      let a := s.auxOf g.crew
      s.checkLanes (viaOf r) (s.ctxOf r) r.priv (((lanesOf r.head).filter fun l => decide (16 < (r.rstack l).depth)).map
        fun l => (l, { va := a.spillAddr ((r.rstack l).refillSlot a.rsEnt) l, size := 8, align := 8, kind := .read, wr := true,
                       ww := false, atL2 := false })) = (.ok ps, t) →
      (∀ p ∈ ps, t.l1Able p.2.1 p.2.2 = true ∧ t.undelayed g.crew r p.2 8) → t.roomFor r.core (linesAt (ps.map (·.2)) 8) →
      ∃ u r', OnlyMemory t u g.crew ∧ { r' with pcs := r.pcs, rstk := r.rstk } = r ∧
        (∀ l, l < 32 → r.head.getLsbD l = false → r'.rstack l = r.rstack l) ∧
        (∀ l, l < 32 → r.head.getLsbD l = true → (r.rstack l).depth ≤ 16 → r'.rstack l = (r.rstack l).pop a.rsEnt 0) ∧
        (∀ pre p post, ps = pre ++ p :: post → (∀ q ∈ pre, t.leaves r.core 8 q.2 p.2) →
          r'.rstack p.1 = (r.rstack p.1).pop a.rsEnt (BitVec.ofNat 57 (leVal (t.sees g.crew r p.2.1 p.2.2 8)))) ∧
        (∀ l, l < 32 → r'.pc l = if r.head.getLsbD l then (r.rstack l).top else r.pc l) ∧
        exec .ret s = .next (s.finishMoved (u.putCrew g.crew r') g r)

/-- A return finds what the call pushed, and leaves the stack as it was before the call, whether the entry stayed on chip
or went through memory, until RSOVF (01 R26, R27). -/
def Claims.ReturnStacksNest : Prop :=
  ∀ (k : RStack) (e : Nat) (p : PC), k.depth < 16 + e → k.chip.length = min k.depth 16 → (e ≠ 0 → k.ptr < e) →
    (k.push e p).top = p ∧
    (16 ≤ k.depth → (k.push e p).refillSlot e = k.ptr) ∧
    (k.push e p).pop e (k.chip.headD 0) = k

/-- CALL, CALLR and RET, and their return stacks (05 R130-R132; 01 R26, R27). -/
def Obligations.CallsAndReturns : Prop := Claims.Calls ∧ Claims.Returns ∧ Claims.ReturnStacksNest

/-- EXIT: the head run's lanes exit; with the last live lanes the crew ends, or is saved where it ran the save routine of a
pre-emption, which a restore routine is not; until then nothing else changes (01 R19; 05 R133; 14 R366, R368). -/
def Claims.Exits : Prop :=
  ∀ (s : State) (g : Issue) (r : Crew), Runs s g r .exit →
    let a := s.auxOf g.crew
    let saves := a.trap.nesting = true ∧ a.trap.cause = 0x20 ∧ a.restored = false
    (r.head ≠ r.live →
      exec .exit s = .next (s.finishMoved (s.putCrew g.crew { r with exited := r.exited ||| r.head }) g r)) ∧
    (r.head = r.live → ¬ saves →
      exec .exit s = .next (s.finishMoved (s.endCrew g.crew) g r) ∧
        ∃ r', (s.endCrew g.crew).crews.find g.crew = some r' ∧ r'.phase = .exited ∧ r'.live = 0) ∧
    (r.head = r.live → saves →
      exec .exit s = .next (s.finishMoved (s.saveCrew g.crew r) g r) ∧
        ∃ r', (s.saveCrew g.crew r).crews.find g.crew = some r' ∧ r'.phase = .saved)

/-- NOP, WAITT once TIME has come, and YIELD, which makes its crew the most recently issued of its partition: nothing else
changes (05 R134, 10 R276). -/
def Claims.IdleGroups : Prop :=
  ∀ (s : State) (g : Issue) (r : Crew),
    (Runs s g r .nop → exec .nop s = .next (s.finish s g r)) ∧
    (∀ a, Runs s g r (.waitt a) → (r.sreg a).toNat ≤ s.time.toNat ∧ exec (.waitt a) s = .next (s.finish s g r)) ∧
    (Runs s g r .yield → exec .yield s = .next (s.finish (s.moveRecent g.crew r) g r) ∧
      ((s.moveRecent g.crew r).pn r.pkey).recency.getLast? = some g.crew ∧
      { s.moveRecent g.crew r with partitions := s.partitions } = s)

/-- EXIT, NOP, WAITT and YIELD (05 R133, R134; 10 R276; 14 R366). -/
def Obligations.ExitsAndIdleGroups : Prop := Claims.Exits ∧ Claims.IdleGroups

/-! ## Memory, the bank, fences, barriers and tiles (07, 11, 12) -/

/-- LD, LDB and LDX, when no lane fails a check: D takes the bytes at each active lane's address, widened, and is noted as
returning; only memory's own records change beside it. On cacheable local pages, where the caches have room for the lines and no store
of the crew delays the load, a plain load's bytes are the crew's newest pending store's, else its core's L1's where that holds them all
or has stored them, else the slice's, for each lane whose sectors no lower lane fills, nor, loading past the L1, takes from it; that a
group's loads bind in order at its issue
is the model's (log entry 10) (07 R173, R198; 11 R286, R291; 12 R309). -/
def Obligations.Loads : Prop :=
  ∀ (s t : State) (g : Issue) (r : Crew) (i : Instr) (x : Spec.Load) (ps : List (Nat × MemTag × Nat)),
    Spec.loads s r g.hints i = some x → Runs s g r i → s.seated r →
    let acq := (orderOf g.hints (.plain, .crew)).1.acq
    s.checkLanes (viaOf r) (s.ctxOf r) r.priv (lanesAcc x.m x.addr x.n x.n .read true false acq) = (.ok ps, t) →
    ∃ u v f, WritesV s u r (fun n l => x.d.toNat ≤ n ∧ n < x.d.toNat + x.regs ∧ x.m.getLsbD l = true) f ∧
      OnlyMemory u v g.crew ∧ exec i s = .next (s.finish v g r) ∧
      (x.m ≠ 0 → ∃ e, (v.auxOf g.crew).returning.getLast? = some e ∧ e.sregs = [] ∧ e.kregs = [] ∧ e.lost = none ∧
        ∀ n, n ∈ e.regs ↔ x.d.toNat ≤ n ∧ n < x.d.toNat + x.regs) ∧
      (acq = false → (∀ p ∈ ps, t.l1Able p.2.1 p.2.2 = true ∧ t.undelayed g.crew r p.2 x.n) →
        t.roomFor r.core (linesAt (ps.map (·.2)) x.n) →
        ∀ pre p post, ps = pre ++ p :: post → (∀ q ∈ pre, t.leaves r.core x.n q.2 p.2) →
          (skipsL1 (cacheOf g.hints) = false ∨ (∀ q ∈ pre, q.2.1.ckey (q.2.2 / 128) ≠ p.2.1.ckey (p.2.2 / 128)) ∨
            ∃ o, o < x.n ∧ Sparse.get none (t.coreOf r.core).l1 (p.2.1.ckey (p.2.2 + o)) = none) → ∀ j, j < x.regs →
          f (x.d.toNat + j) p.1 = BitVec.ofNat 32 (leVal (((x.ext (t.sees g.crew r p.2.1 p.2.2 x.n)).drop (4 * j)).take 4)))

/-- A load, store or maintenance instruction with a lane that fails a check commits nothing and traps with the first code
in the order of faults, its lanes marked (07 R168, 14 R358). -/
def Claims.AccessFaults : Prop :=
  ∀ (s t : State) (g : Issue) (r : Crew) (i : Instr) (w : LaneTrap), Runs s g r i →
    (∀ x, Spec.loads s r g.hints i = some x →
      s.checkLanes (viaOf r) (s.ctxOf r) r.priv (lanesAcc x.m x.addr x.n x.n .read true false
        (orderOf g.hints (.plain, .crew)).1.acq) = (.error w, t) →
      exec i s = .next (s.finishFault t g r w)) ∧
    (∀ x, Spec.stores s r g.hints i = some x →
      s.checkLanes (viaOf r) (s.ctxOf r) r.priv (lanesAcc x.m x.addr x.n x.n
        (if x.kind = .write then .write else .maint) false (x.kind == .write)) = (.error w, t) →
      exec i s = .next (s.finishFault t g r w))

/-- What a group reports of the active lanes' faults: the first code in R358's order that any lane raises, every lane that raised it,
and the fault of the lowest of those lanes (07 R168; 14 R358). -/
def Claims.Reports (m : LaneMask) (bad : Nat → LaneFault → Prop) (w : LaneTrap) : Prop :=
  let rank := fun (f : LaneFault) =>
    ([0x05, 0x06, 0x08, 0x07, 0x09, 0x0A, 0x0B, 0x0F, 0x10, 0x11, 0x14] : List (BitVec 8)).idxOf f.code
  (∃ l, l < 32 ∧ m.getLsbD l = true ∧ bad l w.fault ∧ ∀ l' f, l' < 32 → m.getLsbD l' = true → bad l' f →
    rank w.fault ≤ rank f ∧ (f.code = w.fault.code → l ≤ l')) ∧
  ∀ l, l < 32 → (w.lanes.getLsbD l = true ↔ m.getLsbD l = true ∧ ∃ f, bad l f ∧ f.code = w.fault.code)

/-- The atomics: an accumulator that crosses a 4 KiB boundary is Misaligned, as an unaligned lane is, and any lane that fails a check
stops the whole group; a page that cannot be written, or whose attribute is write-combining, lossless or bounded view, is Permission at
the leaf's level, for a read by XRD too (04 R100; 07 R168, R187; 14 R358). -/
def Claims.AtomicFaults : Prop :=
  (∀ (s t : State) (g : Issue) (r : Crew) (i : Instr) (x : Spec.Atomic) (good : LaneMask) (fs : List (Nat × LaneFault))
    (ps : List (Nat × MemTag × Nat)) (w : LaneTrap), Spec.atomics s g r i = some x → Runs s g r i →
    let crosses := fun (l : Nat) => x.n = 64 ∧ 4096 < (x.addr l).toNat % 4096 + 64
    (∀ l, l < 32 → (good.getLsbD l = true ↔ x.m.getLsbD l = true ∧ ¬ crosses l)) →
    s.gatherLanes (viaOf r) (s.ctxOf r) r.priv (lanesAcc good x.addr x.n x.align .atomic true true) = (fs, ps, t) →
    Claims.Reports x.m (fun l f => (crosses l ∧ f = { code := 0x05, level := 0, addr := x.addr l, detail := 0 }) ∨ (l, f) ∈ fs) w →
    exec i s = .next (s.finishFault t g r w)) ∧
  ∀ (s t : State) (via : Option Nat) (ctx : Nat) (priv : Bool) (q : LaneAcc) (l : Leaf), q.kind = .atomic →
    q.va.toNat % q.align = 0 → canonical q.va = true → s.findLeaf via ctx (q.va.toNat % 2 ^ 57) .atomic = (.ok l, t) →
    (l.pte.getLsbD 2 = false ∨ l.tag.attr = 2 ∨ l.tag.attr = 4 ∨ l.tag.attr = 5) →
    (s.checkLane via ctx priv q).1 = .error { code := 0x07, level := BitVec.ofNat 8 l.level, addr := q.va, detail := 0 }

/-- LDS, STS and ZTEST: a lane whose bank address is not a multiple of its width is Misaligned, and one outside the block's parts or its
part's window Bank Bounds. LDT: a tile above the count, EMPTY or without a size is Tile State for every active lane; then an offset that is
not a multiple of the width is Misaligned, and one that is negative or ends outside the tile Bank Bounds; the address that a fault of LDT
records is the lane's logical offset (log entry 24) (01 R30; 07 R168, R174, R181; 10 R259; 14 R358). -/
def Claims.BankFaults : Prop :=
  ∀ (s : State) (g : Issue) (r : Crew) (w : LaneTrap) (k : KReg),
    let m := r.active k
    let fails := fun (i : Instr) => exec i s = .next (s.finishFault s g r w)
    let fault := fun (code : BitVec 8) (va : DWord) => ({ code := code, level := 0, addr := va, detail := 0 } : LaneFault)
    let bank := fun (va : Nat → DWord) (n : Nat) => Claims.Reports m (fun l f =>
      let j := (va l).toNat / 2 ^ 22 % 8
      let out := 2 ^ 25 ≤ (va l).toNat ∨ s.spreadOf r ≤ j ∨ s.windowSize r j < (va l).toNat % 2 ^ 22 + n
      ((va l).toNat % n ≠ 0 ∧ f = fault 0x05 (va l)) ∨ ((va l).toNat % n = 0 ∧ out ∧ f = fault 0x09 (va l))) w
    (∀ d a b x, (Runs s g r (.lds d a b x k) → bank (Spec.addrSA s r g.hints a b) x.bytes → fails (.lds d a b x k)) ∧
      (Runs s g r (.sts d a b x k) → bank (Spec.addrSA s r g.hints a b) x.bytes → fails (.sts d a b x k))) ∧
    (∀ c p a b, Runs s g r (.ztest c p a b k) → bank (fun l => (s.getV r a.toNat l).setWidth 64) 4 → fails (.ztest c p a b k)) ∧
    ∀ d a t x, Runs s g r (.ldt d a t x k) →
      let e := s.tile r t.toNat
      let off := fun l => (s.getV r a.toNat l).setWidth 64 + offOf g.hints
      let unusable := s.tileCount r ≤ t.toNat ∨ e.state = .empty ∨ e.size = 0
      (unusable → w = { lanes := m, fault := fault 0x0A 0 } → fails (.ldt d a t x k)) ∧
      (¬ unusable → Claims.Reports m (fun l f =>
          ((off l).toNat % x.bytes ≠ 0 ∧ f = fault 0x05 (off l)) ∨ ((off l).toNat % x.bytes = 0 ∧
            ((off l).toInt < 0 ∨ 128 * e.size.toNat < (off l).toNat + x.bytes) ∧ f = fault 0x09 (off l))) w → fails (.ldt d a t x k))

/-- WLD, MMA, ACCLD and ACCST: a tile above the part's count, without a size, or in a state that cannot be read, EMPTY, or for ACCST
written, FILLING, is Tile State; one that is smaller than what the instruction touches is Bank Bounds. A WLD that faults leaves no planes
that it took while it waited. A gang's MMA checks its tile as its leader, until it has arrived (08 R205, R207, R212). -/
def Claims.TileFaults : Prop :=
  ∀ (s : State) (g : Issue) (r : Crew) (t : TReg) (code : BitVec 8),
    let e := s.tile r t.toNat
    let bad := fun (state : TileSt) (n : Nat) =>
      let unusable := s.tileCount r ≤ t.toNat ∨ e.state = state ∨ e.size = 0
      (unusable ∧ code = 0x0A) ∨ (¬ unusable ∧ 128 * e.size.toNat < n ∧ code = 0x09)
    let fails := fun (i : Instr) (u : State) => exec i s = .next (s.finishFault u g r (raised r code))
    (∀ sb f, Runs s g r (.wld sb t f) → bad .empty (1024 * (sb.toNat + 1)) →
      let u := s.onCrew g.crew fun r => { r with begunWld := false, tookPlanes := false }
      (r.tookPlanes = false → fails (.wld sb t f) u) ∧
      (r.tookPlanes = true → fails (.wld sb t f) (u.onPn r.pkey fun p => { p with
        planeOwner := none, front := { bytes := [], fmt := 0, valid := false }, shadow := { bytes := [], fmt := 0, valid := false } }))) ∧
    (∀ n tr z gang sb f, Runs s g r (.mma n tr z gang sb t f) →
      (gang = false ∨ (g.crew = leaderOf r ∧ s.arrivedIn g.crew r = false)) → bad .empty (1024 * (sb.toNat + 1)) →
      fails (.mma n tr z gang sb t f) s) ∧
    (∀ n c, Runs s g r (.accld n t c) → bad .empty (1024 * convBytes c) → fails (.accld n t c) s) ∧
    (∀ n c, Runs s g r (.accst n t c) → bad .filling (1024 * convBytes c) → fails (.accst n t c) s)

/-- GANG: bits above its six members are Reserved Bit; members that are not two to six distinct crews of the block, all on the crew's own
part, the crew among them, no two at one place modulo 32, are Gang Mismatch, unless all six are absent, which clears the register (08
R220). -/
def Claims.GangFaults : Prop :=
  ∀ (s : State) (g : Issue) (r : Crew) (a : SReg), Runs s g r (.gang a) →
    let v := (r.sreg a).toNat
    let crews := (s.packetOf r).crews.toNat
    let q := perPart crews (s.spreadOf r)
    let G := fun (i : Nat) => v / 256 ^ i % 256
    let good := fun (k : Nat) => 2 ≤ k ∧ k ≤ 6 ∧ (∀ i, i < 6 → (G i = 0xFF ↔ k ≤ i)) ∧
      (∀ i, i < k → G i < crews ∧ G i / q = r.index / q) ∧ (∃ i, i < k ∧ G i = r.index) ∧
      ∀ i j, i < j → j < k → G i ≠ G j ∧ G i % q % 32 ≠ G j % q % 32
    let none_ := ∀ i, i < 6 → G i = 0xFF
    (2 ^ 48 ≤ v → exec (.gang a) s = .next (s.finishFault s g r (raised r 0x08))) ∧
    (v < 2 ^ 48 → ¬ none_ → (∀ k, ¬ good k) → exec (.gang a) s = .next (s.finishFault s g r (raised r 0x0D))) ∧
    (v < 2 ^ 48 → (none_ ∨ ∃ k, good k) → ∃ x, x.gang = BitVec.ofNat 48 v ∧ { x with mode := r.mode } = r ∧
      x.matrix = r.matrix ∧ x.pair = r.pair ∧ x.priv = r.priv ∧ exec (.gang a) s = .next (s.finish (s.putCrew g.crew x) g r))

/-- The checks of SPAWN's frame, in the order of R234's table: its zero bits, JSCOPE and counter; the alignment of its two PCs; its region
slot, its class, its counter where another context holds that. A TAKE beyond four held frames is Deque Spill with detail 2 (09 R234,
R236). -/
def Claims.SpawnFaults : Prop :=
  ∀ (s : State) (g : Issue) (r : Crew) (a : VReg),
    let f := (s.frameIn r a).toNat
    let ctx := s.ctxOf r
    let bits := fun (lo n : Nat) => f / 2 ^ lo % 2 ^ n
    let reserved := bits 60 4 ≠ 0 ∨ bits 188 4 ≠ 0 ∨ bits 254 2 ≠ 0 ∨ 5 ≤ bits 185 3 ∨ 255 < bits 224 16
    let unaligned := bits 0 2 ≠ 0 ∨ bits 128 2 ≠ 0
    let refused := s.region ctx (bits 240 8) = none ∨ bits 57 2 < s.classOf ctx (bits 240 8) ∨
      (bits 224 16 ≠ 0 ∧ s.heldCtr r.core ctx (bits 224 16) = true)
    (Runs s g r (.spawn a) → ∀ code : BitVec 8,
      (reserved ∧ code = 0x08) ∨ (¬ reserved ∧ unaligned ∧ code = 0x05) ∨ (¬ reserved ∧ ¬ unaligned ∧ refused ∧ code = 0x07) →
      exec (.spawn a) s = .next (s.finishFault s g r (raised r code))) ∧
    (Runs s g r (.take a) → 4 ≤ (s.auxOf g.crew).frames.length → exec (.take a) s = .next (s.finishFault s g r
      { lanes := r.head, fault := { code := 0x10, level := 0, addr := 0, detail := 2 } }))

/-- The checks of COPY and COPYCB, in R246's order: the completion word; for a fill or drain, its tile's number, size, state and swizzle;
a counter that another context holds; then the lanes, where an offset in the tile is Misaligned or Bank Bounds. A COPYCB of a block
without a codebook is Codebook Tag first. CBSET's one check is that of its 4096 bytes (09 R244, R246, R252, R253; 07 Table 7.4). -/
def Claims.CopyFaults : Prop :=
  (∀ (s : State) (g : Issue) (r : Crew) (i : Instr) (q : BitVec 2) (c : SReg) (a b : VReg) (codebook : Bool) (size : Nat),
    ((∃ z, i = .copy q c a b z ∧ codebook = false ∧ size = copyBytes z) ∨ (i = .copycb q c a b ∧ codebook = true ∧ size = 4)) →
    Runs s g r i →
    let v := (r.sreg c).toNat
    let kind := v % 4
    let tile := v / 4 % 32
    let ctr := v / 256 % 256
    let e := s.tile r tile
    let fails := fun (u : State) (w : LaneTrap) => exec i s = .next (s.finishFault u g r w)
    let reserved := v / 128 % 2 ≠ 0 ∨ v / 2 ^ 23 ≠ 0 ∨ kind = 3 ∨ (codebook = true ∧ kind = 2) ∨
      (kind = 0 ∧ (tile ≠ 0 ∨ v / 2 ^ 16 % 16 ≠ 0))
    let unusable := kind ≠ 0 ∧ (s.tileCount r ≤ tile ∨ e.size = 0 ∨ (kind = 1 ∧ (e.state = .ready ∨ e.state = .draining)) ∨
      (kind = 2 ∧ (e.state = .empty ∨ e.state = .filling)))
    let swizzle := kind ≠ 0 ∧ v / 2 ^ 16 % 16 ≠ e.swz.toNat
    let held := ctr ≠ 0 ∧ s.heldCtr r.core (s.ctxOf r) ctr = true
    let absent := codebook = true ∧ s.bookOf r.core r.block = none
    (absent → fails s (raised r 0x0F)) ∧
    (¬ absent → reserved → fails s (raised r 0x08)) ∧
    (¬ absent → ¬ reserved → unusable → fails s (raised r 0x0A)) ∧
    (¬ absent → ¬ reserved → ¬ unusable → swizzle → fails s (raised r 0x0B)) ∧
    (¬ absent → ¬ reserved → ¬ unusable → ¬ swizzle → held → fails s (raised r 0x07)) ∧
    (¬ absent → ¬ reserved → ¬ unusable → ¬ swizzle → ¬ held →
      let j : CopyJob :=
        { crew := g.crew, queue := q.toNat, codebook := codebook, size := size, word := r.sreg c, cache := cacheOf g.hints
          lanes := ((List.range 32).filter fun l => r.live.getLsbD l && (r.kreg (wordMask (r.sreg c))).getLsbD l).map fun l =>
            (l, s.getV2 r a.toNat l, s.getV2 r b.toNat l)
          units := [], seq := s.nextId, origin := s.nextId, moved := false }
      ∀ w t, s.copyLanes r j = (.error w, t) → fails t w)) ∧
  (∀ (s : State) (r : Crew) (e : TileEntry) (va : DWord) (n : Nat) (kind : AccKind),
    let code := fun (c : BitVec 8) => (.error { code := c, level := 0, addr := va, detail := 0 } : Except LaneFault (List (MemTag × Nat)))
    s.copySide r (some e) va n kind = (if va.toNat % n ≠ 0 then code 0x05 else if 128 * e.size.toNat < va.toNat + n then code 0x09
      else .ok [], s)) ∧
  ∀ (s t : State) (g : Issue) (r : Crew) (a : SReg) (e : LaneFault), Runs s g r (.cbset a) →
    s.checkLane (viaOf r) (s.ctxOf r) r.priv
      { va := r.sreg a, size := 4096, align := 4096, kind := .read, wr := true, ww := false, atL2 := true } = (.error e, t) →
    exec (.cbset a) s = .next (s.finishFault t g r { lanes := r.head, fault := e })

/-- The faults of the instructions that access memory, the bank, tiles, gangs, frames and copies: nothing is committed, and the group traps
(07 R168, R174, R181, R187; 08 R207, R220; 09 R234, R246, R252; 14 R358). -/
def Obligations.AccessFaults : Prop :=
  Claims.AccessFaults ∧ Claims.AtomicFaults ∧ Claims.BankFaults ∧ Claims.TileFaults ∧ Claims.GangFaults ∧
    Claims.SpawnFaults ∧ Claims.CopyFaults

/-- ST, STB, STX, CCLEAN and CFLUSH, when no lane fails a check: the group's bytes join the crew's store queue as one event
with its release scope, those to a control page among them; no byte of memory or of a cache changes yet, but that a release store
writes out what its core holds as it issues (log entry 15). A release store of SYSTEM scope releases first, and waits under reason 4 while
a peer has a write to acknowledge, a wait that Table 14.14 does not list (log entry 87) (07 R169, R170, R173, R196; 11 R292, R305; 12
R309). -/
def Obligations.StoresQueue : Prop :=
  ∀ (s t : State) (g : Issue) (r : Crew) (i : Instr) (x : Spec.Store) (ps : List (Nat × MemTag × Nat)),
    Spec.stores s r g.hints i = some x → Runs s g r i →
    s.checkLanes (viaOf r) (s.ctxOf r) r.priv (lanesAcc x.m x.addr x.n x.n
      (if x.kind = .write then .write else .maint) false (x.kind == .write)) = (.ok ps, t) →
    let o := orderOf g.hints (.plain, .crew)
    let rel := x.kind == .write && o.1.rel
    let u0 := if rel && o.2 == .system then t.release g.crew r .system else t
    let u := if rel then u0.releaseAt r.core (u0.wide r o.2) else u0
    let low := (List.range 32).find? fun l => x.m.getLsbD l
    let e : StoreEvent :=
      { seq := u.nextId, crew := g.crew, addr := (low.map x.addr).getD 0, kind := x.kind
        release := if rel then some o.2 else none, cache := if x.kind == .write then cacheOf g.hints else .dflt, width := x.n
        bytes := ps.flatMap fun p => (List.range x.n).map fun j =>
          (p.2.1, { pa := p.2.2 + j, byte := (x.data p.1).getD j 0 }) }
    (rel = true → o.2 = .system → u0.awaiting = true →
      exec i s = .next (g.close r (s.nested g.crew) false (.wait 4 u0))) ∧
    ((rel = true → o.2 = .system → u0.awaiting = false) →
      (ps = [] → exec i s = .next (s.finish u g r)) ∧
      (ps ≠ [] → ∃ v, OnlyMemory u v g.crew ∧ v.mem = u.mem ∧ v.cores = u.cores ∧ v.links = u.links ∧ v.hostIf = u.hostIf ∧
        (v.auxOf g.crew).storeQ = (u.auxOf g.crew).storeQ ++ [e] ∧ v.nextId = u.nextId + 1 ∧
        exec i s = .next (s.finish v g r)))

/-- STORE_EVENT_PERFORM: the oldest event of a crew's queue is performed, once every load or atomic that the crew issued before it
has its peers' answers. Where the caches have room for its lines, a plain store to
cacheable local pages lands in the core's L1, dirty, at its own bytes alone, and one with policy retain marks its line in the L2; one
that the L1 does not hold lands at its slice, where every other byte stays, of its lines at least as its own key reads them; a byte that
several lanes store takes the highest lane's value, whichever page each lane used; the lanes of one to this device's registers act
there, in lane order; CCLEAN leaves its lines clean, without a byte that was stored going, and CFLUSH in neither cache (07 R169, R196; 11
R287, R289, R305; 12 R308, R309, R311). -/
def Obligations.StoresPerform : Prop :=
  ∀ (s : State) (c : Nat) (r : Crew) (e : StoreEvent) (rest : List StoreEvent), s.crews.find c = some r →
    (s.auxOf c).storeQ = e :: rest →
    let owed := ∃ x ∈ (s.auxOf c).returning, x.group ≠ 0 ∧ x.group < e.seq ∧ x.lost = none ∧
      ∃ p ∈ s.links.peers, ∃ f ∈ p.2.unacked, f.group = x.group ∧ ∃ y ∈ f.sources, y.1 = c
    (owed → exec (.storeEventPerform c) s = .next s) ∧
    (¬ owed → ∃ u, exec (.storeEventPerform c) s = .next u ∧ (u.auxOf c).storeQ = rest ∧ OnlyMemory s u c ∧
      (e.kind = .write → e.release = none → (∀ b ∈ e.bytes, s.onDevice b.1 b.2.pa = true) → u.mem = s.mem ∧
        u.hostIf = ((List.range (e.bytes.length / e.width)).foldl (fun v i =>
          v.mmioWrite (((e.bytes.drop (e.width * i)).take e.width).map fun b => (b.2.pa, b.2.byte))) s).hostIf) ∧
      (e.kind = .write → e.release = none → (s.coreOf r.core).wc = [] →
        s.roomFor r.core (linesAt (e.bytes.map fun b => (b.1, b.2.pa)) 1) →
        (e.cache = .dflt ∨ e.cache = .retain → (∀ b ∈ e.bytes, s.l1Able b.1 b.2.pa = true) →
          { u.mem with poison := s.mem.poison, lines := s.mem.lines } = s.mem ∧
          (e.cache = .dflt → u.mem.lines = s.mem.lines) ∧
          (e.cache = .retain → ∀ b ∈ e.bytes, (∀ x ∈ e.bytes, x.1.ckey (x.2.pa / 128) = b.1.ckey (b.2.pa / 128)) →
            (u.mem.lines.find (b.1.ckey (b.2.pa / 128))).map (·.mark) = some .retained) ∧
          (∀ b bs bs', e.bytes = bs ++ b :: bs' → (∀ x ∈ bs', x.1.ckey x.2.pa ≠ b.1.ckey b.2.pa) →
            Sparse.get none (u.coreOf r.core).l1 (b.1.ckey b.2.pa) = some { val := b.2.byte, dirty := true }) ∧
          (∀ k n, (n = r.core → ∀ b ∈ e.bytes, b.1.ckey b.2.pa ≠ k) →
            Sparse.get none (u.coreOf n).l1 k = Sparse.get none (s.coreOf n).l1 k)) ∧
        (∀ t, (∀ b ∈ e.bytes, b.1 = t) → s.isLocal t = true → (t.attr = 0 ∨ t.attr = 3 ∨ t.attr = 4) →
          (e.cache ≠ .dflt ∧ e.cache ≠ .retain ∨ ∀ b ∈ e.bytes, s.l1Able t b.2.pa = false) →
          (s.coreOf r.core).l1 = [] → (∀ b ∈ e.bytes, rangeOf b.2.pa = .lpddr ∨ rangeOf b.2.pa = .strip) →
          (∀ b bs bs', e.bytes = bs ++ b :: bs' → (∀ x ∈ bs', x.2.pa ≠ b.2.pa) → u.sliceGet t b.2.pa = b.2.byte) ∧
          ∀ t' pa, (∀ b ∈ e.bytes, ¬ sameByte t b.2.pa t' pa) → (t'.key = t.key ∨ ∀ b ∈ e.bytes, b.2.pa / 128 ≠ pa / 128) →
            (e.cache = .noalloc → ∀ b ∈ e.bytes, b.2.pa ≠ pa) → u.sliceGet t' pa = s.sliceGet t' pa)) ∧
      ∀ b, e.bytes = [b] → e.release = none → s.isLocal b.1 = true → b.1.attr ≠ 1 →
        (e.kind = .clean →
          (∀ k x, Sparse.get none (s.coreOf r.core).l1 k = some x → x.dirty = true →
            (Sparse.get none (u.coreOf r.core).l1 k).isSome = true) ∧
          (∀ k, Sparse.get none (s.coreOf r.core).l1 k = none → Sparse.get none (u.coreOf r.core).l1 k = none) ∧
          ∀ i, i < 128 → ∀ x, Sparse.get none (u.coreOf r.core).l1 (b.1.ckey (b.2.pa / 128 * 128 + i)) = some x ∨
            Sparse.get none u.mem.l2 (b.1.ckey (b.2.pa / 128 * 128 + i)) = some x → x.dirty = false) ∧
        (e.kind = .flush → ∀ i, i < 128 →
          Sparse.get none (u.coreOf r.core).l1 (b.1.ckey (b.2.pa / 128 * 128 + i)) = none ∧
          Sparse.get none u.mem.l2 (b.1.ckey (b.2.pa / 128 * 128 + i)) = none))

/-- The atomics, when no lane fails a check: a release first where the order releases, then the lanes in ascending order,
each one read-modify-write, then an acquire where the order acquires; D takes what each lane returns, and is noted as returning.
After a release at SYSTEM scope the group waits under reason 4 while a peer has a write to acknowledge, and its requests stay outstanding
until its return, which are the model's (log entry 87) (07 R182-R187, R198; 11 R305). -/
def Obligations.Atomics : Prop :=
  ∀ (s t : State) (g : Issue) (r : Crew) (i : Instr) (x : Spec.Atomic) (ps : List (Nat × MemTag × Nat)),
    Spec.atomics s g r i = some x → Runs s g r i →
    (x.n = 64 → ∀ l, l < 32 → x.m.getLsbD l = true → (x.addr l).toNat % 4096 + 64 ≤ 4096) →
    s.gatherLanes (viaOf r) (s.ctxOf r) r.priv (lanesAcc x.m x.addr x.n x.align .atomic true true) = ([], ps, t) →
    let o := orderOf g.hints (.plain, .device)
    let t1 := if o.1.rel then t.release g.crew r o.2 else t
    let no := t1.groupNo ps
    let u := ps.foldl (fun u p =>
      let a := x.opnd s p.1
      let y := u.atomicLane g.crew r p.2.1 (cacheOf g.hints) p.2.2 x.n (x.f a)
        (.atomic (BitVec.ofNat 48 p.2.2) p.2.1.attr p.2.1.key x.req x.n a)
      x.put (y.2.claim u g.crew (x.addr p.1) no.1) p.1 y.1) no.2
    (o.1.rel = true → o.2 = .system → t1.awaiting = true →
      exec i s = .next (g.close r (s.nested g.crew) false (.wait 4 t1))) ∧
    ((o.1.rel = true → o.2 = .system → t1.awaiting = false) →
      exec i s = .next (s.finish ((if o.1.acq then u.acquire r o.2 else u).return g.crew
        (if x.m = 0 then [] else (List.range x.regs).map (x.d.toNat + ·)) []
        ((((List.range 32).filter x.m.getLsbD).map fun l => (x.addr l).toNat / 128).eraseDups.length) no.1) g r))

/-- One read-modify-write at a slice of this device, where the L2 has room for its lines: the crew's earlier stores are performed
before it, whatever its queue holds, and with its core's own copies of the lines written out, it returns the bytes there and
leaves the new ones, where it stores any; no other byte of a slice changes after that, of its lines at least as its own key reads them (07 R185; 11
R286, R290, R297). -/
def Claims.AtomicLane : Prop :=
  ∀ (s : State) (c : Nat) (r : Crew) (t : MemTag) (cache : CachePolicy) (pa n : Nat) (f : List Byte → Option (List Byte))
    (req : FabricReq), s.isLocal t = true → (t.attr = 0 ∨ t.attr = 3) →
    (∀ j, j < n → rangeOf (pa + j) = .lpddr ∨ rangeOf (pa + j) = .strip) →
    (∀ j, j < n → rangeOf (pa + j) = rangeOf pa) → 0 < n → n ≤ 64 →
    ∃ v, OnlyMemory s v c ∧ (v.auxOf c).storeQ = [] ∧
      (((s.auxOf c).storeQ = [] ∧ (s.coreOf r.core).l1 = [] ∧ (s.coreOf r.core).wc = []) → ∀ t' q, v.sliceGet t' q = s.sliceGet t' q) ∧
      (∀ k, k = pa / 128 ∨ k = (pa + n - 1) / 128 → ∀ i, i < 128 →
        Sparse.get none (v.coreOf r.core).l1 (t.ckey (k * 128 + i)) = none) ∧
      let old := (List.range n).map fun j => v.sliceGet t (pa + j)
      let y := s.atomicLane c r t cache pa n f req
      y.1 = old ∧ OnlyMemory v y.2 c ∧ (v.roomFor r.core (linesAt [(t, pa)] n) →
        (∀ new, f old = some new → ∀ j, j < n → y.2.sliceGet t (pa + j) = new.getD j 0) ∧
        ∀ t' q, (f old = none ∨ ∀ j, j < n → ¬ sameByte t (pa + j) t' q) → (t'.key = t.key ∨ ∀ j, j < n → (pa + j) / 128 ≠ q / 128) →
          (cache = .noalloc → ∀ j, j < n → pa + j ≠ q) → y.2.sliceGet t' q = v.sliceGet t' q)

/-- What ATOM and ATOM64 leave of an old value and an operand of n bytes: the sum modulo 2^(8n), the lesser or greater,
signed or unsigned, or the bitwise result (07 R182, Table 7.5). -/
def Claims.AtomicArithmetic : Prop :=
  ∀ (n : Nat) (op : AtomOp) (x old : List Byte), (n = 4 ∨ n = 8) → x.length = n → old.length = n →
    let w := 8 * n
    let v := leVal (atomBytes n op x old)
    let sg := Spec.signed w
    (atomBytes n op x old).length = n ∧ match op with
    | .add => v = (leVal old + leVal x) % 2 ^ w
    | .min => sg v = min (sg (leVal old)) (sg (leVal x))
    | .max => sg v = max (sg (leVal old)) (sg (leVal x))
    | .minu => v = min (leVal old) (leVal x)
    | .maxu => v = max (leVal old) (leVal x)
    | .and => v = leVal old &&& leVal x
    | .or => v = leVal old ||| leVal x
    | .xor => v = leVal old ^^^ leVal x

/-- One read-modify-write at a slice, and the arithmetic of ATOM and ATOM64 (07 R182, R185; 11 R297). -/
def Obligations.AtomicLane : Prop := Claims.AtomicLane ∧ Claims.AtomicArithmetic

/-- LDS and LDT, without a fault: D takes the words of the bank, or of the tile under its swizzle, at each active lane's
address, and is noted as returning; nothing else changes but what race detection records and an acquire drops from the L1. That an
access to another part takes effect at its issue is the model's (log entry 91) (05 R109; 07 R174, R176, R181). -/
def Claims.BankLoads : Prop :=
  ∀ (s : State) (g : Issue) (r : Crew) (d a : VReg) (w : Width) (k : KReg), s.seated r →
    let inD := fun (n l : Nat) => d.toNat ≤ n ∧ n < d.toNat + w.regs ∧ (r.active k).getLsbD l = true
    let o := orderOf g.hints (.plain, .crew)
    let back := fun (u : State) => if r.active k = 0 then u else u.onAux g.crew fun a => { a with returning := a.returning ++
      [{ regs := (List.range w.regs).map (d.toNat + ·), sregs := [], kregs := [], stack := false, requests := 0, issued := u.nextId, group := 0
         lost := none }] }
    (∀ b, Runs s g r (.lds d a b w k) →
      let va := Spec.addrSA s r g.hints a b
      let s1 := s.races g r false ((lanesOf (r.active k)).map va) w.regs
      s.bankFaults r (r.active k) va w.bytes = [] → s1.seated r →
      ∃ u, WritesV s1 u r inD (fun n l =>
          s.bankGet r.block ((va l).toNat / 2 ^ 22 % 8) ((va l).toNat % 2 ^ 22 / 4 + (n - d.toNat))) ∧
        exec (.lds d a b w k) s = .next (s.finish (if o.1.acq then (back u).acquire r o.2 else back u) g r)) ∧
    (∀ t, Runs s g r (.ldt d a t w k) →
      let off := fun l => (s.getV r a.toNat l).setWidth 64 + offOf g.hints
      let e := s.tile r t.toNat
      s.ldtBad r t = false → (∀ l, l < 32 → (r.active k).getLsbD l = true →
        (off l).toNat % w.bytes = 0 ∧ 0 ≤ (off l).toInt ∧ (off l).toInt + w.bytes ≤ 128 * e.size.toNat) →
      ∃ u, WritesV (s.acquireAt r.core true) u r inD (fun n l =>
          s.bankGet r.block r.part (e.place ((off l).toNat + 4 * (n - d.toNat)) / 4)) ∧
        exec (.ldt d a t w k) s = .next (s.finish (back u) g r))

/-- STS, without a fault: each word of the bank that active lanes address takes the word of the highest such lane, every
other word of a bank or register stays, and nothing else changes but what race detection, a release, and the reads of tiles that it races
with do; after a release at SYSTEM scope the group waits under reason 4 while a peer has a write to acknowledge, a wait that Table 14.14
does not list (log entry 87). That a store to another part takes effect at its issue is the model's (log entry 91) (07 R174; 08 R207; 11
R305). -/
def Claims.BankStores : Prop :=
  ∀ (s : State) (g : Issue) (r : Crew) (d a : VReg) (b : SReg) (w : Width) (k : KReg), Runs s g r (.sts d a b w k) →
    let va := Spec.addrSA s r g.hints a b
    let o := orderOf g.hints (.plain, .crew)
    let s0 := if o.1.rel then s.release g.crew r o.2 else s
    let s1 := s0.races g r true ((lanesOf (r.active k)).map va) w.regs
    let place := fun (l i : Nat) => Place.bank r.block ((va l).toNat / 2 ^ 22 % 8) ((va l).toNat % 2 ^ 22 / 4 + i)
    s.bankFaults r (r.active k) va w.bytes = [] →
    (o.1.rel = true → o.2 = .system → s0.awaiting = true →
      exec (.sts d a b w k) s = .next (g.close r (s.nested g.crew) false (.wait 4 s0))) ∧
    ((o.1.rel = true → o.2 = .system → s0.awaiting = false) → (∀ j, j < s.spreadOf r → (s1.part? r.block j).isSome = true) →
    ∃ u, SameButWords s1 u ∧
      exec (.sts d a b w k) s = .next (s.finish (u.raceTiles g.crew r ((lanesOf (r.active k)).map va)) g r) ∧
      (∀ l i, l < 32 → (r.active k).getLsbD l = true → i < w.regs →
        (∀ l' i', l < l' → l' < 32 → (r.active k).getLsbD l' = true → i' < w.regs → place l' i' ≠ place l i) →
        u.word (place l i) = s.getV r (d.toNat + i) l) ∧
      ∀ p, (∀ l i, l < 32 → (r.active k).getLsbD l = true → i < w.regs → place l i ≠ p) → u.word p = s1.word p)

/-- A store to a bank while another crew's MMA, WLD or ACCLD reads a tile there: of each 16-byte chunk of such a read the old bytes stay,
or it takes the bytes now in the bank, if the store wrote to it; what the read is, else, does not change, and nor does a partition
whose reads the store does not meet (07 R176; 08 R207). -/
def Claims.StoresRace : Prop :=
  ∀ (s : State) (c : Nat) (r : Crew) (vas : List DWord),
    let u := s.raceTiles c r vas
    let spot := fun (x : TileRead) (a : Nat) => x.crew ≠ c ∧ x.block = r.block ∧
      ∃ va ∈ vas, va.toNat / 2 ^ 22 % 8 = x.part ∧ va.toNat % 2 ^ 22 / 16 * 16 = a
    { u with partitions := s.partitions, fresh := s.fresh } = s ∧
    (∀ k, (∀ x ∈ (s.pn k).reads s.clk, ∀ a ∈ x.2.chunks, ¬ spot x.2 a) → u.pn k = s.pn k) ∧
    ∀ k, ((u.pn k).reads s.clk).map (·.1) = ((s.pn k).reads s.clk).map (·.1) ∧
      ∀ (n : Nat) x y, ((u.pn k).reads s.clk)[n]? = some x → ((s.pn k).reads s.clk)[n]? = some y →
        { x.2 with bytes := y.2.bytes } = y.2 ∧ ∀ i, i < y.2.bytes.length / 16 → ∀ a, y.2.chunks[i]? = some a →
          (∀ j, j < 16 → x.2.bytes.getD (16 * i + j) 0 = y.2.bytes.getD (16 * i + j) 0) ∨
          spot y.2 a ∧ ∀ j, j < 16 → x.2.bytes.getD (16 * i + j) 0 = s.bankByte y.2.block y.2.part (a + j)

/-- LDS, LDT and STS, and what a store does to the reads of tiles that are under way (07 R174, R176, R181; 08 R207). -/
def Obligations.BankAccesses : Prop := Claims.BankLoads ∧ Claims.BankStores ∧ Claims.StoresRace

/-- FENCE, QFENCE, DCFENCE, PREDWAIT and the prefetches, once they need not wait: their effect is on memory alone. A fence waits
for the crew's stores at every order, so that no later load passes one; a release at SYSTEM scope waits too while a peer has a
write to acknowledge, those of its own write-back among them; a DCFENCE leaves no line that the crew has touched in the L2 or the
core's L1, under either view, nor under the other view in any core's L1, so that both views fill from what is stored, and it leaves
every other line of another core's L1: that the copies of the touched view go as well, where R315 writes them back only, is log entry 19.
A prefetch changes no value that its own translations have not changed: where the caches have room, every byte of a slice stays,
and the core's L1 holds what it held, or clean bytes as their slices have them (07 R188-R190, R195, R197; 11 R286, R305; 12 R315). -/
def Claims.OrderingGroups : Prop :=
  ∀ (s : State) (g : Issue) (r : Crew),
    (∀ o sc, Runs s g r (.fence o sc) → OnlyMemory s (s.fence r o sc) g.crew ∧ (s.auxOf g.crew).storeQ = [] ∧
      let t := s.releaseAt r.core (s.wide r sc)
      let late := o ≠ .acquire ∧ sc = .system ∧ t.awaiting = true
      (late → exec (.fence o sc) s = .next (g.close r (s.nested g.crew) false (.wait 4 t))) ∧
      (¬ late → exec (.fence o sc) s = .next (s.finish (s.fence r o sc) g r))) ∧
    (∀ m, Runs s g r (.qfence m) → OnlyMemory s (s.acquire r .device) g.crew ∧ s.copying g.crew r m = false ∧
      exec (.qfence m) s = .next (s.finish (s.acquire r .device) g r)) ∧
    (Runs s g r .predwait → exec .predwait s = .next (s.finish (s.acquire r .device) g r)) ∧
    (Runs s g r .dcfence → ∃ u, OnlyMemory s u g.crew ∧ exec .dcfence s = .next (s.finish u g r) ∧
      (∀ e ∈ (s.auxOf g.crew).touched, ∀ i, i < 128 →
        (∀ lk, lk = e.1 ∨ lk = otherView e.1 →
          Sparse.get none u.mem.l2 (byteKey lk i) = none ∧ Sparse.get none (u.coreOf r.core).l1 (byteKey lk i) = none) ∧
        ∀ n, Sparse.get none (u.coreOf n).l1 (byteKey (otherView e.1) i) = none) ∧
      ∀ n, n ≠ r.core → ∀ k, (∀ e ∈ (s.auxOf g.crew).touched, lineKey k ≠ otherView e.1) →
        Sparse.get none (u.coreOf n).l1 k = Sparse.get none (s.coreOf n).l1 k) ∧
    ∀ i a b f k, i = .prefetch a b f k ∨ i = .prefetchl2 a b f k → Runs s g r i →
      let x := s.gatherLanes (viaOf r) (s.ctxOf r) r.priv (lanesAcc (r.active k) (formOf f a b s g r) 1 1 .read true false)
      let t := if cacheOf g.hints = .noalloc then s else x.2.2
      ∃ u, OnlyMemory s u g.crew ∧ exec i s = .next (s.finish u g r) ∧
        (∀ n, n ≠ r.core → u.coreOf n = t.coreOf n) ∧
        (t.roomFor r.core (linesAt (x.2.1.map (·.2)) 1) →
          (∀ t' pa, u.sliceGet t' pa = t.sliceGet t' pa) ∧
          (∀ k v, Sparse.get none (t.coreOf r.core).l1 k = some v → v.dirty = true →
            Sparse.get none (u.coreOf r.core).l1 k = some v) ∧
          ∀ t' pa v, Sparse.get none (u.coreOf r.core).l1 (t'.ckey pa) = some v →
            Sparse.get none (t.coreOf r.core).l1 (t'.ckey pa) = some v ∨ v.dirty = false ∧ v.val = t.sliceGet t' pa)

/-- What a fence does to its core (12 R309, R312): a releasing order empties the write-combining buffer, and at a scope whose instance
may span cores, CLUSTER, DEVICE, SYSTEM, or BLOCK where the block's spread is above 1, leaves no dirty byte in the L1; an acquiring order
at such a scope leaves no clean byte there (log entry 12). -/
def Claims.FencesCleanTheL1 : Prop :=
  ∀ (s : State) (r : Crew) (o : FenceOrder) (sc : Scope),
    let k := (s.fence r o sc).coreOf r.core
    let spans := sc = .cluster ∨ sc = .device ∨ sc = .system ∨ (sc = .block ∧ 1 < s.spreadOf r)
    (fenceRel o = true → k.wc = [] ∧ (spans → ∀ n b, Sparse.get none k.l1 n = some b → b.dirty = false)) ∧
    (fenceAcq o = true → spans → ∀ n b, Sparse.get none k.l1 n = some b → b.dirty = true)

/-- The ordering instructions and the prefetches, and what a fence leaves in its core's L1 (07 R188-R190, R195, R197; 12 R309,
R312). -/
def Obligations.OrderingGroups : Prop := Claims.OrderingGroups ∧ Claims.FencesCleanTheL1

/-- BAR and BARRIVE perform the crew's stores, release at BLOCK scope and arrive, BAR with a hold, in a handler as well; BARWAIT
acquires once the crew's arrival is complete; STARTNEXT marks the crew (07 R191, R192, R194). -/
def Claims.BarrierGroups : Prop :=
  ∀ (s : State) (g : Issue) (r : Crew) (b : BitVec 4),
    let arrived := fun (hold : Bool) => (s.release g.crew r .block).onAux g.crew fun a =>
      { a with
        arrived := a.arrived ||| (1#16 <<< b.toNat), hold := if hold then a.hold ||| (1#16 <<< b.toNat) else a.hold
        holdIn := if hold && a.trap.nesting then a.holdIn ||| (1#16 <<< b.toNat) else a.holdIn }
    (Runs s g r (.bar b) → exec (.bar b) s = .next (s.finish ((arrived true).settle r.block) g r)) ∧
    (Runs s g r (.barrive b) → exec (.barrive b) s = .next (s.finish ((arrived false).settle r.block) g r)) ∧
    (Runs s g r (.barwait b) → exec (.barwait b) s = .next (s.finish (s.acquire r .block) g r)) ∧
    (Runs s g r .startnext → exec .startnext s =
      .next (s.finish (s.onAux g.crew fun a => { a with startedNext := true }) g r))

/-- A barrier's generation completes when every crew of the block has arrived in it or exited, and some crew has arrived:
its number steps and the arrivals and holds clear; a barrier that is not complete keeps them (07 R191). -/
def Claims.BarriersComplete : Prop :=
  ∀ (s : State) (b i : Nat) (k : Block) (l : Launch), s.blocks.find b = some k → s.launches.find k.launch = some l →
    i < l.packet.barriers → i < 16 →
    let cs := s.crewsOf b
    let done := (∃ e ∈ cs, (s.auxOf e.1).arrived.getLsbD i = true) ∧
      ∀ e ∈ cs, e.2.phase = .exited ∨ (s.auxOf e.1).arrived.getLsbD i = true
    (done → (∃ k', (s.settle b).blocks.find b = some k' ∧ Sparse.get 0 k'.gens i = Sparse.get 0 k.gens i + 1) ∧
      ∀ e ∈ cs, ((s.settle b).auxOf e.1).arrived.getLsbD i = false ∧ ((s.settle b).auxOf e.1).hold.getLsbD i = false ∧
        ((s.settle b).auxOf e.1).holdIn.getLsbD i = false) ∧
    (¬ done → (∃ k', (s.settle b).blocks.find b = some k' ∧ Sparse.get 0 k'.gens i = Sparse.get 0 k.gens i) ∧
      ∀ e ∈ cs, ((s.settle b).auxOf e.1).arrived.getLsbD i = (s.auxOf e.1).arrived.getLsbD i ∧
        ((s.settle b).auxOf e.1).hold.getLsbD i = (s.auxOf e.1).hold.getLsbD i ∧
        ((s.settle b).auxOf e.1).holdIn.getLsbD i = (s.auxOf e.1).holdIn.getLsbD i)

/-- BAR, BARRIVE, BARWAIT and STARTNEXT, and the completion of a barrier's generation (07 R191, R192, R194). -/
def Obligations.Barriers : Prop := Claims.BarrierGroups ∧ Claims.BarriersComplete

/-- TILEDEF, TILESET and TILEQ: the tile of the crew's part takes the descriptor, EMPTY with nothing pending, or the state
named, or is read as 64 bits, a result that is noted as returning; their faults are those of the operand and the tile, in order: for
TILEDEF a reserved bit or swizzle, an offset that is not a multiple of 128, a size of 0 or past the bank, a tile not there or moving, the
tile's number last, after every fault of the descriptor, which is the model's choice (log entry 23, DEDUCED); a TILESET to READY releases first, at
BLOCK scope (07 R177-R179, Table 7.3; 11 R292, Table 11.3). -/
def Obligations.Tiles : Prop :=
  ∀ (s : State) (g : Issue) (r : Crew) (t : TReg),
    let e := s.tile r t.toNat
    (∀ a, Runs s g r (.tiledef t a) →
      let v := (r.sreg a).toNat
      let checks : List (Bool × BitVec 8) :=
        [(decide (2 ^ 42 ≤ v) || decide (4 ≤ v / 2 ^ 38 % 16), 0x08), (decide (v % 128 ≠ 0), 0x05),
          (decide (v / 2 ^ 22 % 2 ^ 16 = 0) ||
            decide (1024 * (s.packetOf r).bankKib.toNat < v % 2 ^ 22 + 128 * (v / 2 ^ 22 % 2 ^ 16)), 0x09),
          (decide (s.tileCount r ≤ t.toNat) || decide (e.state = .filling) || decide (e.state = .draining) ||
            decide (e.pend ≠ 0), 0x0A)]
      (checks.find? (·.1) = none → exec (.tiledef t a) s = .next (s.finish (s.putTile r.block r.part t.toNat
        { offset := (r.sreg a).extractLsb' 0 22, size := (r.sreg a).extractLsb' 22 16, swz := (r.sreg a).extractLsb' 38 4,
          state := .empty, pend := 0 }) g r)) ∧
      ∀ x, checks.find? (·.1) = some x → exec (.tiledef t a) s = .next (s.finishFault s g r (raised r x.2))) ∧
    (∀ st, Runs s g r (.tileset t st) →
      (t.toNat < s.tileCount r → e.pend = 0 → e.size ≠ 0 →
        exec (.tileset t st) s = .next (s.finish ((if st = .ready then s.release g.crew r .block else s).putTile r.block r.part
          t.toNat { e with state := st }) g r)) ∧
      (s.tileCount r ≤ t.toNat ∨ e.pend ≠ 0 ∨ e.size = 0 →
        exec (.tileset t st) s = .next (s.finishFault s g r (raised r 0x0A)))) ∧
    (∀ d, Runs s g r (.tileq d t) →
      (t.toNat < s.tileCount r → ∃ r', SetsS r r' d (BitVec.ofNat 64 (e.offset.toNat + 2 ^ 22 * e.size.toNat +
          2 ^ 38 * e.swz.toNat + 2 ^ 42 * e.state.toBits.toNat + 2 ^ 48 * e.pend.toNat)) ∧
        exec (.tileq d t) s = .next (s.finish ((s.return g.crew [] [d.toNat] 0 0).putCrew g.crew r') g r)) ∧
      (s.tileCount r ≤ t.toNat → exec (.tileq d t) s = .next (s.finishFault s g r (raised r 0x0A))))

/-! ## Matrix mode (08) -/

/-- MMODE.ON takes the pair and sets M and PAIR; MMODE.OFF clears M and frees the planes that the crew owns; WSWAP
exchanges the planes; ACCZ zeroes one accumulator tile; ACCFL reads and clears its events (08 R200-R203, R209, R215,
R218). The format code of a plane that MMODE.OFF frees is the model's choice (log entry 77). -/
def Claims.MatrixControl : Prop :=
  ∀ (s : State) (g : Issue) (r : Crew),
    let p := s.pn r.pkey
    let left := fun (i : Instr) (p' : Partition) (x : Crew) =>
      exec i s = .next (s.finish ((s.onPn r.pkey fun _ => p').putCrew g.crew x) g r)
    (∀ q, Runs s g r (.mmodeOn q) → ∃ x, x.matrix = true ∧ x.pair = q.toNat ∧ x.priv = r.priv ∧ x.gang = r.gang ∧
      { x with mode := r.mode } = r ∧ left (.mmodeOn q) { p with owners := p.owners.put q.toNat g.crew } x) ∧
    (Runs s g r .mmodeOff → ∃ x p', x.matrix = false ∧ x.pair = r.pair ∧ x.priv = r.priv ∧ x.gang = r.gang ∧
      { x with mode := r.mode } = r ∧ (p.planeOwner ≠ some g.crew → p' = p) ∧
      (p.planeOwner = some g.crew →
        p' = { p with planeOwner := none, front := { bytes := [], fmt := 0, valid := false }
                      shadow := { bytes := [], fmt := 0, valid := false } }) ∧ left .mmodeOff p' x) ∧
    (Runs s g r .wswap →
      exec .wswap s = .next (s.finish (s.onPn r.pkey fun p => { p with front := p.shadow, shadow := p.front }) g r)) ∧
    (∀ n, Runs s g r (.accz n) → ∃ p', SetsTile p p' (r.accTile n) (fun _ _ => 0) ∧ { p' with acc := p.acc } = p ∧
      exec (.accz n) s = .next (s.finish (s.onPn r.pkey fun _ => p') g r)) ∧
    (∀ d n, Runs s g r (.accfl d n) → ∃ x,
      SetsS r x d (BitVec.ofNat 64 (Sparse.get 0 p.events (r.accTile n)).toNat) ∧
      left (.accfl d n) { p with events := Sparse.put 0 p.events (r.accTile n) 0 } x)

/-- WLD without a fault of its tile: the crew owns the planes, the shadow plane holds the tile's sub-block and its format,
and is not valid until the WLD completes. That the plane holds the whole sub-block in the step that issues the WLD, where R208 writes it
over the 32 clk that follow, and that a store which races with the read changes it after, are log entry 27 (08 R201, R207, R208). -/
def Claims.WeightLoads : Prop :=
  ∀ (s : State) (g : Issue) (r : Crew) (sb : BitVec 2) (t : TReg) (f : MFmt), Runs s g r (.wld sb t f) →
    s.tileReadFault r t (1024 * (sb.toNat + 1)) = none →
    ∃ p', (∀ i, i < 1024 → Sparse.get 0 p'.shadow.bytes i = s.tileByte r t (1024 * sb.toNat + i)) ∧
      p'.shadow.fmt = f.toBits ∧ p'.shadow.valid = false ∧ p'.planeOwner = some g.crew ∧ p'.wld = some (g.crew, s.clk) ∧
      p'.wldRead = some (s.readTile g.crew r t (1024 * sb.toNat) 1024) ∧
      { p' with shadow := (s.pn r.pkey).shadow, planeOwner := (s.pn r.pkey).planeOwner, wld := (s.pn r.pkey).wld
                wldRead := (s.pn r.pkey).wldRead } = s.pn r.pkey ∧
      exec (.wld sb t f) s = .next (s.finish (((s.onCrew g.crew fun r => { r with begunWld := false, tookPlanes := false }).acquire r
        .device).onPn r.pkey fun _ => p') g r)

/-- MMODE, WSWAP, ACCZ, ACCFL and WLD (08 R200-R203, R208, R209, R215, R218). -/
def Obligations.MatrixControl : Prop := Claims.MatrixControl ∧ Claims.WeightLoads

/-- One MMA: every element of the crew's accumulator takes the old element, or 0 with Z, plus the products of its row of
activations and its column of the front plane's weights (04 R99, 08 R210, R212). That every element is written in the step that issues
the MMA, on the tile's bytes at that step, where R212 streams a row per clock, and that a store which races with the read changes them after,
are log entry 27. The MMAs of a gang issue together on the leader's
sub-block: every member's accumulator takes its own products, and the groups of the others end with it, their words taking their
partitions' clocks; a gang that disagrees takes Gang on every member. The comparison is made as the rendezvous completes (02 R55; 08
R221; 13 R343); that a complete one takes no more arrivals is log entry 95 (DEDUCED). -/
def Obligations.MatrixProducts : Prop :=
  ∀ (s : State) (g : Issue) (r : Crew) (n tr z : Bool) (sb : BitVec 2) (t : TReg) (f : MFmt),
    let p := s.pn r.pkey
    (Runs s g r (.mma n tr z false sb t f) → s.tileReadFault r t (1024 * (sb.toNat + 1)) = none →
      ∃ p' e w, SetsTile p p' (r.accTile n) (Spec.mmaElement p (r.accTile n) f tr z (s.subBlock r t sb)) ∧
        p'.events = Sparse.put 0 p.events (r.accTile n) (Sparse.get 0 p.events (r.accTile n) ||| e) ∧
        p'.streams = p.streams ++ [{ crew := g.crew, acc := n, start := s.clk, work := w }] ∧
        w.read = s.readTile g.crew r t (1024 * sb.toNat) 1024 ∧
        { p' with acc := p.acc, events := p.events, streams := p.streams } = p ∧
        exec (.mma n tr z false sb t f) s =
          .next (s.finish (((s.acquire r .device).onPn r.pkey fun _ => p').noteMma r.core) g r)) ∧
    (Runs s g r (.mma n tr z true sb t f) →
      (readsTile true g.crew r = true → s.arrivedIn g.crew r = true ∨ s.tileReadFault r t (1024 * (sb.toNat + 1)) = none) →
      let l := s.latchWith r (arrivalOf g r n tr z sb t f)
      let compared := ∃ x, s.latches.find (leaderOf r) = some x ∧ x.completed ≠ none
      let x := s.leaderRead (leaderOf r) l
      (∀ y, s.latches.find (leaderOf r) = some y → y.completed ≠ none → l = y) ∧
      (∀ y a, s.crews.find (leaderOf r) = some y → (l.arrivals.find? fun a => a.crew == leaderOf r) = some a →
        x = s.readTile (leaderOf r) y a.tile (1024 * a.sb.toNat) 1024) ∧
      (compared ∨ s.agree l = true → ∃ u, exec (.mma n tr z true sb t f) s = .next (s.finish u g r) ∧
        u.latches.find (leaderOf r) = none ∧
        ((l.arrivals.filterMap fun a => (s.crews.find a.crew).map Crew.pkey).Nodup →
          (∀ a ∈ l.arrivals, ∀ y, a.crew ≠ g.crew → s.crews.find a.crew = some y → y.retStopEn = false) →
          ∀ a ∈ l.arrivals, ∀ y, s.crews.find a.crew = some y →
          let q := s.pn y.pkey
          let q' := u.pn y.pkey
          SetsTile q q' (y.accTile a.acc) (Spec.mmaElement q (y.accTile a.acc) a.fmt a.tr a.zero x.bytes) ∧
          (∃ w, w.read = x ∧ q'.streams = q.streams ++ [{ crew := a.crew, acc := a.acc, start := s.clk, work := w }]) ∧
          (a.crew ≠ g.crew → q'.issuer = some a.crew ∧ q'.issueEnd = s.clk + (a.next - a.addr).toNat / 4 ∧
            q'.recency.getLast? = some a.crew ∧ (y.resident = true → ∃ y', u.crews.find a.crew = some y' ∧
              y'.retired = y.retired + 1 ∧ y'.mode = y.mode ∧
              ∀ i, i < 32 → y'.pc i = if y.head.getLsbD i then a.next else y.pc i)))) ∧
      (¬ compared → s.agree l = false → exec (.mma n tr z true sb t f) s =
        .next (s.finishFault (s.gangFault (leaderOf r) l (some g.crew) 0x0D) g r (raised r 0x0D))))

/-- ACCST writes the 1024 converted elements to its tile in row order, releases at BLOCK scope, and the tile fills until ACCST
completes; ACCLD reads them from one. That ACCST's writes and its release, and ACCLD's read, act in the step that issues them, where
R216 has the writes done 40 clk after the issue and 07 R180 puts the release at the step that completes it, is log entries 11 and 27, and
so is what a store that races with ACCLD's read changes after (08 R216, R217, Table 8.6; 11 R292, Table 11.3). -/
def Obligations.AccumulatorMoves : Prop :=
  ∀ (s : State) (g : Issue) (r : Crew) (n : Bool) (t : TReg) (c : AccConv),
    let p := s.pn r.pkey
    let e := s.tile r t.toNat
    let w := convBytes c
    (Runs s g r (.accst n t c) → s.accstFault r t c = none → s.seated r →
      ∃ u v p', SameButWords s u ∧ (∀ k i, u.word (.acc k i) = s.word (.acc k i)) ∧
        (∀ b j i, (b, j) ≠ (r.block, r.part) → u.bankGet b j i = s.bankGet b j i) ∧
        (∀ m j b, m < 32 → j < 32 → b < w →
          u.tileByte r t ((32 * m + j) * w + b) = BitVec.ofNat 8 ((accStore c (p.elem (r.accTile n) m j)).1 / 256 ^ b)) ∧
        (∀ i, (∀ o, o < 1024 * w → e.place o / 4 ≠ i) → u.bankGet r.block r.part i = s.bankGet r.block r.part i) ∧
        p'.events = Sparse.put 0 p.events (r.accTile n) (Sparse.get 0 p.events (r.accTile n) ||| v) ∧
        p'.accst = p.accst ++ [{ crew := g.crew, acc := n, block := r.block, part := r.part, tile := t.toNat, start := s.clk }] ∧
        { p' with events := p.events, accst := p.accst } = p ∧
        exec (.accst n t c) s = .next (s.finish (((u.release g.crew r .block).putTile r.block r.part t.toNat
          { e with state := .filling, pend := e.pend + 1 }).onPn r.pkey fun _ => p') g r)) ∧
    (Runs s g r (.accld n t c) → s.tileReadFault r t (1024 * w) = none →
      ∃ p', SetsTile p p' (r.accTile n) (fun m j =>
          accLoad c (leVal ((List.range w).map fun b => s.tileByte r t ((32 * m + j) * w + b)))) ∧
        p'.accld = (p.accld.filter fun y => decide (s.clk < y.start + 40)) ++
          [{ crew := g.crew, acc := n, conv := c, start := s.clk, read := s.readTile g.crew r t 0 (1024 * w) }] ∧
        { p' with acc := p.acc, accld := p.accld } = p ∧
        exec (.accld n t c) s = .next (s.finish ((s.acquire r .device).onPn r.pkey fun _ => p') g r))

/-! ## Tasks, counters, rings and copies (09) -/

/-- SPAWN releases and then parks its frame, while the counter it names is not 0, or pushes it on its core's view; TAKE
removes the frame the search finds, acquires, and holds it in registers noted as returning, and a frame that is newest on chip in the
first of the core's own views that holds any is found; DONE drops the newest frame, after decrementing its join counter where it names
one, behind a release that at SYSTEM scope waits under reason 4 while a peer has a write to acknowledge, a wait that Table 14.14 does not
list (log entry 87) (05 R109; 09 R234-R237; 11 R305). -/
def Claims.TaskFrames : Prop :=
  ∀ (s : State) (g : Issue) (r : Crew),
    let ctx := s.ctxOf r
    (∀ a, Runs s g r (.spawn a) → s.spawnFault r (s.frameIn r a) = none →
      let f := s.frameIn r a
      let s1 := s.release g.crew r .device
      ((frameCtr f ≠ 0 ∧ (s.ctrOf r.core (frameCtr f)).value ≠ 0) →
        exec (.spawn a) s = .next (s.finish (s1.onCore r.core fun k =>
          { k with park := k.park ++ [{ ctr := frameCtr f, released := false, ctx := ctx, frame := f }] }) g r)) ∧
      (¬ (frameCtr f ≠ 0 ∧ (s.ctrOf r.core (frameCtr f)).value ≠ 0) →
        (∀ t, s1.pushFrame r.core ctx (frameClass f) f = .ok t →
          exec (.spawn a) s = .next (s.finish (t.retryView r.core ctx (frameClass f)) g r)) ∧
        ((s.viewOf r.core ctx (frameClass f)).chip.length < s.viewCap ctx (frameRslot f) →
          ∃ t, s1.pushFrame r.core ctx (frameClass f) f = .ok t ∧
            exec (.spawn a) s = .next (s.finish (t.retryView r.core ctx (frameClass f)) g r)))) ∧
    (∀ d, Runs s g r (.take d) → (s.auxOf g.crew).frames.length < 4 → s.seated r →
      let took := fun (f : Frame) (t : State) =>
        ∃ u, WritesV (((t.acquire r .device).onAux g.crew fun a => { a with frames := a.frames ++ [f] }).return g.crew [d.toNat] []
            0 0) u r (fun n l => n = d.toNat ∧ l < 8) (fun _ l => BitVec.ofNat 32 (f.toNat / 2 ^ (32 * l))) ∧
          exec (.take d) s = .next (s.finish u g r)
      (∀ f t, s.search r.core ctx = (some (.ok f), t) → t.seated r → took f t) ∧
      (∀ f cls, cls < 4 → (∀ k, k < cls → s.viewOf r.core ctx k = { chunks := [], chip := [] }) →
        (s.viewOf r.core ctx cls).chip.getLast? = some f →
        let v := s.viewOf r.core ctx cls
        took f ((s.putView r.core ctx cls { v with chip := v.chip.dropLast }).retryView r.core ctx cls))) ∧
    (Runs s g r .done → ∀ f, (s.auxOf g.crew).frames.getLast? = some f →
      let pop := fun (t : State) => t.onAux g.crew fun a => { a with frames := a.frames.dropLast }
      (frameJaddr f = 0 → exec .done s = .next (s.finish (pop s) g r)) ∧
      (frameJaddr f ≠ 0 → ∀ p t, s.checkLane (viaOf r) ctx r.priv
          { va := (frameJaddr f).signExtend 64, size := 4, align := 4, kind := .atomic, wr := true, ww := true, atL2 := true }
            = (.ok p, t) →
        let sc := scopeOf (frameJscope f)
        let u := t.release g.crew r sc
        let y := u.atomicLane g.crew r p.1 .dflt p.2 4 (fun old => some (atomBytes 4 .add (leBytes 4 0xFFFFFFFF) old))
          (.atomic (BitVec.ofNat 48 p.2) p.1.attr p.1.key (.atom .add) 4 (leBytes 4 0xFFFFFFFF))
        (¬ (sc = .system ∧ u.awaiting = true) →
          exec .done s = .next (s.finish (pop (y.2.claim u g.crew ((frameJaddr f).signExtend 64) 0)) g r)) ∧
        (sc = .system ∧ u.awaiting = true → exec .done s = .next (g.close r (s.nested g.crew) false (.wait 4 u)))))

/-- A frame pushed onto a view with room is its newest on chip, and is the next one popped; with no room a push spills the older half
of the frames on chip to a chunk of their own. A push with room changes no other view, no other core and nothing else, and nor does
the pop of a frame on chip while no released frame of its view is parked (09 R229-R231; an on-chip count above the cap, and the chunk a
spill takes, are log entry 79). -/
def Claims.FrameDeques : Prop :=
  ∀ (s : State) (core ctx cls : Nat) (f : BitVec 256),
    let v := s.viewOf core ctx cls
    let cap := s.viewCap ctx (frameRslot f)
    let only := fun (t : State) => { t with cores := s.cores } = s ∧ (∀ k, k ≠ core → t.coreOf k = s.coreOf k) ∧
      { t.coreOf core with views := (s.coreOf core).views } = s.coreOf core ∧
      ∀ n, n ≠ viewKey ctx cls → (t.coreOf core).views.find n = (s.coreOf core).views.find n
    (v.chip.length < cap →
      ∃ t, s.pushFrame core ctx cls f = .ok t ∧ t.viewOf core ctx cls = { v with chip := v.chip ++ [f] } ∧ only t ∧
        ∃ u, t.popFrame core ctx cls = (some (.ok f), u) ∧
          ((∀ q ∈ (s.coreOf core).park, ¬ (q.released = true ∧ q.ctx = ctx ∧ frameClass q.frame = cls)) →
            u.viewOf core ctx cls = v ∧ only u)) ∧
    (cap ≤ v.chip.length → ∀ t, s.pushFrame core ctx cls f = .ok t →
      ∃ c, t.viewOf core ctx cls = { chunks := v.chunks ++ [c], chip := v.chip.drop ((cap + 1) / 2) ++ [f] } ∧
        v.chunks.length < 32 ∧ c.slots = List.range ((cap + 1) / 2) ∧
        s.inForceSlot ctx (frameRslot f) 11 = some c.rslot ∧ ∃ h, s.region ctx c.rslot = some h ∧
          c.base = h.spillBase ∧ c.number < h.spillFrames.toNat / 128 ∧ c.number ∉ h.chunks ∧ ∀ k, k < c.number → k ∈ h.chunks)

/-- JOIN goes on once the counter reads 0 and acquires; JOINQ reads the counter, acquires, and is noted as returning (09 R238; 05
R109). A counter whose four bytes at their slice are 0 reads 0. -/
def Claims.Joins : Prop :=
  ∀ (s t : State) (g : Issue) (r : Crew) (a : SReg) (sc : Scope) (p : MemTag × Nat),
    s.checkLane (viaOf r) (s.ctxOf r) r.priv
      { va := r.sreg a, size := 4, align := 4, kind := .read, wr := true, ww := false, atL2 := true } = (.ok p, t) →
    let x := t.loadLane g.crew r p.1 p.2 4 true .l2only
    (Runs s g r (.join a sc) →
      (leVal x.1 = 0 → exec (.join a sc) s = .next (s.finish (x.2.acquire r sc) g r)) ∧
      (Quiet s g.crew r → s.isLocal p.1 = true → rangeOf p.2 = .lpddr → (∀ j, j < 4 → s.sliceGet p.1 (p.2 + j) = 0) →
        ∃ u, OnlyMemory s u g.crew ∧ exec (.join a sc) s = .next (s.finish u g r))) ∧
    (∀ d, Runs s g r (.joinq d a sc) →
      let no := t.groupNo [(0, p)]
      let y := no.2.loadLane g.crew r p.1 p.2 4 true .l2only
      let u := ((y.2.claim t g.crew (r.sreg a) no.1).return g.crew [] [d.toNat] 1 no.1).acquire r sc
      ∃ r', SetsS r r' d (BitVec.ofNat 64 (leVal y.1)) ∧ exec (.joinq d a sc) s = .next (s.finish (u.putCrew g.crew r') g r))

/-- SPAWN, TAKE, DONE, JOIN and JOINQ, and a push that a view has room for (09 R229-R238). -/
def Obligations.TaskFrames : Prop := Claims.TaskFrames ∧ Claims.FrameDeques ∧ Claims.Joins

/-- DEPSET gives a counter its value and owner; DEPDEC takes one off a counter that is not 0; both release first, and a
counter that reaches 0 pushes the frames parked under it; their operand faults come first (09 R232, R233, R240). -/
def Claims.DependenceCounters : Prop :=
  ∀ (s : State) (g : Issue) (r : Crew) (a b : SReg),
    let n := (r.sreg a).toNat
    let s1 := s.release g.crew r .device
    let bad := fun (i : Instr) (extra : Prop) =>
      (256 ≤ n ∨ n = 0 ∨ extra → exec i s = .next (s.finishFault s g r (raised r 0x08))) ∧
      (n < 256 → n ≠ 0 → ¬ extra → s.heldCtr r.core (s.ctxOf r) n = true → exec i s = .next (s.finishFault s g r (raised r 0x07)))
    let good := n < 256 ∧ n ≠ 0 ∧ s.heldCtr r.core (s.ctxOf r) n = false
    (Runs s g r (.depset a b) → bad (.depset a b) (2 ^ 32 ≤ (r.sreg b).toNat) ∧
      (good → (r.sreg b).toNat < 2 ^ 32 →
        let t := s1.putCtr r.core n { value := (r.sreg b).setWidth 32, ctx := some (s.ctxOf r) }
        exec (.depset a b) s = .next (s.finish (if r.sreg b = 0 then t.releaseCtr r.core n else t) g r))) ∧
    (Runs s g r (.depdec a) → bad (.depdec a) False ∧
      (good → let k := s1.ctrOf r.core n
        exec (.depdec a) s = .next (s.finish (if k.value = 0 then s1
          else
            let t := s1.putCtr r.core n { k with value := k.value - 1 }
            if k.value = 1 then t.releaseCtr r.core n else t) g r)))

/-- A counter that becomes 0 pushes the frames parked under it onto their views, in the order they were parked, with the released
frames of those views that an earlier push left parked; where the views have room none of them stays parked. Other parked frames, other
cores and everything outside this core stay (09 R231, R233). The order of the newly released among those released before and still parked
is log entry 46 (DEDUCED). -/
def Claims.CountersRelease : Prop :=
  ∀ (s : State) (core n : Nat),
    let ps := (s.coreOf core).park
    let t := s.releaseCtr core n
    let mine := fun (q : Parked) => ∃ m ∈ ps, m.ctr = n ∧ m.ctx = q.ctx ∧ frameClass m.frame = frameClass q.frame
    (∀ q ∈ ps, (s.viewOf core q.ctx (frameClass q.frame)).chip.length + ps.length ≤ s.viewCap q.ctx (frameRslot q.frame)) →
    (∀ q, q ∈ (t.coreOf core).park ↔ q ∈ ps ∧ ¬ ((q.ctr = n ∨ q.released = true) ∧ mine q)) ∧
    (∀ q ∈ ps, mine q → t.viewOf core q.ctx (frameClass q.frame) =
      { s.viewOf core q.ctx (frameClass q.frame) with
        chip := (s.viewOf core q.ctx (frameClass q.frame)).chip ++ (ps.filter fun m =>
          (m.ctr == n || m.released) && m.ctx == q.ctx && frameClass m.frame == frameClass q.frame).map Parked.frame }) ∧
    { t with cores := s.cores } = s ∧ (∀ k, k ≠ core → t.coreOf k = s.coreOf k) ∧
    { t.coreOf core with views := (s.coreOf core).views, park := ps } = s.coreOf core

/-- DEPSET, DEPDEC, and what a counter that becomes 0 releases (09 R232, R233, R240). -/
def Obligations.DependenceCounters : Prop := Claims.DependenceCounters ∧ Claims.CountersRelease

/-- RACQ, RCOMMIT, RPEEK and RREL: one read-modify-write of the ring's header, between a release (RCOMMIT, RREL) or before
an acquire (RACQ, RPEEK); RACQ and RPEEK take the result and are noted as returning; a header or operand that breaks its rules is Ring
with its cause; a full ring waits under reason 7. On a sound header at a slice, of a ring that no live head consumes, whatever R243
allows completes (09 R241-R243; 05 R109). -/
def Claims.RingGroups : Prop :=
  ∀ (s t : State) (g : Issue) (r : Crew) (i : Instr) (which : BitVec 2) (a : SReg) (x : DWord) (d : Option SReg)
    (p : MemTag × Nat),
    ((∃ d', i = .racq d' a ∧ which = 0 ∧ x = 0 ∧ d = some d') ∨ (∃ b, i = .rcommit a b ∧ which = 1 ∧ x = r.sreg b ∧ d = none) ∨
      (∃ d', i = .rpeek d' a ∧ which = 2 ∧ x = 0 ∧ d = some d') ∨ (∃ b, i = .rrel a b ∧ which = 3 ∧ x = r.sreg b ∧ d = none)) →
    Runs s g r i →
    s.checkLane (viaOf r) (s.ctxOf r) r.priv
      { va := r.sreg a, size := 64, align := 64, kind := .ring, wr := false, ww := false, atL2 := true } = (.ok p, t) →
    let rel := which == 1 || which == 3
    let t1 := (if rel then t.release g.crew r .device else t).catchUp p.1 p.2
    let eng := t1.engAt p.1 p.2
    let no := t1.groupNo [(0, p)]
    let y := no.2.atomicLane g.crew r p.1 .dflt p.2 64 (ringStore which x eng)
      (.atomic (BitVec.ofNat 48 p.2) p.1.attr p.1.key (.ring which) 64 (leBytes 8 x.toNat))
    (∀ h v e, ringOp which x eng y.1 = .ok h v e →
      let u := (y.2.keepMarks p.1 p.2 e).claim t1 g.crew (r.sreg a) no.1
      let w := if rel then u else u.acquire r .device
      (d = none → exec i s = .next (s.finish w g r)) ∧
      (∀ d', d = some d' → ∃ r', SetsS r r' d' v ∧
        exec i s = .next (s.finish ((w.return g.crew [] [d'.toNat] 1 no.1).putCrew g.crew r') g r))) ∧
    (∀ cause, ringOp which x eng y.1 = .fault cause → exec i s = .next (s.finishFault t g r
      { lanes := r.head, fault := { code := 0x11, level := 0, addr := 0, detail := cause } })) ∧
    (ringOp which x eng y.1 = .wait → exec i s = .next (g.close r (s.nested g.crew) false (.wait 7 y.2))) ∧
    (Quiet s g.crew r → s.isLocal p.1 = true → rangeOf p.2 = .lpddr → (∀ e ∈ s.links.heads, e.2.regs.en = false) →
      let h := RingHdr.ofBytes ((List.range 64).map fun j => s.sliceGet p.1 (p.2 + j))
      Spec.RingSound h → Spec.ringGoes h which x.toNat → ∃ u, exec i s = .next (s.finish u g r))

/-- The header of 09 Table 9.6, and what each ring instruction makes of its 64 bytes on a ring that no live head consumes: RACQ gives
out A, RCOMMIT marks its index and moves F over the marked prefix, RPEEK reads F and L, RREL moves L; a header that breaks a rule is
cause 1, and an operand causes 2 to 5; RPEEK, and one that waits or faults, stores nothing (09 R241-R243; 15 R391). That a CBMP bit
outside the window from F, or from L on an engine ring, to A breaks a rule is log entry 28 (DEDUCED). -/
def Claims.RingEffects : Prop :=
  ∀ (bs : List Byte) (x : DWord), bs.length = 64 →
    let h := RingHdr.ofBytes bs
    let field := fun (o n : Nat) => leVal ((bs.drop o).take n)
    (h.base = field 0 8 ∧ h.slotsz = field 8 4 ∧ h.n = field 12 4 ∧ h.a = field 16 4 ∧ h.f = field 20 4 ∧ h.l = field 24 4 ∧
      h.retain = field 28 2 ∧ h.rflg = field 30 2 ∧ h.cbmp = field 32 8 ∧ h.cons = field 40 4 ∧ h.rsvd = bs.drop 44 ∧ h.bytes = bs) ∧
    (¬ Spec.RingSound h → ∀ which, ringOp which x none bs = .fault 1) ∧
    (∀ which, (∀ h' v e, ringOp which x none bs ≠ .ok h' v e) → ringStore which x none bs = none) ∧
    (Spec.RingSound h →
      (∀ which h' v e, ringOp which x none bs = .ok h' v e →
        ringStore which x none bs = (if which = 2 then none else some h'.bytes) ∧ e = none) ∧
      ringOp 0 x none bs = (if h.cons ≠ 0 then .fault 5
        else if Spec.apart h.a h.l + h.retain < h.n then .ok { h with a := (h.a + 1) % 2 ^ 32 } (BitVec.ofNat 64 h.a) none
        else .wait) ∧
      (if 2 ^ 32 ≤ x.toNat ∨ Spec.apart h.a h.f ≤ Spec.apart x.toNat h.f then ringOp 1 x none bs = .fault 2
        else if h.cbmp.testBit (x.toNat % h.n) then ringOp 1 x none bs = .fault 3
        else ∃ h' m, ringOp 1 x none bs = .ok h' 0 none ∧ { h' with f := h.f, cbmp := h.cbmp } = h ∧
          h'.f = (h.f + m) % 2 ^ 32 ∧ m ≤ Spec.apart h.a h.f ∧
          let marked := fun (b : Nat) => h.cbmp.testBit b = true ∨ b = x.toNat % h.n
          (∀ j, j < m → marked ((h.f + j) % h.n)) ∧ (m < Spec.apart h.a h.f → ¬ marked ((h.f + m) % h.n)) ∧
          ∀ b, h'.cbmp.testBit b = true ↔ marked b ∧ ∀ j, j < m → (h.f + j) % h.n ≠ b) ∧
      ringOp 2 x none bs = .ok h (BitVec.ofNat 64 (h.f + 2 ^ 32 * h.l)) none ∧
      ringOp 3 x none bs = (if h.cons ≠ 0 then .fault 5
        else if 2 ^ 32 ≤ x.toNat ∨ Spec.apart h.f h.l < x.toNat then .fault 4
        else .ok { h with l := (h.l + x.toNat) % 2 ^ 32 } 0 none))

/-- The ring instructions, and what they make of a header (09 R241-R243). -/
def Obligations.RingGroups : Prop := Claims.RingGroups ∧ Claims.RingEffects

/-- COPY and COPYCB, when no check fails: the crew releases, the tile that a fill or drain names starts to move, and the
copy joins its queue with the translations taken now; COPY_COMPLETE performs the oldest copy, which moves its data and, once every peer
that it reaches has answered, leaves the queue and steps its tile and its counter. Where a source has met an uncorrectable error since the
issue the lanes are checked anew: a copy that passes is performed; one that fails joins its crew's journal, or ends the fault domain of
a crew that has exited (log entry 81). A fill or drain whose PEND reaches 0 leaves READY or EMPTY (09 R244-R251, 07 Table 7.4; 11 R305). -/
def Claims.Copies : Prop :=
  (∀ (s t : State) (g : Issue) (r : Crew) (i : Instr) (q : BitVec 2) (c : SReg) (a b : VReg) (codebook : Bool) (size : Nat)
    (us : List (List (MemTag × Nat) × List (MemTag × Nat))),
    ((∃ z, i = .copy q c a b z ∧ codebook = false ∧ size = copyBytes z) ∨
      (i = .copycb q c a b ∧ codebook = true ∧ size = 4 ∧ s.bookOf r.core r.block ≠ none)) →
    Runs s g r i →
    let v := r.sreg c
    let j : CopyJob :=
      { crew := g.crew, queue := q.toNat, codebook := codebook, size := size, word := v, cache := cacheOf g.hints
        lanes := ((List.range 32).filter fun l => r.live.getLsbD l && (r.kreg (wordMask v)).getLsbD l).map fun l =>
          (l, s.getV2 r a.toNat l, s.getV2 r b.toNat l)
        units := [], seq := s.nextId, origin := s.nextId, moved := false }
    wordBad codebook v = false → s.copyTileFault r v = none →
    (wordCtr v = 0 ∨ s.heldCtr r.core (s.ctxOf r) (wordCtr v) = false) → s.copyLanes r j = (.ok us, t) →
    let u := ({ t with nextId := t.nextId + 1 }).release g.crew r .device
    let e := u.tile r (wordTile v)
    let w := if wordKind v = 1 then u.putTile r.block r.part (wordTile v) { e with state := .filling, pend := e.pend + 1 }
      else if wordKind v = 2 then u.putTile r.block r.part (wordTile v) { e with state := .draining, pend := e.pend + 1 }
      else u
    exec i s = .next (s.finish (w.onCore r.core fun k =>
      { k with queues := k.queues.put q.toNat (((k.queues.find q.toNat).getD []) ++ [{ j with units := us }]) }) g r)) ∧
  (∀ (s : State) (core : Nat) (q : BitVec 2) (j : CopyJob) (rest : List CopyJob) (r : Crew),
    (s.coreOf core).queues.find q.toNat = some (j :: rest) → s.crews.find j.crew = some r →
    let lost := ∃ u ∈ j.units, ∃ p ps, u.1 = p :: ps ∧ s.isLocal p.1 = true ∧
      s.poisoned p.2 (if j.codebook then 4 else j.size) = true
    let owed := fun (t : State) => ∃ p ∈ t.links.peers, p.2.up = true ∧ ∃ f ∈ p.2.unacked, f.group = j.seq
    let off := fun (t : State) => t.onCore core fun k => { k with queues := k.queues.upd q.toNat fun l => l.drop 1 }
    let performed := fun (t : State) (j : CopyJob) =>
      let u := t.moveCopy r j
      (¬ owed u → exec (.copyComplete core q) s = .next ((off u).endCopy r j)) ∧
      (owed u → exec (.copyComplete core q) s = .next (u.onCore core fun k =>
        { k with queues := k.queues.upd q.toNat fun l => { j with moved := true } :: l.drop 1 }))
    (j.moved = true → (owed s → exec (.copyComplete core q) s = .next s) ∧
      (¬ owed s → exec (.copyComplete core q) s = .next ((off s).endCopy r j))) ∧
    (j.moved = false → ¬ lost → performed s j) ∧
    (j.moved = false → lost →
      (∀ us t, s.copyLanes r j = (.ok us, t) → performed t { j with units := us }) ∧
      ∀ w t, s.copyLanes r j = (.error w, t) →
        (r.phase ≠ .exited → exec (.copyComplete core q) s =
          .next ((off t).onAux j.crew fun a => { a with replay := inIssueOrder (a.replay ++ [j]) })) ∧
        (r.phase = .exited → exec (.copyComplete core q) s =
          .next ((off t).terminate j.crew r (copyTrap r w) ((off t).auxOf j.crew).trapRec)))) ∧
  (∀ (e : TileEntry) (fill : Bool), (e.step fill).pend = e.pend - 1 ∧
    (e.step fill).state = if e.pend = 1 then (if fill then .ready else .empty) else e.state)

/-- The data of a copy: byte i of lane k, from its place in generic memory or, where a drain names a tile, from the tile's place
for its offset, and for COPYCB from entry x of the block's codebook for each byte x (09 R245, R247, R248, R253). -/
def Claims.copyByte (s : State) (r : Crew) (j : CopyJob) (k i : Nat) : Byte :=
  let e := s.tile r (wordTile j.word)
  let src := fun (o : Nat) => match ((j.units.getD k ([], [])).1).head? with
    | some p => s.sliceGet p.1 (p.2 + o)
    | none =>
      let x := e.place ((j.lanes.getD k (0, 0, 0)).2.1.toNat + o)
      (s.bankGet r.block r.part (x / 4)).extractLsb' (8 * (x % 4)) 8
  if j.codebook then
    match s.bookOf r.core r.block with
    | some b => Sparse.get 0 b.2.entries (16 * (src (i / 16)).toNat + i % 16)
    | none => 0
  else src i

/-- A copy reads every source byte before it writes any, and writes each lane's bytes at its destination, in lane order where lanes
name one byte; a fill's destination is its tile's place for the offset. Nothing but those bytes changes in the bank, and a drain or a
plain copy changes no bank word; a fill changes no byte of a slice, and a drain or a plain copy none but its destinations, of their lines
at least as their own key reads them. That the whole copy moves as it completes is the model's (log entry 80). It is said here of places in
this device's LPDDR6 on write-back and streaming pages of one key, where the L2 has room for their lines (09 R248, R249). -/
def Claims.CopiesMove : Prop :=
  ∀ (s : State) (r : Crew) (j : CopyJob) (key : BitVec 8),
    let fill := wordKind j.word = 1
    let n := if j.codebook then 64 else j.size
    let places := j.units.flatMap fun u => u.1 ++ u.2
    let e := s.tile r (wordTile j.word)
    let u := s.moveCopy r j
    s.seated r → j.units.length = j.lanes.length → (j.size = 4 ∨ j.size = 8 ∨ j.size = 16) →
    (∀ x ∈ j.units, (if wordKind j.word = 2 then x.1 = [] else x.1.length = 1) ∧ if fill then x.2 = [] else x.2.length = 1) →
    (∀ p ∈ places, s.isLocal p.1 = true ∧ (p.1.attr = 0 ∨ p.1.attr = 3) ∧ p.1.key = key ∧
      ∀ i, i < 64 → rangeOf (p.2 + i) = .lpddr) →
    s.roomFor r.core (linesAt places 64) →
    (fill →
      (∀ k i, k < j.lanes.length → i < n →
        let o := fun (k i : Nat) => e.place ((j.lanes.getD k (0, 0, 0)).2.2.toNat + i)
        (∀ k' i', k < k' ∧ k' < j.lanes.length ∧ i' < n ∨ k' = k ∧ i < i' ∧ i' < n → o k' i' ≠ o k i) →
        (u.bankGet r.block r.part (o k i / 4)).extractLsb' (8 * (o k i % 4)) 8 = Claims.copyByte s r j k i) ∧
      ∀ w, (∀ k i, k < j.lanes.length → i < n → e.place ((j.lanes.getD k (0, 0, 0)).2.2.toNat + i) / 4 ≠ w) →
        u.bankGet r.block r.part w = s.bankGet r.block r.part w) ∧
    (fill → ∀ t' pa, u.sliceGet t' pa = s.sliceGet t' pa) ∧
    (¬ fill → u.blocks = s.blocks ∧
      (∀ t' pa, (∀ x ∈ j.units, ∀ p ∈ x.2, ∀ i, i < n → ¬ sameByte p.1 (p.2 + i) t' pa) →
        (t'.key = key ∨ ∀ x ∈ j.units, ∀ p ∈ x.2, ∀ i, i < n → (p.2 + i) / 128 ≠ pa / 128) →
        (j.cache = .noalloc → ∀ x ∈ j.units, ∀ p ∈ x.2, ∀ i, i < n → p.2 + i ≠ pa) → u.sliceGet t' pa = s.sliceGet t' pa) ∧
      ∀ k i p, k < j.lanes.length → i < n → (j.units.getD k ([], [])).2 = [p] →
      (∀ k' p' i', k < k' → k' < j.lanes.length → (j.units.getD k' ([], [])).2 = [p'] → i' < n → p'.2 + i' ≠ p.2 + i) →
      u.sliceGet p.1 (p.2 + i) = Claims.copyByte s r j k i)

/-- CBSET, when its check passes and a codebook slot is free or the block's own: the crew releases, and the slot holds the
4096 bytes read, entry by entry, for the block (09 R252). -/
def Claims.CodebookLoads : Prop :=
  ∀ (s t : State) (g : Issue) (r : Crew) (a : SReg) (p : MemTag × Nat) (i : Nat), Runs s g r (.cbset a) →
    s.checkLane (viaOf r) (s.ctxOf r) r.priv
      { va := r.sreg a, size := 4096, align := 4096, kind := .read, wr := true, ww := false, atL2 := true } = (.ok p, t) →
    t.bookSlot r.core r.block = some i → (t.isLocal p.1 && rangeOf p.2 == .mmio) = false →
    let x := (t.release g.crew r .device).homeRead p.1 (l2How p.1.attr .dflt) p.2 4096
    ∃ es, (∀ o, o < 4096 → Sparse.get 0 es o = x.1.getD o 0) ∧ exec (.cbset a) s = .next (s.finish (x.2.onCore r.core fun k =>
      { k with books := k.books.put i { block := r.block, entries := es } }) g r)

/-- COPY, COPYCB and CBSET, and the completion of a copy (09 R244-R252). -/
def Obligations.Copies : Prop := Claims.Copies ∧ Claims.CopiesMove ∧ Claims.CodebookLoads

/-! ## Strips, chains, random numbers and hidden state (10) -/

/-- BIN, when its descriptor and every address pass: each active lane sets its primitive's bit in the words of the strips
it meets, lanes ascending; a descriptor that breaks its limits, or an id beyond it, is Reserved Bit (10 R256, R257). Which of several
faults of one lane is reported, that of the first failing word, is the model's (log entry 32). -/
def Claims.Binning : Prop :=
  ∀ (s t : State) (g : Issue) (r : Crew) (d a : VReg) (b : SReg) (w : StripH) (k : KReg) (bs : List Byte),
    Runs s g r (.bin d a b w k) → s.descriptor g.crew r (r.active k) (r.sreg b) 16 = (.ok bs, t) →
    let id := fun l => (s.getV r d.toNat l).toNat
    (binBad bs = true → exec (.bin d a b w k) s = .next (s.finishFault t g r
      { lanes := r.active k, fault := { code := 0x08, level := 0, addr := r.sreg b, detail := 0 } })) ∧
    (binBad bs = false → ∀ high : LaneMask, high ≠ 0 →
      (∀ l, l < 32 → high.getLsbD l = ((r.active k).getLsbD l && decide (fieldAt bs 8 4 ≤ id l))) →
      exec (.bin d a b w k) s = .next (s.finishFault t g r
        { lanes := high, fault := { code := 0x08, level := 0, addr := 0, detail := 0 } })) ∧
    (binBad bs = false → (∀ l, l < 32 → (r.active k).getLsbD l = true → id l < fieldAt bs 8 4) →
      ∀ ps u, t.checkLists (viaOf r) (s.ctxOf r) r.priv ((lanesOf (r.active k)).map fun l =>
          (l, (binWords bs (stripLines w) (id l) (s.getV r a.toNat l).toNat).map fun va =>
            { va := va, size := 4, align := 4, kind := .atomic, wr := false, ww := true, atL2 := true })) = (.ok ps, u) →
      exec (.bin d a b w k) s = .next (s.finish (ps.foldl (fun u x => x.2.foldl (fun u p =>
        (u.atomicLane g.crew r p.1 (cacheOf g.hints) p.2 4 (fun old => some (atomBytes 4 .or (leBytes 4 (2 ^ (id x.1 % 32))) old))
          (.atomic (BitVec.ofNat 48 p.2) p.1.attr p.1.key (.atom .or) 4 (leBytes 4 (2 ^ (id x.1 % 32))))).2) u) u) g r))

/-- ZTEST without a fault, its lanes in ascending order: each is tested against its word as the lanes below it left it, a lane's bit
of KT is whether its test held, and a word takes the value of the last lane that won it; KT is noted as returning; all else stays but
what race detection records (05 R109; 10 R259). That a test of another part's word takes effect at its issue is log entry 91; that race
detection records a write for the lanes that won and a read for the others is log entry 32: both are the model's choices. -/
def Claims.DepthTests : Prop :=
  ∀ (s : State) (g : Issue) (r : Crew) (c : DepthCond) (t : KReg) (a b : VReg) (k : KReg),
    Runs s g r (.ztest c t a b k) →
    let va := fun l => (s.getV r a.toNat l).setWidth 64
    let place := fun l => Place.bank r.block ((va l).toNat / 2 ^ 22 % 8) ((va l).toNat % 2 ^ 22 / 4)
    let m := r.active k
    s.bankFaults r m va 4 = [] → (∀ j, j < s.spreadOf r → (s.part? r.block j).isSome = true) →
    ∃ u v r', ∃ won : Nat → Bool,
      let upTo := fun (n : Nat) (p : Place) => match ((List.range n).filter fun l => won l && place l == p).getLast? with
        | some l => s.getV r b.toNat l
        | none => s.word p
      (∀ l, won l = (m.getLsbD l && depthHolds c (s.getV r b.toNat l) (upTo l (place l)))) ∧
      SameButWords s u ∧ (∀ p, u.word p = upTo 32 p) ∧
      v = (u.races g r false (((lanesOf m).filter fun l => !(((lanesOf m).filter won).any fun w => va w == va l)).map va) 1).races
        g r true (((lanesOf m).filter won).map va) 1 ∧
      SetsK r r' t (fun l => if m.getLsbD l then won l else (r.kreg t).getLsbD l) ∧
      exec (.ztest c t a b k) s =
        .next (s.finish ((v.returnMask g.crew (if m = 0 then [] else [t.toNat])).putCrew g.crew r') g r)

/-- TEXQ, when its descriptor and every texel's address pass: registers D to D + 3 of each active lane take the four
texels, the border colour where a texel is out, and are noted as returning; only memory's own records change beside them (10
R260-R262; 05 R109). The texels are said of cacheable pages, where the caches have room, no store of the crew delays the loads, and no
earlier texel fills a sector of a later one's. Which of several faults of one lane is reported is log entry 32. -/
def Claims.TextureQuads : Prop :=
  ∀ (s t u : State) (g : Issue) (r : Crew) (d a : VReg) (b : SReg) (mode : TexMode) (k : KReg) (bs : List Byte)
    (ps : List (Nat × List (MemTag × Nat))),
    Runs s g r (.texq d a b mode k) → s.seated r → s.descriptor g.crew r (r.active k) (r.sreg b) 32 = (.ok bs, t) →
    texBad bs = false →
    let tx := fun l => texels bs mode (s.getV r a.toNat l)
    t.checkLists (viaOf r) (s.ctxOf r) r.priv ((lanesOf (r.active k)).map fun l =>
      (l, (tx l).filterMap fun p => p.map fun va =>
        { va := va, size := 4, align := 4, kind := .read, wr := true, ww := false, atL2 := false })) = (.ok ps, u) →
    ∃ v w f, WritesV s v r (fun n l => d.toNat ≤ n ∧ n < d.toNat + 4 ∧ (r.active k).getLsbD l = true) f ∧
      OnlyMemory v w g.crew ∧ exec (.texq d a b mode k) s = .next (s.finish w g r) ∧
      (r.active k ≠ 0 → ∃ e, (w.auxOf g.crew).returning.getLast? = some e ∧ ∀ n, n ∈ e.regs ↔ d.toNat ≤ n ∧ n < d.toNat + 4) ∧
      (∀ l i, l < 32 → i < 4 → (r.active k).getLsbD l = true → (tx l)[i]? = some none →
        f (d.toNat + i) l = BitVec.ofNat 32 (fieldAt bs 12 4)) ∧
      ((∀ x ∈ ps, ∀ q ∈ x.2, u.l1Able q.1 q.2 = true ∧ u.undelayed g.crew r q 4) →
        u.roomFor r.core (linesAt (ps.flatMap (·.2)) 4) →
        ∀ pre x post, ps = pre ++ x :: post → none ∉ tx x.1 → ∀ before q after, x.2 = before ++ q :: after →
          (∀ p ∈ pre.flatMap (·.2) ++ before, u.leaves r.core 4 p q) →
          f (d.toNat + before.length) x.1 = BitVec.ofNat 32 (leVal (u.sees g.crew r q.1 q.2 4)))

/-- BIN, ZTEST and TEXQ (10 R256-R262). -/
def Obligations.StripGroups : Prop := Claims.Binning ∧ Claims.DepthTests ∧ Claims.TextureQuads

/-- CHAINQ reads an item of the chain named, or of the crew's own, and all ones where there is none; PROGRESS stamps a
report of its units for the crew's chain while that runs, late or not (10 R264, R266, R267; 13 R353). -/
def Obligations.ChainGroups : Prop :=
  ∀ (s : State) (g : Issue) (r : Crew),
    (∀ d a, Runs s g r (.chainq d a) → (r.sreg a).toNat % 2 ^ 16 < 8 → (r.sreg a).toNat < 2 ^ 32 →
      let item := (r.sreg a).toNat % 8
      let h := (r.sreg a).toNat / 2 ^ 16
      let k := if h = 0xFFFF then (s.boundChain g.crew r).map (·.2) else s.chains.find h
      (k = none → ∃ r', SetsS r r' d 0xFFFFFFFFFFFFFFFF ∧ exec (.chainq d a) s = .next (s.finish (s.putCrew g.crew r') g r)) ∧
      (∀ c, k = some c → c.ctx = s.ctxOf r → ∃ r', SetsS r r' d (match item with
          | 0 => match c.state with
            | .idle => 0
            | .reserving => 1
            | .running => 2
            | .late => 3
          | 1 => BitVec.ofNat 64 (c.release0.toNat + c.inst.toNat * c.period.toNat)
          | 2 => BitVec.ofNat 64 (c.release0.toNat + c.inst.toNat * c.period.toNat + c.drel.toNat)
          | 3 => c.pred
          | 4 => c.rate s.clk
          | 5 => BitVec.ofNat 64 c.count.toNat
          | 6 => BitVec.ofNat 64 c.work.toNat
          | _ => BitVec.ofNat 64 c.overruns.toNat) ∧
        exec (.chainq d a) s = .next (s.finish (s.putCrew g.crew r') g r)) ∧
      (∀ c, k = some c → c.ctx ≠ s.ctxOf r → exec (.chainq d a) s = .next (s.finishFault s g r (raised r 0x07)))) ∧
    (∀ d a, Runs s g r (.chainq d a) → 8 ≤ (r.sreg a).toNat % 2 ^ 16 ∨ 2 ^ 32 ≤ (r.sreg a).toNat →
      exec (.chainq d a) s = .next (s.finishFault s g r (raised r 0x08))) ∧
    (∀ x, Runs s g r (.progress x) → exec (.progress x) s = .next (s.finish (match s.boundChain g.crew r with
      | some k => if k.2.state = .running ∨ k.2.state = .late then
          { s with chains := s.chains.upd k.1 fun c => { c with reports := c.reports ++ [(s.time, x.toNat)] } } else s
      | none => s) g r))

/-- RNG: each active lane takes its Philox block in D to D + 3 and steps its draw index, and the flag RNG is set where an
index wraps; nothing else changes (10 R268, R269). -/
def Claims.RandomBlocks : Prop :=
  ∀ (s : State) (g : Issue) (r : Crew) (d : VReg) (k : KReg), Runs s g r (.rng d k) → s.seated r →
    let m := r.active k
    ∃ u r', WritesV s u r (fun n l => d.toNat ≤ n ∧ n < d.toNat + 4 ∧ m.getLsbD l = true)
        (fun n l => (s.rngBlock r l).getD (n - d.toNat) 0) ∧
      { r' with rngIdx := r.rngIdx, flags := r.flags } = r ∧
      (∀ l, l < 32 → r'.draw l = if m.getLsbD l then r.draw l + 1 else r.draw l) ∧
      ((∃ l, l < 32 ∧ m.getLsbD l = true ∧ (r.draw l).toNat = 2 ^ 64 - 1) → r'.flags = r.flags ||| 0b100000) ∧
      ((∀ l, l < 32 → m.getLsbD l = true → (r.draw l).toNat ≠ 2 ^ 64 - 1) → r'.flags = r.flags) ∧
      exec (.rng d k) s = .next (s.finish (u.putCrew g.crew r') g r)

/-- One round of R269 on four words, under two key words. -/
def Claims.philoxRound (k0 k1 : Nat) (c : Nat × Nat × Nat × Nat) : Nat × Nat × Nat × Nat :=
  let p0 := 0xD2511F53 * c.1
  let p1 := 0xCD9E8D57 * c.2.2.1
  (p1 / 2 ^ 32 ^^^ c.2.1 ^^^ k0, p1 % 2 ^ 32, p0 / 2 ^ 32 ^^^ c.2.2.2 ^^^ k1, p0 % 2 ^ 32)

/-- The block of a draw: ten rounds on the draw index and the lane word, the key words stepping by their constants between rounds
(10 R269). -/
def Claims.PhiloxRounds : Prop :=
  ∀ (s : State) (r : Crew) (l : Nat),
    let ix := (r.draw l).toNat
    let lw := (s.laneWord r l).toNat
    let key := r.rngKey.toNat
    let c := (List.range 10).foldl (fun c i => Claims.philoxRound ((key % 2 ^ 32 + i * 0x9E3779B9) % 2 ^ 32)
      ((key / 2 ^ 32 + i * 0xBB67AE85) % 2 ^ 32) c) (ix % 2 ^ 32, ix / 2 ^ 32, lw % 2 ^ 32, lw / 2 ^ 32)
    (s.rngBlock r l).map BitVec.toNat = [c.1, c.2.1, c.2.2.1, c.2.2.2] ∧
    s.laneWord r l = if r.rngSel = true then BitVec.ofNat 64 l else s.glane r l

/-- For one key the block function is one to one: lanes with distinct lane words, or distinct draw indices, never receive the same
block (10 R270). -/
def Claims.PhiloxIsOneToOne : Prop :=
  ∀ (s s' : State) (r r' : Crew) (l l' : Nat), r.rngKey = r'.rngKey → s.rngBlock r l = s'.rngBlock r' l' →
    s.laneWord r l = s'.laneWord r' l' ∧ r.draw l = r'.draw l'

/-- RNG, the words of its block, and that no block comes twice under one key (10 R268-R270). -/
def Obligations.RandomBlocks : Prop := Claims.RandomBlocks ∧ Claims.PhiloxRounds ∧ Claims.PhiloxIsOneToOne

/-- What WRSTATE of crew word i makes of s: u (10 Table 10.8). MODE keeps M and PAIR; a barrier's bits return only in the generation
whose parity is written, and a barrier that this completes is released; PLANES takes the planes or frees them, which is written also
while a WLD of the crew is in flight (log entry 101, DESIGN CHOICE); RETIRED is stepped to the value by the group's own completion. -/
def Claims.CrewWordWritten (s u : State) (c : Nat) (r : Crew) (i : Nat) (v : DWord) : Prop :=
  let a := s.auxOf c
  let p := s.pn r.pkey
  match i with
  | 0 => ∃ m : DWord, u = s.putCrew c { r with mode := m } ∧ ∀ b, b < 64 → m.getLsbD b =
      if b = 4 ∨ (8 ≤ b ∧ b < 56) then v.getLsbD b else if b < 4 then r.mode.getLsbD b else false
  | 1 => u = s.putCrew c { r with flags := v.extractLsb' 0 6 }
  | 2 => u = s.putCrew c { r with rngKey := v }
  | 3 => ∃ n : BitVec 48, n + 1 = v.extractLsb' 0 48 ∧ u = s.putCrew c { r with retired := n }
  | 4 => u = s.putCrew c { r with retStop := v.extractLsb' 0 48, retStopEn := v.getLsbD 63 }
  | 5 => u = s.putAux c { a with
      trap := { cause := v.extractLsb' 0 8, nesting := v.getLsbD 8, spriv := v.getLsbD 9, detail := v.extractLsb' 16 16 } }
  | 6 => u = s.putAux c { a with trapRec := v }
  | 7 => u = s.putCrew c { r with rngSel := v.getLsbD 0 }
  | 8 => ∃ x y : BitVec 16, u = (s.putAux c { a with arrived := x, hold := y }).settle r.block ∧ ∀ b, b < 16 →
      let same := v.getLsbD (16 + b) = true ↔ ∃ k, s.blockOf r = some k ∧ Sparse.get 0 k.gens b % 2 = 1
      (same → x.getLsbD b = v.getLsbD b ∧ y.getLsbD b = v.getLsbD (32 + b)) ∧ (¬ same → x.getLsbD b = false ∧ y.getLsbD b = false)
  | 9 => ∃ m, u = s.putPn r.pkey { p with events := m } ∧ ∀ t, Sparse.get 0 m t =
      if t = 2 * r.pair then v.extractLsb' 0 8 else if t = 2 * r.pair + 1 then v.extractLsb' 8 8 else Sparse.get 0 p.events t
  | 10 =>
    (v.getLsbD 8 = true → u = s.putPn r.pkey { p with
      planeOwner := some c
      front := { bytes := p.front.bytes, fmt := v.extractLsb' 0 3, valid := v.getLsbD 3 }
      shadow := { bytes := p.shadow.bytes, fmt := v.extractLsb' 4 3, valid := v.getLsbD 7 } }) ∧
    (v.getLsbD 8 = false → p.planeOwner = some c → ∃ x y : Plane,
      u = s.putPn r.pkey { p with planeOwner := none, front := x, shadow := y } ∧
      x.bytes = [] ∧ x.valid = false ∧ y.bytes = [] ∧ y.valid = false) ∧
    (v.getLsbD 8 = false → p.planeOwner ≠ some c → u = s.putPn r.pkey p)
  | 11 => u = s.putAux c { a with sel := v }
  | 12 => ∃ fs : List (BitVec 256), u = s.putAux c { a with frames := fs } ∧ fs.length = v.toNat ∧
      ∀ f, f < v.toNat → fs.getD f 0 = a.frames.getD f 0
  | n => ∃ m, u = s.putCrew c { r with stalls := m } ∧
      ∀ k, Sparse.get 0 m k = if k + 13 = n then v.extractLsb' 0 32 else Sparse.get 0 r.stalls k

/-- What WRSTATE of item i of a group makes of s: u (10 Table 10.7). On-chip stack positions at or above min(D, 16), and frames at or
above FSDEPTH, ignore the write. -/
def Claims.ItemWritten (s u : State) (c : Nat) (r : Crew) (group i : Nat) (v : DWord) : Prop :=
  let a := s.auxOf c
  let p := s.pn r.pkey
  match group with
  | 0 => Claims.CrewWordWritten s u c r i v
  | 1 => ∃ ps : List PC, ∃ x : LaneMask, u = s.putCrew c { r with heldPcs := ps, heldExited := x } ∧ ∀ l, l < 32 →
      ps.getD l 0 = (if l = i then v.extractLsb' 0 57 else r.heldPcs.getD l 0) ∧
      x.getLsbD l = if l = i then v.getLsbD 63 else r.heldExited.getLsbD l
  | 2 => ∃ m, u = s.putCrew c { r with rstk := m } ∧ (∀ l, l ≠ i → Sparse.get RStack.empty m l = r.rstack l) ∧
      let k := Sparse.get RStack.empty m i
      k.depth = (v.extractLsb' 0 17).toNat ∧ k.ovf = v.getLsbD 17 ∧ k.count = v.extractLsb' 32 32 ∧
      (a.rsEnt ≠ 0 → k.ptr = (v.extractLsb' 32 32).toNat % a.rsEnt) ∧ k.chip.length = min k.depth 16 ∧
      ∀ j, j < k.chip.length → k.chip.getD j 0 = (r.rstack i).chip.getD j 0
  | 3 => (r.rstack i).chip.length = min (r.rstack i).depth 16 →
      ∃ m, u = s.putCrew c { r with rstk := m } ∧ (∀ l, l ≠ i → Sparse.get RStack.empty m l = r.rstack l) ∧
        ∃ ps : List PC, Sparse.get RStack.empty m i = { r.rstack i with chip := ps } ∧ ps.length = (r.rstack i).chip.length ∧
          ∀ j, ps.getD j 0 = if j = (a.sel.extractLsb' 0 4).toNat ∧ j < min (r.rstack i).depth 16 then v.extractLsb' 0 57
            else (r.rstack i).chip.getD j 0
  | 4 => ∃ m, u = s.putCrew c { r with rngIdx := m } ∧ ∀ l, Sparse.get 0 m l = if l = i then v else r.draw l
  | 5 =>
    (i < 16 → ∃ fs : List (BitVec 256), u = s.putAux c { a with frames := fs } ∧ fs.length = a.frames.length ∧
      ∀ f w, w < 4 → (fs.getD f 0).extractLsb' (64 * w) 64 =
        if 4 * f + w = i ∧ f < a.frames.length then v else (a.frames.getD f 0).extractLsb' (64 * w) 64) ∧
    (16 ≤ i → ∃ m, u = s.putCrew c { r with qregs := m } ∧ ∀ q k, k < 3 →
      (Sparse.get 0 m q).extractLsb' (64 * k) 64 =
        if 16 + 3 * q + k = i then v else (Sparse.get 0 r.qregs q).extractLsb' (64 * k) 64)
  | 6 => u = s.putTile r.block r.part i { s.tile r i with state := Spec.tileState (v.extractLsb' 42 2) }
  | _ =>
    let wrote := fun (k x : Plane) => x.fmt = k.fmt ∧ x.valid = k.valid ∧ ∀ n,
      let base := (if a.sel.getLsbD 9 then 512 else 0) + 8 * i
      Sparse.get 0 x.bytes n = if base ≤ n ∧ n < base + 8 then v.extractLsb' (8 * (n - base)) 8 else Sparse.get 0 k.bytes n
    ∃ x : Plane, (a.sel.getLsbD 8 = false → wrote p.front x ∧ u = s.putPn r.pkey { p with front := x }) ∧
      (a.sel.getLsbD 8 = true → wrote p.shadow x ∧ u = s.putPn r.pkey { p with shadow := x })

/-- WRSTATE writes the item its immediate names, as the tables lay it out; a nonzero bit where the layout holds zero, or a field beyond
its limit (FSDEPTH 4, D 16 + E), is Reserved Bit, and a tile with copies in flight or at or above the tile count is Tile State, and then
nothing changes (10 R277-R279, Tables 10.7, 10.8). What is written is read back by RDSTATE for the items that keep all their bits. -/
def Obligations.HiddenState : Prop :=
  ∀ (s : State) (g : Issue) (r : Crew) (a : SReg) (item : BitVec 10), Runs s g r (.wrstate a item) →
    let v := r.sreg a
    let group := item.toNat / 64
    let i := item.toNat % 64
    let bad := (∃ x ∈ Spec.itemZeros group i, v.extractLsb' x.1 x.2 ≠ 0) ∨ (group = 0 ∧ i = 12 ∧ 4 < v.toNat) ∨
      (group = 2 ∧ 16 + (s.auxOf g.crew).rsEnt < (v.extractLsb' 0 17).toNat)
    let moving := group = 6 ∧ ((s.tile r i).pend ≠ 0 ∨ s.tileCount r ≤ i)
    Spec.itemDefined group i = true →
    (bad → exec (.wrstate a item) s = .next (s.finishFault s g r (raised r 0x08))) ∧
    (¬ bad → moving → exec (.wrstate a item) s = .next (s.finishFault s g r (raised r 0x0A))) ∧
    (¬ bad → ¬ moving → ∃ u, exec (.wrstate a item) s = .next (s.finish u g r) ∧ Claims.ItemWritten s u g.crew r group i v ∧
      ((group = 0 ∧ i ∈ [2, 6, 11, 12]) ∨ group = 1 ∨ group = 4 →
        ∀ r', u.crews.find g.crew = some r' → u.stateItem g.crew r' item.toNat = v))

/-! ## Crews, launches and blocks between groups (01 R17-R19, 02 R58, 05 R109, 13 R335-R342, 14 R363-R368, 16 R407) -/

/-- What moves a crew between groups: its start completes; a SCHED stall ends; a wait resolves, or gives way to another
reason, and not before for a copy of the crew that has failed; a wait for a fetch (reason 12) ends with the group's lines in the
instruction cache (log entry 92, DEDUCED); a BAR holds a handler too, by the BARs that it has issued itself; the oldest result still returning whose answers are in
arrives; a dropped pre-emption request is repeated (01 R19, 02 R58, 05 R109, 12 R309, R333, 14 R365). -/
def Claims.CrewEvents : Prop :=
  ∀ (s : State) (c : Nat) (r : Crew), s.crews.find c = some r →
    let a := s.auxOf c
    (r.phase = .starting → exec (.crewStartComplete c) s = .next (s.putCrew c { r with phase := .ready })) ∧
    (r.phase = .waiting 15 → r.stallEnd ≠ 0 → r.stallEnd ≤ s.clk →
      exec (.schedStallExpiry c) s = .next (s.putCrew c { r with phase := .ready, stallEnd := 0 })) ∧
    (∀ n, r.phase = .waiting n → a.susp = none → (n = 15 → r.stallEnd = 0) →
      (if a.trap.nesting = true then a.holdIn else a.hold) = 0 → r.stallEnd ≤ s.clk →
      let s1 := if n = 12 then (s.fetchGroup r r.headPc 3).2.2 else s
      (s1.crewWait c r = none → exec (.waitResolved c) s = .next (s1.putCrew c { r with phase := .ready })) ∧
      (∀ m t, s1.crewWait c r = some (m, t) → exec (.waitResolved c) s = .next (t.onCrew c fun r => { r with phase := .waiting m }))) ∧
    (∃ t, exec (.loadReturn c) s = .next t ∧
      let owed := fun (x : Returning) => x.lost.isSome = true ∨ (x.group ≠ 0 ∧ ∃ p ∈ s.links.peers, ∃ f ∈ p.2.unacked,
        f.group = x.group ∧ ∃ y ∈ f.sources, y.1 = c)
      (∀ pre x post, a.returning = pre ++ x :: post → (∀ y ∈ pre, owed y) → ¬ owed x →
        t.auxOf c = { a with returning := pre ++ post }) ∧
      ((∀ x ∈ a.returning, owed x) → t.auxOf c = a) ∧
      (∀ x, x ≠ c → t.auxOf x = s.auxOf x) ∧ { t with aux := s.aux } = s) ∧
    (a.retryAt ≠ 0 → a.retryAt ≤ s.time.toNat →
      exec (.preemptionRetry c) s = .next (s.putAux c { a with retryAt := 0 }))

/-- PREEMPTION_ENTRY of a crew that takes its request: with a free save frame it enters its save routine, trap 0x20, with
the frame in the token field and its record there; with none the request waits 1 us; an MMA of the crew that streams, or a rendezvous
that completes on the clk of the request, comes first (08 R212, R222). The save area and its frames are those of the launch region as
the crew started (01 R38). CREW_RESUME seats a SAVED crew in a free slot of its partition at its restore routine's entry, in a handler,
with its frame's address in s1 (14 R363-R368). -/
def Claims.Preemption : Prop :=
  ∀ (s : State) (c : Nat) (r : Crew), s.crews.find c = some r →
    let a := s.auxOf c
    let ctx := s.ctxOf r
    let streams := (∃ x ∈ (s.pn r.pkey).streams, x.crew = c) ∨ ∃ l ∈ s.latches, (∃ x ∈ l.2.arrivals, x.crew = c) ∧
      (l.2.completed = some a.preemptClk ∨ (l.2.completed = none ∧ s.clk = a.preemptClk))
    (∀ d, a.preempt = some d → a.trap.nesting = false → a.retryAt = 0 → (r.phase = .ready ∨ ∃ n, r.phase = .waiting n) →
      (streams → exec (.preemptionEntry c) s = .next s) ∧
      (¬ streams → s.freeFrameOf ctx a.started = none →
        exec (.preemptionEntry c) s = .next (s.putAux c { a with retryAt := s.time.toNat + 1000 })) ∧
      (¬ streams → ∀ f, s.freeFrameOf ctx a.started = some f →
        let place := a.started.saveArea + BitVec.ofNat 64 (0x180000 + 65536 * f)
        let t := ((s.holdFrame ctx a.started f).putAux c
          { a with preempt := none, susp := none, frame := some f, frameAt := place, frameSlot := a.started.saveSlot }).putCrew c
          { r with stallEnd := 0 }
        exec (.preemptionEntry c) s = .next (t.trapEntry c
          { code := 0x20, lanes := 0, detail := d, level := 0, addr := 0, pc := r.headPc, retired := r.retired, flg := 0,
            token := BitVec.ofNat 32 f } place))) ∧
    (∀ f slot e t, r.phase = .saved → a.frame = some f → s.resumeSlot r = some slot → s.earlierSaved c r f = false →
      s.tableEntry ctx (s.startedOf ctx (s.packetOf r).rslot).trapTab 0x21 = (some e, t) →
      ∃ u r', exec (.crewResume c) s = .next u ∧ u.crews.find c = some r' ∧ r'.phase = .starting ∧ r'.slot = slot ∧
        (∀ l, l < 32 → r'.pc l = e.1) ∧ r'.live = 0xFFFFFFFF ∧ r'.priv = e.2 ∧ r'.sreg 1 = a.frameAt ∧
        (u.auxOf c).trap.nesting = true ∧ (u.auxOf c).frame = some f ∧ (u.auxOf c).replay = a.replay ∧
        (u.auxOf c).started = s.startedOf ctx (s.packetOf r).rslot)

/-- What moves a crew between groups, pre-emption and resumption among it (01 R19, 02 R58, 05 R109, 14 R363-R368). -/
def Obligations.CrewEvents : Prop := Claims.CrewEvents ∧ Claims.Preemption

/-- DOORBELL to an accepted or a rejected packet, or to a slot above 62, where there is none; LAUNCH_READY, LAUNCH_BLOCKING,
BLOCK_PLACEMENT of the first launch whose block has a place, once the strip scheduler has no action of the clock left, and BLOCK_RETIRE,
which writes out what the block's cores hold, waits while a peer has a write to acknowledge, and ends its launch with the last block (13
R335-R342; 01 R17; 11 R303, R305; 16 R407). That a doorbell rung while the pithead is down is kept is the model's (log entry 39), and that
no block is placed before TIME has stepped to the grandmaster (log entry 67). -/
def Obligations.LaunchEvents : Prop :=
  (∀ (s : State) (page : BitVec 6) (slot : Word), 62 < slot.toNat → exec (.doorbell page slot) s = .next s) ∧
  (∀ (s : State) (page : BitVec 6) (slot : Word), slot.toNat ≤ 62 →
    let n := (s.ctlOf page.toNat).subcnt + 1
    let p := Packet.ofBytes ((List.range 64).map fun i => Sparse.get 0 s.mem.bar2 (4096 * page.toNat + 64 * slot.toNat + i))
    let s1 := s.putCtl page.toNat { s.ctlOf page.toNat with subcnt := n }
    (s.pithead.up = false → exec (.doorbell page slot) s =
      .next { s with pithead := { s.pithead with bells := s.pithead.bells ++ [(page.toNat, slot.toNat)] } }) ∧
    (s.pithead.up = true → s.rejection page.toNat p = none → exec (.doorbell page slot) s =
      .next { s1 with
        launches := s.launches.put s.nextId
          { packet := p, ctx := page.toNat, subseq := n.toNat, pred := s.predOf page.toNat p.pred, ready := false, next := 0
            passed := none, blocking := false, retiredBlocks := 0, ending := false, left := [] }
        nextId := s.nextId + 1 }) ∧
    (s.pithead.up = true → ∀ why, s.rejection page.toNat p = some why → why ≠ 9 → exec (.doorbell page slot) s =
      .next (s1.postCompletion (completionRec 2 why page.toNat p.handle n.toNat s.time 0)))) ∧
  (∀ (s : State) (l : Nat) (k : Launch), s.launches.find l = some k →
    (k.ready = false → k.ending = false → k.packet.start.toNat ≤ s.time.toNat → s.predDone k = true →
      let t := { s with launches := s.launches.put l { k with ready := true } }
      exec (.launchReady l) s = .next (if k.packet.blocks = 0 then t.retireLaunch l 0 else t)) ∧
    (∀ t, k.passed = some t → k.next < k.packet.blocks → t.toNat + 1000000 ≤ s.time.toNat →
      exec (.launchBlocking l) s = .next { s with launches := s.launches.put l { k with blocking := true } }) ∧
    (s.stripActs = true ∨ s.links.ptp.locked = false → exec .blockPlacement s = .next s) ∧
    (∀ rest sp cl ps, s.stripActs = false → s.links.ptp.locked = true → s.waitingLaunches = (l, k) :: rest → s.savedOf l = false → s.place k = some (sp, cl, ps) →
      ∃ t b, exec .blockPlacement s = .next t ∧ t.blocks.find s.nextId = some b ∧ b.launch = l ∧ b.bl = k.next ∧
        b.spread = sp ∧ b.cluster = cl ∧ b.tplace = s.time ∧ t.lastCluster = some cl ∧
        t.launches.find l = some { k with next := k.next + 1, passed := none, blocking := false })) ∧
  (∀ (s : State) (b : Nat) (k : Block) (l : Launch), s.blocks.find b = some k → s.blockDone b = true →
    s.launches.find k.launch = some l →
    let s1 := k.parts.foldl (fun u j => u.releaseAt j.2.core true) s
    (s1.awaiting = true → exec (.blockRetire b) s = .next s1) ∧
    (s1.awaiting = false →
    ∃ t, exec (.blockRetire b) s = .next t ∧ t.blocks.find b = none ∧ (∀ e ∈ t.crews, e.2.block ≠ b) ∧
      (l.retiredBlocks + 1 = l.packet.blocks → t.launches.find k.launch = none) ∧
      (l.retiredBlocks + 1 ≠ l.packet.blocks → t.launches.find k.launch = some { l with retiredBlocks := l.retiredBlocks + 1 })))

/-! ## The matrix array's clock and the lamps (08 R208, R212, R216, R222; 13 R344, R345) -/

/-- An MMA streams for 40 clk; a WLD makes its shadow plane valid after 32; an ACCST's tile steps after 40; a gang that has
not assembled in 2^20 clk raises Gang Timeout on its members (08 R208, R212, R216, R222). -/
def Claims.MatrixEvents : Prop :=
  ∀ (s : State) (core part : Nat),
    let k := partKey core part
    let p := s.pn k
    (∀ x rest, p.streams = x :: rest → x.start + 40 ≤ s.clk →
      exec (.mmaStreamEnd core part) s = .next (s.onPn k fun p => { p with streams := rest })) ∧
    (∀ c t, p.wld = some (c, t) → t + 32 ≤ s.clk → exec (.wldComplete core part) s =
      .next (s.onPn k fun p => { p with wld := none, wldRead := none, shadow := { p.shadow with valid := true } })) ∧
    (∀ x rest, p.accst = x :: rest → x.start + 40 ≤ s.clk →
      let e := Sparse.get TileEntry.zero (s.partOf x.block x.part).tiles x.tile
      exec (.accstComplete core part) s = .next ((s.onPn k fun p => { p with accst := rest }).putTile x.block x.part x.tile
        { e with pend := e.pend - 1, state := if e.pend = 1 then .ready else e.state })) ∧
    (∀ leader l, s.latches.find leader = some l → l.complete leader = false → l.start + 2 ^ 20 ≤ s.clk →
      exec (.gangTimeout leader) s = .next (s.gangFault leader l none 0x0E))

/-- The lamp states: HOLD gives up after 8 clk, BURST drains after 4096 clk or after 256 without an MMA, DRAIN is done when
the cluster's MMAs are; 8 clk after every holder is DONE the next round starts with the count asked for, and clusters where
a crew waits whose MMA stands at the lamp step, whatever the reason it is charged, burst at once (13 R344, R345; 14 R384). -/
def Claims.LampRounds : Prop :=
  ∀ (s : State) (c : Nat),
    (∀ t, s.lamps.at c = .hold t → t + 8 ≤ s.clk → exec (.lampHoldExpiry c) s = .next (s.setLamp c .done)) ∧
    (∀ t m, s.lamps.at c = .burst t m →
      (t + 4096 ≤ s.clk → exec (.lampBurstExpiry c) s = .next (s.setLamp c .drain)) ∧
      (m + 256 ≤ s.clk → exec (.lampBurstIdle c) s = .next (s.setLamp c .drain))) ∧
    (s.lamps.at c = .drain → s.clusterIdle c = true → exec (.lampDrainDone c) s = .next (s.setLamp c .done)) ∧
    (s.lamps.advance = none → (∀ i, i < 12 → s.lamps.lit i = true → s.lamps.at i = .done) →
      exec .lampRoundAdvance s = .next { s with lamps := { s.lamps with advance := some (s.clk + 8) } }) ∧
    ∀ t, s.lamps.advance = some t → t ≤ s.clk →
      let ring : LampRing := { s.lamps with count := s.lamps.next, k := (s.lamps.k + 1) % 12, advance := none }
      let v : State := { s with lamps := { ring with clusters := ring.fresh s.clk } }
      let stands := fun (e : Nat × Crew) => ∃ m n tr z gang sb t f g ms, e.2.phase = .waiting m ∧
        v.peekGroup e.1 e.2 = some (.mma n tr z gang sb t f, g) ∧ issueFault v e.1 e.2 g.hints (.mma n tr z gang sb t f) = none ∧
        mmaStand n tr z gang sb t f v g e.2 = .lamp ms
      ∃ u, exec .lampRoundAdvance s = .next u ∧ { u with lamps := s.lamps } = s ∧ u.lamps.count = s.lamps.next ∧
        u.lamps.next = s.lamps.next ∧ u.lamps.k = (s.lamps.k + 1) % 12 ∧ u.lamps.advance = none ∧
        ∀ i, i < 12 →
          let held := ∃ e ∈ s.crews, stands e ∧ s.clusterOf e.2.core = i
          (u.lamps.lit i = false → u.lamps.at i = .dark) ∧
          (u.lamps.lit i = true → held → u.lamps.at i = .burst s.clk s.clk) ∧
          (u.lamps.lit i = true → ¬ held → u.lamps.at i = .hold s.clk)

/-- What the matrix array and the lamp ring do by the clock (08 R208, R212, R216, R222; 13 R344, R345). -/
def Obligations.MatrixEvents : Prop := Claims.MatrixEvents ∧ Claims.LampRounds

/-! ## Chains and heads (13 R348-R356, 15) -/

/-- The strip scheduler's events: a release that is skipped (event 4), refused (event 3), or charged and reserving; a
reservation's deadline (event 2); a grant; a late chain (event 2); and the processing of a report, all after a skip that is
due (13 R349-R356). A release is refused for PARTS alone. The instance that an event of kind 3 or 4 carries is the model's (log entry
53); so are which of two chains released on one clock is dealt partitions first, the wrap of OVERRUNS, and the TIME of an event that a
report raises (log entry 94), and that a chain keeps the partitions it was given while lower ones free (log entry 99). -/
def Claims.ChainEvents : Prop :=
  ∀ (s : State) (h : BitVec 16) (c : Chain),
    let n := h.toNat
    (s.chains.find n = some c → c.releaseOf c.next ≤ s.time.toNat → (c.period = 0 → c.next = 0) →
      let parts := c.rparts * c.ncore
      let fits := ∀ k ∈ s.regionChain c.ctx c.rslot, ∀ g, s.region c.ctx k = some g → g.override.getLsbD 6 = true →
        g.partsUsed + parts ≤ g.parts.toNat
      (c.state ≠ .idle → exec (.chainRelease h) s = .next ((s.onChain n fun c =>
        { c with overruns := c.overruns + 1, next := c.next + 1 }).logChain n 4 s.time.toNat c.next)) ∧
      (c.state = .idle → ¬ fits → exec (.chainRelease h) s = .next ((s.onChain n fun c =>
        { c with overruns := c.overruns + 1, next := c.next + 1, inst := BitVec.ofNat 64 c.next }).logChain n 3 s.time.toNat
          c.next)) ∧
      (c.state = .idle → fits → exec (.chainRelease h) s = .next
        (((s.chargeChain c.ctx c.rslot fun g => { g with partsUsed := g.partsUsed + parts }).onChain n fun c =>
          { c with next := c.next + 1, inst := BitVec.ofNat 64 c.next, state := .reserving, held := [] }).dealParts))) ∧
    (s.chains.find n = some c → c.state = .reserving → c.deadline c.inst.toNat < s.time.toNat → s.skipDue c = false →
      exec (.chainReserveDeadline h) s = .next (((s.onChain n fun c => { c with overruns := c.overruns + 1 }).logChain n 2
        (c.deadline c.inst.toNat + 1) c.inst.toNat).endReservation n)) ∧
    (s.chains.find n = some c → c.state = .running → c.deadline c.inst.toNat + 1000 ≤ s.time.toNat →
      (∀ x ∈ c.reports, c.deadline c.inst.toNat < x.1.toNat) → s.skipDue c = false →
      exec (.chainLate h) s = .next ((s.onChain n fun c => { c with overruns := c.overruns + 1, state := .late }).logChain n 2
        (c.deadline c.inst.toNat + 1) c.inst.toNat)) ∧
    (∀ x, s.chains.find n = some c → firstReport c.reports = some x → s.skipDue c = false →
      (c.state ≠ .running ∨ x.1.toNat ≤ c.deadline c.inst.toNat) → exec (.progressReport h) s = .next (s.report n c x)) ∧
    (s.dealParts.chains.find n = some c → c.state = .reserving → s.dealParts.setWhole c = true →
      s.time.toNat ≤ c.deadline c.inst.toNat → s.skipDue c = false →
      let s1 := (s.dealParts.backgroundOn c.held).foldl (fun u x => u.requestPreempt x 1) s.dealParts
      let s2 := s1.onChain n fun c =>
        { c with state := .running, levelNow := c.level, levelWas := c.level, levelClk := s.clk, count := 0, pred := 0
                 base := (BitVec.ofNat 64 (c.releaseOf c.inst.toNat), 0) }
      let f := (c.frame &&& ~~~ ((0xFFFFFFFF#256) <<< 192)) ||| (BitVec.ofNat 256 (c.inst.toNat % 2 ^ 32) <<< 192)
      (∀ t, s2.pushFrame c.core0 c.ctx 0 f = .ok t →
        exec (.reservationGrant h) s = .next (t.retryView c.core0 c.ctx 0)) ∧
      ((s.viewOf c.core0 c.ctx 0).chip.length < s.viewCap c.ctx (frameRslot c.frame) →
        ∃ t, s2.pushFrame c.core0 c.ctx 0 f = .ok t ∧ exec (.reservationGrant h) s = .next (t.retryView c.core0 c.ctx 0)) ∧
      (∀ e, s2.pushFrame c.core0 c.ctx 0 f = .error e → exec (.reservationGrant h) s =
        .next (((s2.onChain n fun c => { c with overruns := c.overruns + 1 }).logChain n 3 s.time.toNat
          c.inst.toNat).endReservation n)))

/-- What a report does to the chain that runs (10 R267, 13 R353): its count grows, to 2^32 - 1 at most; the chain finishes at WORK; else the
predicted finish is the report's time plus the time left at the pace since the base, rounded up. A level that a report raises is read by
RATE from the next clk on: on the clk of the report the level is what it was before. -/
def Claims.ChainPredictions : Prop :=
  (∀ (s : State) (n : Nat) (c : Chain) (x : DWord × Nat), s.chains.find n = some c → c.state = .running →
    c.count.toNat + x.2 < c.work.toNat → c.base.2.toNat < c.count.toNat + x.2 →
    let u := c.count.toNat + x.2
    c.deadline c.inst.toNat < c.predict x.1.toNat u + c.guard.toNat → c.pin = false → c.levelNow < 4 → c.levelClk ≠ s.clk →
    ∃ d, (s.report n c x).chains.find n = some d ∧ d.levelNow = c.levelNow + 1 ∧ d.pred.toNat = c.predict x.1.toNat u ∧
      d.count.toNat = u ∧ d.base = (x.1, BitVec.ofNat 32 u) ∧ d.overruns = c.overruns ∧ d.state = c.state ∧
      let word := fun (n : Nat) => ([0x0, 0x11, 0x112, 0x123, 0x224] : List DWord).getD n 0
      d.rate s.clk = word c.levelNow ∧ ∀ k, s.clk < k → d.rate k = word (c.levelNow + 1)) ∧
  (∀ (s : State) (n : Nat) (c : Chain) (x : DWord × Nat), c.state = .running → c.work.toNat ≤ c.count.toNat + x.2 →
    s.report n c x = (({ s with chains := s.chains.upd n fun c => { c with reports := dropFirst (fun y => y == x) c.reports } }).onChain
      n fun c => { c with count := BitVec.ofNat 32 (min (c.count.toNat + x.2) (2 ^ 32 - 1)) }).endReservation n) ∧
  (∀ (c : Chain) (t u : Nat), c.base.1.toNat ≤ t → c.base.2.toNat < u → u ≤ c.work.toNat →
    let left := (t - c.base.1.toNat) * (c.work.toNat - u)
    let pace := u - c.base.2.toNat
    c.predict t u = min (2 ^ 64 - 1) (t + (left + pace - 1) / pace))

/-- The strip scheduler's events, and what a progress report predicts (13 R349-R356). -/
def Obligations.ChainEvents : Prop := Claims.ChainEvents ∧ Claims.ChainPredictions

/-- STRIP_DUE at a head's next due time consumes the strip where the producer has committed it and counts it missed else, on the header
as an update finds it settled; DISPLAY_READING_END emits the strip, the slot's samples or the fill colour of a missed one, and ends its
reading at its last line. A reading that ends by the due time comes first, and a due update before a reading's end; that the reading is
first where both come at one TIME is log entry 94 (15 R386, R387, R389, R391, R392, R394). That a strip whose header cannot be read is missed and passes is log entry 62; that the display
reading of a strip of a frame which stood part-way as its head was enabled ends as it is consumed is log entry 86. -/
def Claims.StripEvents : Prop :=
  ∀ (s : State) (h : BitVec 6),
    let n := h.toNat
    let x := s.headOf n
    let i := x.nextDue
    let g := x.regs
    let hit := { g with consumed := g.consumed + 1 }
    let miss := { g with missed := g.missed + 1 }
    let eng := { x.eng with due := x.eng.due + 1 }
    let j := x.eng.disp
    let st := j % g.ns
    let due := g.dueTime (i / g.ns) (i % g.ns)
    let lastLine := g.lineTime (j / g.ns) (min (g.sh * st + g.sh) g.h)
    let u := s.emit n j
    let ended := (u.putHead n { x with eng := { x.eng with disp := j + 1 } }).endReadings n true (· == j)
    (g.en = true → g.ns ≠ 0 → due ≤ s.time.toNat → g.shows = true → j < i → lastLine ≤ due →
      exec (.stripDue h) s = exec (.stripDue h) ended) ∧
    (g.en = true → g.ns ≠ 0 → due ≤ s.time.toNat → (g.shows = true → j < i → due < lastLine) →
      (∀ t, s.ringOf n = (none, t) → exec (.stripDue h) s =
        .next (t.putHead n { regs := miss, eng := { eng with marks := x.eng.marks ++ [dueMark i true false true] } })) ∧
      ∀ hdr t, s.ringOf n = (some hdr, t) →
        let r := (ringUpdate hdr { next := i, marks := x.eng.marks }).1
        let marks := (ringUpdate hdr { next := i, marks := x.eng.marks }).2.marks
        let d := fun (j : Nat) => diff32 j r.l
        let mark := fun (missed pending passed : Bool) => marks ++ [dueMark i missed pending passed]
        (d (i % 2 ^ 32) < d r.f → x.eng.disp ≤ i → exec (.stripDue h) s =
          .next ((t.putHead n { regs := hit, eng := eng }).putRing n r (mark false false false))) ∧
        (d (i % 2 ^ 32) < d r.f → i < x.eng.disp → (∀ m ∈ marks, m.idx ≠ i) → exec (.stripDue h) s =
          .next ((t.putHead n { regs := hit, eng := eng }).putRing n r
            (marks ++ [{ dueMark i false false false with dispDone := true, done := !g.codes }]))) ∧
        (d r.f ≤ d (i % 2 ^ 32) → d (i % 2 ^ 32) < d r.a → exec (.stripDue h) s =
          .next ((t.putHead n { regs := miss, eng := eng }).putRing n { r.mark (i % 2 ^ 32) with f := (i % 2 ^ 32 + 1) % 2 ^ 32 }
            (mark true true false))) ∧
        (d r.f ≤ d (i % 2 ^ 32) → d r.a ≤ d (i % 2 ^ 32) → exec (.stripDue h) s =
          .next ((t.putHead n { regs := miss, eng := eng }).putRing n r (mark true false true)))) ∧
    (g.en = true → g.shows = true → g.ns ≠ 0 → j < i → lastLine ≤ s.time.toNat → lastLine ≤ due →
      exec (.displayReadingEnd h) s = .next ended ∧
      ∃ e, u.links.shown = s.links.shown ++ [e] ∧ e.head = n ∧ e.frame = j / g.ns ∧ e.strip = st ∧ e.port = g.hctl.getLsbD 3 ∧
        e.encoding = { subsampling := (2, 2), bitsPerComponent := 10, bt709 := true, limitedRange := true } ∧
        ((∀ m ∈ x.eng.marks, m.idx = j → m.missed = true) →
          let w := (x.fillOf (j / g.ns) st).toNat
          e.shown = .fill (w % 1024) (w / 1024 % 1024) (w / 2 ^ 20 % 1024)) ∧
        ((∃ m ∈ x.eng.marks, m.idx = j ∧ m.missed = false) → ∀ hdr, (s.ringOf n).1 = some hdr →
          let sample := fun (line k : Nat) =>
            fieldAt (s.slotBytes x hdr j) (128 * ((4 * ((g.w + 2) / 3) + 127) / 128) * line + 4 * (k / 3)) 4 / 2 ^ (10 * (k % 3)) % 1024
          ∃ ls cs, e.shown = .lines ls cs ∧ ls.length = min g.sh (g.h - g.sh * st) ∧ cs.length = (ls.length + 1) / 2 ∧
            (∀ y k, y < ls.length → k < g.w → (ls.getD y []).getD k 0 = sample y k) ∧
            ∀ y k, y < cs.length → k < g.w → (cs.getD y []).getD k 0 = sample (g.sh + y) k))

/-- ENCODER_ROW codes the head's row that became ready first: its lines as the slots hold them, those of a missed strip as skipped
blocks, or as the fill colour in a key frame; it sends the bits, which are the free function Config.tileGroup of the sequence header and
of all rows coded since the enable (log entry 60), steps the rate control, and ends the readings of the strips that end with the row. The
sequence header and the row hold what Table 15.7 fixes: profile, level, depth, sampling and colour, the row as a tile of its own, LAST and
GOLDEN as the references of an inter frame, one per block, and the tools; a frame that refreshes GOLDEN becomes it with its last row. The
heads of the engine first do what they have to do by then, so that a row stands ready from the due update of its last strip. A fault of its
state area stops the head (15 R395-R400). Where GOLDINT counts from is the model's (log entry 94). -/
def Claims.RowEvents : Prop :=
  (∀ (s : State) (e : BitVec 3), (∀ k, (s.headOf k).dueBy s.time.toNat = false ∧ (s.headOf k).emittedBy s.time.toNat = false) →
    s.catchEngine e.toNat = s) ∧
  ∀ (s0 : State) (n : Nat) (e : BitVec 3), (s0.catchEngine e.toNat).rowHead e.toNat = some n →
    let s := s0.catchEngine e.toNat
    let x := s.headOf n
    let g := x.regs
    let f := x.nextRow.1
    let r := x.nextRow.2.1
    (∀ va code level, s.stateAreaFault g = some (va, code, level) → exec (.encoderRow e) s0 = .next (s.stopHead n f va code level)) ∧
    (s.stateAreaFault g = none →
      let key := if r = 0 then x.keyFrame f else decide (x.eng.lastKey = f)
      let golden := x.goldenFrame f key
      let row := s.codedRow n key golden (g.qindex x.eng.full)
      let obu := Config.tileGroup g.seqHeader (x.eng.coded ++ [row])
      let mtu := (g.ertp.extractLsb' 48 16).toNat
      let ps := (if key = true ∧ r = 0 then obuPayloads mtu true (Config.seqHeader g.seqHeader) else []) ++ obuPayloads mtu false obu
      let t := (s.putHead n { x with eng := { x.eng with
        row := x.eng.row + 1, full := x.eng.full + 8 * obu.length - g.rowBits, keyReq := if r = 0 then false else x.eng.keyReq
        lastKey := if key then f else x.eng.lastKey, golden := if golden ∧ r + 1 = g.rows then f else x.eng.golden
        coded := x.eng.coded ++ [row] } }).writeStateArea g
      let sent := (List.range ps.length).foldl (fun u i =>
        u.sendRtp n (g.stamp f) (decide (r + 1 = g.rows ∧ i + 1 = ps.length)) (ps.getD i [])) t
      exec (.encoderRow e) s0 = .next (sent.endReadings n false (g.stripsEnded f r)) ∧
      row.frame = f ∧ row.row = r ∧ row.qindex = g.qindex x.eng.full ∧ row.key = key ∧ row.golden = golden ∧ row.tile = (0, r) ∧
      row.shown = true ∧ row.refs = (if key then [] else [(RefFrame.last, f - 1), (RefFrame.golden, x.eng.golden)]) ∧
      (let q := g.seqHeader
       q.width = g.w ∧ q.height = g.h ∧ q.profile = 0 ∧ q.maxLevelIdx ≤ 13 ∧ q.bitDepth = (if g.hctl.getLsbD 7 then 8 else 10) ∧
       q.subsampling = (1, 1) ∧ q.primaries = 1 ∧ q.transfer = 1 ∧ q.matrix = 1 ∧ q.fullRange = false ∧ q.chromaPosition = 0 ∧
       q.superblock = 64 ∧ q.stillPicture = false ∧ q.reducedStillPicture = false ∧ q.filmGrain = false ∧ q.superres = false ∧
       q.tools = { refs := [.last, .golden], refsPerBlock := 1, tileCols := 1, rowsPerTile := 1
                   intra := [.dc, .directional, .smooth, .paeth, .cfl], inter := [.newMv, .nearestMv, .nearMv, .globalMv]
                   identityMotion := true, eightTap := true, sides := [4, 8, 16, 32], kinds := [.dct, .adst, .identity]
                   filters := [.deblocking, .cdef, .wiener] }) ∧
      ∀ y, y < row.luma.length →
        let st := (64 * r + y) / g.sh
        let at8 := fun (v : Nat) => if g.hctl.getLsbD 7 then min 255 ((v + 2) / 4) else v
        ((∀ m ∈ x.eng.marks, m.idx = f * g.ns + st → m.missed = true) → row.luma.getD y .skip =
          if key then .samples (List.replicate g.w (at8 ((x.fillOf f st).toNat % 1024))) else .skip) ∧
        ((∃ m ∈ x.eng.marks, m.idx = f * g.ns + st ∧ m.missed = false) → ∀ hdr, (s.ringOf n).1 = some hdr →
          row.luma.getD y .skip = .samples ((g.lumaLine (s.slotBytes x hdr (f * g.ns + st)) ((64 * r + y) % g.sh)).map at8)))

/-- State.sendRtp: a valid egress entry sends the payload with the head's sequence number, payload type, SSRC and timestamp, with DF
set and a UDP checksum that makes the sum 0 modulo 65535; an entry that is not valid counts a drop. The sequence number steps (15 R400;
16 R419), for a packet that is dropped too (log entry 61). -/
def Claims.PacketsSent : Prop :=
  ∀ (s : State) (n : Nat) (stamp : Word) (marker : Bool) (payload : List Byte),
    let x := s.headOf n
    let e := (s.links.egress.find n).getD Egress.zero
    let u := s.sendRtp n stamp marker payload
    (u.headOf n).eng = { x.eng with seq := x.eng.seq + 1 } ∧
    (e.valid = true → ∃ p, u.links.sent = s.links.sent ++ [p] ∧ p.head = n ∧ p.entry = e ∧ p.payload = payload ∧
      p.seq = x.eng.seq ∧ p.stamp = stamp ∧ p.marker = marker ∧ p.ssrc = x.regs.ertp.setWidth 32 ∧ p.df = !e.v6 ∧
      p.payloadType = x.regs.ertp.extractLsb' 32 7 ∧ p.port = x.regs.ertp.extractLsb' 40 3 ∧
      (let size := if e.v6 then 16 else 4
       let len := 8 + (p.header ++ payload).length
       (wordSum (beBytes size e.sip.toNat) + wordSum (beBytes size e.dip.toNat) + 17 + len + e.sport.toNat + e.dport.toNat + len
         + p.checksum.toNat + wordSum (p.header ++ payload)) % 65535 = 0) ∧
      u.links.egress.find n = some { e with ident := e.ident + 1 }) ∧
    (e.valid = false → u.links.sent = s.links.sent ∧ u.links.egress.find n = some { e with drops := e.drops + 1 })

/-- The strips of a head as they fall due, are shown and are coded, and the packets that carry them (15 R386-R400; 16 R419). The frame
with which the serialiser starts is the model's (log entry 86), and so are the coded rows under Config.tileGroup (log entry 60), the
sequence number of a dropped packet (log entry 61) and a strip whose ring header cannot be read (log entry 62). -/
def Obligations.HeadEvents : Prop := Claims.StripEvents ∧ Claims.RowEvents ∧ Claims.PacketsSent

/-! ## The device (12, 16) -/

/-- Boot, resets and the watchdog: GO starts the ROM's checks; the image runs, or boot fails with a crash record; the
pithead restarts alone, forgets what a command that has committed nothing awaits of its peers, writes the record that a committed command
lacks (log entry 103) and takes its doorbells again; a device reset leaves the reset
state but what lies outside the device, is fused or is always on; a thermal reset keeps TIME; power loss takes the always-on region too
and may leave fuses blown part-way, never above SVN (16 R412, R414-R416, R422). The byte order of the signatures' numbers, the header
fields that are not checked, and what a watchdog restart and a reset keep are the model's (log entries 65, 66, 69 and 76). -/
def Obligations.BootAndResets : Prop :=
  ∀ (s : State),
    (s.boot.status = .idle ∨ s.boot.status = .failed → exec .bootGo s =
      .next { s with boot := { s.boot with go := true, status := .verifying } }) ∧
    (s.boot.status = .verifying →
      let hdr := s.hostRead s.boot.addr.toNat 456
      let x := s.image
      let good := beVal (sha384 x.rsaKey) = s.boot.rsaHash.toNat ∧ beVal (sha384 x.slhKey) = s.boot.slhHash.toNat ∧
        s.boot.rollback ≤ x.svn ∧ x.svn ≤ 64 ∧ rsaPssOk (leVal x.rsaKey) x.rsaSig x.m = true ∧ slhDsaOk x.slhKey x.slhSig x.m = true
      (x.fwver = fieldAt hdr 4 4 ∧ x.svn = fieldAt hdr 8 4 ∧ x.commit = decide (fieldAt hdr 12 4 % 2 = 1) ∧
        x.rsaKey = (hdr.drop 24).take 384 ∧ x.slhKey = (hdr.drop 408).take 48 ∧
        let off := fieldAt hdr 16 4
        x.m = s.hostRead s.boot.addr.toNat off ∧ x.rsaSig = s.hostRead (s.boot.addr.toNat + off) 384 ∧
        x.slhSig = s.hostRead (s.boot.addr.toNat + off + 384) 16224) ∧
      (good → ∃ u, exec .bootVerifyComplete s = .next u ∧ u = s.runImage x ∧ u.boot = { s.boot with
          status := .running, fwver := BitVec.ofNat 32 x.fwver, svn := BitVec.ofNat 32 x.svn
          rollback := if x.commit then max s.boot.rollback x.svn else s.boot.rollback
          imageHash := BitVec.ofNat 384 (beVal (sha384 x.m)) } ∧ u.lamps = { s.lamps with next := 10 } ∧ u.pithead.up = true) ∧
      (¬ good → exec .bootVerifyComplete s =
        .next (({ s with boot := { s.boot with status := .failed, go := false } }).crashRecord 8 4 0))) ∧
    (s.boot.status = .running →
      (∃ k, exec .watchdogRestart s = .next (({ s with pithead :=
          { s.pithead with up := false, halted := false, staged := k, restarts := s.pithead.restarts + 1 } }).crashRecord 6 4 0) ∧
        (s.pithead.staged = none → k = none) ∧
        ∀ g, s.pithead.staged = some g → k = if g.sent then some { g with again := true } else none) ∧
      (s.pithead.up = false → s.pithead.halted = true → exec .pitheadRestartDone s = .next s) ∧
      (s.pithead.up = false → s.pithead.halted = false →
        let t : State := { s with pithead := { s.pithead with up := true } }
        (s.pithead.committed = false → exec .pitheadRestartDone s = .next t.takeBells) ∧
        (s.pithead.committed = true → exec .pitheadRestartDone s =
          .next (({ t with pithead := { t.pithead with committed := false } }).recordCommand t.cmd 0).takeBells))) ∧
    (∃ t, exec .deviceReset s = .next t ∧
      let z := State.resetOf s.partNo
      t.partNo = s.partNo ∧ t.mem = { z.mem with host := s.mem.host } ∧
      t.boot = { z.boot with
        rollback := s.boot.rollback, rsaHash := s.boot.rsaHash, slhHash := s.boot.slhHash, jtagLocked := s.boot.jtagLocked } ∧
      t.pithead = { z.pithead with
        journal := s.pithead.journal, restarts := s.pithead.restarts, crashes := s.pithead.crashes, records := s.pithead.records } ∧
      t.time = 0 ∧ t.crews = [] ∧ t.launches = [] ∧ t.ctxs = [] ∧ t.chains = [] ∧ t.links = z.links ∧ t.health = z.health ∧
      (∀ c, 115 ≤ c → exec (.thermalReset c) s = .next { t with time := s.time, health := { t.health with celsius := c } }) ∧
      (∀ c, c < 115 → exec (.thermalReset c) s = .next { s with health := { s.health with celsius := c } }) ∧
      (s.boot.status ≠ .verifying → exec .powerLoss s = .next { t with pithead := z.pithead }) ∧
      (∃ n k, exec .powerLoss s = .next { t with pithead := z.pithead, boot := { t.boot with rollback := n }, fresh := k } ∧
        s.boot.rollback ≤ n ∧ (n = s.boot.rollback ∨ n ≤ fieldAt (s.hostRead s.boot.addr.toNat 456) 8 4)))

/-- Host register writes with an effect of their own: FABID while no context exists, PWRCAP clamped to 1400, the error
counts cleared, ISUBMIT taking the window's descriptor; and the plain registers, byte by byte (16 R401, R403, R409, R420-R422).
-/
def Claims.RegisterWrites : Prop :=
  ∀ (s : State),
    (∀ v, s.ctxs = [] → exec (.fabidWrite v) s = .next { s with links := { s.links with fabid := BitVec.ofNat 4 v.toNat } }) ∧
    (∀ v, exec (.pwrcapWrite v) s = .next { s with health := { s.health with pwrcap := min v.toNat 1400 } }) ∧
    exec .eclrCounters s = .next { s with health := { s.health with cecnt := 0, uecnt := 0 } } ∧
    exec .eclrUelast s = .next { s with health := { s.health with uelast := 0 } } ∧
    (∀ c, exec (.isubmit c) s = .next { s with hostIf := { s.hostIf with
      isubs := s.hostIf.isubs ++ [(c.toNat, (s.ctlOf c.toNat).idesc)] } }) ∧
    (∀ off n v, exec (.registerWrite off n v) s =
      .next ((List.range (min n 8)).foldl (fun u i => u.barPut (off + i) (BitVec.ofNat 8 (v.toNat / 256 ^ i))) s)) ∧
    (∀ v, s.hostIf.cmdq.prod = s.hostIf.cmdq.cons → ∃ t, exec (.registerWrite 0x100 8 v) s = .next t ∧ t.hostIf.cmdq.base = v ∧
      { t with hostIf := { t.hostIf with cmdq := { t.hostIf.cmdq with base := s.hostIf.cmdq.base } } } = s) ∧
    (∀ off n v, (∀ i, i < n → off + i < 0x100 ∨ (0x1008 ≤ off + i ∧ off + i < 0x3010)) → exec (.registerWrite off n v) s = .next s)

/-- Errors and power: the counts and the log of the last uncorrectable error, the sectors that it poisons, in one core's L1 for an
error there; the clock's steps under the cap and above 105 degrees (12 R321; 16 R421, R422). Which sectors an error marks is log entry
25. -/
def Claims.HealthEvents : Prop :=
  ∀ (s : State),
    (∀ st pa, exec (.correctedError st pa) s = .next { s with health :=
      { s.health with cecnt := if s.health.cecnt = 0xFFFFFFFF then s.health.cecnt else s.health.cecnt + 1 } }) ∧
    (∀ st pa, ∃ t, exec (.uncorrectableError st pa) s = .next t ∧ t.hostIf.msix = s.hostIf.msix ++ [3] ∧
      t.health.uecnt = (if s.health.uecnt = 0xFFFFFFFF then s.health.uecnt else s.health.uecnt + 1) ∧
      t.health.uelast.toNat = 32 * (pa.toNat / 32) + 2 ^ 48 * (match st with | .l1 _ => 1 | .l2 => 2 | .strip => 3 | .lpddr => 4) ∧
      match st with
      | .l1 core => t.mem = s.mem ∧ (∀ k, k ≠ core → t.coreOf k = s.coreOf k) ∧ ∀ q, q ∈ (t.coreOf core).l1Poison ↔
          q ∈ (s.coreOf core).l1Poison ∨ ∃ e ∈ (s.coreOf core).l1, e.1 / 512 / 32 = pa.toNat / 32 ∧ q = pa.toNat / 32 * 512 + e.1 % 512
      | .l2 | .strip | .lpddr => t.cores = s.cores ∧ ∀ q, q ∈ t.mem.poison ↔ q ∈ s.mem.poison ∨ q = pa.toNat / 32) ∧
    (∀ w, exec (.powerThrottle w) s = .next { s with health := { s.health with
      watts := w
      mhz := if s.health.pwrcap < w then max 470 (s.health.mhz - 20) else if w < s.health.pwrcap then min 940 (s.health.mhz + 20)
        else s.health.mhz } }) ∧
    (∀ c, exec (.thermalThrottle c) s = .next { s with health :=
      { s.health with celsius := c, mhz := if 105 < c then max 470 (s.health.mhz - 20) else s.health.mhz } })

/-- PTP: a Sync, with its Follow_Up where the master is a two-step one, is answered by a Delay_Req; the answer to that gives the
offset, by which TIME steps where it may and slews else, an offset beyond 1 ms setting SYNCLOST but for the step at first lock (16 R418).
The arithmetic of the offset and the servo is the model's (log entry
67). -/
def Claims.PtpEvents : Prop :=
  ∀ (s : State) (m : PtpMsg),
    let p := s.links.ptp
    let with' := fun (q : Ptp) => { s with links := { s.links with ptp := q } }
    let ask := fun (t1 t2 : DWord) =>
      let d : PtpSent := { port := m.port, transport := m.transport, seq := p.nextSeq, time := s.time }
      with' { p with syncAt := none, asked := some (d, t1, t2), nextSeq := p.nextSeq + 1, sent := p.sent ++ [d] }
    (∀ t1, m.body = .sync false t1 → exec (.ptpMessage m) s = .next (ask t1 s.time)) ∧
    (∀ t1, m.body = .sync true t1 → exec (.ptpMessage m) s = .next (with' { p with syncAt := some (m.seq, s.time) })) ∧
    (∀ t1 t2, m.body = .followUp t1 → p.syncAt = some (m.seq, t2) → exec (.ptpMessage m) s = .next (ask t1 t2)) ∧
    (∀ t1 t2 t4 d, m.body = .delayResp t4 → p.asked = some (d, t1, t2) → d.seq = m.seq →
      let e := ((t1 - t2).toInt + (t4 - d.time).toInt) / 2
      let quiet := ∀ x ∈ s.crews, x.2.resident = false
      let far := 1000000 < e.natAbs
      let q := fun (lost : Bool) => { p with asked := none, locked := true, syncLost := p.syncLost || lost }
      ((p.locked = false ∧ quiet ∨ p.locked = true ∧ far ∧ quiet ∧ ∀ x ∈ s.links.heads, x.2.regs.en = false) →
        exec (.ptpMessage m) s =
          .next { with' { q p.locked with offset := 0, slew := 0, frac := 0 } with time := s.time + BitVec.ofInt 64 e }) ∧
      (¬ (p.locked = false ∧ quiet ∨ p.locked = true ∧ far ∧ quiet ∧ ∀ x ∈ s.links.heads, x.2.regs.en = false) →
        exec (.ptpMessage m) s = .next (with' { q (decide far) with offset := BitVec.ofInt 64 e, slew := max (-100) (min 100 e) })))

/-- The fabric: a frame of a valid peer acknowledges what its header says; the next in sequence is performed and answered with an
acknowledgement, any other is discarded; the frames not acknowledged are sent again; a peer that has acknowledged nothing for 1 ms is
lost, and every access in flight to it ends: a load's for the group that awaits it, a copy's for those that wait on the copy, a store's
for the next group that waits on stores, and the command's that awaits it (12 R333; 16 R406, R420). Cumulative acknowledgements, their wrap and their own frames, and the
ports' choice are the model's (log entry 70), and so are which crews' accesses a lost peer ends and how they are marked (log entry 13). -/
def Claims.FabricEvents : Prop :=
  ∀ (s : State) (peer : BitVec 4) (p : Peer), s.links.peers.find peer.toNat = some p →
    (∀ m : FabricMsg, p.valid = false → exec (.fabricFrame peer m) s = .next s) ∧
    (∀ m : FabricMsg, p.valid = true →
      let left := p.unacked.filter fun f => decide (2 ^ 31 ≤ (m.ack - f.seq).toNat)
      let t := (s.onPeer peer fun p =>
        { p with up := true, unacked := left, since := if left.length < p.unacked.length then s.time else p.since }).retireEnding
      ((∃ n, m.req = .ack n) → exec (.fabricFrame peer m) s = .next t) ∧
      ((∀ n, m.req ≠ .ack n) → m.seq ≠ p.rxSeq → exec (.fabricFrame peer m) s = .next (t.sendAck peer)) ∧
      ((∀ n, m.req ≠ .ack n) → m.seq = p.rxSeq → exec (.fabricFrame peer m) s =
        .next (((t.onPeer peer fun p => { p with rxSeq := p.rxSeq + 1 }).serve peer m.req).sendAck peer))) ∧
    (p.valid = true → exec (.fabricRetransmit peer) s = .next { s with links := { s.links with
      outgoing := s.links.outgoing ++ p.unacked.map fun f => s.linkFrame peer.toNat p f.seq f.req } }) ∧
    (p.unacked ≠ [] → p.since.toNat + 1000000 ≤ s.time.toNat → ∃ u : State, exec (.peerUnreachable peer) s = .next u ∧
      ((∀ l ∈ s.launches, l.2.left = []) → u.links.peers.find peer.toNat = some { p with up := false, unacked := [] }) ∧
      (∀ g, s.pithead.staged = some g → ∃ g', u.pithead.staged = some g' ∧ { g' with lost := g.lost } = g ∧
        (g'.lost = true ↔ g.lost = true ∨ ∃ f ∈ p.unacked, f.group = g.group)) ∧
      ∀ c r, s.crews.find c = some r →
        let jobs := (s.coreOf r.core).queues.vals.flatten
        let owed := fun (t : Returning) => t.group ≠ 0 ∧ ∃ f ∈ p.unacked, f.group = t.group ∧ ∃ x ∈ f.sources, x.1 = c
        (∀ (k : Nat) (t : Returning), (s.auxOf c).returning[k]? = some t → ∃ t' : Returning, (u.auxOf c).returning[k]? = some t' ∧
          { t' with lost := t.lost } = t ∧ (t'.lost.isSome = true ↔ t.lost.isSome = true ∨ owed t)) ∧
        ∀ f ∈ p.unacked, ∀ x ∈ f.sources, x.1 = c → (∀ t ∈ (s.auxOf c).returning, t.group ≠ f.group ∨ f.group = 0) →
          ((∀ j ∈ jobs, j.crew ≠ c ∨ j.seq ≠ f.group) → x.2 ∈ (u.auxOf c).lostStores) ∧
          ∀ pre j post, jobs = pre ++ j :: post → j.crew = c → j.seq = f.group → (∀ y ∈ pre, y.crew ≠ c ∨ y.seq ≠ f.group) →
            (j.queue, if wordKind j.word = 1 then some (wordTile j.word) else none, x.2) ∈ (u.auxOf c).lostCopies)

/-- Module management and link training: what I3C and JTAG read, and the links as they train (15 R394; 16 R401, R423). The items'
codes and JTAG's layout are the model's (log entry 75). -/
def Claims.ModuleEvents : Prop :=
  ∀ (s : State),
    (∀ x, ∃ bs, exec (.i3cRead x) s = .next { s with health := { s.health with i3c := bs } } ∧
      (x = 0 → bs = leBytes 4 s.health.celsius) ∧ (x = 1 → bs = leBytes 4 s.health.watts) ∧ (x = 2 → bs = leBytes 4 s.devid.toNat) ∧
      (x = 3 → bs = leBytes 4 s.boot.status.code) ∧ (x = 4 → bs = leBytes 8 s.pithead.crashes.toNat)) ∧
    exec (.jtagAccess true) s = .next s ∧
    (let fuses := leBytes 8 (2 ^ s.boot.rollback - 1) ++ beBytes 48 s.boot.rsaHash.toNat ++ beBytes 48 s.boot.slhHash.toNat ++
      [if s.boot.jtagLocked then 1 else 0]
    exec (.jtagAccess false) s = .next { s with health := { s.health with jtag := fuses } }) ∧
    (∀ port rate n, n = 1 ∨ n = 2 ∨ n = 4 → ∃ t, exec (.displayportLinkTraining port rate n) s = .next t ∧
      t.links.dp.find (if port then 1 else 0) = some { rate := some rate, lanes := n } ∧
      { t with links := { t.links with dp := s.links.dp } } = s) ∧
    (∀ g w, w = 1 ∨ w = 2 ∨ w = 4 → exec (.pcieLinkTraining g w) s = .next { s with health := { s.health with pcie := some (g, w) } })

/-- The device's own events and the host's register writes (12 R321, R333; 15 R394; 16). The sectors that an error marks are log entry
25, and the accesses that a lost peer ends log entry 13. -/
def Obligations.DeviceEvents : Prop :=
  Claims.HealthEvents ∧ Claims.PtpEvents ∧ Claims.FabricEvents ∧ Claims.ModuleEvents ∧ Claims.RegisterWrites

/-- L1_DIRTY_EXPIRY: the dirty bytes of the sectors of a core's L1 that have been dirty for 2048 clk stay there, clean, the other bytes of
a sector that had any leave it, and where the L2 has room for their lines their slices hold them; no other sector of the L1 changes.
WC_LINE_EXPIRY: the lines that the write-combining buffer has held for 2048 clk leave it, and a line's slice holds its bytes; the copy that
the core's L1 has of such a line goes (12 R309, R312; 11 R290, R291). Both complete in every state. -/
def Claims.CacheTimers : Prop :=
  ∀ (s : State) (core : Nat),
    let c := s.coreOf core
    let dirty := fun (e : Nat × Option CByte) => ∃ b, e.2 = some b ∧ b.dirty = true
    let due := fun (k : Nat) => ∃ e ∈ c.l1At, e.1 = sectorKey k ∧ ∃ t, e.2 = some t ∧ t + 2048 ≤ s.clk
    let settles := fun (k : Nat) => due k ∧ ∃ y ∈ c.l1, sectorKey y.1 = sectorKey k ∧ dirty y
    (∃ t, exec (.l1DirtyExpiry core) s = .next t ∧
      (∀ e, e ∈ (t.coreOf core).l1 ↔ (e ∈ c.l1 ∧ ¬ settles e.1) ∨
        ∃ b, (e.1, some b) ∈ c.l1 ∧ settles e.1 ∧ b.dirty = true ∧ e.2 = some { b with dirty := false }) ∧
      (∀ e, e ∈ (t.coreOf core).l1At ↔ e ∈ c.l1At ∧ ¬ ∃ x ∈ c.l1At, x.1 = e.1 ∧ ∃ u, x.2 = some u ∧ u + 2048 ≤ s.clk) ∧
      (Sparse.wf none c.l1 = true →
        (let ls := linesAt (c.l1.map fun e => (s.tagOfKey e.1, e.1 / 512)) 1
         ∀ lk ∈ ls, (s.l2Set lk).length + ls.length ≤ 16) →
        ∀ k b, Sparse.get none c.l1 k = some b → b.dirty = true → due k → rangeOf (k / 512) = .lpddr →
          t.sliceGet (s.tagOfKey k) (k / 512) = b.val) ∧
      { t with mem := s.mem, cores := s.cores, fresh := s.fresh } = s ∧ (∀ n, n ≠ core → t.coreOf n = s.coreOf n) ∧
      { t.coreOf core with l1 := c.l1, l1At := c.l1At } = c) ∧
    ∃ t, exec (.wcLineExpiry core) s = .next t ∧
      (let old := fun (w : WcLine) => decide (w.start + 2048 ≤ s.clk)
       (t.coreOf core).wc = c.wc.filter (fun w => !old w) ∧
       (∀ e, e ∈ (t.coreOf core).l1 ↔ e ∈ c.l1 ∧ ∀ w ∈ c.wc, old w = true → lineKey e.1 ≠ w.tag.ckey w.line) ∧
       (∀ w, c.wc.filter old = [w] → s.isLocal w.tag = true → w.tag.attr = 2 →
        Sparse.wf none w.bytes = true → ∀ pa b, Sparse.get none w.bytes pa = some b → rangeOf pa = .lpddr →
          t.sliceGet w.tag pa = b)) ∧
      { t with mem := s.mem, cores := s.cores, links := s.links, fresh := s.fresh } = s ∧ (∀ n, n ≠ core → t.coreOf n = s.coreOf n) ∧
      { t.coreOf core with wc := c.wc, l1 := c.l1, l1At := c.l1At, l1Poison := c.l1Poison } = c

/-- Invalidations, samples and held records: an invalidation that is due takes effect, or is answered 2; once the accesses before it
have drained, loads that have not returned among them, its completion word is 1; a bad capability met there halts the pithead; SAMPLE takes
the core's due sample of each context, and held records go out in order (12 R330, R331; 14 R382; 16 R402, R409, R411). That the L1s write
back as an invalidation completes and the order of the two sources of descriptors are the model's (log entry 68), and so is a bad
capability met at an invalidation (log entry 64). -/
def Claims.QueueEvents : Prop :=
  ∀ (s : State),
    (∀ d t, s.pithead.up = true → s.pithead.badCap = none → s.nextInval = some (d, t) → t.doneOk d.src (d.src.getD 0) d.done = true →
      exec .invalidation s = .next (if t.invalOk d then t.invalidate d else t.writeDone d.src d.done 2)) ∧
    (∀ k d t, s.pithead.up = true → s.pithead.badCap = some k → s.nextInval = some (d, t) →
      ∃ u, exec .invalidation s = .next u ∧ u.pithead.up = false ∧ u.pithead.halted = true ∧ u.pithead.badCap = none ∧
        u.hostIf.invq = s.hostIf.invq ∧ u.hostIf.isubs = s.hostIf.isubs ∧ u.invals = s.invals) ∧
    (∀ n v, s.invals[n]? = some v → s.pithead.up = true → s.drainedBefore v.ctx v.before = true →
      let t := s.cores.keys.foldl (fun u k => u.l1WriteBack k) { s with invals := s.invals.eraseIdx n }
      exec (.invalidationComplete n) s =
        .next (if t.doneOk v.src v.ctx v.done then t.writeDone v.src v.done 1 else t.crashRecord 7 3 v.ctx (some v.done))) ∧
    (∀ n v, s.invals[n]? = some v → (∃ c r, s.crews.find c = some r ∧ s.ctxOf r = v.ctx ∧
        ∃ x ∈ (s.auxOf c).returning, x.lost = none ∧ x.issued < v.before) → exec (.invalidationComplete n) s = .next s) ∧
    (∀ core, exec (.sample core) s = .next (s.hostIf.dbg.keys.foldl (fun u ctx => u.sampleCtx core ctx) s)) ∧
    (s.pithead.up = true → exec .heldRecordPost s =
      .next (s.hostIf.ctl.keys.foldl (fun u c => (u.postHeldEvent c).postHeldFault c) s.postHeldCompletion))

/-- What an invalidation leaves at T0: the cached leaves and walk entries that it covers are gone, from the cluster's TLBs and its cores',
with those of the global leaves only where its flag 0 asks for them, those of the walk caches where flag 1 does, and the lines of code
where flag 2 does; all others stay, and a completion that the accesses issued before hold back is noted (12 R330, R331). -/
def Claims.InvalidationEffect : Prop :=
  ∀ (t : State) (d : InvalDesc),
    let u := t.invalidate d
    let va := d.va.toNat % 2 ^ 57
    let covers := fun (lo n : Nat) => d.len = 0 ∨ (lo < va + d.len.toNat ∧ va < lo + n)
    let leafGoes := fun (e : TlbEntry) => e.ctx = d.ctx ∧ covers e.lo e.size ∧ (d.flags.getLsbD 0 = true ∨ e.pte.getLsbD 11 = false)
    { u with mem := t.mem, cores := t.cores, invals := t.invals, nextId := t.nextId } = t ∧ { u.mem with xlats := t.mem.xlats } = t.mem ∧
    u.nextId = t.nextId + 1 ∧
    u.invals = t.invals ++ [{ done := d.done, src := d.src, ctx := d.ctx, before := t.nextId + 1 }] ∧
    (∀ n x, t.mem.xlats.find n = some x → ∃ y, u.mem.xlats.find n = some y ∧ (∀ e, e ∈ y.tlb ↔ e ∈ x.tlb ∧ ¬ leafGoes e) ∧
      (∀ k l, x.cores.find k = some l → ∃ m, y.cores.find k = some m ∧ ∀ e, e ∈ m ↔ e ∈ l ∧ ¬ leafGoes e) ∧
      ∀ w, w ∈ y.walks ↔ w ∈ x.walks ∧ ¬ (w.ctx = d.ctx ∧ d.flags.getLsbD 1 = true ∧
        covers (w.index * 2 ^ (12 + 9 * w.left)) (2 ^ (12 + 9 * w.left)))) ∧
    ∀ n, (∀ l, l ∈ (u.coreOf n).icache ↔ l ∈ (t.coreOf n).icache ∧
        ¬ (l.ctx = d.ctx ∧ d.flags.getLsbD 2 = true ∧ covers (l.vline * 128) 128)) ∧
      { u.coreOf n with icache := (t.coreOf n).icache } = t.coreOf n

/-- What SAMPLE writes of one context: the notes of the core whose clk has passed go, and each of them is one record of Table 14.11 at the
buffer's write index, or counts a drop where the buffer is full (14 R375, R382). What PC and lanes stand in a note while the later words of
a group issue is the model's (log entry 94). -/
def Claims.SamplesWritten : Prop :=
  ∀ (s : State) (core ctx : Nat),
    let d := s.dbgOf ctx
    let u := s.sampleCtx core ctx
    let b := d.samples
    let ripe := fun (x : SampleNote) => x.core = core ∧ x.reason.isSome = true
    ((∀ x ∈ d.notes, ¬ ripe x) → u = s) ∧
    ∀ pre x post n, d.notes = pre ++ x :: post → (∀ y ∈ pre ++ post, ¬ ripe y) → x.core = core → x.reason = some n →
      let s1 := s.putDbg ctx { d with notes := pre ++ post }
      (b.count.toNat < (b.wr + 1 - b.rd).toNat →
        u.dbgOf ctx = { d with notes := pre ++ post, samples := { b with drop := if b.drop = 0xFFFFFFFF then b.drop else b.drop + 1 } } ∧
        u.mem = s.mem) ∧
      ((b.wr + 1 - b.rd).toNat ≤ b.count.toNat → ∀ t, s1.devWrite ctx (b.base + BitVec.ofNat 64 (32 * (b.wr.toNat % b.count.toNat)))
          (leBytes 8 x.pc.toNat ++ leBytes 4 x.lanes.toNat ++ [BitVec.ofNat 8 n, BitVec.ofNat 8 x.partition, BitVec.ofNat 8 x.slot,
            BitVec.ofNat 8 x.flg] ++ leBytes 2 x.core ++ [BitVec.ofNat 8 x.index, BitVec.ofNat 8 ctx] ++ leBytes 4 x.n
            ++ leBytes 4 x.handle.toNat ++ leBytes 4 x.bl) = (true, t) →
        u.mem = t.mem ∧ u.dbgOf ctx = { t.dbgOf ctx with samples := { b with wr := b.wr + 1 } })

/-- What the posting of one held event or fault record leaves: the first event record held goes to its queue's next entry with vector 1, or
is dropped and counted where the queue is full; the first fault record held goes to its queue's next entry with vector 2 where there is
room, and stays held else (16 R402, Table 16.2). -/
def Claims.HeldRecords : Prop :=
  ∀ (s : State) (ctx : Nat),
    let p := s.ctlOf ctx
    let places := fun (u : State) (a : Nat) (rec' : List Byte) => u.hostRead a rec'.length = rec' ∧
      ∀ b, b < a ∨ a + rec'.length ≤ b → u.hostGet b = s.hostGet b
    (p.heldEvents = [] → s.postHeldEvent ctx = s) ∧
    (∀ x rest, p.heldEvents = x :: rest →
      let u := s.postHeldEvent ctx
      { u with mem := { u.mem with host := s.mem.host }, hostIf := s.hostIf } = s ∧ (∀ n, n ≠ ctx → u.ctlOf n = s.ctlOf n) ∧
      { u.hostIf with ctl := s.hostIf.ctl, msix := s.hostIf.msix } = s.hostIf ∧
      (p.evq.full = false → u.ctlOf ctx = { p with heldEvents := rest, evq := { p.evq with prod := p.evq.prod + 1 } } ∧
        u.hostIf.msix = s.hostIf.msix ++ [1] ∧ places u (p.evq.entryAddr 32 p.evq.prod) x) ∧
      (p.evq.full = true → u.ctlOf ctx = { p with
          heldEvents := rest, evdrop := if p.evdrop = 0xFFFFFFFF then p.evdrop else p.evdrop + 1 } ∧
        u.hostIf.msix = s.hostIf.msix ∧ u.mem = s.mem)) ∧
    (p.heldFaults = [] ∨ p.fltq.full = true → s.postHeldFault ctx = s) ∧
    ∀ x rest, p.heldFaults = x :: rest → p.fltq.full = false →
      let u := s.postHeldFault ctx
      { u with mem := { u.mem with host := s.mem.host }, hostIf := s.hostIf } = s ∧ (∀ n, n ≠ ctx → u.ctlOf n = s.ctlOf n) ∧
      { u.hostIf with ctl := s.hostIf.ctl, msix := s.hostIf.msix } = s.hostIf ∧
      u.ctlOf ctx = { p with heldFaults := rest, fltq := { p.fltq with prod := p.fltq.prod + 1 } } ∧
      u.hostIf.msix = s.hostIf.msix ++ [2] ∧ places u (p.fltq.entryAddr 64 p.fltq.prod) x

/-- The caches' timers, invalidations, samples and held records (12 R309, R312, R330, R331; 14 R382; 16 R402, R409, R411). A bad
capability met at an invalidation is log entry 64; the write-back at its completion and the order of descriptors are log entry 68. -/
def Obligations.HousekeepingEvents : Prop :=
  Claims.CacheTimers ∧ Claims.QueueEvents ∧ Claims.InvalidationEffect ∧ Claims.SamplesWritten ∧ Claims.HeldRecords

/-! ## The pithead's commands (16 R404-R406, R410, R411, R414, R417) -/

/-- How a command ends: its entry is consumed, its index is journaled where its effect was done, and its completion record,
KIND 1, holds its STATUS and id; reserved bytes that are not zero and, except in LAMPS, a context above 63 are STATUS 1, a context
that does not exist STATUS 2, and a bad capability STATUS 3 with a crash record; where the watchdog trips before the record, the
pithead restarts and the entry stays, and the command that is run again meets the same capability. A command that has committed and awaits
peers is not run again: its record follows their answers, STATUS 1 where one was lost, but STATUS 0 after a restart (log entry 103) (16
R404-R406, R410, R411, R414). STATUS 2 for an absent context and the order of the common checks are log entry 48 (DEDUCED), the bad capability as an input is log entry
64, and that it stays over a trip log entry 69. -/
def Obligations.CommandEnds : Prop :=
  ∀ (s : State),
    let c := s.cmd
    (∀ n, s.pithead.trip = true → let t := s.endCommand c n
      t.hostIf.cmdq = s.hostIf.cmdq ∧ t.hostIf.cplq = s.hostIf.cplq ∧ t.pithead.up = false ∧ t.pithead.trip = false ∧
      (t.pithead.committed = true ↔ n = 0 ∨ ∃ g, s.pithead.staged = some g ∧ g.sent = true) ∧ t.pithead.journal = (if n = 0 then c.index else s.pithead.journal) ∧
      t.pithead.restarts = s.pithead.restarts + 1 ∧ t.ctxs = s.ctxs ∧ t.crews = s.crews) ∧
    (∀ n, s.pithead.trip = false → let t := s.endCommand c n
      t.hostIf.cmdq = { s.hostIf.cmdq with cons := s.hostIf.cmdq.cons + 1 } ∧
      t.pithead.journal = (if n = 0 then c.index else s.pithead.journal) ∧ t.ctxs = s.ctxs ∧ t.crews = s.crews ∧
      (s.pithead.up = true → s.pithead.held = [] → s.hostIf.cplq.full = false →
        t.hostIf.cplq.prod = s.hostIf.cplq.prod + 1 ∧ t.hostIf.msix = s.hostIf.msix ++ [0] ∧
        t.hostRead (s.hostIf.cplq.entryAddr 32 s.hostIf.cplq.prod) 32 =
          [1, BitVec.ofNat 8 n, BitVec.ofNat 8 c.ctx, 0] ++ leBytes 4 (c.num 4 4) ++ leBytes 8 0 ++ leBytes 8 s.time.toNat
            ++ leBytes 8 0)) ∧
    (∀ i g, s.nextCommand = some i → s.pithead.staged = some g → g.sent = true →
      let owed := ∃ p ∈ s.links.peers, p.2.up = true ∧ ∃ f ∈ p.2.unacked, f.group = g.group
      (owed → exec i s = .next s) ∧
      (¬ owed → exec i s = .next (s.endCommand c (if g.lost = true ∧ g.again = false then 1 else 0)))) ∧
    (∀ i, s.nextCommand = some i → (∀ g, s.pithead.staged = some g → g.sent = false) → (∀ k, s.pithead.badCap = some k → exec i s =
        .next ((({ s with pithead := { s.pithead with badCap := if s.pithead.trip then some k else none } }).crashRecord k.toNat 1
          c.index.toNat).endCommand c 3)) ∧
      (s.pithead.badCap = none → c.zero 2 2 = false ∨ c.zero 9 7 = false ∨ (i ≠ .lamps ∧ 64 ≤ c.ctx) → exec i s = .next (s.endCommand c 1)) ∧
      (s.pithead.badCap = none → c.zero 2 2 = true → c.zero 9 7 = true → c.ctx < 64 → s.ctxs.find c.ctx = none →
        i ≠ .ctxcreate → i ≠ .lamps → i ≠ .attest → exec i s = .next (s.endCommand c 2)))

/-- CTXCREATE, CTXDESTROY, REGION into an empty slot and out of one, KEYLOAD, DBGGRANT and DBGREVOKE with operands within
their limits (16 Table 16.4, R404; 01 R35-R38, R438; 12 R319; 14 R379). What CTXDESTROY waits for and forgets is the model's (log entry
47), and that KEYLOAD replaces every grant of its slot (log entry 50). -/
def Claims.ContextCommands : Prop :=
  ∀ (s : State),
    let c := s.cmd
    let ends := fun (i : Instr) (t : State) => exec i s = .next (t.endCommand c 0)
    (Takes s .ctxcreate false → c.num 0 2 = 1 → c.zero 40 24 = true → s.ctxs.find c.ctx = none →
      c.num 16 8 % 4096 = 0 → c.num 24 8 % 4096 = 0 → c.num 32 8 % 4096 = 0 → 0 < c.num 32 8 → c.num 32 8 ≤ 2 ^ 30 →
      c.num 24 8 ≤ c.num 16 8 → c.num 16 8 + 4096 ≤ c.num 24 8 + c.num 32 8 → rangeOf (c.num 24 8 + c.num 32 8 - 1) = .lpddr →
      let x : Context :=
        { tableBase := BitVec.ofNat 48 (c.num 16 8), area := BitVec.ofNat 48 (c.num 24 8), areaSize := c.num 32 8, slots := [] }
      ends .ctxcreate { s with ctxs := s.ctxs.put c.ctx x }) ∧
    (Takes s .ctxdestroy true → c.zero 16 48 = true → s.ctxBusy c.ctx = false →
      ∃ t, ends .ctxdestroy t ∧ t.ctxs = s.ctxs.del c.ctx ∧ (∀ g ∈ t.hostIf.grants, g.2 ≠ c.ctx) ∧
        (∀ e ∈ t.cores, ∀ l ∈ e.2.icache, l.ctx ≠ c.ctx) ∧ (∀ e ∈ t.mem.xlats, (∀ x ∈ e.2.tlb, x.ctx ≠ c.ctx) ∧
          (∀ l ∈ e.2.cores, ∀ x ∈ l.2, x.ctx ≠ c.ctx) ∧ ∀ w ∈ e.2.walks, w.ctx ≠ c.ctx)) ∧
    (Takes s .regionLoad true → c.num 17 1 = 0 → c.zero 18 6 = true → c.zero 32 32 = true → c.num 24 8 % 256 = 0 →
      ∀ bs t, s.fwRead c.ctx (c.num 24 8) 256 = .ok (bs, t) →
      let g := Region.ofBytes (c.num 24 8) bs
      let slots : Tbl Region := ((t.ctxs.find c.ctx).map (·.slots)).getD []
      t.privPage c.ctx g.va = true → g.fieldsOk bs = true → slots.find (c.num 16 1) = none → parentOk slots (c.num 16 1) g = true →
      ends .regionLoad (t.putSlot c.ctx (c.num 16 1) g)) ∧
    (Takes s .regionRemove true → c.zero 18 46 = true → c.num 16 1 ≠ 0 →
      ∀ x g, s.ctxs.find c.ctx = some x → x.slots.find (c.num 16 1) = some g → s.slotBusy c.ctx (c.num 16 1) g x.slots = false →
      ends .regionRemove { s with ctxs := s.ctxs.put c.ctx { x with slots := x.slots.del (c.num 16 1) } }) ∧
    (Takes s .keyload true → c.num 16 1 ≠ 0 → c.zero 17 7 = true → c.zero 32 32 = true → c.num 24 8 % 64 = 0 →
      let key := s.hostRead (c.num 24 8) 64
      ∃ t, ends .keyload t ∧ { t with hostIf := { t.hostIf with keys := s.hostIf.keys, grants := s.hostIf.grants } } = s ∧
        (leVal key = 0 → t.hostIf.keys.find (c.num 16 1) = none ∧ ∀ g ∈ t.hostIf.grants, g.1 ≠ c.num 16 1) ∧
        (leVal key ≠ 0 → t.hostIf.keys.find (c.num 16 1) = some key ∧
          ∀ x, (c.num 16 1, x) ∈ t.hostIf.grants ↔ x = c.ctx)) ∧
    (Takes s .dbggrant true → c.zero 16 48 = true → ends .dbggrant (s.putDbg c.ctx { s.dbgOf c.ctx with dbgen := true })) ∧
    (Takes s .dbgrevoke true → c.zero 16 48 = true → ends .dbgrevoke (s.putDbg c.ctx { s.dbgOf c.ctx with
      dbgen := false, bpen := false, wpen := false, sampen := false, blkrec := false, racedet := false, bps := [], notes := []
      wps := (List.range 8).map fun i => (i, { addr := 0, en := false, r := false, w := false, logsz := 0 }) }))

/-- HEAD with an image read, in state t: an image that breaks Table 15.1, or that changes an enabled head beyond its fill colour, is
STATUS 1 and changes nothing; a fill colour alone is noted with its time; an image that clears EN writes the registers, stops the engine and
clears LIVE and the pending CBMP bits of the header; one for a disabled head that leaves it so is only written; and one that sets EN, where
times, ring, slots, encoder and port are as they must be, starts the engine at F0 and writes A = L + N and LIVE. The counts of HSTAT stay
throughout, but that a head which is disabled first does what it had to do by then (15 R385, R386, R388, R391, R394, R395, R398). The
model's choices: STATUS 2 for an image that sets EN for another context (log entry 55), STATUS 1 for a port in use (log entry 56), that
the counts of HSTAT stay (log entry 59), and the first frame shown (log entry 86). -/
def Claims.ImageWritten (s t : State) (h : Nat) (r : HeadRegs) : Prop :=
  let c := s.cmd
  let x := t.headOf h
  let g := { r with consumed := x.regs.consumed, missed := x.regs.missed }
  let ends := fun (u : State) (n : Nat) => exec .head s = .next (u.endCommand c n)
  let others := fun (u : State) => ∀ n, n ≠ h → u.headOf n = t.headOf n
  let header := fun (u w : State) (ctx : Nat) (ring : DWord) (k : RingHdr) => u.mem = (w.devWrite ctx ring k.bytes).2.mem
  (g.imageOk = false ∨ (x.regs.en = true ∧ g.en = true ∧ { x.regs with fill := g.fill } ≠ g) → ends s 1) ∧
  (g.imageOk = true → x.regs.en = true → g.en = true → { x.regs with fill := g.fill } = g → ∃ u : State, ends u 0 ∧ others u ∧
    u.headOf h = { regs := g, eng := { x.eng with fills := x.eng.fills ++ [(t.time.toNat, g.fill)] } } ∧
    { u with links := t.links } = t) ∧
  (g.imageOk = true → x.regs.en = true → g.en = false → let v := t.catchHead h
    let y := v.headOf h
    ((x.dueBy t.time.toNat = false ∧ x.emittedBy t.time.toNat = false) → v = t) ∧ ∃ u : State, ends u 0 ∧ others u ∧
    u.headOf h = { regs := { g with consumed := y.regs.consumed, missed := y.regs.missed }, eng := Engine.zero } ∧
    ∀ hdr w, v.ringOf h = (some hdr, w) → ∃ k : RingHdr, header u w y.regs.ctx y.regs.ring k ∧
      { k with cbmp := hdr.cbmp, rflg := hdr.rflg } = hdr ∧
      (∀ i, k.rflg.testBit i = (hdr.rflg.testBit i && i != 8)) ∧
      ∀ i, k.cbmp.testBit i = true ↔
        hdr.cbmp.testBit i = true ∧ ¬ ∃ m ∈ y.eng.marks, m.pending = true ∧ m.idx % 2 ^ 32 % hdr.n = i) ∧
  (g.imageOk = true → x.regs.en = false → g.en = false → ∃ u : State, ends u 0 ∧ others u ∧
    u.headOf h = { x with regs := g } ∧ { u with links := t.links } = t) ∧
  (g.imageOk = true → x.regs.en = false → g.en = true → g.ctx ≠ c.ctx → ends s 2) ∧
  (g.imageOk = true → x.regs.en = false → g.en = true → g.ctx = c.ctx → g.timesOk = false → ends s 1) ∧
  (g.imageOk = true → x.regs.en = false → g.en = true → g.ctx = c.ctx → g.timesOk = true →
    ∀ bs u, t.fwRead c.ctx g.ring.toNat 64 = .ok (bs, u) →
    let hdr := RingHdr.ofBytes bs
    let place := u.rangeAt c.ctx g.ring
    let good := g.headerOk hdr = true ∧ u.slotsOk c.ctx hdr = true ∧ (place = some .strip ∨ place = some .lpddr) ∧
      u.coderOk h g = true ∧ u.portFree h g = true
    (¬ good → ends s 1) ∧
    (good → ∃ v : State, ends v 0 ∧ (∀ n, n ≠ h → v.headOf n = t.headOf n) ∧
      v.headOf h = { regs := g, eng := { Engine.zero with
        full := (g.erate.extractLsb' 32 32).toNat / 2, seq := g.ertp2.setWidth 16, lastKey := g.f0, golden := g.f0
        disp := g.frameFrom t.time.toNat * g.ns, fills := [(t.time.toNat, g.fill)] } } ∧
      ∀ k w, (u.putHead h { regs := g, eng := Engine.zero }).ringOf h = (some k, w) →
        header v w g.ctx g.ring { k with a := (k.l + k.n) % 2 ^ 32, rflg := k.rflg ||| 256 }))

/-- CHAINLOAD, CHAINUNLOAD, LAMPS, PREEMPT, FAULTANS, HEAD, KEYFRAME and ATTEST with operands within their limits (16 Table
16.4, R417; 13 R344, R348, R349; 14 R363, R374; 15 R385, R391, R398). The report of ATTEST is laid out by the model (log entry 51), and
its signature is free (log entry 1); that CHAINLOAD writes the maintained fields back at once (log entry 52), and that KEYFRAME on a head
that is not enabled has no effect (log entry 58), are the model's. -/
def Claims.ServiceCommands : Prop :=
  ∀ (s : State),
    let c := s.cmd
    let ends := fun (i : Instr) (t : State) => exec i s = .next (t.endCommand c 0)
    (Takes s .chainload true → c.zero 16 8 = true → c.zero 32 32 = true → c.num 24 8 % 128 = 0 →
      ∀ bs t, s.fwRead c.ctx (c.num 24 8) 128 = .ok (bs, t) →
      let k := Chain.ofBytes c.ctx (c.num 24 8) bs
      let h := fieldAt bs 70 2
      t.descriptorOk k bs = true → t.chains.find h = none → (t.region c.ctx k.rslot).isSome = true → t.classOf c.ctx k.rslot = 0 →
      (∀ e ∈ t.chains, e.2.ctx ≠ c.ctx ∨ e.2.rslot ≠ k.rslot) →
      ends .chainload (({ t with chains := t.chains.put h { k with next := k.firstDue t.time.toNat } }).writeChain h)) ∧
    (Takes s .chainunload true → c.zero 18 46 = true → ∀ k, s.chains.find (c.num 16 2) = some k → k.ctx = c.ctx →
      let t := s.endReservation (c.num 16 2)
      ends .chainunload { t with chains := t.chains.del (c.num 16 2) }) ∧
    (Takes s .lamps false → c.zero 17 47 = true → 1 ≤ c.num 16 1 → c.num 16 1 ≤ Config.lampCeiling →
      ends .lamps { s with lamps := { s.lamps with next := c.num 16 1 } }) ∧
    (let asked := fun (i : Instr) (l : Nat) (p : Crew → Prop) => ∃ u : State, ends i u ∧ { u with aux := s.aux } = s ∧
        ∀ x, let a := s.auxOf x
          let hit := (∃ e ∈ s.crews, e.1 = x ∧ e.2.launch = l ∧ p e.2) ∧ (∃ r, s.crews.find x = some r ∧ r.resident = true) ∧
            a.preempt = none
          (hit → u.auxOf x = { a with preempt := some 2, preemptClk := s.clk, retryAt := 0 }) ∧ (¬ hit → u.auxOf x = a)
     let bl := fun (r : Crew) => ∃ b, s.blockOf r = some b ∧ b.bl = c.num 24 8
     ∀ l, s.launchNamed c.ctx (c.num 16 4) = some l →
        (Takes s .preemptLaunch true → c.num 20 1 = 0 → c.zero 21 43 = true → asked .preemptLaunch l fun _ => True) ∧
        (Takes s .preemptBlock true → c.zero 21 3 = true → c.zero 32 32 = true → asked .preemptBlock l bl) ∧
        (Takes s .preemptCrew true → c.zero 21 3 = true → c.zero 33 31 = true →
          asked .preemptCrew l fun r => bl r ∧ r.index = c.num 32 1)) ∧
    (let token : Word := BitVec.ofNat 32 (c.num 16 4)
     let retries := Takes s .faultansRetry true ∧ c.num 20 1 = 1 ∧ c.zero 21 43 = true
     let delivers := Takes s .faultansDeliver true ∧ c.zero 21 43 = true
     let waits := fun (e : Nat × Crew) (w : Suspension) =>
       (s.auxOf e.1).susp = some w ∧ w.token = token ∧ token ≠ 0 ∧ s.ctxOf e.2 = c.ctx ∧ e.2.resident = true
     ((∀ e ∈ s.crews, ∀ w, ¬ waits e w) → (retries → ends .faultansRetry s) ∧ (delivers → ends .faultansDeliver s)) ∧
     ∀ x r w, s.crews.find x = some r → waits (x, r) w → (∀ e ∈ s.crews, e.1 ≠ x → ∀ w', ¬ waits e w') →
      (retries → (s.auxOf x).replay = [] ∨ (s.auxOf x).trap.nesting = true → ∃ u : State, ends .faultansRetry u ∧
        { u with crews := s.crews, aux := s.aux } = s ∧
        u.crews.find x = some { r with phase := if (s.auxOf x).held then .waiting 5 else .ready } ∧
        u.auxOf x = { s.auxOf x with susp := none } ∧
        ∀ y, y ≠ x → u.crews.find y = s.crews.find y ∧ u.auxOf y = s.auxOf y) ∧
      (delivers → ends .faultansDeliver ((s.putAux x { s.auxOf x with susp := none }).trapEntry x
        { code := w.code, lanes := w.lanes, detail := w.detail, level := w.level, addr := w.addr, pc := r.headPc, retired := r.retired
          flg := if w.replay then 0x18 else 0x10, token := token, time := some w.time } (s.auxOf x).trapRec))) ∧
    (∀ h x, h = c.num 16 1 → x = s.headOf h → h ≤ 63 → c.zero 18 6 = true → c.zero 32 32 = true → (x.regs.en = true → x.regs.ctx = c.ctx) →
      ∀ bs t, s.fwRead c.ctx (c.num 24 8) 128 = .ok (bs, t) →
      let r := HeadRegs.ofBytes bs
      (Takes s .head true → c.num 17 1 = 0 → Claims.ImageWritten s t h r) ∧
      (Takes s .headHfillOnly true → c.num 17 1 = 1 → r.imageOk = true →
        let y := t.headOf h
        ends .headHfillOnly (t.putHead h { regs := { y.regs with fill := r.fill }
                                           eng := { y.eng with fills := if y.regs.en then y.eng.fills ++ [(t.time.toNat, r.fill)]
                                                      else y.eng.fills } }))) ∧
    (∀ h x, h = c.num 16 1 → x = s.headOf h → Takes s .keyframe true → c.zero 17 47 = true → h ≤ 63 →
      (x.regs.en = true → x.regs.ctx = c.ctx → ends .keyframe (s.putHead h { x with eng := { x.eng with keyReq := true } })) ∧
      (x.regs.en = false → ends .keyframe s)) ∧
    (Takes s .attest false → c.num 24 8 % 4096 = 0 → c.zero 32 32 = true →
      let report := s.hostRead (c.num 16 8) 48 ++ leBytes 4 s.devid.toNat ++ leBytes 4 s.boot.fwver.toNat
        ++ leBytes 4 s.boot.svn.toNat ++ leBytes 4 s.boot.rollback ++ beBytes 48 s.boot.imageHash.toNat
        ++ beBytes 48 s.boot.rsaHash.toNat ++ beBytes 48 s.boot.slhHash.toNat ++ [if s.boot.jtagLocked then 1 else 0]
      ends .attest (s.hostPut (c.num 24 8) (report ++ (List.range 96).map fun n => Config.attest report n)))

/-- A read of a context's memory by the firmware inside a window: STATUS 1 where an address fails; where it asks peers the command waits for
them, and goes on with their answers, or ends with STATUS 1 where one was lost (12 R333; 16 R406, R410). And no write of the firmware or
of an engine changes a window of a control page: that such a write fails is log entry 102 (16 R410). -/
def Claims.FirmwareAccesses : Prop :=
  (∀ (s : State) (ctx va n : Nat), s.windowOk ctx (BitVec.ofNat 64 va) n false = true →
    let owed := fun (u : State) (k : Nat) => ∃ p ∈ u.links.peers, p.2.up = true ∧ ∃ f ∈ p.2.unacked, f.group = k
    (∀ t, s.devRead ctx (BitVec.ofNat 64 va) n = (none, t) → s.fwRead ctx va n = .error (.status 1)) ∧
    ∀ bs t, s.devRead ctx (BitVec.ofNat 64 va) n = (some bs, t) →
      (s.pithead.staged = none →
        let u := t.noteFlights s [] s.nextId
        (¬ owed u s.nextId → s.fwRead ctx va n = .ok (bs, t)) ∧
        (owed u s.nextId → s.fwRead ctx va n = .error (.later { u with nextId := u.nextId + 1, pithead := { u.pithead with
          staged := some { group := s.nextId, sent := false, lost := false, again := false } } }))) ∧
      ∀ g, s.pithead.staged = some g →
        (g.lost = true → s.fwRead ctx va n = .error (.status 1)) ∧
        (g.lost = false → owed s g.group → s.fwRead ctx va n = .error (.later s)) ∧
        (g.lost = false → ¬ owed s g.group → s.fwRead ctx va n = .ok (bs, { t with links := s.links }))) ∧
  ∀ (s : State) (ctx : Nat) (va : DWord) (bs : List Byte) (k : Nat), ((s.devWrite ctx va bs).2.ctlOf k).wins = (s.ctlOf k).wins

/-- STAGEIN and STAGEOUT with operands within their limits copy between host memory and the context's memory, through a
window, or its table area in plaintext with TABLE; an access outside the windows is STATUS 2 with a crash record of cause 7 that names
the address. A STAGEIN that reaches a peer is committed, its index journaled, as it writes, and its record waits for the peer's
acknowledgement (16 R406, R410, R412, R414; 11 R303, R305). -/
def Claims.StagingCommands : Prop :=
  ∀ (s : State),
    let c := s.cmd
    let n := c.num 32 4
    let va : DWord := BitVec.ofNat 64 (c.num 24 8)
    let ends := fun (i : Instr) (t : State) => exec i s = .next (t.endCommand c 0)
    let refused := fun (i : Instr) => exec i s = .next ((s.crashRecord 7 1 c.index.toNat (some va)).endCommand c 2)
    let owed := fun (u : State) (k : Nat) => ∃ p ∈ u.links.peers, p.2.up = true ∧ ∃ f ∈ p.2.unacked, f.group = k
    c.stageOk = true →
    (Takes s .stagein true → (s.windowOk c.ctx va n true = false → refused .stagein) ∧
      (s.windowOk c.ctx va n true = true → ∀ t, s.devWrite c.ctx va (s.hostRead (c.num 16 8) n) = (true, t) →
        let u := t.noteFlights s [] s.nextId
        (¬ owed u s.nextId → ends .stagein t) ∧
        (owed u s.nextId → exec .stagein s =
          .next { u with nextId := u.nextId + 1, pithead := { u.pithead with
            journal := c.index, staged := some { group := s.nextId, sent := true, lost := false, again := false } } })) ∧
      (s.windowOk c.ctx va n true = true → ∀ t, s.devWrite c.ctx va (s.hostRead (c.num 16 8) n) = (false, t) →
        exec .stagein s = .next (s.endCommand c 1))) ∧
    (Takes s .stageout true → (s.windowOk c.ctx va n false = false → refused .stageout) ∧
      (∀ bs t, s.fwRead c.ctx (c.num 24 8) n = .ok (bs, t) → ends .stageout (t.hostPut (c.num 16 8) bs)) ∧
      (∀ u, s.fwRead c.ctx (c.num 24 8) n = .error (.later u) → exec .stageout s = .next u) ∧
      ∀ k, s.fwRead c.ctx (c.num 24 8) n = .error (.status k) → exec .stageout s = .next (s.endCommand c k)) ∧
    (s.inTable c.ctx (c.num 24 8) n = true →
      (Takes s .stageinTable true → ends .stageinTable (s.homeWrite s.walkTag (l2How s.walkTag.attr .dflt) ((List.range n).map fun i =>
        (c.num 24 8 + i, (s.hostRead (c.num 16 8) n).getD i 0)))) ∧
      (Takes s .stageoutTable true → s.poisoned (c.num 24 8) n = false → ∃ t, ends .stageoutTable t ∧
        { t with mem := { t.mem with host := s.mem.host } } = s ∧
        (∀ i, i < n → t.hostGet (c.num 16 8 + i) = s.sliceGet s.walkTag (c.num 24 8 + i)) ∧
        ∀ a, (a < c.num 16 8 ∨ c.num 16 8 + n ≤ a) → t.hostGet a = s.hostGet a))

/-- The pithead's commands with operands within their limits (16 Table 16.4), and the firmware's accesses that they make. The log entries
of the model's choices stand at each part: 47, 50-52, 55, 56, 58, 59, 86, 102, 103. -/
def Obligations.Commands : Prop :=
  Claims.ContextCommands ∧ Claims.ServiceCommands ∧ Claims.FirmwareAccesses ∧ Claims.StagingCommands

/-! ## Reset and invariants -/

/-- What reset leaves on either part, as the spec gives it: boot idle, no pithead, all counts zero, the clock at 940 MHz, no PTP
lock, TIME at 0, no context, crew or launch (16 R403, R412, R415, R418, R421, R422). That memory reads 0 where nothing is listed is the
model's choice (log entry 5), and so are the queue registers and PWRCAP's 1400 (log entry 6) and that State.reset is a 9612 (log
entry 7). -/
def Claims.ResetValues : Prop :=
  State.reset = State.resetOf PartNo.p9612 ∧ ∀ part : PartNo,
  let s := State.resetOf part
  s.partNo = part ∧ s.boot.status = .idle ∧ s.boot.go = false ∧ s.pithead.up = false ∧ s.health.cecnt = 0 ∧ s.health.uecnt = 0 ∧
  s.health.uelast = 0 ∧ s.health.pwrcap = 1400 ∧ s.links.fabid = 0 ∧ s.links.ptp.locked = false ∧ s.links.ptp.syncLost = false ∧
  s.health.mhz = 940 ∧ s.time = 0 ∧ s.ctxs = [] ∧ s.crews = [] ∧ s.launches = [] ∧ s.blocks = [] ∧ s.chains = [] ∧ s.mem.wf = true ∧
  s.hostIf.cmdq = { base := 0, log2n := 0, prod := 0, cons := 0 } ∧ ∀ pa, s.sliceGet s.walkTag pa = 0

/-- The two parts: a 9612 has 96 cores, 8 in each cluster; a 9610 has 80, by the harvest rule 4 to 8 in each of its 12 clusters and 8
in at least four, and every such set of sizes is a part's. DEVID names the part and its cores, and each logical core stands in exactly
one cluster, in the clusters' order (00 R1-R3). -/
def Claims.Parts : Prop :=
  (∀ sizes : List Nat, sizes.length = 12 → (∀ n ∈ sizes, 4 ≤ n ∧ n ≤ 8) → 4 ≤ sizes.count 8 → sizes.sum = 80 →
    PartNo.wf { full := false, sizes := sizes } = true) ∧
  ∀ part : PartNo, part.wf = true →
    let s := State.resetOf part
    let size := fun (c : Nat) => (s.clusterCores c).length
    s.ncores = (if part.full then 96 else 80) ∧ s.devid.toNat % 2 ^ 16 = (if part.full then 0x9612 else 0x9610) ∧
    s.devid.toNat / 2 ^ 24 = s.ncores ∧ (∀ c, c < 12 → 4 ≤ size c ∧ size c ≤ 8 ∧ (part.full = true → size c = 8)) ∧
    4 ≤ ((List.range 12).filter fun c => size c == 8).length ∧
    (∀ c, s.clusterCores c = (List.range (size c)).map ((((List.range c).map size).sum) + ·)) ∧
    ∀ k, k < s.ncores → s.clusterOf k < 12 ∧ ∀ c, k ∈ s.clusterCores c ↔ c = s.clusterOf k

/-- Reset, and the parts that it may find (00 R1-R3; 16 R403, R412, R415, R418, R421, R422). -/
def Obligations.ResetValues : Prop := Claims.ResetValues ∧ Claims.Parts

/-- Every step keeps the memories in canonical form. -/
def Obligations.MemoryStaysCanonical : Prop :=
  ∀ (s t : State), s.mem.wf = true → step s = .next t → t.mem.wf = true
end

