-- ==== Sys2Proof/Laws/Arith.lean ====
section
/-!
SUPPORT. The machine's word operations against the exact arithmetic of the statements' tables.
-/

namespace Sys2Proof.Machine.Spec

theorem int_add (x y : Word) : x + y = int (x.toInt + y.toInt) := by
  simp [int, BitVec.ofInt_add]

theorem int_sub (x y : Word) : x - y = int (x.toInt - y.toInt) := by
  rw [int, Int.sub_eq_add_neg, BitVec.ofInt_add, BitVec.ofInt_neg, BitVec.ofInt_toInt, BitVec.ofInt_toInt, BitVec.sub_eq_add_neg]

theorem int_mul (x y : Word) : x * y = int (x.toInt * y.toInt) := by
  simp [int, BitVec.ofInt_mul]

theorem int_mad (x y z : Word) : x * y + z = int (x.toInt * y.toInt + z.toInt) := by
  simp [int, BitVec.ofInt_mul, BitVec.ofInt_add]

theorem toInt_append {m n : Nat} (p : BitVec m) (i : BitVec n) (hm : 0 < m) :
    (p ++ i).toInt = p.toInt * (2 ^ n : Nat) + i.toNat := by
  have hp : p.toNat < 2 ^ m := p.isLt
  have hi : i.toNat < 2 ^ n := i.isLt
  have e : 2 ^ (m + n) = 2 ^ m * 2 ^ n := Nat.pow_add 2 m n
  have hn : 0 < 2 ^ n := Nat.two_pow_pos n
  rw [BitVec.toInt_eq_toNat_cond, BitVec.toInt_eq_toNat_cond, BitVec.toNat_append,
    ← Nat.shiftLeft_add_eq_or_of_lt hi, Nat.shiftLeft_eq, e]
  have key : (2 * (p.toNat * 2 ^ n + i.toNat) < 2 ^ m * 2 ^ n) ↔ (2 * p.toNat < 2 ^ m) := by
    obtain ⟨k, rfl⟩ : ∃ k, m = k + 1 := ⟨m - 1, by omega⟩
    have e2 : 2 ^ (k + 1) = 2 * 2 ^ k := by rw [Nat.pow_succ]; omega
    rw [e2] at hp ⊢
    constructor
    · intro h
      by_contra hc
      have : 2 ^ k ≤ p.toNat := by omega
      have := Nat.mul_le_mul_right (2 ^ n) this
      have e3 : 2 * 2 ^ k * 2 ^ n = 2 * (2 ^ k * 2 ^ n) := by ring
      omega
    · intro h
      have : p.toNat + 1 ≤ 2 ^ k := by omega
      have := Nat.mul_le_mul_right (2 ^ n) this
      have e3 : 2 * 2 ^ k * 2 ^ n = 2 * (2 ^ k * 2 ^ n) := by ring
      have e4 : (p.toNat + 1) * 2 ^ n = p.toNat * 2 ^ n + 2 ^ n := by ring
      omega
  by_cases h : 2 * p.toNat < 2 ^ m
  · rw [if_pos (key.mpr h), if_pos h]; push_cast; rfl
  · rw [if_neg fun x => h (key.mp x), if_neg h]; push_cast; ring

theorem imm10_eq (hs : List Hint) (i : BitVec 10) : imm10 hs i = BitVec.ofInt 64 (immInt hs i) := by
  unfold imm10 immInt
  cases wideOf hs with
  | none => rfl
  | some p => simp only []; rw [← toInt_append p i (by decide)]; rfl

theorem imm17_eq (hs : List Hint) (i : BitVec 17) : imm17 hs i = BitVec.ofInt 64 (immInt hs i) := by
  unfold imm17 immInt
  cases wideOf hs with
  | none => rfl
  | some p => simp only []; rw [← toInt_append p i (by decide)]; rfl

theorem off14_eq (hs : List Hint) (i : BitVec 14) : off14 hs i = BitVec.ofInt 64 (immInt hs i) := by
  unfold off14 immInt
  cases wideOf hs with
  | none => rfl
  | some p => simp only []; rw [← toInt_append p i (by decide)]; rfl

theorem off24_eq (hs : List Hint) (i : BitVec 24) : off24 hs i = BitVec.ofInt 64 (immInt hs i) := by
  unfold off24 immInt
  cases wideOf hs with
  | none => rfl
  | some p => simp only []; rw [← toInt_append p i (by decide)]; rfl

theorem setWidth_ofInt {m n : Nat} (h : n ≤ m) (x : Int) : (BitVec.ofInt m x).setWidth n = BitVec.ofInt n x := by
  apply BitVec.eq_of_toInt_eq
  rw [BitVec.toInt_setWidth, BitVec.toInt_ofInt]
  have hd : ((2 ^ n : Nat) : Int) ∣ ((2 ^ m : Nat) : Int) := by exact_mod_cast Nat.pow_dvd_pow 2 h
  rw [BitVec.toNat_ofInt, Int.toNat_of_nonneg (Int.emod_nonneg _ (by positivity))]
  rw [Int.bmod_def, Int.bmod_def, Int.emod_emod_of_dvd _ hd]

theorem imm10_word (hs : List Hint) (i : BitVec 10) : (imm10 hs i).setWidth 32 = int (immInt hs i) := by
  rw [imm10_eq, setWidth_ofInt (by decide)]; rfl

theorem imm17_word (hs : List Hint) (i : BitVec 17) : (imm17 hs i).setWidth 32 = int (immInt hs i) := by
  rw [imm17_eq, setWidth_ofInt (by decide)]; rfl

theorem int_addi (x : Word) (v : Int) : x + int v = int (x.toInt + v) := by
  simp [int, BitVec.ofInt_add]

theorem mulHigh_signed (x y : Word) : mulHigh true x y = int (x.toInt * y.toInt / (2 ^ 32 : Nat)) := by
  simp only [mulHigh, if_true, int]
  have e : x.signExtend 64 * y.signExtend 64 = BitVec.ofInt 64 (x.toInt * y.toInt) := by
    rw [BitVec.ofInt_mul]; rfl
  rw [e]
  apply BitVec.eq_of_toNat_eq
  rw [BitVec.extractLsb'_toNat, BitVec.toNat_ofInt, BitVec.toNat_ofInt, Nat.shiftRight_eq_div_pow]
  generalize x.toInt * y.toInt = z
  norm_num
  omega

theorem mulHigh_unsigned (x y : Word) : mulHigh false x y = nat (x.toNat * y.toNat / 2 ^ 32) := by
  simp only [mulHigh, nat, Bool.false_eq_true, if_false]
  apply BitVec.eq_of_toNat_eq
  have hx := x.isLt
  have hy := y.isLt
  have h : x.toNat * y.toNat < 2 ^ 64 := by nlinarith
  simp only [BitVec.extractLsb'_toNat, BitVec.toNat_mul, Nat.shiftRight_eq_div_pow, BitVec.toNat_setWidth, BitVec.toNat_ofNat]
  rw [Nat.mod_eq_of_lt (show x.toNat < 2 ^ 64 by omega), Nat.mod_eq_of_lt (show y.toNat < 2 ^ 64 by omega), Nat.mod_eq_of_lt h]

theorem sdiv32_eq (x y : Word) : sdiv32 x y = int (quot x.toInt y.toInt) := by
  unfold sdiv32 quot int
  by_cases h : y = 0
  · subst h; simp
  · have : y.toInt ≠ 0 := fun e => h (BitVec.eq_of_toInt_eq (by simpa using e))
    rw [if_neg h, if_neg this]

theorem srem32_eq (x y : Word) : srem32 x y = int (remn x.toInt y.toInt) := by
  unfold srem32 remn int
  by_cases h : y = 0
  · subst h; simp
  · have : y.toInt ≠ 0 := fun e => h (BitVec.eq_of_toInt_eq (by simpa using e))
    rw [if_neg h, if_neg this]

theorem divu_eq (x y : Word) :
    (if y = 0 then 0xFFFFFFFF else x / y) = if y.toNat = 0 then 0xFFFFFFFF else nat (x.toNat / y.toNat) := by
  have : y = 0 ↔ y.toNat = 0 := by simp [BitVec.toNat_eq]
  by_cases h : y = 0
  · simp [h]
  · rw [if_neg h, if_neg (fun e => h (this.mpr e))]
    apply BitVec.eq_of_toNat_eq
    simp only [BitVec.toNat_udiv, nat, BitVec.toNat_ofNat]
    rw [Nat.mod_eq_of_lt (Nat.lt_of_le_of_lt (Nat.div_le_self _ _) x.isLt)]

theorem remu_eq (x y : Word) : (if y = 0 then x else x % y) = if y.toNat = 0 then x else nat (x.toNat % y.toNat) := by
  have : y = 0 ↔ y.toNat = 0 := by simp [BitVec.toNat_eq]
  by_cases h : y = 0
  · simp [h]
  · rw [if_neg h, if_neg (fun e => h (this.mpr e))]
    apply BitVec.eq_of_toNat_eq
    simp only [BitVec.toNat_umod, nat, BitVec.toNat_ofNat]
    rw [Nat.mod_eq_of_lt (Nat.lt_of_le_of_lt (Nat.mod_le _ _) x.isLt)]

theorem min_eq (x y : Word) : (if x.slt y then x else y) = int (min x.toInt y.toInt) := by
  rw [BitVec.slt_eq_decide]
  by_cases h : x.toInt < y.toInt
  · simp [h, int, min_eq_left (le_of_lt h)]
  · simp [h, int, min_eq_right (not_lt.mp h)]

theorem max_eq (x y : Word) : (if x.slt y then y else x) = int (max x.toInt y.toInt) := by
  rw [BitVec.slt_eq_decide]
  by_cases h : x.toInt < y.toInt
  · simp [h, int, max_eq_right (le_of_lt h)]
  · simp [h, int, max_eq_left (not_lt.mp h)]

theorem minu_eq (x y : Word) : (if x.ult y then x else y) = nat (min x.toNat y.toNat) := by
  rw [BitVec.ult_eq_decide]
  by_cases h : x.toNat < y.toNat
  · simp [h, nat, min_eq_left (le_of_lt h)]
  · simp [h, nat, min_eq_right (not_lt.mp h)]

theorem maxu_eq (x y : Word) : (if x.ult y then y else x) = nat (max x.toNat y.toNat) := by
  rw [BitVec.ult_eq_decide]
  by_cases h : x.toNat < y.toNat
  · simp [h, nat, max_eq_right (le_of_lt h)]
  · simp [h, nat, max_eq_left (not_lt.mp h)]

theorem shl_eq {w : Nat} (x : BitVec w) (n : Nat) : x <<< n = BitVec.ofNat w (x.toNat * 2 ^ n) := by
  apply BitVec.eq_of_toNat_eq; simp [Nat.shiftLeft_eq]

theorem shr_eq {w : Nat} (x : BitVec w) (n : Nat) : x >>> n = BitVec.ofNat w (x.toNat / 2 ^ n) := by
  apply BitVec.eq_of_toNat_eq
  simp only [BitVec.toNat_ushiftRight, Nat.shiftRight_eq_div_pow, BitVec.toNat_ofNat]
  rw [Nat.mod_eq_of_lt (Nat.lt_of_le_of_lt (Nat.div_le_self _ _) x.isLt)]

theorem sar_eq {w : Nat} (x : BitVec w) (n : Nat) : x.sshiftRight n = BitVec.ofInt w (x.toInt / (2 ^ n : Nat)) := by
  rw [BitVec.sshiftRight, Int.shiftRight_eq_div_pow]

/-! ## Bit fields and counts -/

theorem bits_eq (len pos : BitVec 5) : fieldWidth len pos = bits len pos := by
  have := pos.isLt
  unfold fieldWidth bits; omega

theorem bits_le (len pos : BitVec 5) : pos.toNat + bits len pos ≤ 32 ∧ 1 ≤ bits len pos := by
  have := pos.isLt
  unfold bits; omega

theorem two_pow_add {a b c : Nat} (h : a + b = c) : 2 ^ a * 2 ^ b = 2 ^ c := by rw [← Nat.pow_add, h]

theorem fieldMask_toNat {w : Nat} (h : w ≤ 32) : (fieldMask w).toNat = 2 ^ w - 1 := by
  have : 2 ^ w ≤ 2 ^ 32 := Nat.pow_le_pow_right (by decide) h
  have : 0 < 2 ^ w := Nat.two_pow_pos w
  rw [fieldMask, BitVec.toNat_ofNat, Nat.mod_eq_of_lt (by omega)]

theorem field_lt (x p w : Nat) : field x p w < 2 ^ w := Nat.mod_lt _ (Nat.two_pow_pos w)

theorem bfx_eq (x : Word) (len pos : BitVec 5) :
    (x >>> pos.toNat) &&& fieldMask (fieldWidth len pos) = nat (field x.toNat pos.toNat (bits len pos)) := by
  have hb := bits_le len pos
  rw [bits_eq]
  apply BitVec.eq_of_toNat_eq
  rw [BitVec.toNat_and, fieldMask_toNat (by omega), Nat.and_two_pow_sub_one_eq_mod, BitVec.toNat_ushiftRight,
    Nat.shiftRight_eq_div_pow, nat, BitVec.toNat_ofNat, field, Nat.mod_eq_of_lt (b := 2 ^ 32)]
  exact Nat.lt_of_lt_of_le (field_lt x.toNat pos.toNat (bits len pos)) (Nat.pow_le_pow_right (by decide) (by omega))

theorem split3 (x p w : Nat) : x = x / 2 ^ (p + w) * 2 ^ (p + w) + field x p w * 2 ^ p + x % 2 ^ p := by
  have h1 := Nat.div_add_mod x (2 ^ p)
  have h2 := Nat.div_add_mod (x / 2 ^ p) (2 ^ w)
  have e : 2 ^ (p + w) = 2 ^ p * 2 ^ w := Nat.pow_add 2 p w
  rw [e, ← Nat.div_div_eq_div_mul, field]
  generalize x / 2 ^ p / 2 ^ w = a at *
  generalize x / 2 ^ p % 2 ^ w = f at *
  generalize x % 2 ^ p = l at *
  rw [← h2] at h1
  rw [← h1]; ring

theorem bfxs_eq (x : Word) (len pos : BitVec 5) :
    ((x <<< (32 - fieldWidth len pos - pos.toNat)).sshiftRight (32 - fieldWidth len pos))
      = int (signed (bits len pos) (field x.toNat pos.toNat (bits len pos))) := by
  obtain ⟨hb, hw⟩ := bits_le len pos
  rw [bits_eq, sar_eq, int]
  congr 1
  generalize bits len pos = w at *
  generalize pos.toNat = p at *
  have hf := field_lt x.toNat p w
  have hs := split3 x.toNat p w
  have hl : x.toNat % 2 ^ p < 2 ^ p := Nat.mod_lt _ (Nat.two_pow_pos p)
  generalize hF : field x.toNat p w = f at *
  generalize x.toNat % 2 ^ p = l at *
  generalize x.toNat / 2 ^ (p + w) = t at *
  have e1 : 2 ^ (p + w) * 2 ^ (32 - w - p) = 2 ^ 32 := two_pow_add (by omega)
  have e2 : 2 ^ p * 2 ^ (32 - w - p) = 2 ^ (32 - w) := two_pow_add (by omega)
  have e3 : 2 ^ w * 2 ^ (32 - w) = 2 ^ 32 := two_pow_add (by omega)
  have hk : (x <<< (32 - w - p)).toNat = f * 2 ^ (32 - w) + l * 2 ^ (32 - w - p) := by
    rw [BitVec.toNat_shiftLeft, Nat.shiftLeft_eq, hs]
    have : (t * 2 ^ (p + w) + f * 2 ^ p + l) * 2 ^ (32 - w - p)
        = t * 2 ^ 32 + (f * 2 ^ (32 - w) + l * 2 ^ (32 - w - p)) := by
      rw [← e1, ← e2]; ring
    rw [this, Nat.add_comm, Nat.add_mul_mod_self_right, Nat.mod_eq_of_lt]
    have : l * 2 ^ (32 - w - p) < 2 ^ (32 - w) := by
      rw [← e2]; exact Nat.mul_lt_mul_of_pos_right hl (Nat.two_pow_pos _)
    have : (f + 1) * 2 ^ (32 - w) ≤ 2 ^ w * 2 ^ (32 - w) := Nat.mul_le_mul_right _ hf
    rw [e3] at this
    have e4 : (f + 1) * 2 ^ (32 - w) = f * 2 ^ (32 - w) + 2 ^ (32 - w) := by ring
    omega
  have hl2 : l * 2 ^ (32 - w - p) < 2 ^ (32 - w) := by
    rw [← e2]; exact Nat.mul_lt_mul_of_pos_right hl (Nat.two_pow_pos _)
  have e5 : 2 ^ w = 2 * 2 ^ (w - 1) := by rw [← Nat.pow_succ']; congr 1; omega
  have e6 : 2 ^ (w - 1) * 2 ^ (32 - w) = 2 ^ 31 := two_pow_add (by omega)
  rw [BitVec.toInt_eq_toNat_cond, hk, signed]
  have key : 2 * (f * 2 ^ (32 - w) + l * 2 ^ (32 - w - p)) < 2 ^ 32 ↔ 2 * f < 2 ^ w := by
    rw [e5]
    constructor
    · intro h
      by_contra hc
      have : 2 ^ (w - 1) ≤ f := by omega
      have := Nat.mul_le_mul_right (2 ^ (32 - w)) this
      omega
    · intro h
      have : f + 1 ≤ 2 ^ (w - 1) := by omega
      have := Nat.mul_le_mul_right (2 ^ (32 - w)) this
      have e4 : (f + 1) * 2 ^ (32 - w) = f * 2 ^ (32 - w) + 2 ^ (32 - w) := by ring
      omega
  have hq : (0 : Int) < ((2 ^ (32 - w) : Nat) : Int) := by exact_mod_cast Nat.two_pow_pos _
  by_cases h : 2 * f < 2 ^ w
  · rw [if_pos (key.mpr h), if_pos h]
    push_cast [Nat.cast_add, Nat.cast_mul]
    rw [Int.add_comm, Int.add_mul_ediv_right _ _ (by positivity), Int.ediv_eq_zero_of_lt (by positivity) (by exact_mod_cast hl2)]
    omega
  · rw [if_neg fun y => h (key.mp y), if_neg h]
    have : ((2 ^ 32 : Nat) : Int) = ((2 ^ w : Nat) : Int) * ((2 ^ (32 - w) : Nat) : Int) := by exact_mod_cast e3.symm
    rw [this]
    push_cast [Nat.cast_add, Nat.cast_mul]
    have e7 : (f : Int) * 2 ^ (32 - w) + (l : Int) * 2 ^ (32 - w - p) - 2 ^ w * 2 ^ (32 - w)
        = (l : Int) * 2 ^ (32 - w - p) + ((f : Int) - 2 ^ w) * 2 ^ (32 - w) := by ring
    rw [e7, Int.add_mul_ediv_right _ _ (by positivity), Int.ediv_eq_zero_of_lt (by positivity) (by exact_mod_cast hl2)]
    omega

theorem clz_eq (x : Word) : leadingZeros x = 32 - x.toNat.size := by
  unfold leadingZeros
  by_cases h : x = 0
  · subst h; rfl
  · have hx : x.toNat ≠ 0 := fun e => h (BitVec.eq_of_toNat_eq (by simpa using e))
    rw [if_neg h]
    have h1 : x.toNat.size ≤ x.toNat.log2 + 1 := by
      rw [Nat.size_le, ← Nat.log2_lt hx]; omega
    have h2 : ¬ x.toNat.size ≤ x.toNat.log2 := by
      rw [Nat.size_le, ← Nat.log2_lt hx]; omega
    omega

theorem bit_toNat (x : Word) (i : Nat) : field x.toNat i 1 = (x.getLsbD i).toNat := by
  rw [field, BitVec.getLsbD, Nat.testBit_eq_decide_div_mod_eq, Nat.pow_one]
  have := Nat.mod_two_eq_zero_or_one (x.toNat / 2 ^ i)
  rcases this with h | h <;> simp [h]

theorem popc_eq (x : Word) : onesIn x = ((List.range 32).map fun i => field x.toNat i 1).sum := by
  unfold onesIn
  generalize List.range 32 = l
  induction l with
  | nil => rfl
  | cons a t ih =>
    rw [List.filter_cons, List.map_cons, List.sum_cons, bit_toNat, ← ih]
    cases x.getLsbD a <;> simp <;> omega

theorem testBit_sum (n : Nat) (b : Nat → Bool) (j : Nat) (h : j < n) :
    (((List.range n).map fun i => (b i).toNat * 2 ^ (n - 1 - i)).sum).testBit j = b (n - 1 - j) := by
  induction n generalizing j with
  | zero => omega
  | succ n ih =>
    have e : ((List.range (n + 1)).map fun i => (b i).toNat * 2 ^ (n + 1 - 1 - i)).sum
        = 2 * ((List.range n).map fun i => (b i).toNat * 2 ^ (n - 1 - i)).sum + (b n).toNat := by
      rw [List.range_succ, List.map_append, List.sum_append, ← List.sum_map_mul_left]
      congr 1
      · congr 1
        apply List.map_congr_left
        intro i hi
        have : i < n := List.mem_range.mp hi
        have e2 : n + 1 - 1 - i = (n - 1 - i) + 1 := by omega
        rw [e2, Nat.pow_succ]; ring
      · simp
    rw [e]
    cases j with
    | zero =>
      have : n + 1 - 1 - 0 = n := by omega
      rw [this]; cases b n <;> simp
    | succ j =>
      rw [Nat.testBit_succ]
      have : (2 * ((List.range n).map fun i => (b i).toNat * 2 ^ (n - 1 - i)).sum + (b n).toNat) / 2
          = ((List.range n).map fun i => (b i).toNat * 2 ^ (n - 1 - i)).sum := by
        have : (b n).toNat < 2 := by cases b n <;> decide
        omega
      rw [this, ih j (by omega)]
      congr 1; omega

theorem brev_eq (x : Word) : x.reverse = nat ((List.range 32).map fun i => field x.toNat i 1 * 2 ^ (31 - i)).sum := by
  apply BitVec.eq_of_getLsbD_eq
  intro i hi
  simp only [bit_toNat]
  rw [nat, BitVec.getLsbD_ofNat, testBit_sum 32 (fun i => x.getLsbD i) i hi, BitVec.getLsbD_reverse, BitVec.getMsbD]

theorem bfi_eq (a d : Word) (len pos : BitVec 5) :
    (d &&& ~~~ (fieldMask (fieldWidth len pos) <<< pos.toNat))
        ||| ((a <<< pos.toNat) &&& (fieldMask (fieldWidth len pos) <<< pos.toNat))
      = nat (d.toNat - field d.toNat pos.toNat (bits len pos) * 2 ^ pos.toNat
          + field a.toNat 0 (bits len pos) * 2 ^ pos.toNat) := by
  obtain ⟨hb, hw⟩ := bits_le len pos
  rw [bits_eq]
  generalize bits len pos = w at *
  generalize pos.toNat = p at *
  have hs := split3 d.toNat p w
  have hl : d.toNat % 2 ^ p < 2 ^ p := Nat.mod_lt _ (Nat.two_pow_pos p)
  have hf : field a.toNat 0 w < 2 ^ w := field_lt _ _ _
  have e : d.toNat - field d.toNat p w * 2 ^ p + field a.toNat 0 w * 2 ^ p
      = 2 ^ p * (2 ^ w * (d.toNat / 2 ^ (p + w)) + field a.toNat 0 w) + d.toNat % 2 ^ p := by
    have e1 : 2 ^ (p + w) = 2 ^ p * 2 ^ w := Nat.pow_add 2 p w
    conv_lhs => rw [show d.toNat - field d.toNat p w * 2 ^ p = d.toNat / 2 ^ (p + w) * 2 ^ (p + w) + d.toNat % 2 ^ p by omega]
    rw [e1]; ring
  rw [e]
  apply BitVec.eq_of_getLsbD_eq
  intro i hi
  rw [nat, BitVec.getLsbD_ofNat, Nat.testBit_two_pow_mul_add _ hl]
  have hm : ∀ j, (fieldMask w).getLsbD j = decide (j < w) := by
    intro j
    rw [BitVec.getLsbD, fieldMask_toNat (by omega), Nat.testBit_two_pow_sub_one]
  simp only [BitVec.getLsbD_or, BitVec.getLsbD_and, BitVec.getLsbD_not, BitVec.getLsbD_shiftLeft, hm, hi, decide_true, Bool.true_and]
  by_cases h1 : i < p
  · simp [h1, Nat.testBit_mod_two_pow, BitVec.getLsbD]
  · have h1' : p ≤ i := by omega
    rw [Nat.testBit_two_pow_mul_add _ hf]
    by_cases h2 : i - p < w
    · simp [h1, h2, field, Nat.testBit_mod_two_pow, BitVec.getLsbD]
    · simp only [h1, h2, decide_false, Bool.not_false, Bool.and_true, Bool.and_false, Bool.not_true, Bool.or_false, if_false]
      rw [Nat.testBit_div_two_pow]
      simp only [BitVec.getLsbD]
      congr 1; omega

/-! ## Conditions, tests, targets -/

theorem intCond_eq {n : Nat} (cc : IntCond) (x y : BitVec n) :
    intCond cc x y = holds cc x.toInt y.toInt x.toNat y.toNat := by
  have h : x = y ↔ x.toNat = y.toNat := BitVec.toNat_eq
  rw [Bool.eq_iff_iff]
  cases cc <;> simp only [intCond, holds, BitVec.slt_eq_decide, BitVec.sle_eq_decide, BitVec.ult_eq_decide,
    BitVec.ule_eq_decide, decide_eq_true_eq, beq_iff_eq, bne_iff_ne, ne_eq, h]

theorem vtest_eq {n : Nat} (t : VTest) (x : BitVec n) : vtest t x = test t x.toInt := by
  have h0 : x = 0 ↔ x.toInt = 0 := by
    constructor
    · intro h; rw [h]; exact BitVec.toInt_zero
    · intro h; exact BitVec.eq_of_toInt_eq (h.trans BitVec.toInt_zero.symm)
  have hz : (0 : BitVec n).toInt = 0 := BitVec.toInt_zero
  rw [Bool.eq_iff_iff]
  cases t <;> simp only [vtest, test, BitVec.slt_eq_decide, decide_eq_true_eq, beq_iff_eq, bne_iff_ne, ne_eq, h0, hz,
    Bool.not_eq_true', decide_eq_false_iff_not, not_lt]

theorem target_eq (w : PC) (o : Int) : Machine.target w (BitVec.ofInt 64 o) = target w o := by
  unfold Machine.target target
  have e : ((BitVec.ofInt 64 o) <<< 2) = BitVec.ofInt 64 (4 * o) := by
    rw [BitVec.shiftLeft_eq_mul_twoPow, BitVec.ofInt_mul, mul_comm]; rfl
  rw [e, setWidth_ofInt (by decide), BitVec.ofInt_add, BitVec.ofInt_add]
  congr 2
  rw [BitVec.ofInt_natCast, BitVec.ofNat_toNat, BitVec.setWidth_eq]

theorem ballot_eq (p : Nat → Bool) (l : List Nat) (hl : ∀ i ∈ l, i < 32) (hn : l.Nodup) (m : LaneMask)
    (hm : ∀ i ∈ l, m.getLsbD i = false) :
    (l.foldl (fun m l => if p l then m ||| (1#32 <<< l) else m) m).toNat = m.toNat + ((l.filter p).map (2 ^ ·)).sum := by
  induction l generalizing m with
  | nil => simp
  | cons a t ih =>
    simp only [List.foldl_cons, List.filter_cons]
    have ha : a < 32 := hl a (by simp)
    have hnt := List.nodup_cons.mp hn
    by_cases h : p a
    · simp only [h, if_true, List.map_cons, List.sum_cons]
      have hz : m.getLsbD a = false := hm a (by simp)
      have e : (m ||| 1#32 <<< a) = m + BitVec.twoPow 32 a := by
        rw [BitVec.twoPow_eq, ← BitVec.add_eq_or_of_and_eq_zero]
        ext i hi
        simp only [BitVec.getElem_and, BitVec.getElem_zero]
        by_cases hia : i = a
        · subst hia
          have : m[i] = false := by simpa [BitVec.getLsbD_eq_getElem hi] using hz
          simp [this]
        · rw [← BitVec.twoPow_eq, BitVec.getElem_twoPow]; simp [hia]
      have hlt : m.toNat + 2 ^ a < 2 ^ 32 := by
        have h1 := split3 m.toNat a 1
        rw [bit_toNat, hz] at h1
        have h2 : m.toNat % 2 ^ a < 2 ^ a := Nat.mod_lt _ (Nat.two_pow_pos a)
        have h3 : 2 ^ (a + 1) * 2 ^ (31 - a) = 2 ^ 32 := two_pow_add (by omega)
        have h4 : m.toNat / 2 ^ (a + 1) < 2 ^ (31 - a) := by
          rw [Nat.div_lt_iff_lt_mul (Nat.two_pow_pos _), Nat.mul_comm, h3]; exact m.isLt
        have h5 := Nat.mul_le_mul_right (2 ^ (a + 1)) h4
        rw [Nat.mul_comm (2 ^ (31 - a)), h3, Nat.succ_mul] at h5
        have h6 : 2 ^ (a + 1) = 2 * 2 ^ a := Nat.pow_succ' ..
        simp only [Bool.toNat_false, Nat.zero_mul, Nat.add_zero] at h1
        omega
      rw [ih (fun i hi => hl i (by simp [hi])) hnt.2, e]
      · rw [BitVec.toNat_add, BitVec.toNat_twoPow, Nat.mod_eq_of_lt (Nat.pow_lt_pow_right (by decide) ha),
          Nat.mod_eq_of_lt hlt]
        omega
      · intro i hi
        have hia : i ≠ a := fun x => hnt.1 (x ▸ hi)
        rw [BitVec.getLsbD_or, hm i (by simp [hi]), ← BitVec.twoPow_eq, BitVec.getLsbD_twoPow]
        simp [Ne.symm hia]
    · simp only [h, if_false]
      exact ih (fun i hi => hl i (by simp [hi])) hnt.2 m fun i hi => hm i (by simp [hi])

theorem maskOf_toNat (p : Nat → Bool) : (maskOf p).toNat = (((List.range 32).filter p).map (2 ^ ·)).sum := by
  have := ballot_eq p (List.range 32) (fun i hi => List.mem_range.mp hi) List.nodup_range 0 (by simp)
  simpa [maskOf, allLanes] using this

end Sys2Proof.Machine.Spec
end

