-- ==== Sys2Proof/Laws/Data.lean ====
section
/-!
SUPPORT. What the two containers do: reading after writing, and the canonical form of `Sparse`.
-/

namespace Sys2Proof

namespace Sparse

variable {α : Type} {d : α} {m : Sparse α} {i j : Nat} {v : α}

@[simp] theorem get_nil : Sparse.get d ([] : Sparse α) i = d := rfl

theorem get_del_same : Sparse.get d (m.del i) i = d := by
  induction m with
  | nil => rfl
  | cons e t ih =>
    obtain ⟨k, w⟩ := e
    by_cases h : k = i <;> simp [Sparse.del, Sparse.get, h, ih]

theorem get_del_other (h : j ≠ i) : Sparse.get d (m.del i) j = Sparse.get d m j := by
  induction m with
  | nil => rfl
  | cons e t ih =>
    obtain ⟨k, w⟩ := e
    by_cases hk : k = i
    · have : k ≠ j := by omega
      simp [Sparse.del, Sparse.get, hk, ih, h.symm]
    · simp only [Sparse.del, hk, if_false, Sparse.get, ih]

theorem get_ins_other (h : j ≠ i) : Sparse.get d (m.ins i v) j = Sparse.get d m j := by
  induction m with
  | nil => simp [Sparse.ins, Sparse.get, h.symm]
  | cons e t ih =>
    obtain ⟨k, w⟩ := e
    by_cases hk : i < k
    · simp [Sparse.ins, Sparse.get, hk, h.symm]
    · simp only [Sparse.ins, hk, if_false, Sparse.get, ih]

/-- No entry of a map lies at an index. -/
def Free (m : Sparse α) (i : Nat) : Prop := ∀ e ∈ m, e.1 ≠ i

theorem free_del : Free (m.del i) i := by
  induction m with
  | nil => intro e h; cases h
  | cons e t ih =>
    obtain ⟨k, w⟩ := e
    by_cases hk : k = i
    · simpa [Sparse.del, hk] using ih
    · intro e he
      simp only [Sparse.del, hk, if_false, List.mem_cons] at he
      rcases he with rfl | he
      · exact hk
      · exact ih e he

theorem get_ins_same (h : Free m i) : Sparse.get d (m.ins i v) i = v := by
  induction m with
  | nil => simp [Sparse.ins, Sparse.get]
  | cons e t ih =>
    obtain ⟨k, w⟩ := e
    by_cases hk : i < k
    · simp [Sparse.ins, Sparse.get, hk]
    · have hne : k ≠ i := h (k, w) (by simp)
      simp [Sparse.ins, Sparse.get, hk, hne, ih (fun e he => h e (by simp [he]))]

@[simp] theorem get_put [DecidableEq α] :
    Sparse.get d (Sparse.put d m i v) j = if j = i then v else Sparse.get d m j := by
  by_cases hv : v = d
  · by_cases hj : j = i
    · simp [Sparse.put, hv, hj, get_del_same]
    · simp [Sparse.put, hv, hj, get_del_other hj]
  · by_cases hj : j = i
    · simp [Sparse.put, hv, hj, get_ins_same free_del]
    · simp [Sparse.put, hv, hj, get_ins_other hj, get_del_other hj]

/-! ### The canonical form -/

theorem wfFrom_mono [DecidableEq α] {lo lo' : Nat} (hl : lo' ≤ lo) (h : Sparse.wfFrom d lo m = true) :
    Sparse.wfFrom d lo' m = true := by
  cases m with
  | nil => rfl
  | cons e t =>
    obtain ⟨k, w⟩ := e
    simp only [Sparse.wfFrom, Bool.and_eq_true, decide_eq_true_eq] at h ⊢
    exact ⟨⟨by omega, h.1.2⟩, h.2⟩

theorem wfFrom_del [DecidableEq α] {lo : Nat} (h : Sparse.wfFrom d lo m = true) : Sparse.wfFrom d lo (m.del i) = true := by
  induction m generalizing lo with
  | nil => rfl
  | cons e t ih =>
    obtain ⟨k, w⟩ := e
    simp only [Sparse.wfFrom, Bool.and_eq_true, decide_eq_true_eq] at h
    by_cases hk : k = i
    · simp only [Sparse.del, hk, if_true]
      exact wfFrom_mono (by omega) (ih h.2)
    · simp only [Sparse.del, hk, if_false, Sparse.wfFrom, Bool.and_eq_true, decide_eq_true_eq]
      exact ⟨h.1, ih h.2⟩

theorem wfFrom_ins [DecidableEq α] {lo : Nat} (hf : Free m i) (hv : v ≠ d) (hi : lo ≤ i)
    (h : Sparse.wfFrom d lo m = true) : Sparse.wfFrom d lo (m.ins i v) = true := by
  induction m generalizing lo with
  | nil => simp [Sparse.ins, Sparse.wfFrom, hi, hv]
  | cons e t ih =>
    obtain ⟨k, w⟩ := e
    simp only [Sparse.wfFrom, Bool.and_eq_true, decide_eq_true_eq] at h
    by_cases hk : i < k
    · simp only [Sparse.ins, hk, if_true, Sparse.wfFrom, Bool.and_eq_true, decide_eq_true_eq]
      exact ⟨⟨hi, by simp [hv]⟩, ⟨⟨by omega, h.1.2⟩, h.2⟩⟩
    · have hne : k ≠ i := hf (k, w) (by simp)
      simp only [Sparse.ins, hk, if_false, Sparse.wfFrom, Bool.and_eq_true, decide_eq_true_eq]
      exact ⟨h.1, ih (fun e he => hf e (by simp [he])) (by omega) h.2⟩

theorem wf_del [DecidableEq α] (h : Sparse.wf d m = true) : Sparse.wf d (m.del i) = true := wfFrom_del h

theorem wf_put [DecidableEq α] (h : Sparse.wf d m = true) : Sparse.wf d (Sparse.put d m i v) = true := by
  by_cases hv : v = d
  · simpa [Sparse.put, hv] using wf_del h
  · simpa [Sparse.put, hv, Sparse.wf] using wfFrom_ins free_del hv (Nat.zero_le i) (wfFrom_del h)

theorem wfFrom_filter [DecidableEq α] {lo : Nat} (p : Nat × α → Bool) (h : Sparse.wfFrom d lo m = true) :
    Sparse.wfFrom d lo (m.filter p) = true := by
  induction m generalizing lo with
  | nil => rfl
  | cons e t ih =>
    obtain ⟨k, w⟩ := e
    simp only [Sparse.wfFrom, Bool.and_eq_true, decide_eq_true_eq] at h
    rw [List.filter_cons]
    split
    · simp only [Sparse.wfFrom, Bool.and_eq_true, decide_eq_true_eq]
      exact ⟨h.1, ih h.2⟩
    · exact wfFrom_mono (by omega) (ih h.2)

theorem wf_filter [DecidableEq α] (p : Nat × α → Bool) (h : Sparse.wf d m = true) : Sparse.wf d (m.filter p) = true :=
  wfFrom_filter p h

end Sparse

namespace Tbl

variable {α : Type} {t : Tbl α} {i j : Nat} {v : α} {f : α → α}

@[simp] theorem find_nil : Tbl.find ([] : Tbl α) i = none := rfl

theorem find_del_same : Tbl.find (t.del i) i = none := by
  induction t with
  | nil => rfl
  | cons e t ih =>
    obtain ⟨k, w⟩ := e
    by_cases h : k = i
    · simpa [Tbl.del, Sparse.del, h] using ih
    · simpa [Tbl.del, Sparse.del, Tbl.find, h] using ih

theorem find_del_other (h : j ≠ i) : Tbl.find (t.del i) j = Tbl.find t j := by
  induction t with
  | nil => rfl
  | cons e t ih =>
    obtain ⟨k, w⟩ := e
    by_cases hk : k = i
    · simpa [Tbl.del, Sparse.del, Tbl.find, hk, h.symm] using ih
    · by_cases hj : k = j <;> simp_all [Tbl.del, Sparse.del, Tbl.find]

@[simp] theorem find_del : Tbl.find (t.del i) j = if j = i then none else Tbl.find t j := by
  by_cases h : j = i
  · simp [h, find_del_same]
  · simp [h, find_del_other h]

theorem find_ins_other (h : j ≠ i) : Tbl.find (Sparse.ins t i v) j = Tbl.find t j := by
  induction t with
  | nil => simp [Sparse.ins, Tbl.find, h.symm]
  | cons e t ih =>
    obtain ⟨k, w⟩ := e
    by_cases hk : i < k
    · simp [Sparse.ins, Tbl.find, hk, h.symm]
    · simp only [Sparse.ins, hk, if_false, Tbl.find, ih]

theorem find_ins_same (h : Sparse.Free t i) : Tbl.find (Sparse.ins t i v) i = some v := by
  induction t with
  | nil => simp [Sparse.ins, Tbl.find]
  | cons e t ih =>
    obtain ⟨k, w⟩ := e
    by_cases hk : i < k
    · simp [Sparse.ins, Tbl.find, hk]
    · have hne : k ≠ i := h (k, w) (by simp)
      simp [Sparse.ins, Tbl.find, hk, hne, ih (fun e he => h e (by simp [he]))]

@[simp] theorem find_put : Tbl.find (t.put i v) j = if j = i then some v else Tbl.find t j := by
  by_cases h : j = i
  · simp [Tbl.put, h, find_ins_same Sparse.free_del]
  · simp only [Tbl.put, h, if_false]
    rw [find_ins_other h]
    exact find_del_other h

theorem find_upd_same : Tbl.find (t.upd i f) i = (t.find i).map f := by
  unfold Tbl.upd
  split <;> simp_all

theorem find_upd_other (h : j ≠ i) : Tbl.find (t.upd i f) j = t.find j := by
  unfold Tbl.upd
  split <;> simp [h]

@[simp] theorem find_upd : Tbl.find (t.upd i f) j = if j = i then (t.find i).map f else t.find j := by
  by_cases h : j = i
  · simp [h, find_upd_same]
  · simp [h, find_upd_other h]

theorem find_map {β : Type} (g : Nat × α → Nat × β) (hg : ∀ e, (g e).1 = e.1) :
    Tbl.find (t.map g) i = (t.find i).map fun v => (g (i, v)).2 := by
  induction t with
  | nil => rfl
  | cons e t ih =>
    obtain ⟨k, w⟩ := e
    have hk : (g (k, w)).1 = k := hg (k, w)
    by_cases h : k = i
    · subst h; simp [Tbl.find, hk]
    · have : Tbl.find (List.map g ((k, w) :: t)) i = if (g (k, w)).1 = i then some (g (k, w)).2 else Tbl.find (t.map g) i := rfl
      rw [this, hk, if_neg h, ih]
      simp [Tbl.find, h]

end Tbl

end Sys2Proof
end

