-- ==== Sys2Proof/Laws/State.lean ====
section
/-!
SUPPORT. One lemma per field per update of the state, each true by computation, so that no later proof unfolds a record
update; and what each update leaves where it wrote and elsewhere.
-/

namespace Sys2Proof.Machine

/-! ### `putCrew` -/

@[simp] theorem State.putCrew_partNo (s : State) (c : Nat) (r : Crew) : (s.putCrew c r).partNo = s.partNo := rfl
@[simp] theorem State.putCrew_clk (s : State) (c : Nat) (r : Crew) : (s.putCrew c r).clk = s.clk := rfl
@[simp] theorem State.putCrew_time (s : State) (c : Nat) (r : Crew) : (s.putCrew c r).time = s.time := rfl
@[simp] theorem State.putCrew_mem (s : State) (c : Nat) (r : Crew) : (s.putCrew c r).mem = s.mem := rfl
@[simp] theorem State.putCrew_crews (s : State) (c : Nat) (r : Crew) : (s.putCrew c r).crews = s.crews.put c r := rfl
@[simp] theorem State.putCrew_aux (s : State) (c : Nat) (r : Crew) : (s.putCrew c r).aux = s.aux := rfl
@[simp] theorem State.putCrew_blocks (s : State) (c : Nat) (r : Crew) : (s.putCrew c r).blocks = s.blocks := rfl
@[simp] theorem State.putCrew_launches (s : State) (c : Nat) (r : Crew) : (s.putCrew c r).launches = s.launches := rfl
@[simp] theorem State.putCrew_cores (s : State) (c : Nat) (r : Crew) : (s.putCrew c r).cores = s.cores := rfl
@[simp] theorem State.putCrew_partitions (s : State) (c : Nat) (r : Crew) : (s.putCrew c r).partitions = s.partitions := rfl
@[simp] theorem State.putCrew_latches (s : State) (c : Nat) (r : Crew) : (s.putCrew c r).latches = s.latches := rfl
@[simp] theorem State.putCrew_ctxs (s : State) (c : Nat) (r : Crew) : (s.putCrew c r).ctxs = s.ctxs := rfl
@[simp] theorem State.putCrew_invals (s : State) (c : Nat) (r : Crew) : (s.putCrew c r).invals = s.invals := rfl
@[simp] theorem State.putCrew_lamps (s : State) (c : Nat) (r : Crew) : (s.putCrew c r).lamps = s.lamps := rfl
@[simp] theorem State.putCrew_chains (s : State) (c : Nat) (r : Crew) : (s.putCrew c r).chains = s.chains := rfl
@[simp] theorem State.putCrew_hostIf (s : State) (c : Nat) (r : Crew) : (s.putCrew c r).hostIf = s.hostIf := rfl
@[simp] theorem State.putCrew_links (s : State) (c : Nat) (r : Crew) : (s.putCrew c r).links = s.links := rfl
@[simp] theorem State.putCrew_boot (s : State) (c : Nat) (r : Crew) : (s.putCrew c r).boot = s.boot := rfl
@[simp] theorem State.putCrew_pithead (s : State) (c : Nat) (r : Crew) : (s.putCrew c r).pithead = s.pithead := rfl
@[simp] theorem State.putCrew_health (s : State) (c : Nat) (r : Crew) : (s.putCrew c r).health = s.health := rfl
@[simp] theorem State.putCrew_lastCluster (s : State) (c : Nat) (r : Crew) : (s.putCrew c r).lastCluster = s.lastCluster := rfl
@[simp] theorem State.putCrew_nextId (s : State) (c : Nat) (r : Crew) : (s.putCrew c r).nextId = s.nextId := rfl
@[simp] theorem State.putCrew_nextToken (s : State) (c : Nat) (r : Crew) : (s.putCrew c r).nextToken = s.nextToken := rfl
@[simp] theorem State.putCrew_issue (s : State) (c : Nat) (r : Crew) : (s.putCrew c r).issue = s.issue := rfl
@[simp] theorem State.putCrew_inputs (s : State) (c : Nat) (r : Crew) : (s.putCrew c r).inputs = s.inputs := rfl
@[simp] theorem State.putCrew_turn (s : State) (c : Nat) (r : Crew) : (s.putCrew c r).turn = s.turn := rfl
@[simp] theorem State.putCrew_fresh (s : State) (c : Nat) (r : Crew) : (s.putCrew c r).fresh = s.fresh := rfl

/-! ### `onCrew` -/

@[simp] theorem State.onCrew_partNo (s : State) (c : Nat) (f : Crew → Crew) : (s.onCrew c f).partNo = s.partNo := rfl
@[simp] theorem State.onCrew_clk (s : State) (c : Nat) (f : Crew → Crew) : (s.onCrew c f).clk = s.clk := rfl
@[simp] theorem State.onCrew_time (s : State) (c : Nat) (f : Crew → Crew) : (s.onCrew c f).time = s.time := rfl
@[simp] theorem State.onCrew_mem (s : State) (c : Nat) (f : Crew → Crew) : (s.onCrew c f).mem = s.mem := rfl
@[simp] theorem State.onCrew_crews (s : State) (c : Nat) (f : Crew → Crew) : (s.onCrew c f).crews = s.crews.upd c f := rfl
@[simp] theorem State.onCrew_aux (s : State) (c : Nat) (f : Crew → Crew) : (s.onCrew c f).aux = s.aux := rfl
@[simp] theorem State.onCrew_blocks (s : State) (c : Nat) (f : Crew → Crew) : (s.onCrew c f).blocks = s.blocks := rfl
@[simp] theorem State.onCrew_launches (s : State) (c : Nat) (f : Crew → Crew) : (s.onCrew c f).launches = s.launches := rfl
@[simp] theorem State.onCrew_cores (s : State) (c : Nat) (f : Crew → Crew) : (s.onCrew c f).cores = s.cores := rfl
@[simp] theorem State.onCrew_partitions (s : State) (c : Nat) (f : Crew → Crew) : (s.onCrew c f).partitions = s.partitions := rfl
@[simp] theorem State.onCrew_latches (s : State) (c : Nat) (f : Crew → Crew) : (s.onCrew c f).latches = s.latches := rfl
@[simp] theorem State.onCrew_ctxs (s : State) (c : Nat) (f : Crew → Crew) : (s.onCrew c f).ctxs = s.ctxs := rfl
@[simp] theorem State.onCrew_invals (s : State) (c : Nat) (f : Crew → Crew) : (s.onCrew c f).invals = s.invals := rfl
@[simp] theorem State.onCrew_lamps (s : State) (c : Nat) (f : Crew → Crew) : (s.onCrew c f).lamps = s.lamps := rfl
@[simp] theorem State.onCrew_chains (s : State) (c : Nat) (f : Crew → Crew) : (s.onCrew c f).chains = s.chains := rfl
@[simp] theorem State.onCrew_hostIf (s : State) (c : Nat) (f : Crew → Crew) : (s.onCrew c f).hostIf = s.hostIf := rfl
@[simp] theorem State.onCrew_links (s : State) (c : Nat) (f : Crew → Crew) : (s.onCrew c f).links = s.links := rfl
@[simp] theorem State.onCrew_boot (s : State) (c : Nat) (f : Crew → Crew) : (s.onCrew c f).boot = s.boot := rfl
@[simp] theorem State.onCrew_pithead (s : State) (c : Nat) (f : Crew → Crew) : (s.onCrew c f).pithead = s.pithead := rfl
@[simp] theorem State.onCrew_health (s : State) (c : Nat) (f : Crew → Crew) : (s.onCrew c f).health = s.health := rfl
@[simp] theorem State.onCrew_lastCluster (s : State) (c : Nat) (f : Crew → Crew) : (s.onCrew c f).lastCluster = s.lastCluster := rfl
@[simp] theorem State.onCrew_nextId (s : State) (c : Nat) (f : Crew → Crew) : (s.onCrew c f).nextId = s.nextId := rfl
@[simp] theorem State.onCrew_nextToken (s : State) (c : Nat) (f : Crew → Crew) : (s.onCrew c f).nextToken = s.nextToken := rfl
@[simp] theorem State.onCrew_issue (s : State) (c : Nat) (f : Crew → Crew) : (s.onCrew c f).issue = s.issue := rfl
@[simp] theorem State.onCrew_inputs (s : State) (c : Nat) (f : Crew → Crew) : (s.onCrew c f).inputs = s.inputs := rfl
@[simp] theorem State.onCrew_turn (s : State) (c : Nat) (f : Crew → Crew) : (s.onCrew c f).turn = s.turn := rfl
@[simp] theorem State.onCrew_fresh (s : State) (c : Nat) (f : Crew → Crew) : (s.onCrew c f).fresh = s.fresh := rfl

/-! ### `putAux` -/

@[simp] theorem State.putAux_partNo (s : State) (c : Nat) (a : CrewAux) : (s.putAux c a).partNo = s.partNo := rfl
@[simp] theorem State.putAux_clk (s : State) (c : Nat) (a : CrewAux) : (s.putAux c a).clk = s.clk := rfl
@[simp] theorem State.putAux_time (s : State) (c : Nat) (a : CrewAux) : (s.putAux c a).time = s.time := rfl
@[simp] theorem State.putAux_mem (s : State) (c : Nat) (a : CrewAux) : (s.putAux c a).mem = s.mem := rfl
@[simp] theorem State.putAux_crews (s : State) (c : Nat) (a : CrewAux) : (s.putAux c a).crews = s.crews := rfl
@[simp] theorem State.putAux_aux (s : State) (c : Nat) (a : CrewAux) : (s.putAux c a).aux = s.aux.put c a := rfl
@[simp] theorem State.putAux_blocks (s : State) (c : Nat) (a : CrewAux) : (s.putAux c a).blocks = s.blocks := rfl
@[simp] theorem State.putAux_launches (s : State) (c : Nat) (a : CrewAux) : (s.putAux c a).launches = s.launches := rfl
@[simp] theorem State.putAux_cores (s : State) (c : Nat) (a : CrewAux) : (s.putAux c a).cores = s.cores := rfl
@[simp] theorem State.putAux_partitions (s : State) (c : Nat) (a : CrewAux) : (s.putAux c a).partitions = s.partitions := rfl
@[simp] theorem State.putAux_latches (s : State) (c : Nat) (a : CrewAux) : (s.putAux c a).latches = s.latches := rfl
@[simp] theorem State.putAux_ctxs (s : State) (c : Nat) (a : CrewAux) : (s.putAux c a).ctxs = s.ctxs := rfl
@[simp] theorem State.putAux_invals (s : State) (c : Nat) (a : CrewAux) : (s.putAux c a).invals = s.invals := rfl
@[simp] theorem State.putAux_lamps (s : State) (c : Nat) (a : CrewAux) : (s.putAux c a).lamps = s.lamps := rfl
@[simp] theorem State.putAux_chains (s : State) (c : Nat) (a : CrewAux) : (s.putAux c a).chains = s.chains := rfl
@[simp] theorem State.putAux_hostIf (s : State) (c : Nat) (a : CrewAux) : (s.putAux c a).hostIf = s.hostIf := rfl
@[simp] theorem State.putAux_links (s : State) (c : Nat) (a : CrewAux) : (s.putAux c a).links = s.links := rfl
@[simp] theorem State.putAux_boot (s : State) (c : Nat) (a : CrewAux) : (s.putAux c a).boot = s.boot := rfl
@[simp] theorem State.putAux_pithead (s : State) (c : Nat) (a : CrewAux) : (s.putAux c a).pithead = s.pithead := rfl
@[simp] theorem State.putAux_health (s : State) (c : Nat) (a : CrewAux) : (s.putAux c a).health = s.health := rfl
@[simp] theorem State.putAux_lastCluster (s : State) (c : Nat) (a : CrewAux) : (s.putAux c a).lastCluster = s.lastCluster := rfl
@[simp] theorem State.putAux_nextId (s : State) (c : Nat) (a : CrewAux) : (s.putAux c a).nextId = s.nextId := rfl
@[simp] theorem State.putAux_nextToken (s : State) (c : Nat) (a : CrewAux) : (s.putAux c a).nextToken = s.nextToken := rfl
@[simp] theorem State.putAux_issue (s : State) (c : Nat) (a : CrewAux) : (s.putAux c a).issue = s.issue := rfl
@[simp] theorem State.putAux_inputs (s : State) (c : Nat) (a : CrewAux) : (s.putAux c a).inputs = s.inputs := rfl
@[simp] theorem State.putAux_turn (s : State) (c : Nat) (a : CrewAux) : (s.putAux c a).turn = s.turn := rfl
@[simp] theorem State.putAux_fresh (s : State) (c : Nat) (a : CrewAux) : (s.putAux c a).fresh = s.fresh := rfl

/-! ### `onAux` -/

@[simp] theorem State.onAux_partNo (s : State) (c : Nat) (f : CrewAux → CrewAux) : (s.onAux c f).partNo = s.partNo := rfl
@[simp] theorem State.onAux_clk (s : State) (c : Nat) (f : CrewAux → CrewAux) : (s.onAux c f).clk = s.clk := rfl
@[simp] theorem State.onAux_time (s : State) (c : Nat) (f : CrewAux → CrewAux) : (s.onAux c f).time = s.time := rfl
@[simp] theorem State.onAux_mem (s : State) (c : Nat) (f : CrewAux → CrewAux) : (s.onAux c f).mem = s.mem := rfl
@[simp] theorem State.onAux_crews (s : State) (c : Nat) (f : CrewAux → CrewAux) : (s.onAux c f).crews = s.crews := rfl
@[simp] theorem State.onAux_aux (s : State) (c : Nat) (f : CrewAux → CrewAux) : (s.onAux c f).aux = s.aux.put c (f (s.auxOf c)) := rfl
@[simp] theorem State.onAux_blocks (s : State) (c : Nat) (f : CrewAux → CrewAux) : (s.onAux c f).blocks = s.blocks := rfl
@[simp] theorem State.onAux_launches (s : State) (c : Nat) (f : CrewAux → CrewAux) : (s.onAux c f).launches = s.launches := rfl
@[simp] theorem State.onAux_cores (s : State) (c : Nat) (f : CrewAux → CrewAux) : (s.onAux c f).cores = s.cores := rfl
@[simp] theorem State.onAux_partitions (s : State) (c : Nat) (f : CrewAux → CrewAux) : (s.onAux c f).partitions = s.partitions := rfl
@[simp] theorem State.onAux_latches (s : State) (c : Nat) (f : CrewAux → CrewAux) : (s.onAux c f).latches = s.latches := rfl
@[simp] theorem State.onAux_ctxs (s : State) (c : Nat) (f : CrewAux → CrewAux) : (s.onAux c f).ctxs = s.ctxs := rfl
@[simp] theorem State.onAux_invals (s : State) (c : Nat) (f : CrewAux → CrewAux) : (s.onAux c f).invals = s.invals := rfl
@[simp] theorem State.onAux_lamps (s : State) (c : Nat) (f : CrewAux → CrewAux) : (s.onAux c f).lamps = s.lamps := rfl
@[simp] theorem State.onAux_chains (s : State) (c : Nat) (f : CrewAux → CrewAux) : (s.onAux c f).chains = s.chains := rfl
@[simp] theorem State.onAux_hostIf (s : State) (c : Nat) (f : CrewAux → CrewAux) : (s.onAux c f).hostIf = s.hostIf := rfl
@[simp] theorem State.onAux_links (s : State) (c : Nat) (f : CrewAux → CrewAux) : (s.onAux c f).links = s.links := rfl
@[simp] theorem State.onAux_boot (s : State) (c : Nat) (f : CrewAux → CrewAux) : (s.onAux c f).boot = s.boot := rfl
@[simp] theorem State.onAux_pithead (s : State) (c : Nat) (f : CrewAux → CrewAux) : (s.onAux c f).pithead = s.pithead := rfl
@[simp] theorem State.onAux_health (s : State) (c : Nat) (f : CrewAux → CrewAux) : (s.onAux c f).health = s.health := rfl
@[simp] theorem State.onAux_lastCluster (s : State) (c : Nat) (f : CrewAux → CrewAux) : (s.onAux c f).lastCluster = s.lastCluster := rfl
@[simp] theorem State.onAux_nextId (s : State) (c : Nat) (f : CrewAux → CrewAux) : (s.onAux c f).nextId = s.nextId := rfl
@[simp] theorem State.onAux_nextToken (s : State) (c : Nat) (f : CrewAux → CrewAux) : (s.onAux c f).nextToken = s.nextToken := rfl
@[simp] theorem State.onAux_issue (s : State) (c : Nat) (f : CrewAux → CrewAux) : (s.onAux c f).issue = s.issue := rfl
@[simp] theorem State.onAux_inputs (s : State) (c : Nat) (f : CrewAux → CrewAux) : (s.onAux c f).inputs = s.inputs := rfl
@[simp] theorem State.onAux_turn (s : State) (c : Nat) (f : CrewAux → CrewAux) : (s.onAux c f).turn = s.turn := rfl
@[simp] theorem State.onAux_fresh (s : State) (c : Nat) (f : CrewAux → CrewAux) : (s.onAux c f).fresh = s.fresh := rfl

/-! ### `putPn` -/

@[simp] theorem State.putPn_partNo (s : State) (k : Nat) (p : Partition) : (s.putPn k p).partNo = s.partNo := rfl
@[simp] theorem State.putPn_clk (s : State) (k : Nat) (p : Partition) : (s.putPn k p).clk = s.clk := rfl
@[simp] theorem State.putPn_time (s : State) (k : Nat) (p : Partition) : (s.putPn k p).time = s.time := rfl
@[simp] theorem State.putPn_mem (s : State) (k : Nat) (p : Partition) : (s.putPn k p).mem = s.mem := rfl
@[simp] theorem State.putPn_crews (s : State) (k : Nat) (p : Partition) : (s.putPn k p).crews = s.crews := rfl
@[simp] theorem State.putPn_aux (s : State) (k : Nat) (p : Partition) : (s.putPn k p).aux = s.aux := rfl
@[simp] theorem State.putPn_blocks (s : State) (k : Nat) (p : Partition) : (s.putPn k p).blocks = s.blocks := rfl
@[simp] theorem State.putPn_launches (s : State) (k : Nat) (p : Partition) : (s.putPn k p).launches = s.launches := rfl
@[simp] theorem State.putPn_cores (s : State) (k : Nat) (p : Partition) : (s.putPn k p).cores = s.cores := rfl
@[simp] theorem State.putPn_partitions (s : State) (k : Nat) (p : Partition) : (s.putPn k p).partitions = s.partitions.put k p := rfl
@[simp] theorem State.putPn_latches (s : State) (k : Nat) (p : Partition) : (s.putPn k p).latches = s.latches := rfl
@[simp] theorem State.putPn_ctxs (s : State) (k : Nat) (p : Partition) : (s.putPn k p).ctxs = s.ctxs := rfl
@[simp] theorem State.putPn_invals (s : State) (k : Nat) (p : Partition) : (s.putPn k p).invals = s.invals := rfl
@[simp] theorem State.putPn_lamps (s : State) (k : Nat) (p : Partition) : (s.putPn k p).lamps = s.lamps := rfl
@[simp] theorem State.putPn_chains (s : State) (k : Nat) (p : Partition) : (s.putPn k p).chains = s.chains := rfl
@[simp] theorem State.putPn_hostIf (s : State) (k : Nat) (p : Partition) : (s.putPn k p).hostIf = s.hostIf := rfl
@[simp] theorem State.putPn_links (s : State) (k : Nat) (p : Partition) : (s.putPn k p).links = s.links := rfl
@[simp] theorem State.putPn_boot (s : State) (k : Nat) (p : Partition) : (s.putPn k p).boot = s.boot := rfl
@[simp] theorem State.putPn_pithead (s : State) (k : Nat) (p : Partition) : (s.putPn k p).pithead = s.pithead := rfl
@[simp] theorem State.putPn_health (s : State) (k : Nat) (p : Partition) : (s.putPn k p).health = s.health := rfl
@[simp] theorem State.putPn_lastCluster (s : State) (k : Nat) (p : Partition) : (s.putPn k p).lastCluster = s.lastCluster := rfl
@[simp] theorem State.putPn_nextId (s : State) (k : Nat) (p : Partition) : (s.putPn k p).nextId = s.nextId := rfl
@[simp] theorem State.putPn_nextToken (s : State) (k : Nat) (p : Partition) : (s.putPn k p).nextToken = s.nextToken := rfl
@[simp] theorem State.putPn_issue (s : State) (k : Nat) (p : Partition) : (s.putPn k p).issue = s.issue := rfl
@[simp] theorem State.putPn_inputs (s : State) (k : Nat) (p : Partition) : (s.putPn k p).inputs = s.inputs := rfl
@[simp] theorem State.putPn_turn (s : State) (k : Nat) (p : Partition) : (s.putPn k p).turn = s.turn := rfl
@[simp] theorem State.putPn_fresh (s : State) (k : Nat) (p : Partition) : (s.putPn k p).fresh = s.fresh := rfl

/-! ### `onPn` -/

@[simp] theorem State.onPn_partNo (s : State) (k : Nat) (f : Partition → Partition) : (s.onPn k f).partNo = s.partNo := rfl
@[simp] theorem State.onPn_clk (s : State) (k : Nat) (f : Partition → Partition) : (s.onPn k f).clk = s.clk := rfl
@[simp] theorem State.onPn_time (s : State) (k : Nat) (f : Partition → Partition) : (s.onPn k f).time = s.time := rfl
@[simp] theorem State.onPn_mem (s : State) (k : Nat) (f : Partition → Partition) : (s.onPn k f).mem = s.mem := rfl
@[simp] theorem State.onPn_crews (s : State) (k : Nat) (f : Partition → Partition) : (s.onPn k f).crews = s.crews := rfl
@[simp] theorem State.onPn_aux (s : State) (k : Nat) (f : Partition → Partition) : (s.onPn k f).aux = s.aux := rfl
@[simp] theorem State.onPn_blocks (s : State) (k : Nat) (f : Partition → Partition) : (s.onPn k f).blocks = s.blocks := rfl
@[simp] theorem State.onPn_launches (s : State) (k : Nat) (f : Partition → Partition) : (s.onPn k f).launches = s.launches := rfl
@[simp] theorem State.onPn_cores (s : State) (k : Nat) (f : Partition → Partition) : (s.onPn k f).cores = s.cores := rfl
@[simp] theorem State.onPn_partitions (s : State) (k : Nat) (f : Partition → Partition) : (s.onPn k f).partitions = s.partitions.put k (f (s.pn k)) := rfl
@[simp] theorem State.onPn_latches (s : State) (k : Nat) (f : Partition → Partition) : (s.onPn k f).latches = s.latches := rfl
@[simp] theorem State.onPn_ctxs (s : State) (k : Nat) (f : Partition → Partition) : (s.onPn k f).ctxs = s.ctxs := rfl
@[simp] theorem State.onPn_invals (s : State) (k : Nat) (f : Partition → Partition) : (s.onPn k f).invals = s.invals := rfl
@[simp] theorem State.onPn_lamps (s : State) (k : Nat) (f : Partition → Partition) : (s.onPn k f).lamps = s.lamps := rfl
@[simp] theorem State.onPn_chains (s : State) (k : Nat) (f : Partition → Partition) : (s.onPn k f).chains = s.chains := rfl
@[simp] theorem State.onPn_hostIf (s : State) (k : Nat) (f : Partition → Partition) : (s.onPn k f).hostIf = s.hostIf := rfl
@[simp] theorem State.onPn_links (s : State) (k : Nat) (f : Partition → Partition) : (s.onPn k f).links = s.links := rfl
@[simp] theorem State.onPn_boot (s : State) (k : Nat) (f : Partition → Partition) : (s.onPn k f).boot = s.boot := rfl
@[simp] theorem State.onPn_pithead (s : State) (k : Nat) (f : Partition → Partition) : (s.onPn k f).pithead = s.pithead := rfl
@[simp] theorem State.onPn_health (s : State) (k : Nat) (f : Partition → Partition) : (s.onPn k f).health = s.health := rfl
@[simp] theorem State.onPn_lastCluster (s : State) (k : Nat) (f : Partition → Partition) : (s.onPn k f).lastCluster = s.lastCluster := rfl
@[simp] theorem State.onPn_nextId (s : State) (k : Nat) (f : Partition → Partition) : (s.onPn k f).nextId = s.nextId := rfl
@[simp] theorem State.onPn_nextToken (s : State) (k : Nat) (f : Partition → Partition) : (s.onPn k f).nextToken = s.nextToken := rfl
@[simp] theorem State.onPn_issue (s : State) (k : Nat) (f : Partition → Partition) : (s.onPn k f).issue = s.issue := rfl
@[simp] theorem State.onPn_inputs (s : State) (k : Nat) (f : Partition → Partition) : (s.onPn k f).inputs = s.inputs := rfl
@[simp] theorem State.onPn_turn (s : State) (k : Nat) (f : Partition → Partition) : (s.onPn k f).turn = s.turn := rfl
@[simp] theorem State.onPn_fresh (s : State) (k : Nat) (f : Partition → Partition) : (s.onPn k f).fresh = s.fresh := rfl

/-! ### `putCore` -/

@[simp] theorem State.putCore_partNo (s : State) (k : Nat) (x : Core) : (s.putCore k x).partNo = s.partNo := rfl
@[simp] theorem State.putCore_clk (s : State) (k : Nat) (x : Core) : (s.putCore k x).clk = s.clk := rfl
@[simp] theorem State.putCore_time (s : State) (k : Nat) (x : Core) : (s.putCore k x).time = s.time := rfl
@[simp] theorem State.putCore_mem (s : State) (k : Nat) (x : Core) : (s.putCore k x).mem = s.mem := rfl
@[simp] theorem State.putCore_crews (s : State) (k : Nat) (x : Core) : (s.putCore k x).crews = s.crews := rfl
@[simp] theorem State.putCore_aux (s : State) (k : Nat) (x : Core) : (s.putCore k x).aux = s.aux := rfl
@[simp] theorem State.putCore_blocks (s : State) (k : Nat) (x : Core) : (s.putCore k x).blocks = s.blocks := rfl
@[simp] theorem State.putCore_launches (s : State) (k : Nat) (x : Core) : (s.putCore k x).launches = s.launches := rfl
@[simp] theorem State.putCore_cores (s : State) (k : Nat) (x : Core) : (s.putCore k x).cores = s.cores.put k x := rfl
@[simp] theorem State.putCore_partitions (s : State) (k : Nat) (x : Core) : (s.putCore k x).partitions = s.partitions := rfl
@[simp] theorem State.putCore_latches (s : State) (k : Nat) (x : Core) : (s.putCore k x).latches = s.latches := rfl
@[simp] theorem State.putCore_ctxs (s : State) (k : Nat) (x : Core) : (s.putCore k x).ctxs = s.ctxs := rfl
@[simp] theorem State.putCore_invals (s : State) (k : Nat) (x : Core) : (s.putCore k x).invals = s.invals := rfl
@[simp] theorem State.putCore_lamps (s : State) (k : Nat) (x : Core) : (s.putCore k x).lamps = s.lamps := rfl
@[simp] theorem State.putCore_chains (s : State) (k : Nat) (x : Core) : (s.putCore k x).chains = s.chains := rfl
@[simp] theorem State.putCore_hostIf (s : State) (k : Nat) (x : Core) : (s.putCore k x).hostIf = s.hostIf := rfl
@[simp] theorem State.putCore_links (s : State) (k : Nat) (x : Core) : (s.putCore k x).links = s.links := rfl
@[simp] theorem State.putCore_boot (s : State) (k : Nat) (x : Core) : (s.putCore k x).boot = s.boot := rfl
@[simp] theorem State.putCore_pithead (s : State) (k : Nat) (x : Core) : (s.putCore k x).pithead = s.pithead := rfl
@[simp] theorem State.putCore_health (s : State) (k : Nat) (x : Core) : (s.putCore k x).health = s.health := rfl
@[simp] theorem State.putCore_lastCluster (s : State) (k : Nat) (x : Core) : (s.putCore k x).lastCluster = s.lastCluster := rfl
@[simp] theorem State.putCore_nextId (s : State) (k : Nat) (x : Core) : (s.putCore k x).nextId = s.nextId := rfl
@[simp] theorem State.putCore_nextToken (s : State) (k : Nat) (x : Core) : (s.putCore k x).nextToken = s.nextToken := rfl
@[simp] theorem State.putCore_issue (s : State) (k : Nat) (x : Core) : (s.putCore k x).issue = s.issue := rfl
@[simp] theorem State.putCore_inputs (s : State) (k : Nat) (x : Core) : (s.putCore k x).inputs = s.inputs := rfl
@[simp] theorem State.putCore_turn (s : State) (k : Nat) (x : Core) : (s.putCore k x).turn = s.turn := rfl
@[simp] theorem State.putCore_fresh (s : State) (k : Nat) (x : Core) : (s.putCore k x).fresh = s.fresh := rfl

/-! ### `onCore` -/

@[simp] theorem State.onCore_partNo (s : State) (k : Nat) (f : Core → Core) : (s.onCore k f).partNo = s.partNo := rfl
@[simp] theorem State.onCore_clk (s : State) (k : Nat) (f : Core → Core) : (s.onCore k f).clk = s.clk := rfl
@[simp] theorem State.onCore_time (s : State) (k : Nat) (f : Core → Core) : (s.onCore k f).time = s.time := rfl
@[simp] theorem State.onCore_mem (s : State) (k : Nat) (f : Core → Core) : (s.onCore k f).mem = s.mem := rfl
@[simp] theorem State.onCore_crews (s : State) (k : Nat) (f : Core → Core) : (s.onCore k f).crews = s.crews := rfl
@[simp] theorem State.onCore_aux (s : State) (k : Nat) (f : Core → Core) : (s.onCore k f).aux = s.aux := rfl
@[simp] theorem State.onCore_blocks (s : State) (k : Nat) (f : Core → Core) : (s.onCore k f).blocks = s.blocks := rfl
@[simp] theorem State.onCore_launches (s : State) (k : Nat) (f : Core → Core) : (s.onCore k f).launches = s.launches := rfl
@[simp] theorem State.onCore_cores (s : State) (k : Nat) (f : Core → Core) : (s.onCore k f).cores = s.cores.put k (f (s.coreOf k)) := rfl
@[simp] theorem State.onCore_partitions (s : State) (k : Nat) (f : Core → Core) : (s.onCore k f).partitions = s.partitions := rfl
@[simp] theorem State.onCore_latches (s : State) (k : Nat) (f : Core → Core) : (s.onCore k f).latches = s.latches := rfl
@[simp] theorem State.onCore_ctxs (s : State) (k : Nat) (f : Core → Core) : (s.onCore k f).ctxs = s.ctxs := rfl
@[simp] theorem State.onCore_invals (s : State) (k : Nat) (f : Core → Core) : (s.onCore k f).invals = s.invals := rfl
@[simp] theorem State.onCore_lamps (s : State) (k : Nat) (f : Core → Core) : (s.onCore k f).lamps = s.lamps := rfl
@[simp] theorem State.onCore_chains (s : State) (k : Nat) (f : Core → Core) : (s.onCore k f).chains = s.chains := rfl
@[simp] theorem State.onCore_hostIf (s : State) (k : Nat) (f : Core → Core) : (s.onCore k f).hostIf = s.hostIf := rfl
@[simp] theorem State.onCore_links (s : State) (k : Nat) (f : Core → Core) : (s.onCore k f).links = s.links := rfl
@[simp] theorem State.onCore_boot (s : State) (k : Nat) (f : Core → Core) : (s.onCore k f).boot = s.boot := rfl
@[simp] theorem State.onCore_pithead (s : State) (k : Nat) (f : Core → Core) : (s.onCore k f).pithead = s.pithead := rfl
@[simp] theorem State.onCore_health (s : State) (k : Nat) (f : Core → Core) : (s.onCore k f).health = s.health := rfl
@[simp] theorem State.onCore_lastCluster (s : State) (k : Nat) (f : Core → Core) : (s.onCore k f).lastCluster = s.lastCluster := rfl
@[simp] theorem State.onCore_nextId (s : State) (k : Nat) (f : Core → Core) : (s.onCore k f).nextId = s.nextId := rfl
@[simp] theorem State.onCore_nextToken (s : State) (k : Nat) (f : Core → Core) : (s.onCore k f).nextToken = s.nextToken := rfl
@[simp] theorem State.onCore_issue (s : State) (k : Nat) (f : Core → Core) : (s.onCore k f).issue = s.issue := rfl
@[simp] theorem State.onCore_inputs (s : State) (k : Nat) (f : Core → Core) : (s.onCore k f).inputs = s.inputs := rfl
@[simp] theorem State.onCore_turn (s : State) (k : Nat) (f : Core → Core) : (s.onCore k f).turn = s.turn := rfl
@[simp] theorem State.onCore_fresh (s : State) (k : Nat) (f : Core → Core) : (s.onCore k f).fresh = s.fresh := rfl

/-! ### `onPart` -/

@[simp] theorem State.onPart_partNo (s : State) (b j : Nat) (f : Part → Part) : (s.onPart b j f).partNo = s.partNo := rfl
@[simp] theorem State.onPart_clk (s : State) (b j : Nat) (f : Part → Part) : (s.onPart b j f).clk = s.clk := rfl
@[simp] theorem State.onPart_time (s : State) (b j : Nat) (f : Part → Part) : (s.onPart b j f).time = s.time := rfl
@[simp] theorem State.onPart_mem (s : State) (b j : Nat) (f : Part → Part) : (s.onPart b j f).mem = s.mem := rfl
@[simp] theorem State.onPart_crews (s : State) (b j : Nat) (f : Part → Part) : (s.onPart b j f).crews = s.crews := rfl
@[simp] theorem State.onPart_aux (s : State) (b j : Nat) (f : Part → Part) : (s.onPart b j f).aux = s.aux := rfl
@[simp] theorem State.onPart_blocks (s : State) (b j : Nat) (f : Part → Part) : (s.onPart b j f).blocks = s.blocks.upd b fun k => { k with parts := k.parts.upd j f } := rfl
@[simp] theorem State.onPart_launches (s : State) (b j : Nat) (f : Part → Part) : (s.onPart b j f).launches = s.launches := rfl
@[simp] theorem State.onPart_cores (s : State) (b j : Nat) (f : Part → Part) : (s.onPart b j f).cores = s.cores := rfl
@[simp] theorem State.onPart_partitions (s : State) (b j : Nat) (f : Part → Part) : (s.onPart b j f).partitions = s.partitions := rfl
@[simp] theorem State.onPart_latches (s : State) (b j : Nat) (f : Part → Part) : (s.onPart b j f).latches = s.latches := rfl
@[simp] theorem State.onPart_ctxs (s : State) (b j : Nat) (f : Part → Part) : (s.onPart b j f).ctxs = s.ctxs := rfl
@[simp] theorem State.onPart_invals (s : State) (b j : Nat) (f : Part → Part) : (s.onPart b j f).invals = s.invals := rfl
@[simp] theorem State.onPart_lamps (s : State) (b j : Nat) (f : Part → Part) : (s.onPart b j f).lamps = s.lamps := rfl
@[simp] theorem State.onPart_chains (s : State) (b j : Nat) (f : Part → Part) : (s.onPart b j f).chains = s.chains := rfl
@[simp] theorem State.onPart_hostIf (s : State) (b j : Nat) (f : Part → Part) : (s.onPart b j f).hostIf = s.hostIf := rfl
@[simp] theorem State.onPart_links (s : State) (b j : Nat) (f : Part → Part) : (s.onPart b j f).links = s.links := rfl
@[simp] theorem State.onPart_boot (s : State) (b j : Nat) (f : Part → Part) : (s.onPart b j f).boot = s.boot := rfl
@[simp] theorem State.onPart_pithead (s : State) (b j : Nat) (f : Part → Part) : (s.onPart b j f).pithead = s.pithead := rfl
@[simp] theorem State.onPart_health (s : State) (b j : Nat) (f : Part → Part) : (s.onPart b j f).health = s.health := rfl
@[simp] theorem State.onPart_lastCluster (s : State) (b j : Nat) (f : Part → Part) : (s.onPart b j f).lastCluster = s.lastCluster := rfl
@[simp] theorem State.onPart_nextId (s : State) (b j : Nat) (f : Part → Part) : (s.onPart b j f).nextId = s.nextId := rfl
@[simp] theorem State.onPart_nextToken (s : State) (b j : Nat) (f : Part → Part) : (s.onPart b j f).nextToken = s.nextToken := rfl
@[simp] theorem State.onPart_issue (s : State) (b j : Nat) (f : Part → Part) : (s.onPart b j f).issue = s.issue := rfl
@[simp] theorem State.onPart_inputs (s : State) (b j : Nat) (f : Part → Part) : (s.onPart b j f).inputs = s.inputs := rfl
@[simp] theorem State.onPart_turn (s : State) (b j : Nat) (f : Part → Part) : (s.onPart b j f).turn = s.turn := rfl
@[simp] theorem State.onPart_fresh (s : State) (b j : Nat) (f : Part → Part) : (s.onPart b j f).fresh = s.fresh := rfl

/-! ### `bankPut` -/

@[simp] theorem State.bankPut_partNo (s : State) (b j i : Nat) (v : Word) : (s.bankPut b j i v).partNo = s.partNo := rfl
@[simp] theorem State.bankPut_clk (s : State) (b j i : Nat) (v : Word) : (s.bankPut b j i v).clk = s.clk := rfl
@[simp] theorem State.bankPut_time (s : State) (b j i : Nat) (v : Word) : (s.bankPut b j i v).time = s.time := rfl
@[simp] theorem State.bankPut_mem (s : State) (b j i : Nat) (v : Word) : (s.bankPut b j i v).mem = s.mem := rfl
@[simp] theorem State.bankPut_crews (s : State) (b j i : Nat) (v : Word) : (s.bankPut b j i v).crews = s.crews := rfl
@[simp] theorem State.bankPut_aux (s : State) (b j i : Nat) (v : Word) : (s.bankPut b j i v).aux = s.aux := rfl
@[simp] theorem State.bankPut_launches (s : State) (b j i : Nat) (v : Word) : (s.bankPut b j i v).launches = s.launches := rfl
@[simp] theorem State.bankPut_cores (s : State) (b j i : Nat) (v : Word) : (s.bankPut b j i v).cores = s.cores := rfl
@[simp] theorem State.bankPut_partitions (s : State) (b j i : Nat) (v : Word) : (s.bankPut b j i v).partitions = s.partitions := rfl
@[simp] theorem State.bankPut_latches (s : State) (b j i : Nat) (v : Word) : (s.bankPut b j i v).latches = s.latches := rfl
@[simp] theorem State.bankPut_ctxs (s : State) (b j i : Nat) (v : Word) : (s.bankPut b j i v).ctxs = s.ctxs := rfl
@[simp] theorem State.bankPut_invals (s : State) (b j i : Nat) (v : Word) : (s.bankPut b j i v).invals = s.invals := rfl
@[simp] theorem State.bankPut_lamps (s : State) (b j i : Nat) (v : Word) : (s.bankPut b j i v).lamps = s.lamps := rfl
@[simp] theorem State.bankPut_chains (s : State) (b j i : Nat) (v : Word) : (s.bankPut b j i v).chains = s.chains := rfl
@[simp] theorem State.bankPut_hostIf (s : State) (b j i : Nat) (v : Word) : (s.bankPut b j i v).hostIf = s.hostIf := rfl
@[simp] theorem State.bankPut_links (s : State) (b j i : Nat) (v : Word) : (s.bankPut b j i v).links = s.links := rfl
@[simp] theorem State.bankPut_boot (s : State) (b j i : Nat) (v : Word) : (s.bankPut b j i v).boot = s.boot := rfl
@[simp] theorem State.bankPut_pithead (s : State) (b j i : Nat) (v : Word) : (s.bankPut b j i v).pithead = s.pithead := rfl
@[simp] theorem State.bankPut_health (s : State) (b j i : Nat) (v : Word) : (s.bankPut b j i v).health = s.health := rfl
@[simp] theorem State.bankPut_lastCluster (s : State) (b j i : Nat) (v : Word) : (s.bankPut b j i v).lastCluster = s.lastCluster := rfl
@[simp] theorem State.bankPut_nextId (s : State) (b j i : Nat) (v : Word) : (s.bankPut b j i v).nextId = s.nextId := rfl
@[simp] theorem State.bankPut_nextToken (s : State) (b j i : Nat) (v : Word) : (s.bankPut b j i v).nextToken = s.nextToken := rfl
@[simp] theorem State.bankPut_issue (s : State) (b j i : Nat) (v : Word) : (s.bankPut b j i v).issue = s.issue := rfl
@[simp] theorem State.bankPut_inputs (s : State) (b j i : Nat) (v : Word) : (s.bankPut b j i v).inputs = s.inputs := rfl
@[simp] theorem State.bankPut_turn (s : State) (b j i : Nat) (v : Word) : (s.bankPut b j i v).turn = s.turn := rfl
@[simp] theorem State.bankPut_fresh (s : State) (b j i : Nat) (v : Word) : (s.bankPut b j i v).fresh = s.fresh := rfl

/-! ### `putTile` -/

@[simp] theorem State.putTile_partNo (s : State) (b j t : Nat) (e : TileEntry) : (s.putTile b j t e).partNo = s.partNo := rfl
@[simp] theorem State.putTile_clk (s : State) (b j t : Nat) (e : TileEntry) : (s.putTile b j t e).clk = s.clk := rfl
@[simp] theorem State.putTile_time (s : State) (b j t : Nat) (e : TileEntry) : (s.putTile b j t e).time = s.time := rfl
@[simp] theorem State.putTile_mem (s : State) (b j t : Nat) (e : TileEntry) : (s.putTile b j t e).mem = s.mem := rfl
@[simp] theorem State.putTile_crews (s : State) (b j t : Nat) (e : TileEntry) : (s.putTile b j t e).crews = s.crews := rfl
@[simp] theorem State.putTile_aux (s : State) (b j t : Nat) (e : TileEntry) : (s.putTile b j t e).aux = s.aux := rfl
@[simp] theorem State.putTile_launches (s : State) (b j t : Nat) (e : TileEntry) : (s.putTile b j t e).launches = s.launches := rfl
@[simp] theorem State.putTile_cores (s : State) (b j t : Nat) (e : TileEntry) : (s.putTile b j t e).cores = s.cores := rfl
@[simp] theorem State.putTile_partitions (s : State) (b j t : Nat) (e : TileEntry) : (s.putTile b j t e).partitions = s.partitions := rfl
@[simp] theorem State.putTile_latches (s : State) (b j t : Nat) (e : TileEntry) : (s.putTile b j t e).latches = s.latches := rfl
@[simp] theorem State.putTile_ctxs (s : State) (b j t : Nat) (e : TileEntry) : (s.putTile b j t e).ctxs = s.ctxs := rfl
@[simp] theorem State.putTile_invals (s : State) (b j t : Nat) (e : TileEntry) : (s.putTile b j t e).invals = s.invals := rfl
@[simp] theorem State.putTile_lamps (s : State) (b j t : Nat) (e : TileEntry) : (s.putTile b j t e).lamps = s.lamps := rfl
@[simp] theorem State.putTile_chains (s : State) (b j t : Nat) (e : TileEntry) : (s.putTile b j t e).chains = s.chains := rfl
@[simp] theorem State.putTile_hostIf (s : State) (b j t : Nat) (e : TileEntry) : (s.putTile b j t e).hostIf = s.hostIf := rfl
@[simp] theorem State.putTile_links (s : State) (b j t : Nat) (e : TileEntry) : (s.putTile b j t e).links = s.links := rfl
@[simp] theorem State.putTile_boot (s : State) (b j t : Nat) (e : TileEntry) : (s.putTile b j t e).boot = s.boot := rfl
@[simp] theorem State.putTile_pithead (s : State) (b j t : Nat) (e : TileEntry) : (s.putTile b j t e).pithead = s.pithead := rfl
@[simp] theorem State.putTile_health (s : State) (b j t : Nat) (e : TileEntry) : (s.putTile b j t e).health = s.health := rfl
@[simp] theorem State.putTile_lastCluster (s : State) (b j t : Nat) (e : TileEntry) : (s.putTile b j t e).lastCluster = s.lastCluster := rfl
@[simp] theorem State.putTile_nextId (s : State) (b j t : Nat) (e : TileEntry) : (s.putTile b j t e).nextId = s.nextId := rfl
@[simp] theorem State.putTile_nextToken (s : State) (b j t : Nat) (e : TileEntry) : (s.putTile b j t e).nextToken = s.nextToken := rfl
@[simp] theorem State.putTile_issue (s : State) (b j t : Nat) (e : TileEntry) : (s.putTile b j t e).issue = s.issue := rfl
@[simp] theorem State.putTile_inputs (s : State) (b j t : Nat) (e : TileEntry) : (s.putTile b j t e).inputs = s.inputs := rfl
@[simp] theorem State.putTile_turn (s : State) (b j t : Nat) (e : TileEntry) : (s.putTile b j t e).turn = s.turn := rfl
@[simp] theorem State.putTile_fresh (s : State) (b j t : Nat) (e : TileEntry) : (s.putTile b j t e).fresh = s.fresh := rfl

/-! ### `onRegion` -/

@[simp] theorem State.onRegion_partNo (s : State) (ctx slot : Nat) (f : Region → Region) : (s.onRegion ctx slot f).partNo = s.partNo := rfl
@[simp] theorem State.onRegion_clk (s : State) (ctx slot : Nat) (f : Region → Region) : (s.onRegion ctx slot f).clk = s.clk := rfl
@[simp] theorem State.onRegion_time (s : State) (ctx slot : Nat) (f : Region → Region) : (s.onRegion ctx slot f).time = s.time := rfl
@[simp] theorem State.onRegion_mem (s : State) (ctx slot : Nat) (f : Region → Region) : (s.onRegion ctx slot f).mem = s.mem := rfl
@[simp] theorem State.onRegion_crews (s : State) (ctx slot : Nat) (f : Region → Region) : (s.onRegion ctx slot f).crews = s.crews := rfl
@[simp] theorem State.onRegion_aux (s : State) (ctx slot : Nat) (f : Region → Region) : (s.onRegion ctx slot f).aux = s.aux := rfl
@[simp] theorem State.onRegion_blocks (s : State) (ctx slot : Nat) (f : Region → Region) : (s.onRegion ctx slot f).blocks = s.blocks := rfl
@[simp] theorem State.onRegion_launches (s : State) (ctx slot : Nat) (f : Region → Region) : (s.onRegion ctx slot f).launches = s.launches := rfl
@[simp] theorem State.onRegion_cores (s : State) (ctx slot : Nat) (f : Region → Region) : (s.onRegion ctx slot f).cores = s.cores := rfl
@[simp] theorem State.onRegion_partitions (s : State) (ctx slot : Nat) (f : Region → Region) : (s.onRegion ctx slot f).partitions = s.partitions := rfl
@[simp] theorem State.onRegion_latches (s : State) (ctx slot : Nat) (f : Region → Region) : (s.onRegion ctx slot f).latches = s.latches := rfl
@[simp] theorem State.onRegion_invals (s : State) (ctx slot : Nat) (f : Region → Region) : (s.onRegion ctx slot f).invals = s.invals := rfl
@[simp] theorem State.onRegion_lamps (s : State) (ctx slot : Nat) (f : Region → Region) : (s.onRegion ctx slot f).lamps = s.lamps := rfl
@[simp] theorem State.onRegion_chains (s : State) (ctx slot : Nat) (f : Region → Region) : (s.onRegion ctx slot f).chains = s.chains := rfl
@[simp] theorem State.onRegion_hostIf (s : State) (ctx slot : Nat) (f : Region → Region) : (s.onRegion ctx slot f).hostIf = s.hostIf := rfl
@[simp] theorem State.onRegion_links (s : State) (ctx slot : Nat) (f : Region → Region) : (s.onRegion ctx slot f).links = s.links := rfl
@[simp] theorem State.onRegion_boot (s : State) (ctx slot : Nat) (f : Region → Region) : (s.onRegion ctx slot f).boot = s.boot := rfl
@[simp] theorem State.onRegion_pithead (s : State) (ctx slot : Nat) (f : Region → Region) : (s.onRegion ctx slot f).pithead = s.pithead := rfl
@[simp] theorem State.onRegion_health (s : State) (ctx slot : Nat) (f : Region → Region) : (s.onRegion ctx slot f).health = s.health := rfl
@[simp] theorem State.onRegion_lastCluster (s : State) (ctx slot : Nat) (f : Region → Region) : (s.onRegion ctx slot f).lastCluster = s.lastCluster := rfl
@[simp] theorem State.onRegion_nextId (s : State) (ctx slot : Nat) (f : Region → Region) : (s.onRegion ctx slot f).nextId = s.nextId := rfl
@[simp] theorem State.onRegion_nextToken (s : State) (ctx slot : Nat) (f : Region → Region) : (s.onRegion ctx slot f).nextToken = s.nextToken := rfl
@[simp] theorem State.onRegion_issue (s : State) (ctx slot : Nat) (f : Region → Region) : (s.onRegion ctx slot f).issue = s.issue := rfl
@[simp] theorem State.onRegion_inputs (s : State) (ctx slot : Nat) (f : Region → Region) : (s.onRegion ctx slot f).inputs = s.inputs := rfl
@[simp] theorem State.onRegion_turn (s : State) (ctx slot : Nat) (f : Region → Region) : (s.onRegion ctx slot f).turn = s.turn := rfl
@[simp] theorem State.onRegion_fresh (s : State) (ctx slot : Nat) (f : Region → Region) : (s.onRegion ctx slot f).fresh = s.fresh := rfl

/-! ### `putCtl` -/

@[simp] theorem State.putCtl_partNo (s : State) (ctx : Nat) (p : CtlPage) : (s.putCtl ctx p).partNo = s.partNo := rfl
@[simp] theorem State.putCtl_clk (s : State) (ctx : Nat) (p : CtlPage) : (s.putCtl ctx p).clk = s.clk := rfl
@[simp] theorem State.putCtl_time (s : State) (ctx : Nat) (p : CtlPage) : (s.putCtl ctx p).time = s.time := rfl
@[simp] theorem State.putCtl_mem (s : State) (ctx : Nat) (p : CtlPage) : (s.putCtl ctx p).mem = s.mem := rfl
@[simp] theorem State.putCtl_crews (s : State) (ctx : Nat) (p : CtlPage) : (s.putCtl ctx p).crews = s.crews := rfl
@[simp] theorem State.putCtl_aux (s : State) (ctx : Nat) (p : CtlPage) : (s.putCtl ctx p).aux = s.aux := rfl
@[simp] theorem State.putCtl_blocks (s : State) (ctx : Nat) (p : CtlPage) : (s.putCtl ctx p).blocks = s.blocks := rfl
@[simp] theorem State.putCtl_launches (s : State) (ctx : Nat) (p : CtlPage) : (s.putCtl ctx p).launches = s.launches := rfl
@[simp] theorem State.putCtl_cores (s : State) (ctx : Nat) (p : CtlPage) : (s.putCtl ctx p).cores = s.cores := rfl
@[simp] theorem State.putCtl_partitions (s : State) (ctx : Nat) (p : CtlPage) : (s.putCtl ctx p).partitions = s.partitions := rfl
@[simp] theorem State.putCtl_latches (s : State) (ctx : Nat) (p : CtlPage) : (s.putCtl ctx p).latches = s.latches := rfl
@[simp] theorem State.putCtl_ctxs (s : State) (ctx : Nat) (p : CtlPage) : (s.putCtl ctx p).ctxs = s.ctxs := rfl
@[simp] theorem State.putCtl_invals (s : State) (ctx : Nat) (p : CtlPage) : (s.putCtl ctx p).invals = s.invals := rfl
@[simp] theorem State.putCtl_lamps (s : State) (ctx : Nat) (p : CtlPage) : (s.putCtl ctx p).lamps = s.lamps := rfl
@[simp] theorem State.putCtl_chains (s : State) (ctx : Nat) (p : CtlPage) : (s.putCtl ctx p).chains = s.chains := rfl
@[simp] theorem State.putCtl_links (s : State) (ctx : Nat) (p : CtlPage) : (s.putCtl ctx p).links = s.links := rfl
@[simp] theorem State.putCtl_boot (s : State) (ctx : Nat) (p : CtlPage) : (s.putCtl ctx p).boot = s.boot := rfl
@[simp] theorem State.putCtl_pithead (s : State) (ctx : Nat) (p : CtlPage) : (s.putCtl ctx p).pithead = s.pithead := rfl
@[simp] theorem State.putCtl_health (s : State) (ctx : Nat) (p : CtlPage) : (s.putCtl ctx p).health = s.health := rfl
@[simp] theorem State.putCtl_lastCluster (s : State) (ctx : Nat) (p : CtlPage) : (s.putCtl ctx p).lastCluster = s.lastCluster := rfl
@[simp] theorem State.putCtl_nextId (s : State) (ctx : Nat) (p : CtlPage) : (s.putCtl ctx p).nextId = s.nextId := rfl
@[simp] theorem State.putCtl_nextToken (s : State) (ctx : Nat) (p : CtlPage) : (s.putCtl ctx p).nextToken = s.nextToken := rfl
@[simp] theorem State.putCtl_issue (s : State) (ctx : Nat) (p : CtlPage) : (s.putCtl ctx p).issue = s.issue := rfl
@[simp] theorem State.putCtl_inputs (s : State) (ctx : Nat) (p : CtlPage) : (s.putCtl ctx p).inputs = s.inputs := rfl
@[simp] theorem State.putCtl_turn (s : State) (ctx : Nat) (p : CtlPage) : (s.putCtl ctx p).turn = s.turn := rfl
@[simp] theorem State.putCtl_fresh (s : State) (ctx : Nat) (p : CtlPage) : (s.putCtl ctx p).fresh = s.fresh := rfl

/-! ### `putDbg` -/

@[simp] theorem State.putDbg_partNo (s : State) (ctx : Nat) (d : DebugWin) : (s.putDbg ctx d).partNo = s.partNo := rfl
@[simp] theorem State.putDbg_clk (s : State) (ctx : Nat) (d : DebugWin) : (s.putDbg ctx d).clk = s.clk := rfl
@[simp] theorem State.putDbg_time (s : State) (ctx : Nat) (d : DebugWin) : (s.putDbg ctx d).time = s.time := rfl
@[simp] theorem State.putDbg_mem (s : State) (ctx : Nat) (d : DebugWin) : (s.putDbg ctx d).mem = s.mem := rfl
@[simp] theorem State.putDbg_crews (s : State) (ctx : Nat) (d : DebugWin) : (s.putDbg ctx d).crews = s.crews := rfl
@[simp] theorem State.putDbg_aux (s : State) (ctx : Nat) (d : DebugWin) : (s.putDbg ctx d).aux = s.aux := rfl
@[simp] theorem State.putDbg_blocks (s : State) (ctx : Nat) (d : DebugWin) : (s.putDbg ctx d).blocks = s.blocks := rfl
@[simp] theorem State.putDbg_launches (s : State) (ctx : Nat) (d : DebugWin) : (s.putDbg ctx d).launches = s.launches := rfl
@[simp] theorem State.putDbg_cores (s : State) (ctx : Nat) (d : DebugWin) : (s.putDbg ctx d).cores = s.cores := rfl
@[simp] theorem State.putDbg_partitions (s : State) (ctx : Nat) (d : DebugWin) : (s.putDbg ctx d).partitions = s.partitions := rfl
@[simp] theorem State.putDbg_latches (s : State) (ctx : Nat) (d : DebugWin) : (s.putDbg ctx d).latches = s.latches := rfl
@[simp] theorem State.putDbg_ctxs (s : State) (ctx : Nat) (d : DebugWin) : (s.putDbg ctx d).ctxs = s.ctxs := rfl
@[simp] theorem State.putDbg_invals (s : State) (ctx : Nat) (d : DebugWin) : (s.putDbg ctx d).invals = s.invals := rfl
@[simp] theorem State.putDbg_lamps (s : State) (ctx : Nat) (d : DebugWin) : (s.putDbg ctx d).lamps = s.lamps := rfl
@[simp] theorem State.putDbg_chains (s : State) (ctx : Nat) (d : DebugWin) : (s.putDbg ctx d).chains = s.chains := rfl
@[simp] theorem State.putDbg_links (s : State) (ctx : Nat) (d : DebugWin) : (s.putDbg ctx d).links = s.links := rfl
@[simp] theorem State.putDbg_boot (s : State) (ctx : Nat) (d : DebugWin) : (s.putDbg ctx d).boot = s.boot := rfl
@[simp] theorem State.putDbg_pithead (s : State) (ctx : Nat) (d : DebugWin) : (s.putDbg ctx d).pithead = s.pithead := rfl
@[simp] theorem State.putDbg_health (s : State) (ctx : Nat) (d : DebugWin) : (s.putDbg ctx d).health = s.health := rfl
@[simp] theorem State.putDbg_lastCluster (s : State) (ctx : Nat) (d : DebugWin) : (s.putDbg ctx d).lastCluster = s.lastCluster := rfl
@[simp] theorem State.putDbg_nextId (s : State) (ctx : Nat) (d : DebugWin) : (s.putDbg ctx d).nextId = s.nextId := rfl
@[simp] theorem State.putDbg_nextToken (s : State) (ctx : Nat) (d : DebugWin) : (s.putDbg ctx d).nextToken = s.nextToken := rfl
@[simp] theorem State.putDbg_issue (s : State) (ctx : Nat) (d : DebugWin) : (s.putDbg ctx d).issue = s.issue := rfl
@[simp] theorem State.putDbg_inputs (s : State) (ctx : Nat) (d : DebugWin) : (s.putDbg ctx d).inputs = s.inputs := rfl
@[simp] theorem State.putDbg_turn (s : State) (ctx : Nat) (d : DebugWin) : (s.putDbg ctx d).turn = s.turn := rfl
@[simp] theorem State.putDbg_fresh (s : State) (ctx : Nat) (d : DebugWin) : (s.putDbg ctx d).fresh = s.fresh := rfl

/-! ### `physPut` -/

@[simp] theorem State.physPut_partNo (s : State) (pa : Nat) (b : Byte) : (s.physPut pa b).partNo = s.partNo := rfl
@[simp] theorem State.physPut_clk (s : State) (pa : Nat) (b : Byte) : (s.physPut pa b).clk = s.clk := rfl
@[simp] theorem State.physPut_time (s : State) (pa : Nat) (b : Byte) : (s.physPut pa b).time = s.time := rfl
@[simp] theorem State.physPut_crews (s : State) (pa : Nat) (b : Byte) : (s.physPut pa b).crews = s.crews := rfl
@[simp] theorem State.physPut_aux (s : State) (pa : Nat) (b : Byte) : (s.physPut pa b).aux = s.aux := rfl
@[simp] theorem State.physPut_blocks (s : State) (pa : Nat) (b : Byte) : (s.physPut pa b).blocks = s.blocks := rfl
@[simp] theorem State.physPut_launches (s : State) (pa : Nat) (b : Byte) : (s.physPut pa b).launches = s.launches := rfl
@[simp] theorem State.physPut_cores (s : State) (pa : Nat) (b : Byte) : (s.physPut pa b).cores = s.cores := rfl
@[simp] theorem State.physPut_partitions (s : State) (pa : Nat) (b : Byte) : (s.physPut pa b).partitions = s.partitions := rfl
@[simp] theorem State.physPut_latches (s : State) (pa : Nat) (b : Byte) : (s.physPut pa b).latches = s.latches := rfl
@[simp] theorem State.physPut_ctxs (s : State) (pa : Nat) (b : Byte) : (s.physPut pa b).ctxs = s.ctxs := rfl
@[simp] theorem State.physPut_invals (s : State) (pa : Nat) (b : Byte) : (s.physPut pa b).invals = s.invals := rfl
@[simp] theorem State.physPut_lamps (s : State) (pa : Nat) (b : Byte) : (s.physPut pa b).lamps = s.lamps := rfl
@[simp] theorem State.physPut_chains (s : State) (pa : Nat) (b : Byte) : (s.physPut pa b).chains = s.chains := rfl
@[simp] theorem State.physPut_hostIf (s : State) (pa : Nat) (b : Byte) : (s.physPut pa b).hostIf = s.hostIf := rfl
@[simp] theorem State.physPut_links (s : State) (pa : Nat) (b : Byte) : (s.physPut pa b).links = s.links := rfl
@[simp] theorem State.physPut_boot (s : State) (pa : Nat) (b : Byte) : (s.physPut pa b).boot = s.boot := rfl
@[simp] theorem State.physPut_pithead (s : State) (pa : Nat) (b : Byte) : (s.physPut pa b).pithead = s.pithead := rfl
@[simp] theorem State.physPut_health (s : State) (pa : Nat) (b : Byte) : (s.physPut pa b).health = s.health := rfl
@[simp] theorem State.physPut_lastCluster (s : State) (pa : Nat) (b : Byte) : (s.physPut pa b).lastCluster = s.lastCluster := rfl
@[simp] theorem State.physPut_nextId (s : State) (pa : Nat) (b : Byte) : (s.physPut pa b).nextId = s.nextId := rfl
@[simp] theorem State.physPut_nextToken (s : State) (pa : Nat) (b : Byte) : (s.physPut pa b).nextToken = s.nextToken := rfl
@[simp] theorem State.physPut_issue (s : State) (pa : Nat) (b : Byte) : (s.physPut pa b).issue = s.issue := rfl
@[simp] theorem State.physPut_inputs (s : State) (pa : Nat) (b : Byte) : (s.physPut pa b).inputs = s.inputs := rfl
@[simp] theorem State.physPut_turn (s : State) (pa : Nat) (b : Byte) : (s.physPut pa b).turn = s.turn := rfl
@[simp] theorem State.physPut_fresh (s : State) (pa : Nat) (b : Byte) : (s.physPut pa b).fresh = s.fresh := rfl

/-! ### `l2Put` -/

@[simp] theorem State.l2Put_partNo (s : State) (k : Nat) (b : Option CByte) : (s.l2Put k b).partNo = s.partNo := rfl
@[simp] theorem State.l2Put_clk (s : State) (k : Nat) (b : Option CByte) : (s.l2Put k b).clk = s.clk := rfl
@[simp] theorem State.l2Put_time (s : State) (k : Nat) (b : Option CByte) : (s.l2Put k b).time = s.time := rfl
@[simp] theorem State.l2Put_crews (s : State) (k : Nat) (b : Option CByte) : (s.l2Put k b).crews = s.crews := rfl
@[simp] theorem State.l2Put_aux (s : State) (k : Nat) (b : Option CByte) : (s.l2Put k b).aux = s.aux := rfl
@[simp] theorem State.l2Put_blocks (s : State) (k : Nat) (b : Option CByte) : (s.l2Put k b).blocks = s.blocks := rfl
@[simp] theorem State.l2Put_launches (s : State) (k : Nat) (b : Option CByte) : (s.l2Put k b).launches = s.launches := rfl
@[simp] theorem State.l2Put_cores (s : State) (k : Nat) (b : Option CByte) : (s.l2Put k b).cores = s.cores := rfl
@[simp] theorem State.l2Put_partitions (s : State) (k : Nat) (b : Option CByte) : (s.l2Put k b).partitions = s.partitions := rfl
@[simp] theorem State.l2Put_latches (s : State) (k : Nat) (b : Option CByte) : (s.l2Put k b).latches = s.latches := rfl
@[simp] theorem State.l2Put_ctxs (s : State) (k : Nat) (b : Option CByte) : (s.l2Put k b).ctxs = s.ctxs := rfl
@[simp] theorem State.l2Put_invals (s : State) (k : Nat) (b : Option CByte) : (s.l2Put k b).invals = s.invals := rfl
@[simp] theorem State.l2Put_lamps (s : State) (k : Nat) (b : Option CByte) : (s.l2Put k b).lamps = s.lamps := rfl
@[simp] theorem State.l2Put_chains (s : State) (k : Nat) (b : Option CByte) : (s.l2Put k b).chains = s.chains := rfl
@[simp] theorem State.l2Put_hostIf (s : State) (k : Nat) (b : Option CByte) : (s.l2Put k b).hostIf = s.hostIf := rfl
@[simp] theorem State.l2Put_links (s : State) (k : Nat) (b : Option CByte) : (s.l2Put k b).links = s.links := rfl
@[simp] theorem State.l2Put_boot (s : State) (k : Nat) (b : Option CByte) : (s.l2Put k b).boot = s.boot := rfl
@[simp] theorem State.l2Put_pithead (s : State) (k : Nat) (b : Option CByte) : (s.l2Put k b).pithead = s.pithead := rfl
@[simp] theorem State.l2Put_health (s : State) (k : Nat) (b : Option CByte) : (s.l2Put k b).health = s.health := rfl
@[simp] theorem State.l2Put_lastCluster (s : State) (k : Nat) (b : Option CByte) : (s.l2Put k b).lastCluster = s.lastCluster := rfl
@[simp] theorem State.l2Put_nextId (s : State) (k : Nat) (b : Option CByte) : (s.l2Put k b).nextId = s.nextId := rfl
@[simp] theorem State.l2Put_nextToken (s : State) (k : Nat) (b : Option CByte) : (s.l2Put k b).nextToken = s.nextToken := rfl
@[simp] theorem State.l2Put_issue (s : State) (k : Nat) (b : Option CByte) : (s.l2Put k b).issue = s.issue := rfl
@[simp] theorem State.l2Put_inputs (s : State) (k : Nat) (b : Option CByte) : (s.l2Put k b).inputs = s.inputs := rfl
@[simp] theorem State.l2Put_turn (s : State) (k : Nat) (b : Option CByte) : (s.l2Put k b).turn = s.turn := rfl
@[simp] theorem State.l2Put_fresh (s : State) (k : Nat) (b : Option CByte) : (s.l2Put k b).fresh = s.fresh := rfl

/-! ### Reading after an update -/

@[simp] theorem State.auxOf_putAux (s : State) (c x : Nat) (a : CrewAux) :
    (s.putAux c a).auxOf x = if x = c then a else s.auxOf x := by
  simp only [State.auxOf, State.putAux_aux, Tbl.find_put]
  split <;> rfl

@[simp] theorem State.auxOf_onAux (s : State) (c x : Nat) (f : CrewAux → CrewAux) :
    (s.onAux c f).auxOf x = if x = c then f (s.auxOf c) else s.auxOf x := State.auxOf_putAux s c x (f (s.auxOf c))

@[simp] theorem State.pn_putPn (s : State) (k x : Nat) (p : Partition) :
    (s.putPn k p).pn x = if x = k then p else s.pn x := by
  simp only [State.pn, State.putPn_partitions, Tbl.find_put]
  split <;> rfl

@[simp] theorem State.pn_onPn (s : State) (k x : Nat) (f : Partition → Partition) :
    (s.onPn k f).pn x = if x = k then f (s.pn k) else s.pn x := State.pn_putPn s k x (f (s.pn k))

@[simp] theorem State.coreOf_putCore (s : State) (k x : Nat) (c : Core) :
    (s.putCore k c).coreOf x = if x = k then c else s.coreOf x := by
  simp only [State.coreOf, State.putCore_cores, Tbl.find_put]
  split <;> rfl

@[simp] theorem State.coreOf_onCore (s : State) (k x : Nat) (f : Core → Core) :
    (s.onCore k f).coreOf x = if x = k then f (s.coreOf k) else s.coreOf x :=
  State.coreOf_putCore s k x (f (s.coreOf k))

@[simp] theorem State.ctlOf_putCtl (s : State) (c x : Nat) (p : CtlPage) :
    (s.putCtl c p).ctlOf x = if x = c then p else s.ctlOf x := by
  simp only [State.ctlOf, State.putCtl, Tbl.find_put]
  split <;> rfl

@[simp] theorem State.dbgOf_putDbg (s : State) (c x : Nat) (d : DebugWin) :
    (s.putDbg c d).dbgOf x = if x = c then d else s.dbgOf x := by
  simp only [State.dbgOf, State.putDbg, Tbl.find_put]
  split <;> rfl

@[simp] theorem State.physGet_physPut (s : State) (pa x : Nat) (b : Byte) :
    (s.physPut pa b).physGet x = if x = pa then b else s.physGet x := by
  simp [State.physGet, State.physPut]

end Sys2Proof.Machine
end

