-- ==== Sys2Proof/Laws/Regs.lean ====
section
/-!
SUPPORT. What writing a vector register does: the words it sets, and that nothing else changes.
-/

namespace Sys2Proof.Machine

/-! ## States that differ in words alone -/

namespace SameButWords

variable {s u v : State}

theorem refl (s : State) : SameButWords s s := ⟨rfl, fun _ => rfl, fun _ _ => rfl, fun _ => rfl⟩

theorem trans (h : SameButWords s u) (k : SameButWords u v) : SameButWords s v where
  rest := by
    have h1 := h.rest
    have h2 := k.rest
    rw [← h1, ← h2]
  blocks b := (k.blocks b).trans (h.blocks b)
  parts b j := (k.parts b j).trans (h.parts b j)
  partitions x := (k.partitions x).trans (h.partitions x)

theorem launches (h : SameButWords s u) : u.launches = s.launches :=
  (congrArg State.launches h.rest :)
theorem crews (h : SameButWords s u) : u.crews = s.crews :=
  (congrArg State.crews h.rest :)
theorem aux (h : SameButWords s u) : u.aux = s.aux :=
  (congrArg State.aux h.rest :)
theorem issue (h : SameButWords s u) : u.issue = s.issue :=
  (congrArg State.issue h.rest :)
theorem mem (h : SameButWords s u) : u.mem = s.mem :=
  (congrArg State.mem h.rest :)

theorem spreadOf (h : SameButWords s u) (r : Crew) : u.spreadOf r = s.spreadOf r := by
  have hb := h.blocks r.block
  unfold State.spreadOf State.blockOf
  cases h1 : u.blocks.find r.block <;> cases h2 : s.blocks.find r.block <;> simp [h1, h2, Block.bare] at hb ⊢
  exact hb.2.2.1

theorem packetOf (h : SameButWords s u) (r : Crew) : u.packetOf r = s.packetOf r := by
  simp only [State.packetOf, h.launches]

theorem regBase (h : SameButWords s u) (r : Crew) : u.regBase r = s.regBase r := by
  simp only [State.regBase, State.localOf, h.packetOf, h.spreadOf]

theorem vplace (h : SameButWords s u) (r : Crew) (n l : Nat) : u.vplace r n l = s.vplace r n l := by
  simp only [State.vplace, h.regBase]

theorem seated (h : SameButWords s u) {r : Crew} (hs : s.seated r) : u.seated r := by
  have := h.parts r.block r.part
  unfold State.seated at *
  cases h1 : u.part? r.block r.part <;> cases h2 : s.part? r.block r.part <;> simp_all

end SameButWords

/-! ## Places -/

theorem State.getV_eq_word (s : State) (r : Crew) (n l : Nat) : s.getV r n l = s.word (s.vplace r n l) := by
  unfold State.getV State.vplace
  split <;> rfl

theorem accIndex_inj {p n l n' l' : Nat} (hn : 64 ≤ n) (hn' : 64 ≤ n') (hl : l < 32) (hl' : l' < 32)
    (h : accIndex p n l = accIndex p n' l') : n = n' ∧ l = l' := by
  unfold accIndex at h
  omega

theorem State.vplace_inj {s : State} {r : Crew} {n l n' l' : Nat} (hl : l < 32) (hl' : l' < 32)
    (h : s.vplace r n l = s.vplace r n' l') : n = n' ∧ l = l' := by
  unfold State.vplace at h
  split at h <;> split at h <;> rename_i h1 h2 <;> simp only [Place.acc.injEq, Place.bank.injEq, reduceCtorEq] at h
  · simp only [Bool.and_eq_true, decide_eq_true_eq] at h1 h2
    exact accIndex_inj h1.2 h2.2 hl hl' h.2
  · omega

theorem State.partOf_eq (s : State) (b j : Nat) : s.partOf b j = (s.part? b j).getD Part.blank := by
  unfold State.partOf State.part?
  cases s.blocks.find b <;> rfl

theorem State.part?_onPart (s : State) (b j x y : Nat) (f : Part → Part) :
    (s.onPart b j f).part? x y = if x = b ∧ y = j then (s.part? b j).map f else s.part? x y := by
  unfold State.part?
  simp only [State.onPart_blocks, Tbl.find_upd]
  by_cases hx : x = b
  · subst hx
    cases h : s.blocks.find x with
    | none => simp [h]
    | some k =>
      by_cases hy : y = j <;> simp [h, hy]
  · simp [hx]

theorem State.word_bankPut (s : State) (b j i : Nat) (v : Word) (p : Place) (h : (s.part? b j).isSome) :
    (s.bankPut b j i v).word p = if p = .bank b j i then v else s.word p := by
  cases p with
  | acc k x => simp [State.word, State.pn]
  | bank x y z =>
    simp only [State.word, State.bankGet, State.partOf_eq, State.bankPut, State.part?_onPart, Place.bank.injEq]
    obtain ⟨q, hq⟩ := Option.isSome_iff_exists.mp h
    by_cases hxy : x = b ∧ y = j
    · obtain ⟨rfl, rfl⟩ := hxy
      simp [hq]
    · have : ¬ (x = b ∧ y = j ∧ z = i) := fun k => hxy ⟨k.1, k.2.1⟩
      simp [hxy, this]

theorem State.sameButWords_bankPut (s : State) (b j i : Nat) (v : Word) : SameButWords s (s.bankPut b j i v) where
  rest := rfl
  blocks x := by
    simp only [State.bankPut, State.onPart_blocks, Tbl.find_upd]
    split
    · rename_i h; subst h; cases s.blocks.find x <;> rfl
    · rfl
  parts x y := by
    simp only [State.bankPut, State.part?_onPart]
    split
    · rename_i h; obtain ⟨rfl, rfl⟩ := h; cases s.part? x y <;> rfl
    · rfl
  partitions k := rfl

theorem State.word_onAcc (s : State) (k i : Nat) (v : Word) (p : Place) :
    (s.onPn k fun q => { q with acc := Sparse.put 0 q.acc i v }).word p = if p = .acc k i then v else s.word p := by
  cases p with
  | bank b j x => simp [State.word, State.bankGet, State.partOf_eq, State.part?]
  | acc x y =>
    simp only [State.word, State.pn_onPn, Place.acc.injEq]
    by_cases hx : x = k
    · subst hx; simp
    · simp [hx]

theorem State.sameButWords_onAcc (s : State) (k i : Nat) (v : Word) :
    SameButWords s (s.onPn k fun q => { q with acc := Sparse.put 0 q.acc i v }) where
  rest := rfl
  blocks _ := rfl
  parts _ _ := rfl
  partitions x := by
    simp only [State.pn_onPn]
    split
    · rename_i h; subst h; rfl
    · rfl

/-- One word written: the word at its place, and every other place as before. -/
theorem State.word_putV (s : State) (r : Crew) (n l : Nat) (v : Word) (p : Place) (h : s.seated r) :
    (s.putV r n l v).word p = if p = s.vplace r n l then v else s.word p := by
  unfold State.putV State.vplace
  split
  · exact State.word_onAcc s r.pkey _ v p
  · exact State.word_bankPut s r.block r.part _ v p h

theorem State.sameButWords_putV (s : State) (r : Crew) (n l : Nat) (v : Word) : SameButWords s (s.putV r n l v) := by
  unfold State.putV
  split
  · exact State.sameButWords_onAcc s _ _ v
  · exact State.sameButWords_bankPut s _ _ _ v

/-! ## Sets of words written -/

namespace WritesV

variable {s u : State} {r : Crew} {w w' : Nat → Nat → Prop} {f f' : Nat → Nat → Word}

theorem none (s : State) (r : Crew) (f : Nat → Nat → Word) : WritesV s s r (fun _ _ => False) f where
  same := SameButWords.refl s
  new _ _ _ _ h := h.elim
  old _ _ := rfl
  kept _ _ _ _ _ := rfl

/-- One more word written. -/
theorem put (h : WritesV s u r w f) (hs : s.seated r) (n l : Nat) (hn : n < 128) (hl : l < 32) (v : Word) :
    WritesV s (u.putV r n l v) r (fun x y => w x y ∨ (x = n ∧ y = l)) (fun x y => if x = n ∧ y = l then v else f x y) := by
  have hu : u.seated r := h.same.seated hs
  have hp : ∀ x y, (u.putV r n l v).vplace r x y = u.vplace r x y := (State.sameButWords_putV u r n l v).vplace r
  have hq : ∀ x y, u.vplace r x y = s.vplace r x y := h.same.vplace r
  refine ⟨h.same.trans (State.sameButWords_putV u r n l v), ?_, ?_, ?_⟩
  · intro x y hx hy hw
    rw [State.getV_eq_word, hp, State.word_putV _ _ _ _ _ _ hu]
    by_cases hxy : x = n ∧ y = l
    · obtain ⟨rfl, rfl⟩ := hxy; simp
    · have : ¬ u.vplace r x y = u.vplace r n l := fun e => hxy (State.vplace_inj hy hl e)
      rw [if_neg this, if_neg hxy, ← State.getV_eq_word]
      exact h.new x y hx hy (hw.resolve_right hxy)
  · intro p hpl
    rw [State.word_putV _ _ _ _ _ _ hu, if_neg, h.old p fun x y hx hy hw => hpl x y hx hy (.inl hw)]
    rw [hq]
    exact fun e => hpl n l hn hl (.inr ⟨rfl, rfl⟩) e.symm
  · intro x y hx hy hw
    rw [State.getV_eq_word, hp, State.word_putV _ _ _ _ _ _ hu, if_neg, ← State.getV_eq_word]
    · exact h.kept x y hx hy fun k => hw (.inl k)
    · exact fun e => hw (.inr (State.vplace_inj hy hl e))

/-- The same words under another description of which they are and of their values. -/
theorem congr (h : WritesV s u r w f) (hw : ∀ n l, n < 128 → l < 32 → (w n l ↔ w' n l))
    (hf : ∀ n l, n < 128 → l < 32 → w n l → f n l = f' n l) : WritesV s u r w' f' where
  same := h.same
  new n l hn hl k := by
    have := (hw n l hn hl).mpr k
    rw [h.new n l hn hl this, hf n l hn hl this]
  old p k := h.old p fun n l hn hl x => k n l hn hl ((hw n l hn hl).mp x)
  kept n l hn hl k := h.kept n l hn hl fun x => k ((hw n l hn hl).mp x)

end WritesV

/-- Writing one register in a list of lanes. -/
theorem State.putLanes_writes {s u : State} {r : Crew} {w : Nat → Nat → Prop} {g : Nat → Nat → Word} (h : WritesV s u r w g)
    (hs : s.seated r) (n : Nat) (hn : n < 128) (ls : List Nat) (hl : ∀ l ∈ ls, l < 32) (f : Nat → Word) :
    WritesV s (u.putLanes r n ls f) r (fun x y => w x y ∨ (x = n ∧ y ∈ ls))
      (fun x y => if x = n ∧ y ∈ ls then f y else g x y) := by
  induction ls generalizing u w g with
  | nil => exact h.congr (by simp) (by simp)
  | cons l t ih =>
    have h1 := h.put hs n l hn (hl l (by simp)) (f l)
    refine (ih h1 (fun x hx => hl x (by simp [hx]))).congr ?_ ?_
    · intro x y _ _; simp only [List.mem_cons]; tauto
    · intro x y _ _ _
      by_cases hx : x = n <;> by_cases hy : y = l <;> simp [hx, hy]

theorem mem_lanesOf {m : LaneMask} {l : Nat} : l ∈ lanesOf m ↔ l < 32 ∧ m.getLsbD l = true := by
  simp [lanesOf, allLanes]

/-- What `mapLanes` does. -/
theorem State.mapLanes_writes (s : State) (r : Crew) (d : VReg) (m : LaneMask) (f : Nat → Word) (hs : s.seated r) :
    WritesV s (s.mapLanes r d m f) r (fun n l => n = d.toNat ∧ m.getLsbD l = true) fun _ l => f l := by
  have h := State.putLanes_writes (WritesV.none s r fun _ l => f l) hs d.toNat d.isLt (lanesOf m)
    (fun l hl => (mem_lanesOf.mp hl).1) f
  refine h.congr ?_ ?_
  · intro n l _ hl; simp only [mem_lanesOf, false_or]; tauto
  · intro n l _ _ hw; split <;> rfl

end Sys2Proof.Machine
end

