-- ==== Sys2Proof/Laws/Group.lean ====
section
/-!
SUPPORT. What running a group answers: an effect, a fault at issue, a wait.
-/

namespace Sys2Proof.Machine

variable {s u : State} {g : Issue} {r : Crew} {i : Instr} {wait : WaitFn} {body : BodyFn}

/-- A group that issues and is not held back closes with what its body answers. -/
theorem Issues.run (h : Issues s g r i) (hw : wait s g r = none) :
    runGroup i s wait body = .next (g.close r (s.nested g.crew) (i == .rett) (body s g r)) := by
  simp [runGroup, h.issue, h.crew, h.passes, h.kept, groupWait, h.free, hw, lesser, State.nested]

/-- A group whose effect goes on. -/
theorem Issues.finish (h : Issues s g r i) (hi : (i == Instr.rett) = false) (hw : wait s g r = none)
    (hb : body s g r = .next u) : runGroup i s wait body = .next (s.finish u g r) := by
  rw [h.run hw, hi, hb]; rfl

/-- A group whose effect sets the lanes' PCs itself. -/
theorem Issues.finishMoved (h : Issues s g r i) (hi : (i == Instr.rett) = false) (hw : wait s g r = none)
    (hb : body s g r = .moved u) : runGroup i s wait body = .next (s.finishMoved u g r) := by
  rw [h.run hw, hi, hb]; rfl

/-- A group that waits for a reason of its own. -/
theorem Issues.waits (h : Issues s g r i) {n : Nat} (hw : wait s g r = some n) :
    runGroup i s wait body = .next (g.close r (s.nested g.crew) false (.wait n s)) := by
  simp [runGroup, h.issue, h.crew, h.passes, h.kept, groupWait, h.free, hw, lesser, State.nested]

end Sys2Proof.Machine
end

