-- ==== Sys2Proof/Laws/Crew.lean ====
section
/-!
SUPPORT. What writing a scalar, mask or route register and moving the head run do to a crew.
-/

namespace Sys2Proof.Machine

theorem mem_allLanes {l : Nat} : l ∈ allLanes ↔ l < 32 := by simp [allLanes]

theorem allLanes_getElem? (l : Nat) (h : l < 32) : allLanes[l]? = some l := by
  simp [allLanes, h]

theorem bit_foldl_or {p : Nat → Bool} {ls : List Nat} (hl : ∀ l ∈ ls, l < 32) (m : LaneMask) (i : Nat) :
    (ls.foldl (fun m l => if p l then m ||| (1#32 <<< l) else m) m).getLsbD i
      = (m.getLsbD i || (ls.contains i && p i)) := by
  induction ls generalizing m with
  | nil => simp
  | cons a t ih =>
    have ha : a < 32 := hl a (by simp)
    rw [List.foldl_cons, ih (fun l h => hl l (by simp [h]))]
    have hb : (1#32 <<< a).getLsbD i = decide (i = a) := by
      rw [← BitVec.twoPow_eq, BitVec.getLsbD_twoPow]
      rw [decide_eq_true ha, Bool.true_and, decide_eq_decide]; exact eq_comm
    rw [List.contains_cons]
    by_cases h : p a
    · rw [if_pos h, BitVec.getLsbD_or, hb]
      by_cases hi : i = a
      · subst hi; simp [h]
      · have : (i == a) = false := by simpa using hi
        simp [hi, this]
    · rw [if_neg h]
      by_cases hi : i = a
      · subst hi; simp [h]
      · have : (i == a) = false := by simpa using hi
        simp [hi, this]

/-- The lanes of `maskOf`. -/
@[simp] theorem getLsbD_maskOf (p : Nat → Bool) (i : Nat) : (maskOf p).getLsbD i = (decide (i < 32) && p i) := by
  have h : allLanes.contains i = decide (i < 32) := by
    rw [Bool.eq_iff_iff, List.contains_iff_mem, mem_allLanes, decide_eq_true_eq]
  rw [maskOf, bit_foldl_or (fun l hl => mem_allLanes.mp hl), h]
  simp

theorem Crew.setsS (r : Crew) (d : SReg) (v : DWord) : SetsS r (r.setS d v) d v := by
  by_cases hd : d = 0
  · have e : r.setS d v = r := by unfold Crew.setS; exact if_pos hd
    rw [e]
    exact ⟨rfl, fun h => absurd hd h, fun _ _ => rfl, fun _ => rfl⟩
  · have e : r.setS d v = { r with sregs := Sparse.put 0 r.sregs d.toNat v } := by unfold Crew.setS; exact if_neg hd
    rw [e]
    refine ⟨rfl, fun _ => ?_, fun n hn => ?_, fun h => absurd h hd⟩
    · unfold Crew.sreg; rw [if_neg hd]; simp
    · have : ¬ n.toNat = d.toNat := fun e => hn (BitVec.eq_of_toNat_eq e)
      unfold Crew.sreg; simp [this]

theorem Crew.setsK (r : Crew) (t : KReg) (v : LaneMask) : SetsK r (r.setK t v) t fun l => v.getLsbD l := by
  by_cases hd : t = 0
  · have e : r.setK t v = r := by unfold Crew.setK; exact if_pos hd
    rw [e]
    exact ⟨rfl, fun h => absurd hd h, fun _ _ => rfl, fun _ => rfl⟩
  · have e : r.setK t v = { r with kregs := Sparse.put 0 r.kregs t.toNat v } := by unfold Crew.setK; exact if_neg hd
    rw [e]
    refine ⟨rfl, fun _ _ _ => ?_, fun n hn => ?_, fun h => absurd h hd⟩
    · unfold Crew.kreg; rw [if_neg hd]; simp
    · have : ¬ n.toNat = t.toNat := fun e => hn (BitVec.eq_of_toNat_eq e)
      unfold Crew.kreg; simp [this]

theorem SetsK.congr {r r' : Crew} {t : KReg} {f f' : Nat → Bool} (h : SetsK r r' t f) (e : ∀ l, l < 32 → f l = f' l) :
    SetsK r r' t f' where
  rest := h.rest
  new ht l hl := (h.new ht l hl).trans (e l hl)
  other := h.other
  zero := h.zero

theorem Crew.setsLanes (r : Crew) (t : KReg) (m : LaneMask) (f : Nat → Bool) :
    SetsK r (r.setLanes t m f) t fun l => if m.getLsbD l then f l else (r.kreg t).getLsbD l :=
  (r.setsK t _).congr fun l hl => by rw [getLsbD_maskOf, decide_eq_true hl, Bool.true_and]

theorem Crew.setsQ (r : Crew) (q : QReg) (v : BitVec 144) : SetsQ r (r.setQ q v) q v where
  rest := rfl
  new := by simp [Crew.setQ, Crew.qreg]
  other n h := by
    have : ¬ n.toNat = q.toNat := fun e => h (BitVec.eq_of_toNat_eq e)
    simp [Crew.setQ, Crew.qreg, this]

theorem Crew.pc_setPcs (r : Crew) (m : LaneMask) (f : Nat → PC) (l : Nat) (h : l < 32) :
    (r.setPcs m f).pc l = if m.getLsbD l then f l else r.pc l := by
  simp only [Crew.setPcs]
  rw [Crew.pc, List.getD_eq_getElem?_getD, List.getElem?_map, allLanes_getElem? l h]
  simp

theorem Crew.movesHead (r : Crew) (f : Nat → PC) : MovesHead r (r.setPcs r.head f) f where
  rest := rfl
  new l h hm := by rw [Crew.pc_setPcs _ _ _ _ h, if_pos hm]
  other l h hm := by rw [Crew.pc_setPcs _ _ _ _ h, hm]; simp

end Sys2Proof.Machine
end

