-- ==== Sys2Proof/Laws/Device.lean ====
section
/-!
SUPPORT. What peers owe a crew or a command, and what a head does as TIME passes: one lemma for each operation.
-/

namespace Sys2Proof.Machine

variable {s u : State} {c n h time : Nat} {sent : Bool}

/-- A command awaits its frames while a peer that is up has not acknowledged one of them. -/
theorem State.stageOwed_iff :
    s.stageOwed n = true ↔ ∃ p ∈ s.links.peers, p.2.up = true ∧ ∃ f ∈ p.2.unacked, f.group = n := by
  simp only [State.stageOwed, List.any_eq_true, Bool.and_eq_true, beq_iff_eq]

/-- A load of a crew is owed while a peer has not acknowledged a frame of it. -/
theorem State.owed_iff :
    s.owed c = true ↔ ∃ t ∈ (s.auxOf c).returning, t.group ≠ 0 ∧ t.group < s.nextId ∧ t.lost = none ∧
      ∃ p ∈ s.links.peers, ∃ f ∈ p.2.unacked, f.group = t.group ∧ ∃ x ∈ f.sources, x.1 = c := by
  constructor
  · intro h
    obtain ⟨t, ht, h⟩ := List.any_eq_true.mp h
    simp only [State.arrives, Bool.and_eq_true, bne_iff_ne, decide_eq_true_eq, Option.isNone_iff_eq_none, Bool.not_eq_true'] at h
    obtain ⟨⟨⟨h0, h1⟩, h2⟩, h3⟩ := h
    refine ⟨t, ht, h0, h1, h2, ?_⟩
    simpa [h0, h2] using h3
  · rintro ⟨t, ht, h0, h1, h2, p, hp, f, hf, hg, x, hx, hc⟩
    refine List.any_eq_true.mpr ⟨t, ht, ?_⟩
    simp only [State.arrives, h2, Option.isNone_none, Bool.true_and, Bool.and_true, Bool.and_eq_true, bne_iff_ne, ne_eq, h0,
      not_false_eq_true, decide_eq_true_eq, h1, true_and, Bool.not_eq_true', Bool.or_eq_false_iff, beq_eq_false_iff_ne,
      Bool.not_eq_false']
    simp only [List.any_eq_true, Bool.and_eq_true, beq_iff_eq]
    exact ⟨p, hp, f, hf, hg, x, hx, hc⟩

/-- A command that sent no frame goes on at once; one that did keeps what it has done, and awaits the frames under its number. -/
theorem State.stageFrames_cases :
    (s.stageFrames u sent = none ∧ (s.noteFlights u [] u.nextId).stageOwed u.nextId = false) ∨
    ∃ v, s.stageFrames u sent = some v ∧ (s.noteFlights u [] u.nextId).stageOwed u.nextId = true ∧
      v.pithead.staged = some { group := u.nextId, sent := sent, lost := false, again := false } ∧
      { v with pithead := s.pithead, links := s.links, nextId := s.nextId } = s := by
  have note : { s.noteFlights u [] u.nextId with links := s.links } = s := by unfold State.noteFlights; split <;> rfl
  by_cases h : (s.noteFlights u [] u.nextId).stageOwed u.nextId = true
  · refine .inr ⟨_, if_pos h, h, rfl, ?_⟩
    generalize s.noteFlights u [] u.nextId = t at note
    rw [← note]
  · exact .inl ⟨if_neg h, by simpa using h⟩

/-- A head with no reading at its end shows nothing. -/
theorem State.showTo_idle (k : (s.headOf h).emittedBy time = false) : s.showTo h time n = s := by
  cases n <;> simp [State.showTo, k]

/-- A head with nothing to do by a TIME has no turn. -/
theorem State.headTurn_idle (d : (s.headOf h).dueBy time = false) (k : (s.headOf h).emittedBy time = false) :
    s.headTurn h time = none := by
  have e : (s.headOf h).emittedBy (min time (s.headOf h).nextDueTime) = false := by
    simp only [Head.emittedBy, Bool.and_eq_false_iff, decide_eq_false_iff_not] at k ⊢
    exact k.imp id fun k => by omega
  simp [State.headTurn, d, e]

/-- What a head's first turn can be: the end of a reading that comes no later than the next due update, or that update. -/
theorem State.headTurn_cases {t : State} (k : s.headTurn h time = some t) :
    (t = s.endShown h ∧ (s.headOf h).emittedBy (min time (s.headOf h).nextDueTime) = true) ∨
    (t = s.dueUpdate h ∧ (s.headOf h).dueBy time = true ∧ (s.headOf h).emittedBy (min time (s.headOf h).nextDueTime) = false) := by
  unfold State.headTurn at k
  dsimp only at k
  split at k
  · rename_i e; exact .inl ⟨(Option.some.inj k).symm, e⟩
  · rename_i e
    split at k
    · rename_i d; exact .inr ⟨(Option.some.inj k).symm, d, by simpa using e⟩
    · cases k

end Sys2Proof.Machine
end

