-- ==== Sys2Proof/Laws/Memory.lean ====
section
/-!
SUPPORT. Every operation of Machine/Mem.lean, and the host's writes, keep the memories in canonical form; reset has it.
-/

namespace Sys2Proof.Machine

theorem Memory.wf_iff (m : Memory) : m.wf = true ↔ Sparse.wf 0 m.phys = true ∧ Sparse.wf 0 m.keys = true ∧
    Sparse.wf LineForm.plain m.forms = true ∧ Sparse.wf none m.l2 = true ∧ Sparse.wf 0 m.host = true ∧
    Sparse.wf 0 m.bar2 = true := by
  simp [Memory.wf, and_assoc]

/-- The memories of the reset state are in canonical form. -/
theorem State.reset_mem_wf : State.reset.mem.wf = true := rfl

/-- A fold over steps that keep the canonical form keeps it. -/
theorem wf_foldl {α : Type} (f : State → α → State) (hf : ∀ u x, u.mem.wf = true → (f u x).mem.wf = true) (l : List α)
    {s : State} (h : s.mem.wf = true) : (l.foldl f s).mem.wf = true := by
  induction l generalizing s with
  | nil => exact h
  | cons x t ih => exact ih (hf s x h)

/-- The same for a fold that carries a result beside the state. -/
theorem wf_foldl_snd {α β : Type} (f : β × State → α → β × State)
    (hf : ∀ a x, a.2.mem.wf = true → (f a x).2.mem.wf = true) (l : List α) {a : β × State} (h : a.2.mem.wf = true) :
    (l.foldl f a).2.mem.wf = true := by
  induction l generalizing a with
  | nil => exact h
  | cons x t ih => exact ih (hf a x h)

/-- The same for a fold that carries two results beside the state. -/
theorem wf_foldl_snd2 {α β γ : Type} (f : β × γ × State → α → β × γ × State)
    (hf : ∀ a x, a.2.2.mem.wf = true → (f a x).2.2.mem.wf = true) (l : List α) {a : β × γ × State} (h : a.2.2.mem.wf = true) :
    (l.foldl f a).2.2.mem.wf = true := by
  induction l generalizing a with
  | nil => exact h
  | cons x t ih => exact ih (hf a x h)

variable {s : State}

theorem State.onCore_wf (h : s.mem.wf = true) (c : Nat) (f : Core → Core) : (s.onCore c f).mem.wf = true := h

theorem State.onAux_wf (h : s.mem.wf = true) (c : Nat) (f : CrewAux → CrewAux) : (s.onAux c f).mem.wf = true := h

theorem State.physPut_wf (h : s.mem.wf = true) (pa : Nat) (b : Byte) : (s.physPut pa b).mem.wf = true := by
  rw [Memory.wf_iff] at h ⊢
  exact ⟨Sparse.wf_put h.1, h.2⟩

theorem State.l2Put_wf (h : s.mem.wf = true) (k : Nat) (b : Option CByte) : (s.l2Put k b).mem.wf = true := by
  rw [Memory.wf_iff] at h ⊢
  exact ⟨h.1, h.2.1, h.2.2.1, Sparse.wf_put h.2.2.2.1, h.2.2.2.2⟩

/-- A sector's key may be any. -/
theorem State.keyed_wf (h : s.mem.wf = true) (q k : Nat) :
    ({ s with mem := { s.mem with keys := Sparse.put 0 s.mem.keys q k } } : State).mem.wf = true := by
  rw [Memory.wf_iff] at h ⊢
  exact ⟨h.1, Sparse.wf_put h.2.1, h.2.2⟩

theorem State.putSector_wf (h : s.mem.wf = true) (key : BitVec 8) (sector : Nat) (vals : List Byte) :
    (s.putSector key sector vals).mem.wf = true := by
  have h1 := wf_foldl (fun t i => t.physPut (32 * sector + i) (vals.getD i 0)) (fun _ _ hu => State.physPut_wf hu _ _)
    (List.range 32) h
  unfold State.putSector
  generalize (List.range 32).foldl (fun t i => t.physPut (32 * sector + i) (vals.getD i 0)) s = t at h1 ⊢
  exact State.keyed_wf h1 _ _

theorem State.rekey_wf (h : s.mem.wf = true) (key : BitVec 8) (sector : Nat) : (s.rekey key sector).mem.wf = true := by
  unfold State.rekey
  exact wf_foldl _ (fun _ _ hu => State.putSector_wf hu _ _ _) _ h

theorem State.backPut_wf (h : s.mem.wf = true) (key : BitVec 8) (pa : Nat) (b : Byte) : (s.backPut key pa b).mem.wf = true :=
  State.physPut_wf (State.rekey_wf h key _) pa b

theorem State.reform_wf (h : s.mem.wf = true) (line : Nat) (key : BitVec 8) (view bounded : Bool) :
    (s.reform line key view bounded).mem.wf = true := by
  unfold State.reform
  split
  · exact h
  · have h1 := wf_foldl (fun u j => u.rekey key (4 * line + j)) (fun u j hu => State.rekey_wf hu _ _) (List.range 4) h
    generalize (List.range 4).foldl (fun u j => u.rekey key (4 * line + j)) s = t at h1 ⊢
    rw [Memory.wf_iff] at h1 ⊢
    exact ⟨h1.1, h1.2.1, Sparse.wf_put h1.2.2.1, h1.2.2.2⟩

theorem State.cleanse_wf (h : s.mem.wf = true) (pas : List Nat) : (s.cleanse pas).mem.wf = true := by
  unfold State.cleanse; split <;> exact h

theorem State.choose_wf (h : s.mem.wf = true) (n : Nat) : (s.choose n).2.mem.wf = true := h

theorem State.l2Back_wf (h : s.mem.wf = true) (lk i : Nat) : (s.l2Back lk i).mem.wf = true := by
  unfold State.l2Back
  split
  · exact State.backPut_wf (State.l2Put_wf h _ _) _ _ _
  · exact h

theorem State.l2WriteBack_wf (h : s.mem.wf = true) (lk : Nat) : (s.l2WriteBack lk).mem.wf = true := by
  unfold State.l2WriteBack
  dsimp only
  split
  · exact h
  · exact State.reform_wf (wf_foldl _ (fun _ _ hu => wf_foldl _ (fun _ _ hv => State.l2Back_wf hv _ _) _ hu) _ h) _ _ _ _

theorem State.l2Drop_wf (h : s.mem.wf = true) (lk : Nat) : (s.l2Drop lk).mem.wf = true := by
  have h1 : ∀ u : State, u.mem.wf = true →
      ({ u with mem := { u.mem with lines := u.mem.lines.del lk } } : State).mem.wf = true := fun _ hu => hu
  unfold State.l2Drop
  refine h1 _ ?_
  exact wf_foldl _ (fun _ _ hu => State.l2Put_wf hu _ _) _ h

theorem State.l2Evict_wf (h : s.mem.wf = true) (lk : Nat) : (s.l2Evict lk).mem.wf = true :=
  State.l2Drop_wf (State.l2WriteBack_wf h lk) lk

theorem State.l2Room_wf (h : s.mem.wf = true) (lk : Nat) : (s.l2Room lk).mem.wf = true := by
  unfold State.l2Room
  dsimp only
  split
  · exact h
  · exact State.l2Evict_wf (State.choose_wf h _) _

theorem State.l2Give_wf (h : s.mem.wf = true) (lk : Nat) : (s.l2Give lk).mem.wf = true := by
  unfold State.l2Give
  split
  · exact h
  · exact State.l2Evict_wf h lk

theorem State.l2SetMark_wf (h : s.mem.wf = true) (lk : Nat) (m : L2Mark) (bounded : Bool) :
    (s.l2SetMark lk m bounded).mem.wf = true := h

theorem State.l2Alloc_wf (h : s.mem.wf = true) (lk : Nat) (m : L2Mark) : (s.l2Alloc lk m).mem.wf = true := by
  unfold State.l2Alloc
  split
  · split
    · exact State.l2SetMark_wf h _ _ _
    · exact h
  · exact State.l2SetMark_wf (State.l2Room_wf h _) _ _ _

theorem fillBytes_wf {m : Sparse (Option CByte)} (h : Sparse.wf none m = true) (stays : CByte → Bool) (bs : List (Nat × Byte)) :
    Sparse.wf none (fillBytes stays m bs) = true := by
  unfold fillBytes
  induction bs generalizing m with
  | nil => exact h
  | cons e t ih =>
    refine ih ?_
    dsimp only
    split
    · split
      · exact h
      · exact Sparse.wf_put h
    · exact Sparse.wf_put h

theorem State.l2Fill_wf (h : s.mem.wf = true) (t : MemTag) (m : L2Mark) (pa : Nat) : (s.l2Fill t m pa).mem.wf = true := by
  have h1 := State.l2Alloc_wf h (t.ckey (pa / 128)) m
  unfold State.l2Fill
  generalize s.l2Alloc (t.ckey (pa / 128)) m = u at h1
  dsimp only
  split
  · exact h1
  · generalize (List.range 32).map _ = bs
    rw [Memory.wf_iff] at h1 ⊢
    exact ⟨h1.1, h1.2.1, h1.2.2.1, fillBytes_wf h1.2.2.2.1 _ _, h1.2.2.2.2⟩

theorem State.sliceFill_wf (h : s.mem.wf = true) (t : MemTag) (how : Option L2Mark) (pa : Nat) :
    (s.sliceFill t how pa).mem.wf = true := by
  unfold State.sliceFill
  split
  · split
    · exact State.l2Fill_wf h _ _ _
    · exact h
  · exact h

theorem State.noteView_wf (h : s.mem.wf = true) (t : MemTag) (pa : Nat) : (s.noteView t pa).mem.wf = true := by
  unfold State.noteView; split <;> exact h

theorem State.slicePut_wf (h : s.mem.wf = true) (t : MemTag) (how : Option L2Mark) (pa : Nat) (b : Byte) :
    (s.slicePut t how pa b).mem.wf = true := by
  unfold State.slicePut
  split
  · have h1 := State.sliceFill_wf h t how pa
    generalize s.sliceFill t how pa = u at h1
    dsimp only
    split
    · exact State.noteView_wf (State.l2Put_wf h1 _ _) _ _
    · exact State.reform_wf (State.backPut_wf h1 _ _ _) _ _ _ _
  · exact State.physPut_wf h _ _
  · exact h
  · exact h

theorem State.quantise_wf (h : s.mem.wf = true) (t : MemTag) (line : Nat) : (s.quantise t line).mem.wf = true :=
  wf_foldl _ (fun _ _ hu => State.slicePut_wf hu _ _ _ _) _ h

@[simp] theorem State.sendPeer_mem (s : State) (peer : BitVec 4) (q : FabricReq) : (s.sendPeer peer q).mem = s.mem := by
  unfold State.sendPeer
  split
  · rfl
  · split <;> rfl

theorem State.sendPeer_wf (h : s.mem.wf = true) (peer : BitVec 4) (q : FabricReq) : (s.sendPeer peer q).mem.wf = true := by
  rw [State.sendPeer_mem]; exact h

@[simp] theorem State.noteFlights_mem (s before : State) (l : List (Nat × DWord)) (n : Nat) :
    (s.noteFlights before l n).mem = s.mem := by
  unfold State.noteFlights; split <;> rfl

theorem State.noteFlights_wf (h : s.mem.wf = true) (before : State) (l : List (Nat × DWord)) (n : Nat) :
    (s.noteFlights before l n).mem.wf = true := by
  rw [State.noteFlights_mem]; exact h

theorem State.claim_wf (h : s.mem.wf = true) (before : State) (c : Nat) (a : DWord) (n : Nat) :
    (s.claim before c a n).mem.wf = true := State.noteFlights_wf h _ _ _

theorem State.homeWrite_wf (h : s.mem.wf = true) (t : MemTag) (how : Option L2Mark) (ws : List (Nat × Byte)) :
    (s.homeWrite t how ws).mem.wf = true := by
  unfold State.homeWrite
  split
  · refine State.cleanse_wf ?_ _
    have h1 := wf_foldl (fun u (w : Nat × Byte) => u.slicePut t how w.1 w.2) (fun _ _ hu => State.slicePut_wf hu _ _ _ _) ws h
    split
    · exact wf_foldl _ (fun _ _ hu => State.quantise_wf hu _ _) _ h1
    · exact h1
  · exact wf_foldl _ (fun _ _ hu => State.sendPeer_wf hu _ _) _ h

theorem State.homeRead_wf (h : s.mem.wf = true) (t : MemTag) (how : Option L2Mark) (pa n : Nat) :
    (s.homeRead t how pa n).2.mem.wf = true := by
  unfold State.homeRead
  split
  · exact wf_foldl (fun u i => u.sliceFill t how (pa + i)) (fun _ _ hu => State.sliceFill_wf hu _ _ _) _ h
  · refine wf_foldl _ (fun _ _ hu => ?_) _ h
    exact State.sendPeer_wf hu _ _

theorem State.toL2_wf (h : s.mem.wf = true) (es : Sparse (Option CByte)) : (s.toL2 es).mem.wf = true := by
  refine State.cleanse_wf (wf_foldl _ (fun u e hu => ?_) _ h) _
  split
  · split
    · exact State.slicePut_wf hu _ _ _ _
    · exact hu
  · exact hu

theorem State.poisonOut_wf (h : s.mem.wf = true) (ps : List Nat) (es : Sparse (Option CByte)) :
    (s.poisonOut ps es).mem.wf = true := by
  unfold State.poisonOut
  dsimp only
  split <;> exact h

theorem State.l1EvictKey_wf (h : s.mem.wf = true) (core lk : Nat) : (s.l1EvictKey core lk).mem.wf = true := by
  unfold State.l1EvictKey
  dsimp only
  split
  · exact h
  · exact State.onCore_wf (State.poisonOut_wf (State.toL2_wf h _) _ _) _ _

theorem State.l1Evict_wf (h : s.mem.wf = true) (core : Nat) (t : MemTag) (pa : Nat) : (s.l1Evict core t pa).mem.wf = true :=
  State.l1EvictKey_wf h _ _

theorem State.l1CleanKey_wf (h : s.mem.wf = true) (core lk : Nat) : (s.l1CleanKey core lk).mem.wf = true := by
  unfold State.l1CleanKey
  dsimp only
  split
  · exact h
  · exact State.onCore_wf (State.poisonOut_wf (State.toL2_wf h _) _ _) _ _

theorem State.l1WriteBack_wf (h : s.mem.wf = true) (core : Nat) : (s.l1WriteBack core).mem.wf = true := by
  exact State.onCore_wf (State.poisonOut_wf (State.toL2_wf h _) _ _) _ _

theorem State.l1DropClean_wf (h : s.mem.wf = true) (core : Nat) : (s.l1DropClean core).mem.wf = true := h

theorem State.l1Room_wf (h : s.mem.wf = true) (core lk : Nat) : (s.l1Room core lk).mem.wf = true := by
  unfold State.l1Room
  dsimp only
  split
  · exact h
  · split
    · exact h
    · exact State.l1EvictKey_wf (State.choose_wf h _) _ _

theorem State.l1Put_wf (h : s.mem.wf = true) (core k : Nat) (b : CByte) : (s.l1Put core k b).mem.wf = true :=
  State.onCore_wf (State.l1Room_wf h _ _) _ _

theorem State.l1Store_wf (h : s.mem.wf = true) (core : Nat) (t : MemTag) (pa : Nat) (b : Byte) :
    (s.l1Store core t pa b).mem.wf = true := State.onCore_wf (State.l1Put_wf h _ _ _) _ _

theorem State.l1Cleanse_wf (h : s.mem.wf = true) (core : Nat) (t : MemTag) (pas : List Nat) :
    (s.l1Cleanse core t pas).mem.wf = true := by
  unfold State.l1Cleanse; split <;> exact h

theorem State.l1Fill_wf (h : s.mem.wf = true) (core : Nat) (t : MemTag) (how : Option L2Mark) (pa : Nat) :
    (s.l1Fill core t how pa).mem.wf = true :=
  State.onCore_wf (State.sliceFill_wf (State.l1Room_wf h _ _) _ _ _) _ _

theorem State.l1Load_wf (h : s.mem.wf = true) (core : Nat) (t : MemTag) (cache : CachePolicy) (pa n : Nat) :
    (s.l1Load core t cache pa n).2.mem.wf = true := by
  unfold State.l1Load
  dsimp only
  split
  · exact h
  · refine wf_foldl _ (fun u q hu => ?_) _ h
    split
    · exact State.sliceFill_wf (State.l1Evict_wf hu _ _ _) _ _ _
    · exact State.l1Fill_wf hu _ _ _ _

theorem State.wcWrite_wf (h : s.mem.wf = true) (core : Nat) (w : WcLine) : (s.wcWrite core w).mem.wf = true :=
  State.noteFlights_wf (State.homeWrite_wf (State.l1Evict_wf h _ _ _) _ _ _) _ _ _

theorem State.wcFlush_wf (h : s.mem.wf = true) (core : Nat) : (s.wcFlush core).mem.wf = true := by
  exact State.onCore_wf (wf_foldl _ (fun _ _ hu => State.wcWrite_wf hu _ _) _ h) _ _

theorem State.wcYield_wf (h : s.mem.wf = true) (core : Nat) (t : MemTag) (pa : Nat) : (s.wcYield core t pa).mem.wf = true := by
  unfold State.wcYield
  dsimp only
  split
  · exact State.onCore_wf (wf_foldl _ (fun _ _ hu => State.wcWrite_wf hu _ _) _ h) _ _
  · exact h

theorem State.wcStore_wf (h : s.mem.wf = true) (core : Nat) (e : StoreEvent) (t : MemTag) (pa : Nat) (b : Byte) :
    (s.wcStore core e t pa b).mem.wf = true := by
  unfold State.wcStore
  dsimp only
  split
  · exact h
  · split
    · split
      · exact h
      · exact State.onCore_wf (State.wcWrite_wf h _ _) _ _
    · exact h

theorem State.mmioWrite_wf (h : s.mem.wf = true) (ws : List (Nat × Byte)) : (s.mmioWrite ws).mem.wf = true := by
  unfold State.mmioWrite
  have h1 : (ws.foldl (fun u w => match ctlAt w.1 with
      | some (ctx, o) => u.putCtl ctx ((u.ctlOf ctx).setByte false o w.2)
      | none => u) s).mem.wf = true := by
    refine wf_foldl _ (fun u w hu => ?_) _ h
    split <;> exact hu
  dsimp only
  split <;> exact h1

theorem State.tagWrite_wf (h : s.mem.wf = true) (t : MemTag) (how : Option L2Mark) (ws : List (Nat × Byte)) :
    (s.tagWrite t how ws).mem.wf = true := by
  have h1 : (if (ws.filter fun w => s.onDevice t w.1).isEmpty then s
      else s.mmioWrite (ws.filter fun w => s.onDevice t w.1)).mem.wf = true := by
    split
    · exact h
    · exact State.mmioWrite_wf h _
  unfold State.tagWrite
  dsimp only
  split
  · exact h1
  · exact State.homeWrite_wf h1 _ _ _

theorem State.performDevice_wf (h : s.mem.wf = true) (e : StoreEvent) : (s.performDevice e).mem.wf = true :=
  wf_foldl _ (fun _ _ hu => State.mmioWrite_wf hu _) _ h

theorem State.releaseAt_wf (h : s.mem.wf = true) (core : Nat) (wide : Bool) : (s.releaseAt core wide).mem.wf = true := by
  unfold State.releaseAt
  dsimp only
  split
  · exact State.l1WriteBack_wf (State.wcFlush_wf h _) _
  · exact State.wcFlush_wf h _

theorem State.acquireAt_wf (h : s.mem.wf = true) (core : Nat) (wide : Bool) : (s.acquireAt core wide).mem.wf = true := by
  unfold State.acquireAt; split <;> exact h

theorem State.perform_wf (h : s.mem.wf = true) (core : Nat) (e : StoreEvent) (t : MemTag) (ws : List (Nat × Byte)) :
    (s.perform core e t ws).mem.wf = true := by
  unfold State.perform
  split
  · exact wf_foldl _ (fun _ _ hu => State.wcStore_wf (State.l1Evict_wf hu _ _ _) _ _ _ _ _) _ h
  · have h1 := wf_foldl (fun u n => u.wcYield core t (n * 128)) (fun _ _ hu => State.wcYield_wf hu _ _ _)
      (linesOf (ws.map (·.1))) h
    dsimp only
    generalize (linesOf (ws.map (·.1))).foldl (fun u n => u.wcYield core t (n * 128)) s = u at h1
    have h2 : (if e.cache == .retain then
        (linesOf (ws.map (·.1))).foldl (fun v n => v.l2Alloc (t.ckey n) .retained) u else u).mem.wf = true := by
      split
      · exact wf_foldl _ (fun _ _ hv => State.l2Alloc_wf hv _ _) _ h1
      · exact h1
    split
    · exact State.l1Cleanse_wf (wf_foldl _ (fun _ _ hu => State.l1Store_wf hu _ _ _ _) _ h2) _ _ _
    · exact State.homeWrite_wf (wf_foldl _ (fun _ _ hu => State.l1Evict_wf hu _ _ _) _ h1) _ _ _

theorem State.cleanLine_wf (h : s.mem.wf = true) (core : Nat) (t : MemTag) (pa : Nat) : (s.cleanLine core t pa).mem.wf = true := by
  unfold State.cleanLine
  split
  · exact h
  · exact State.l2WriteBack_wf (State.l1CleanKey_wf h _ _) _

theorem State.flushLine_wf (h : s.mem.wf = true) (core : Nat) (t : MemTag) (pa : Nat) : (s.flushLine core t pa).mem.wf = true := by
  unfold State.flushLine
  split
  · exact h
  · exact State.l2Evict_wf (State.l1EvictKey_wf h _ _) _

theorem State.byTag_wf (h : s.mem.wf = true) (bs : List ((MemTag × Nat) × Byte))
    (f : State → MemTag → List (Nat × Byte) → State) (hf : ∀ u t ws, u.mem.wf = true → (f u t ws).mem.wf = true) :
    (s.byTag bs f).mem.wf = true := wf_foldl _ (fun _ _ hu => hf _ _ _ hu) _ h

theorem State.performEvent_wf (h : s.mem.wf = true) (core : Nat) (wide : Scope → Bool) (e : StoreEvent) :
    (s.performEvent core wide e).mem.wf = true := by
  unfold State.performEvent
  dsimp only
  have h1 : (match e.release with
      | some sc => s.releaseAt core (wide sc)
      | none => s).mem.wf = true := by
    split
    · exact State.releaseAt_wf h _ _
    · exact h
  split
  · exact State.byTag_wf (State.performDevice_wf h1 _) _ _ fun _ _ _ hu => State.perform_wf hu _ _ _ _
  · exact wf_foldl _ (fun _ _ hu => State.cleanLine_wf hu _ _ _) _ h1
  · exact wf_foldl _ (fun _ _ hu => State.flushLine_wf hu _ _ _) _ h1

theorem State.drainEvent_wf (h : s.mem.wf = true) (c : Nat) (r : Crew) (e : StoreEvent) : (s.drainEvent c r e).mem.wf = true :=
  State.claim_wf (State.performEvent_wf h _ _ _) _ _ _ _

theorem State.drainOne_wf (h : s.mem.wf = true) (c : Nat) (r : Crew) : (s.drainOne c r).mem.wf = true := by
  unfold State.drainOne
  split
  · exact h
  · split
    · exact h
    · exact State.onAux_wf (State.drainEvent_wf h _ _ _) _ _

theorem State.drainAll_wf (h : s.mem.wf = true) (c : Nat) (r : Crew) : (s.drainAll c r).mem.wf = true := by
  exact State.onAux_wf (wf_foldl _ (fun _ _ hu => State.drainEvent_wf hu _ _ _) _ h) _ _

theorem State.release_wf (h : s.mem.wf = true) (c : Nat) (r : Crew) (sc : Scope) : (s.release c r sc).mem.wf = true :=
  State.releaseAt_wf (State.drainAll_wf h c r) _ _

theorem State.acquire_wf (h : s.mem.wf = true) (r : Crew) (sc : Scope) : (s.acquire r sc).mem.wf = true :=
  State.acquireAt_wf h _ _

theorem State.touch_wf (h : s.mem.wf = true) (c : Nat) (t : MemTag) (pa : Nat) : (s.touch c t pa).mem.wf = true := by
  unfold State.touch; split <;> exact h

theorem State.setAD_wf (h : s.mem.wf = true) (kind : AccKind) (l : Leaf) : (s.setAD kind l).mem.wf = true := by
  unfold State.setAD
  generalize (l.pte ||| 0x200 ||| (if kind.writes then 0x400 else 0)) = e
  dsimp only
  split
  · exact h
  · exact wf_foldl _ (fun _ _ hu => State.slicePut_wf hu _ _ _ _) _ h

theorem State.remember_wf (h : s.mem.wf = true) (via : Option Nat) (ctx va : Nat) (l : Leaf) :
    (s.remember via ctx va l).mem.wf = true := by
  unfold State.remember
  dsimp only
  split <;> exact h

theorem State.findLeaf_mem (s : State) (via : Option Nat) (ctx va : Nat) (kind : AccKind) :
    (s.findLeaf via ctx va kind).2.mem = s.mem := by
  unfold State.findLeaf
  dsimp only
  repeat' split
  all_goals rfl

theorem State.xlate_wf (h : s.mem.wf = true) (via : Option Nat) (ctx : Nat) (priv : Bool) (kind : AccKind) (va : DWord) :
    (s.xlate via ctx priv kind va).2.mem.wf = true := by
  unfold State.xlate
  split
  · exact h
  · dsimp only
    have h1 : (s.findLeaf via ctx (va.setWidth 57).toNat kind).2.mem.wf = true := by rw [State.findLeaf_mem]; exact h
    generalize s.findLeaf via ctx (va.setWidth 57).toNat kind = x at h1
    obtain ⟨a, t⟩ := x
    cases a with
    | error f => exact h1
    | ok l =>
      dsimp only
      split
      · split
        · exact State.remember_wf h1 _ _ _ _
        · exact h1
      · exact State.remember_wf (State.setAD_wf h1 _ _) _ _ _ _

theorem State.checkLane_wf (h : s.mem.wf = true) (via : Option Nat) (ctx : Nat) (priv : Bool) (q : LaneAcc) :
    (s.checkLane via ctx priv q).2.mem.wf = true := by
  unfold State.checkLane
  split
  · exact h
  · have h1 := State.xlate_wf h via ctx priv q.kind q.va
    generalize s.xlate via ctx priv q.kind q.va = x at h1
    obtain ⟨a, t⟩ := x
    cases a with
    | error f => exact h1
    | ok p =>
      dsimp only
      split
      · exact h1
      · split <;> exact h1

theorem State.gatherLanes_wf (h : s.mem.wf = true) (via : Option Nat) (ctx : Nat) (priv : Bool) (qs : List (Nat × LaneAcc)) :
    (s.gatherLanes via ctx priv qs).2.2.mem.wf = true := by
  refine wf_foldl_snd2 _ (fun a q ha => ?_) _ h
  have h1 := State.checkLane_wf ha via ctx priv q.2
  generalize a.2.2.checkLane via ctx priv q.2 = x at h1
  obtain ⟨b, t⟩ := x
  cases b <;> exact h1

theorem State.checkLanes_wf (h : s.mem.wf = true) (via : Option Nat) (ctx : Nat) (priv : Bool) (qs : List (Nat × LaneAcc)) :
    (s.checkLanes via ctx priv qs).2.mem.wf = true := by
  have h1 := State.gatherLanes_wf h via ctx priv qs
  unfold State.checkLanes
  dsimp only
  split <;> exact h1

theorem State.beforeLoad_wf (h : s.mem.wf = true) (c : Nat) (r : Crew) (t : MemTag) (pa n : Nat) :
    (s.beforeLoad c r t pa n).mem.wf = true := by
  unfold State.beforeLoad
  have h1 : (if mustFollow (s.auxOf c).storeQ (s.onDevice t pa) t pa n then s.drainAll c r else s).mem.wf = true := by
    split
    · exact State.drainAll_wf h _ _
    · exact h
  generalize (if mustFollow (s.auxOf c).storeQ (s.onDevice t pa) t pa n then s.drainAll c r else s) = u at h1
  dsimp only
  refine State.touch_wf ?_ _ _ _
  split
  · exact h1
  · exact State.wcYield_wf h1 _ _ _

theorem State.loadLane_wf (h : s.mem.wf = true) (c : Nat) (r : Crew) (t : MemTag) (pa n : Nat) (acq : Bool)
    (cache : CachePolicy) : (s.loadLane c r t pa n acq cache).2.mem.wf = true := by
  have h1 := State.beforeLoad_wf h c r t pa n
  unfold State.loadLane
  dsimp only
  generalize s.beforeLoad c r t pa n = s1 at h1
  split
  · exact h1
  · have h2 : (if !s1.l1Able t pa || acq then s1.l1Evict r.core t pa else s1).mem.wf = true := by
      split
      · exact State.l1Evict_wf h1 _ _ _
      · exact h1
    generalize (if !s1.l1Able t pa || acq then s1.l1Evict r.core t pa else s1) = s2 at h2
    have h3 := State.l1Load_wf h2 r.core t cache pa n
    have h4 := State.homeRead_wf h2 t (l2How t.attr cache) pa n
    split <;> split <;> assumption

theorem State.storeEvent_wf (h : s.mem.wf = true) (c : Nat) (kind : StoreKind) (release : Option Scope) (cache : CachePolicy)
    (addr : DWord) (width : Nat) (lanes : List (MemTag × Nat × List Byte)) :
    (s.storeEvent c kind release cache addr width lanes).mem.wf = true := by
  unfold State.storeEvent
  have h1 : (lanes.foldl (fun u (x : MemTag × Nat × List Byte) => u.touch c x.1 x.2.1) s).mem.wf = true :=
    wf_foldl _ (fun _ _ hu => State.touch_wf hu _ _ _) _ h
  dsimp only
  split <;> exact h1

theorem State.atomicLane_wf (h : s.mem.wf = true) (c : Nat) (r : Crew) (t : MemTag) (cache : CachePolicy) (pa n : Nat)
    (f : List Byte → Option (List Byte)) (req : FabricReq) : (s.atomicLane c r t cache pa n f req).2.mem.wf = true := by
  have h1 := wf_foldl (fun u k => ((u.wcYield r.core t (k * 128)).l1Evict r.core t (k * 128)).touch c t (k * 128))
    (fun _ _ hu => State.touch_wf (State.l1Evict_wf (State.wcYield_wf hu _ _ _) _ _ _) _ _ _)
    (linesOf ((List.range n).map (pa + ·))) (State.drainAll_wf h c r)
  unfold State.atomicLane
  dsimp only
  split
  · split
    · split
      · exact State.mmioWrite_wf h1 _
      · exact h1
    · split
      · exact State.homeWrite_wf h1 _ _ _
      · exact wf_foldl _ (fun _ _ hu => State.sliceFill_wf hu _ _ _) _ h1
  · rw [State.sendPeer_mem]; exact h1

theorem State.devRead_wf (h : s.mem.wf = true) (ctx : Nat) (va : DWord) (n : Nat) : (s.devRead ctx va n).2.mem.wf = true := by
  refine wf_foldl_snd _ (fun a i ha => ?_) _ h
  obtain ⟨b, u⟩ := a
  cases b with
  | none => exact ha
  | some bs =>
    dsimp only at ha ⊢
    have h1 := State.xlate_wf ha none ctx true .read (va + BitVec.ofNat 64 i)
    generalize u.xlate none ctx true .read (va + BitVec.ofNat 64 i) = x at h1
    obtain ⟨p, t⟩ := x
    cases p with
    | error f => exact h1
    | ok p =>
      dsimp only
      split
      · exact h1
      · split
        · exact h1
        · exact State.homeRead_wf h1 _ _ _ _

theorem State.devPlaces_wf (h : s.mem.wf = true) (ctx : Nat) (va : DWord) (n : Nat) : (s.devPlaces ctx va n).2.mem.wf = true := by
  refine wf_foldl_snd _ (fun a i ha => ?_) _ h
  obtain ⟨b, u⟩ := a
  cases b with
  | none => exact ha
  | some ps =>
    dsimp only at ha ⊢
    have h1 := State.xlate_wf ha none ctx true .write (va + BitVec.ofNat 64 i)
    generalize u.xlate none ctx true .write (va + BitVec.ofNat 64 i) = x at h1
    obtain ⟨p, t⟩ := x
    cases p with
    | error f => exact h1
    | ok p => dsimp only; split <;> exact h1

theorem State.placeWrite_wf (h : s.mem.wf = true) (ps : List (MemTag × Nat)) (bs : List Byte) :
    (s.placeWrite ps bs).mem.wf = true := by
  exact State.byTag_wf h _ _ fun u t ws hu => State.tagWrite_wf hu _ _ _

theorem State.devWrite_wf (h : s.mem.wf = true) (ctx : Nat) (va : DWord) (bs : List Byte) :
    (s.devWrite ctx va bs).2.mem.wf = true := by
  have h1 := State.devPlaces_wf h ctx va bs.length
  unfold State.devWrite
  generalize s.devPlaces ctx va bs.length = x at h1
  obtain ⟨a, t⟩ := x
  cases a with
  | none => exact h1
  | some ps => exact State.placeWrite_wf h1 _ _

theorem State.codeFill_wf (h : s.mem.wf = true) (core : Nat) (l : ILine) : (s.codeFill core l).mem.wf = true := by
  unfold State.codeFill
  dsimp only
  split <;> exact h

theorem State.fetchWord_wf (h : s.mem.wf = true) (core ctx : Nat) (priv : Bool) (pc : PC) :
    (s.fetchWord core ctx priv pc).2.mem.wf = true := by
  have h1 := State.xlate_wf h (some core) ctx priv .fetch (pc.signExtend 64)
  unfold State.fetchWord
  dsimp only
  generalize s.xlate (some core) ctx priv .fetch (pc.signExtend 64) = x at h1
  obtain ⟨a, t⟩ := x
  cases a with
  | error f => exact h1
  | ok p =>
    dsimp only
    split
    · exact h1
    · split
      · exact h1
      · split
        · exact State.homeRead_wf h1 _ _ _ _
        · exact State.codeFill_wf (State.homeRead_wf h1 _ _ _ _) _ _

theorem State.hostPut_wf (h : s.mem.wf = true) (a : Nat) (bs : List Byte) : (s.hostPut a bs).mem.wf = true := by
  rw [Memory.wf_iff] at h ⊢
  refine ⟨h.1, h.2.1, h.2.2.1, h.2.2.2.1, ?_, h.2.2.2.2.2⟩
  exact List.foldlRecOn (motive := fun m => Sparse.wf 0 m = true) (List.range bs.length) _ h.2.2.2.2.1
    (fun m hm i _ => Sparse.wf_put hm)

theorem State.bar2Put_wf (h : s.mem.wf = true) (off : Nat) (bs : List Byte) : (s.bar2Put off bs).mem.wf = true := by
  rw [Memory.wf_iff] at h ⊢
  refine ⟨h.1, h.2.1, h.2.2.1, h.2.2.2.1, h.2.2.2.2.1, ?_⟩
  refine List.foldlRecOn (motive := fun m => Sparse.wf 0 m = true) (List.range bs.length) _ h.2.2.2.2.2 (fun m hm i _ => ?_)
  dsimp only
  split
  · exact Sparse.wf_put hm
  · exact hm

theorem State.poke_wf (h : s.mem.wf = true) (pa n v : Nat) : (s.poke pa n v).mem.wf = true :=
  wf_foldl _ (fun _ _ hu => State.slicePut_wf hu _ _ _ _) _ h

end Sys2Proof.Machine
end

