-- ==== Sys2Proof/Tests/Slice0.lean ====
section
/-!
SUPPORT. Tests of the decoder on words written out by the fields of 02 Tables 2.1 and 2.4, the terms that `Instr.wf`
refuses, one-step results of the spec's worked examples, and for the statements with hypotheses states that meet them.
-/

set_option maxRecDepth 20000
set_option Elab.async false

namespace Sys2Proof.Tests

open Sys2Proof Sys2Proof.Machine

/-! ## Words by format (02 Table 2.1) -/

def vvv (op : BitVec 8) (d a b : BitVec 7) (k : BitVec 3) : Word := op ++ d ++ a ++ b ++ k
def vvi (op : BitVec 8) (d a : BitVec 7) (i : BitVec 10) : Word := op ++ d ++ a ++ i
def vi (op : BitVec 8) (d : BitVec 7) (i : BitVec 17) : Word := op ++ d ++ i
def vvvc (op : BitVec 8) (cc : BitVec 4) (kt : BitVec 3) (a b : BitVec 7) (k : BitVec 3) : Word := op ++ cc ++ kt ++ a ++ b ++ k
def mem (op : BitVec 8) (d a : BitVec 7) (s : BitVec 5) (w : BitVec 2) (k : BitVec 3) : Word := op ++ d ++ a ++ s ++ w ++ k
def brc (op : BitVec 8) (a : BitVec 7) (c : BitVec 3) (off : BitVec 14) : Word := op ++ a ++ c ++ off
def jmp (op : BitVec 8) (off : BitVec 24) : Word := op ++ off
def sys (op : BitVec 8) (f : BitVec 8) (x : BitVec 16) : Word := op ++ f ++ x
def hnt (kind : BitVec 4) (p : BitVec 20) : Word := 0xFF#8 ++ kind ++ p

/-- Every word of a list decodes to the instruction beside it. -/
def decodesTo (l : List (Word × Instr)) : Bool := l.all fun p => decide (decode p.1 = .ok p.2)

/-! ## Decoding (02 Table 2.4) -/

theorem test_decode_integer : decodesTo [
    (vvv 0x01 5 6 7 1, .add 5 6 7 1), (vvv 0x02 5 6 7 1, .sub 5 6 7 1), (vvi 0x03 5 6 0x3FF, .addi 5 6 0x3FF),
    (vvv 0x04 5 6 7 1, .mul 5 6 7 1), (vvv 0x05 5 6 7 1, .mulhi 5 6 7 1), (vvv 0x06 5 6 7 1, .mulhiu 5 6 7 1),
    (vvv 0x07 5 6 7 1, .mad 5 6 7 1), (vvv 0x08 5 6 7 1, .div_ 5 6 7 1), (vvv 0x09 5 6 7 1, .divu 5 6 7 1),
    (vvv 0x0A 5 6 7 1, .rem 5 6 7 1), (vvv 0x0B 5 6 7 1, .remu 5 6 7 1), (vvv 0x0C 5 6 7 1, .min_ 5 6 7 1),
    (vvv 0x0D 5 6 7 1, .max_ 5 6 7 1), (vvv 0x0E 5 6 7 1, .minu 5 6 7 1), (vvv 0x0F 127 126 125 7, .maxu 127 126 125 7),
    (vvv 0x10 5 6 7 1, .and_ 5 6 7 1), (vvv 0x11 5 6 7 1, .or_ 5 6 7 1), (vvv 0x12 5 6 7 1, .xor_ 5 6 7 1),
    (vvv 0x13 5 6 7 1, .andn 5 6 7 1), (vvi 0x14 5 6 9, .andi 5 6 9), (vvi 0x15 5 6 9, .ori 5 6 9),
    (vvi 0x16 5 6 9, .xori 5 6 9), (vvv 0x17 5 6 7 1, .shl 5 6 7 1), (vvv 0x18 5 6 7 1, .shr 5 6 7 1),
    (vvv 0x19 5 6 7 1, .sar 5 6 7 1), (vvi 0x1A 5 6 31, .shli 5 6 31), (vvi 0x1B 5 6 31, .shri 5 6 31),
    (vvi 0x1C 5 6 31, .sari 5 6 31), (vvi 0x1D 5 6 (3#5 ++ 8#5), .bfx 5 6 3 8), (vvi 0x1E 5 6 (3#5 ++ 8#5), .bfxs 5 6 3 8),
    (vvi 0x1F 5 6 (3#5 ++ 8#5), .bfi 5 6 3 8), (vvv 0x20 5 6 0 1, .popc 5 6 1), (vvv 0x21 5 6 0 1, .clz 5 6 1),
    (vvv 0x22 5 6 0 1, .brev 5 6 1)] = true := by decide +kernel

theorem test_decode_masks_and_moves : decodesTo [
    (vvvc 0x23 9 2 6 7 1, .icmp .geu 2 6 7 1), (vvvc 0x24 6 2 6 12 4, .icmpi .ltu 2 6 100), (vvv 0x25 5 6 7 1, .sel 5 6 7 1),
    (vvv 0x26 5 6 7 0, .kand 5 6 7), (vvv 0x27 5 6 7 0, .kor 5 6 7), (vvv 0x28 5 6 7 0, .kxor 5 6 7),
    (vvv 0x29 5 6 7 0, .kandn 5 6 7), (vvv 0x2A 5 6 0 1, .ktov 5 6 1), (vvv 0x2B 5 6 0 1, .vtok 5 6 1),
    (vi 0x2C 5 0x1FFFF, .movi 5 0x1FFFF), (vvv 0x2D 5 6 0 1, .mov 5 6 1), (vvv 0x2E 5 6 0 1, .bcast 5 6 1),
    (vvi 0x2F 5 6 31, .getlane 5 6 31), (vvv 0x30 4 6 7 1, .add64 4 6 7 1), (vvv 0x31 4 6 7 3, .lea 4 6 7 3)] = true := by
  decide +kernel

theorem test_decode_scalars : decodesTo [
    (vvv 0x34 5 6 7 0, .sadd 5 6 7), (vvv 0x35 5 6 7 0, .ssub 5 6 7), (vvi 0x36 5 6 9, .saddi 5 6 9),
    (vvv 0x37 5 6 7 0, .smul 5 6 7), (vvv 0x38 5 6 7 0, .sand 5 6 7), (vvv 0x39 5 6 7 0, .sor 5 6 7),
    (vvv 0x3A 31 6 7 0, .sxor 31 6 7), (vvi 0x3B 5 6 63, .sshli 5 6 63), (vvi 0x3C 5 6 63, .sshri 5 6 63),
    (vi 0x3D 5 7, .smovi 5 7), (vvvc 0x3E 1 2 6 7 0, .scmp .ne 2 6 7), (vvi 0x3F 5 6 63, .ssari 5 6 63)] = true := by decide +kernel

theorem test_decode_floats : decodesTo [
    (vvv 0x40 5 6 7 1, .fadd 5 6 7 1), (vvv 0x41 5 6 7 1, .fsub 5 6 7 1), (vvv 0x42 5 6 7 1, .fmul 5 6 7 1),
    (vvv 0x43 5 6 7 1, .fma 5 6 7 1), (vvv 0x44 5 6 7 1, .fnma 5 6 7 1), (vvv 0x45 5 6 7 1, .fmin 5 6 7 1),
    (vvv 0x46 5 6 7 1, .fmax 5 6 7 1), (vvvc 0x47 6 2 6 7 1, .fcmp .un 2 6 7 1), (vvv 0x48 5 6 7 1, .fdiv 5 6 7 1),
    (vvv 0x49 5 6 0 1, .fsqrt 5 6 1), (vvv 0x4A 5 6 0 1, .frcp 5 6 1), (vvv 0x4B 5 6 0 1, .frsq 5 6 1),
    (vvv 0x4C 5 6 0 1, .fexp2 5 6 1), (vvv 0x4D 5 6 0 1, .flog2 5 6 1), (vvv 0x4E 5 6 0 1, .fsin 5 6 1),
    (vvv 0x4F 5 6 0 1, .fcos 5 6 1), (vvv 0x50 5 6 0 1, .fabs 5 6 1), (vvv 0x51 5 6 0 1, .fneg 5 6 1),
    (vvv 0x52 5 6 0 1, .frint 5 6 1), (vvv 0x53 5 6 0 1, .fclass 5 6 1), (vvv 0x54 5 6 7 1, .hadd2 5 6 7 1),
    (vvv 0x55 5 6 7 1, .hmul2 5 6 7 1), (vvv 0x56 5 6 7 1, .hfma2 5 6 7 1), (vvv 0x57 5 6 7 1, .bfma2 5 6 7 1),
    (vvv 0x58 5 6 7 1, .dot2 5 6 7 .bf16), (vvv 0x59 5 6 7 5, .dot4 5 6 7 .e4e5), (vvv 0x5A 5 6 7 3, .dot8 5 6 7 .e2e2),
    (vvi 0x5C 5 6 (1#1 ++ 1#3 ++ 0#3 ++ 3#3), .cvtf 5 6 true .rtz .fp32 .e4m3),
    (vvi 0x5D 5 6 (0#1 ++ 4#3 ++ 5#3 ++ 7#3), .cvtfi 5 6 .rto .e2m1 .uint4),
    (vvi 0x5E 5 6 (1#1 ++ 3#3 ++ 5#3 ++ 2#3), .cvtif 5 6 true .rdn .uint8 .bf16),
    (vvi 0x5F 5 6 (2#3 ++ 1#3 ++ 0#1 ++ 1#3), .pack 5 6 .rup 1 (.float .fp16)),
    (vvi 0x60 5 6 (0#3 ++ 7#3 ++ 1#1 ++ 6#3), .unpack 5 6 7 (.int .int4))] = true := by decide +kernel

theorem test_decode_cross_lane : decodesTo [
    (vvv 0x62 1 8 0 0, .routeset 1 8), (vvv 0x63 9 10 1 2, .route 9 10 1 2), (vvv 0x64 5 6 7 1, .shfl 5 6 7 1),
    (vvv 0x65 5 6 0 1, .ballot 5 6 1), (vvv 0x66 5 6 3 7, .reduce 5 6 3 .fmax), (vvv 0x67 5 6 3 1, .scan 5 6 3 .min),
    (vvv 0x67 5 6 (8 + 3) 2, .xscan 5 6 3 .max)] = true := by decide +kernel

theorem test_decode_memory : decodesTo [
    (mem 0x80 4 6 7 0 1, .ld 4 6 7 .w4 1), (mem 0x80 4 6 7 2 1, .ld 4 6 7 .w16 1), (mem 0x81 5 6 7 3 1, .ldb 5 6 7 .s16 1),
    (mem 0x82 4 6 7 1 1, .st 4 6 7 .w8 1), (mem 0x83 5 6 7 2 1, .stb 5 6 7 true 1), (mem 0x84 4 6 7 1 1, .ldx 4 6 7 .w8 1),
    (mem 0x85 4 6 7 2 1, .stx 4 6 7 .w16 1), (mem 0x86 4 6 7 0 1, .lds 4 6 7 .w4 1), (mem 0x87 4 6 7 1 1, .sts 4 6 7 .w8 1),
    (mem 0x88 4 6 31 2 1, .ldt 4 6 31 .w16 1), (mem 0x89 5 6 7 1 7, .atom 5 6 7 true .xor),
    (mem 0x8A 4 6 7 0 3, .atom64 4 6 7 false .minu), (mem 0x8B 4 6 7 2 1, .swap 4 6 7 true false 1),
    (mem 0x8C 4 6 7 3 1, .cas 4 6 7 true true 1), (mem 0x8D 5 6 7 1 1, .xadd 5 6 7 true 1),
    (mem 0x8E 5 6 7 1 1, .xrd 5 6 7 true 1), (mem 0x8E 5 6 7 2 1, .xrdc 5 6 7 false 1),
    (sys 0x90 (0#3 ++ 2#2 ++ 4#3) 0, .fence .release .system), (sys 0x91 0x0A 0, .qfence 0xA), (sys 0x92 0 0, .dcfence),
    (sys 0x93 0 15, .bar 15), (sys 0x94 0 14, .barrive 14), (sys 0x95 0 13, .barwait 13), (vvv 0x96 31 6 0 0, .tiledef 31 6),
    (vvi 0x97 30 0 3, .tileset 30 .draining), (vvv 0x98 5 29 0 0, .tileq 5 29), (sys 0x99 0 0, .predwait),
    (sys 0x9A 0 0, .startnext), (mem 0x9B 0 6 7 1 1, .cclean 6 7 true 1), (mem 0x9B 0 6 7 2 1, .cflush 6 7 false 1),
    (mem 0x9C 0 6 7 0 1, .prefetch 6 7 false 1), (mem 0x9C 0 6 7 3 1, .prefetchl2 6 7 true 1)] = true := by decide +kernel

theorem test_decode_matrix : decodesTo [
    (sys 0xA0 1 7, .mmodeOn 7), (sys 0xA0 0 0, .mmodeOff), (vvv 0xA1 0 0 (2#2 ++ 9#5) 5, .wld 2 9 .e2m1),
    (sys 0xA2 0 0, .wswap), (vvv 0xA3 1 0b110 (3#2 ++ 9#5) 7, .mma true true true false 3 9 .bf16),
    (vvv 0xA3 0 0b001 (1#2 ++ 31#5) 1, .mma false false false true 1 31 .uint8), (vvv 0xA4 0 6 0 0, .gang 6),
    (vvv 0xA5 1 0 0 0, .accz true), (vvv 0xA6 1 0 9 0, .accst true 9 .raw), (vvv 0xA7 0 0 9 7, .accld false 9 .int16),
    (vvv 0xA8 5 1 0 0, .accfl 5 true)] = true := by decide +kernel

theorem test_decode_tasks : decodesTo [
    (vvv 0xB0 0 6 0 0, .spawn 6), (vvv 0xB1 5 0 0 0, .take 5), (sys 0xB2 0 0, .done), (vvv 0xB3 0 6 4 0, .join 6 .system),
    (vvv 0xB4 5 6 1 0, .joinq 5 6 .block), (vvv 0xB5 0 6 7 0, .depset 6 7), (vvv 0xB6 0 6 0 0, .depdec 6),
    (vvv 0xB7 5 6 0 0, .racq 5 6), (vvv 0xB8 0 6 7 0, .rcommit 6 7), (vvv 0xB9 5 6 0 0, .rpeek 5 6), (vvv 0xBA 0 6 7 0, .rrel 6 7),
    (vvv 0xBB (3#2 ++ 5#5) 6 8 2, .copy 3 5 6 8 .c16), (vvv 0xBC 0 6 0 0, .cbset 6), (vvv 0xBD (2#2 ++ 5#5) 6 8 0, .copycb 2 5 6 8)]
    = true := by decide +kernel

theorem test_decode_control : decodesTo [
    (brc 0xC0 2 1 0x3FFB, .br (.vec .nez 2) 0x3FFB), (brc 0xC0 3 6 5, .br (.mask true 3) 5), (brc 0xC0 3 7 5, .br (.mask false 3) 5),
    (jmp 0xC1 0xFFFFFF, .j 0xFFFFFF), (vvv 0xC2 0 6 0 1, .jr 6 1), (jmp 0xC3 8, .call 8), (vvv 0xC4 0 6 0 1, .callr 6 1),
    (sys 0xC5 0 0, .ret), (sys 0xC6 0 0, .exit), (sys 0xC7 0 0, .nop), (sys 0xC8 0 0, .yield), (brc 0xC9 6 5 9, .brs 6 .lez 9)]
    = true := by decide +kernel

theorem test_decode_strips_and_system : decodesTo [
    (mem 0xD0 5 6 7 2 1, .bin 5 6 7 .h32 1), (vvv 0xD1 5 6 7 1, .cover 5 6 7 1), (vvvc 0xD2 1 2 6 7 1, .ztest .less 2 6 7 1),
    (mem 0xD3 4 6 7 3 1, .texq 4 6 7 .border 1), (vvv 0xD4 5 6 7 1, .texw 5 6 7 1), (vvv 0xD5 5 0 0 0, .rate 5),
    (vvv 0xD6 5 6 0 0, .chainq 5 6), (sys 0xD7 0 300, .progress 300), (vvv 0xD8 4 0 0 1, .rng 4 1), (vvv 0xD9 0 6 0 0, .rngkey 6),
    (sys 0xE0 0 7, .trap 7), (vvi 0xE1 4 0 (32 + 3), .rdsv (.scal 4) 3), (vvi 0xE1 4 0 16, .rdsv (.vec 4) 16),
    (vvi 0xE2 0 9 21, .wrsv 9 21), (vvv 0xE3 5 0 0 0, .rdtime 5), (vvv 0xE4 0 8 0 0, .waitt 8), (sys 0xE5 0 5, .frflags 5),
    (sys 0xE5 1 5, .fwflags 5), (sys 0xE5 2 5, .fcflags 5), (sys 0xE5 3 5, .frcflags 5), (vvi 0xE6 5 0 28, .rdstate 5 28),
    (vvi 0xE7 0 6 (6#4 ++ 31#6), .wrstate 6 (6 * 64 + 31)), (sys 0xE8 0 0, .rett), (sys 0xE9 0 0, .brk 0)] = true := by decide +kernel

theorem test_decode_hints : decodesTo [
    (hnt 0 0xFFFFF, .hintWide 0xFFFFF), (hnt 1 127, .hintSrc3 127), (hnt 2 0x80000, .hintOff 0x80000),
    (hnt 3 (2 * 8 + 3), .hintOrder .release .device), (hnt 4 4, .hintCache .noalloc),
    (hnt 5 0xF, .hintLastread 0xF), (hnt 6 3, .hintRound .rdn), (hnt 7 0, .hintSched .none), (hnt 7 1, .hintSched .yield),
    (hnt 7 (63 * 4 + 2), .hintSched (.stall 63))] = true := by decide +kernel

/-- Reserved field values are Illegal Instruction (02 R51), must-be-zero bits Reserved Bit (R49), hint payloads that are
not given Illegal Hint (R56). -/
theorem test_decode_refuses :
    decode 0 = .illegal ∧ decode (vvvc 0x23 10 2 6 7 1) = .illegal ∧ decode (vvv 0x59 5 6 7 6) = .illegal ∧
    decode (vvi 0x5C 5 6 (6 * 64)) = .illegal ∧ decode (mem 0x80 4 6 7 3 1) = .illegal ∧ decode (mem 0xD0 5 6 7 3 1) = .illegal ∧
    decode (vvi 0xE2 0 9 20) = .illegal ∧ decode (vvi 0xE1 4 0 (32 + 16)) = .illegal ∧
    decode (vvi 0x5F 5 6 (2 * 16 + 1)) = .illegal ∧ decode (sys 0x90 5 0) = .illegal ∧
    decode (vvv 0x34 (32 + 1) 6 7 0) = .reserved (.sadd 1 6 7) ∧ decode (vvi 0x1A 5 6 (32 + 1)) = .reserved (.shli 5 6 1) ∧
    decode (hnt 8 0) = .badHint ∧ decode (hnt 6 7) = .badHint ∧ decode (hnt 7 5) = .badHint := by decide +kernel

/-- The terms that no word encodes. -/
theorem test_wf_refuses :
    Instr.wf (.pack 0 0 .rne 2 (.float .fp16)) = false ∧ Instr.wf (.pack 0 0 .rtz 0 (.int .int8)) = false ∧
    Instr.wf (.unpack 0 0 4 (.float .e4m3)) = false ∧ Instr.wf (.rdsv (.vec 0) 24) = false ∧
    Instr.wf (.rdsv (.scal 0) 16) = false ∧ Instr.wf (.wrsv 0 20) = false ∧ Instr.wf (.rdstate 0 29) = false ∧
    Instr.wf (.wrstate 0 (5 * 64 + 28)) = false ∧ Instr.wf (.registerWrite 0 3 0) = false ∧
    Instr.wf (.displayportLinkTraining false .uhbr10 3) = false ∧ Instr.wf (.pcieLinkTraining .gts32 8) = false := by decide +kernel

/-! ## A crew that is about to run a group -/

/-- The crew that `State.withCrew` seats on the reset state. -/
def runner : Crew := { crewStart 2 1 0 0 0 0 0 fetchPacket 0x20000 true with phase := .ready }

/-- Its group, at its last word. -/
def group : Issue := { crew := 128, addr := 0x20000, next := 0x20004, hints := [], words := [] }

/-- A machine whose crew 128 is r, issuing that group. -/
def setup (s : State) (r : Crew) : State := { s.putCrew 128 r with issue := some group, inputs := [] }

/-- The machine with that crew, as r. -/
def running (r : Crew) : State := setup State.reset.withCrew r

/-- Whether the crew r runs the instruction. -/
def runsB (s : State) (g : Issue) (r : Crew) (i : Instr) : Bool :=
  decide (issueFault s g.crew r g.hints i = none) && decide (lostAccess s g.crew r g.hints i = none)
    && decide (sharedWait s g.crew r g.hints i = none) && decide (ownWait i s g r = none)

theorem runs_of {s : State} {g : Issue} {r : Crew} {i : Instr} (h : s.issue = some g) (c : s.crews.find g.crew = some r)
    (b : runsB s g r i = true) : Runs s g r i := by
  simp only [runsB, Bool.and_eq_true, decide_eq_true_eq] at b
  exact ⟨⟨h, c, b.1.1.1, b.1.1.2, b.1.2⟩, b.2⟩

theorem setup_crew (s : State) (r : Crew) : (setup s r).crews.find 128 = some r := by
  simp [setup, State.putCrew, Tbl.find_put]

theorem runs_setup {s : State} {r : Crew} {i : Instr} (b : runsB (setup s r) group r i = true) :
    Runs (setup s r) group r i := runs_of rfl (setup_crew s r) b

theorem runs_running {r : Crew} {i : Instr} (b : runsB (running r) group r i = true) : Runs (running r) group r i :=
  runs_setup b

/-- Every instruction of a list that checks out runs. -/
theorem runs_all {s : State} {r : Crew} {l : List Instr} (h : l.all (runsB (setup s r) group r) = true) :
    ∀ i ∈ l, Runs (setup s r) group r i := fun i hi => runs_setup (List.all_eq_true.mp h i hi)

/-- Instructions that issue at once in that crew. -/
def plainGroups : List Instr := [.add 3 1 2 0, .add64 4 2 1 0, .lea 4 2 1 0, .sel 3 1 2 0, .fadd 3 1 2 0, .icmp .eq 1 2 3 0,
    .fcmp .eq 1 2 3 0, .sadd 3 1 2, .routeset 0 3, .fwflags 1, .fcflags 1, .frcflags 1, .rngkey 1, .gang 1, .wrsv 0 21,
    .br (.vec .eqz 2) 0, .jr 2 0, .call 0, .callr 2 0, .ret, .exit, .nop, .waitt 2, .yield, .trap 7, .brk 0,
    .ld 2 1 1 .w4 0, .st 2 1 1 .w4 0, .atom 3 1 1 false .add, .lds 3 1 1 .w4 0, .sts 3 1 1 .w4 0, .fence .sc .device, .qfence 1,
    .predwait, .dcfence, .prefetch 1 1 false 0, .prefetchl2 1 1 false 0, .bar 0, .barrive 0, .startnext, .tiledef 0 3,
    .tileset 0 .empty, .tileq 3 0, .mmodeOn 0, .spawn 3, .join 3 .block, .joinq 3 4 .block, .depset 3 4, .depdec 3,
    .racq 3 4, .rcommit 4 3, .rpeek 3 4, .rrel 4 3, .copy 0 3 2 4 .c4, .cbset 3, .bin 3 1 2 .h8 0, .ztest .less 1 2 3 0,
    .texq 4 2 2 .wrap 0, .chainq 3 4, .progress 1, .rng 4 0, .wrstate 3 2, .rdstate 3 2]

/-- The hypotheses `Runs` of the statements about groups that run, for those instructions. -/
theorem witness_groups_run : ∀ i ∈ plainGroups, Runs (running runner) group runner i := runs_all (by decide +kernel)

/-! ## States that meet the statements' hypotheses -/

/-- The same machine over memory whose first GiB is mapped onto itself. -/
def mapped (r : Crew) : State := setup State.reset.pokeTable.withCrew r

/-- The same with that GiB uncached. -/
def uncached (r : Crew) : State := setup ((mapped r).poke 0x12000 8 0x2F) r

/-- The machine with a word in the crew's instruction cache at its PC. -/
def fetched (r : Crew) (w : Nat) : State := setup (State.reset.withFetchWord 32 w) r

/-- The machine with another launch packet. -/
def withPacket (s : State) (p : Packet) : State := { s with launches := s.launches.upd 2 fun l => { l with packet := p } }

/-- The machine with another region in slot 0. -/
def withRegion (s : State) (g : Region) : State := { s with ctxs := s.ctxs.put 0 { fetchContext with slots := [(0, g)] } }

/-- The machine with trap-table entries for TRAP, pre-emption and resumption, their handlers at 0x2000. -/
def handled (r : Crew) : State :=
  (((mapped r).poke (0x50000 + 8 * 0x12) 8 (0x2000 + 2 ^ 57)).poke (0x50000 + 8 * 0x20) 8 (0x2000 + 3 * 2 ^ 57)).poke
    (0x50000 + 8 * 0x21) 8 (0x2000 + 3 * 2 ^ 57)

/-- The crew at a state where lane 0 alone is the head run. -/
def split : Crew := { runner with pcs := 0x20000 :: List.replicate 31 0x20004 }

theorem witness_decode_inverts : Instr.wf (.ld 2 1 1 .w4 0) = true ∧ encode (.ld 2 1 1 .w4 0) = some 0x80040420 := by decide +kernel

theorem witness_words_issue :
    let s := { running runner with issue := some { group with words := [0xC700_0000] } }
    let t := withPacket (running runner) { fetchPacket with lflags := 0 }
    s.issue = some { group with words := [0xC700_0000] } ∧ decode 0xC700_0000 = .ok .nop ∧ isHint 0xC700_0000 = false ∧
    decode (hnt 7 0) = .ok (.hintSched .none) ∧ isHint (hnt 7 0) = true ∧ decode 0 = .illegal ∧
    decode (sys 0x93 1 3) = .reserved (.bar 3) ∧ badBarrier (s.barriersOf 128) (.bar 3) = false ∧
    badBarrier (t.barriersOf 128) (.bar 3) = true ∧ decode (hnt 8 0) = .badHint := by decide +kernel

/-- A clock of partition 0 with one crew whose group is fetched. -/
def clocked : State := State.reset.withFetchWord 32 0xC700_0000

theorem witness_step_fetches :
    let s0 : State := { clocked with inputs := [] }
    let s1 := (s0.candidates (partKey 0 0)).foldl (fun u e => u.settleCrew e.1) s0
    let x := (s1.moveRecent 128 runner).fetchGroup runner runner.headPc 3
    clocked.issue = none ∧ clocked.inputs = [.clock 0 0] ∧ (clocked.pn (partKey 0 0)).issueEnd ≤ clocked.clk ∧ s1.select (partKey 0 0) = some 128 ∧
    s1.crews.find 128 = some runner ∧ x.1 = none ∧ x.2.1 = [0xC700_0000] ∧
    s1.breakAt 128 runner runner.headPc (wordsKnown x) = none := by decide +kernel

theorem witness_words_take_clocks :
    let s : State := { running runner with issue := none, inputs := [.clock 0 0] }
    let t := (s.takeClock 128).takeClock 128
    t.crews.find 128 = some runner ∧ t.issue = none ∧ t.inputs = [.clock 0 0] ∧ t.clk < (t.pn (partKey 0 0)).issueEnd := by
  decide +kernel

theorem witness_step_meets_breakpoint :
    let s : State := clocked.putDbg 0 { clocked.dbgOf 0 with bpen := true, bps := [(1, (true, 0x8000))] }
    let s0 : State := { s with inputs := [] }
    let s1 := (s0.candidates (partKey 0 0)).foldl (fun u e => u.settleCrew e.1) s0
    let x := (s1.moveRecent 128 runner).fetchGroup runner runner.headPc 3
    s.issue = none ∧ s.inputs = [.clock 0 0] ∧ (s.pn (partKey 0 0)).issueEnd ≤ s.clk ∧ s1.select (partKey 0 0) = some 128 ∧
    s1.crews.find 128 = some runner ∧ s1.breakAt 128 runner runner.headPc (wordsKnown x) = some 1 := by decide +kernel

theorem witness_step_takes_event :
    let s : State := { State.reset with inputs := [.event .bootGo] }
    let t : State := { State.reset with inputs := [.elapse 1 1] }
    s.issue = none ∧ s.inputs = [.event .bootGo] ∧ isEvent .bootGo = true ∧ t.issue = none ∧ t.inputs = [.elapse 1 1] := by
  decide +kernel

/-- An unprivileged crew. -/
def plainRunner : Crew := { crewStart 2 1 0 0 0 0 0 fetchPacket 0x20000 false with phase := .ready }

theorem witness_issue_fault :
    (running plainRunner).issue = some group ∧ (running plainRunner).crews.find 128 = some plainRunner ∧
    isGroup .rett = true ∧ issueFault (running plainRunner) 128 plainRunner [] .rett = some 0x04 := by decide +kernel

theorem witness_waits :
    let r := { runner with sregs := [(1, 5)] }
    let owed : Returning := { regs := [1], sregs := [1], kregs := [], requests := 0, issued := 0, group := 0, lost := none, stack := false }
    let s := (running runner).onAux 128 fun a => { a with returning := [owed] }
    let both := setup s r
    isGroup (.waitt 1) = true ∧ issueFault (running r) 128 r [] (.waitt 1) = none ∧ lostAccess (running r) 128 r [] (.waitt 1) = none ∧
    sharedWait (running r) 128 r [] (.waitt 1) = none ∧ ownWait (.waitt 1) (running r) group r = some 14 ∧
    issueFault s 128 runner [] (.add 3 1 2 0) = none ∧ sharedWait s 128 runner [] (.add 3 1 2 0) = some 3 ∧
    ownWait (.add 3 1 2 0) s group runner = none ∧ sharedWait both 128 r [] (.waitt 1) = some 3 ∧
    ownWait (.waitt 1) both group r = some 14 := by decide +kernel

theorem witness_group_closes :
    let s := running runner
    s.crews.find 128 = some runner ∧ runner.resident = true ∧ runner.phase = .ready ∧ schedOfGroup [] = .none ∧
    (s.auxOf 128).hold = 0 ∧ s.stops group runner = false ∧ schedOfGroup [.sched .yield] = .yield ∧
    schedOfGroup [.sched (.stall 63)] = .stall 63 := by decide +kernel

theorem witness_retired_count_stop :
    let r := { runner with retStopEn := true, retStop := 1 }
    (running r).crews.find 128 = some r ∧ r.resident = true ∧ (running r).nested 128 = false ∧ r.retStopEn = true ∧
    r.retired + 1 = r.retStop := by decide +kernel

theorem witness_retired_count_stop_trap :
    let r := { runner with retStopEn := true, retStop := 1 }
    Runs (running r) group r (.trap 7) := runs_running (by decide +kernel)

theorem witness_suspends_or_traps :
    let s := (running runner).onAux 128 fun a => { a with started := { a.started with pager := false } }
    s.crews.find 128 = some runner ∧ s.nested 128 = false ∧ (s.auxOf 128).started.pager = false ∧
    ((running runner).auxOf 128).started.pager = true ∧
    ((running runner).onAux 128 fun a => { a with trap := { a.trap with nesting := true } }).nested 128 = true := by decide +kernel

/-- A trap of TRAP 7. -/
def trapOf (code : BitVec 8) : TrapReq :=
  { code := code, lanes := runner.head, detail := 7, level := 0, addr := 0, pc := 0x20000, retired := 0, flg := 0, token := 0 }

theorem witness_trap_entry :
    let s := handled runner
    s.crews.find 128 = some runner ∧ s.nested 128 = false ∧ (s.trapEntryOf 128 runner 0x12).1 = some (0x2000, false) ∧
    ((s.trapEntryOf 128 runner 0x12).2.writeRecord 128 runner (s.auxOf 128).trapRec
      ((s.trapEntryOf 128 runner 0x12).2.trapRecord 128 runner (trapOf 0x12))).1 = true := by decide +kernel

/-- A crew with a load that a peer has not answered: the record of its trap waits in its queue. -/
theorem witness_trap_entry_owed :
    let x : Returning := { regs := [1], sregs := [], kregs := [], requests := 1, issued := 1, group := 1, lost := none, stack := false }
    let f : Flight := { seq := 1, req := .ack 0, sources := [(128, 0x100)], group := 1 }
    let s : State := { (handled runner).onAux 128 fun a => { a with returning := [x] } with
      links := { State.reset.links with peers := [(3, { Peer.zero with unacked := [f] })] } }
    (s.auxOf 128).returning = [x] ∧ x.group ≠ 0 ∧ x.group < s.nextId ∧ x.lost = none ∧ s.owed 128 = true ∧
    f ∈ { Peer.zero with unacked := [f] }.unacked ∧ f.group = x.group ∧ (128, 0x100) ∈ f.sources ∧
    (s.trapEntryOf 128 runner 0x12).1 = some (0x2000, false) := by decide +kernel

theorem witness_trap_ends_domain :
    let s := handled runner
    let n := s.onAux 128 fun a => { a with trap := { a.trap with nesting := true } }
    n.crews.find 128 = some runner ∧ n.nested 128 = true ∧ s.nested 128 = false ∧
    (s.trapEntryOf 128 runner 0x13).1 = none := by decide +kernel

theorem witness_domain_ends :
    let s := running runner
    let empty : State := { s with crews := [] }
    (s.launches.map (·.1)).Nodup ∧ (s.blocks.map (·.1)).Nodup ∧ (s.launches.find 2).map (·.ctx) = some 0 ∧
    (s.launches.find 2).map (·.ending) = some false ∧ (s.crews.map fun e => (e.1, e.2.launch)) = [(128, 2)] ∧
    (s.auxOf 128).started.fdom = 0 ∧ ((empty.inForce 0 fetchPacket.rslot 1).map (·.fdom.toNat)).getD 0 = 0 := by decide +kernel

theorem witness_return_from_trap :
    let s := (running runner).onAux 128 fun a => { a with trap := { a.trap with nesting := true } }
    Runs (setup s runner) group runner .rett := runs_setup (by decide +kernel)

theorem witness_fetch_fault :
    ((running runner).fetchGroup runner group.addr 3).1.isSome = true ∧ hintOf (.hintOff 16) = some (.off 16) := by decide +kernel

theorem witness_lane_results :
    let s := running runner
    (Spec.integer s runner [] (.add 3 1 2 0)).isSome = true ∧ (Spec.moves s 128 runner [] (.sel 3 1 2 0)).isSome = true ∧
    (Spec.floats s runner [] (.fadd 3 1 2 0)).isSome = true ∧ (Spec.masks s runner [] (.icmp .eq 1 2 3 0)).isSome = true ∧
    (Spec.scalars s 128 runner [] (.sadd 3 1 2)).isSome = true ∧ (Spec.branch s group runner (.br (.vec .eqz 2) 0)).isSome = true ∧
    (s.part? runner.block runner.part).isSome = true := by decide +kernel

theorem witness_crew_register_writes :
    let r := { runner with sregs := [(1, 0xFFFFFFFFFFFF)] }
    (running r).gangFaultOf r (r.sreg 1) = none ∧ (runner.sreg 2).toNat < 2 ^ 48 := by decide +kernel

theorem witness_gang_runs :
    let r := { runner with sregs := [(1, 0xFFFFFFFFFFFF)] }
    Runs (running r) group r (.gang 1) := runs_running (by decide +kernel)

/-- A gang of crews 0 and 1 of a block of two, a gang of one, and a value with bits above the members. -/
theorem witness_gang_faults :
    let r := fun (v : DWord) => { runner with sregs := [(1, v)] }
    let s := fun (v : DWord) => setup (withPacket (running (r v)) { fetchPacket with crews := 2 }) (r v)
    (((r 0xFFFF_FFFF_0100).sreg 1).toNat < 2 ^ 48 ∧ ((s 0xFFFF_FFFF_0100).packetOf (r 0)).crews.toNat = 2 ∧
      perPart 2 ((s 0xFFFF_FFFF_0100).spreadOf (r 0)) = 2) ∧
    runsB (s 0xFFFF_FFFF_0100) group (r 0xFFFF_FFFF_0100) (.gang 1) = true ∧
    runsB (s 0xFFFF_FFFF_FF00) group (r 0xFFFF_FFFF_FF00) (.gang 1) = true ∧
    runsB (s 0x1_0000_0000_0000) group (r 0x1_0000_0000_0000) (.gang 1) = true := by decide +kernel

/-- Whether a value's first k members are a gang that holds crew 0, in a block of two crews on one part. -/
def gangOf (v k : Nat) : Bool :=
  let G := fun (i : Nat) => v / 256 ^ i % 256
  decide (2 ≤ k) && (List.range 6).all (fun i => (G i == 0xFF) == decide (k ≤ i))
    && (List.range k).all (fun i => decide (G i < 2) && G i / 2 == 0) && (List.range k).any (fun i => G i == 0)
    && (List.range k).all fun j => (List.range j).all fun i => G i != G j && G i % 2 % 32 != G j % 2 % 32

/-- Of those members, two are a gang and one is none. -/
theorem witness_gang_members : gangOf 0xFFFF_FFFF_0100 2 = true ∧ ∀ k, k < 7 → gangOf 0xFFFF_FFFF_FF00 k = false := by decide +kernel

/-- The machine with a word in every lane of a vector register. -/
def withV (s : State) (n : Nat) (v : Word) : State := s.putLanes runner n (List.range 32) fun _ => v

theorem witness_register_jump :
    let bad := fun (s : State) => (lanesOf (runner.active 0)).filterMap fun l =>
      if (s.getV2 runner 2 l).toNat % 4 ≠ 0 then
        some (l, ({ code := 0x05, level := 0, addr := s.getV2 runner 2 l, detail := 0 } : LaneFault)) else none
    bad (running runner) = [] ∧ (worstOf (bad (withV (running runner) 2 6))).isSome = true := by decide +kernel

theorem witness_register_jump_runs : Runs (setup (withV (running runner) 2 6) runner) group runner (.jr 2 0) :=
  runs_setup (by decide +kernel)

/-- A return stack that holds 16 entries on chip and the rest in memory. -/
def deep (d : Nat) : RStack := { chip := List.replicate 16 0x3000, depth := d, count := 1, ptr := 1, ovf := false }

/-- The crew with that stack in every lane, lane 0 alone at its head. -/
def stacked (d : Nat) : Crew := { split with rstk := (List.range 32).map fun l => (l, deep d) }

/-- A machine of that crew with four spill slots. -/
def spilling (d : Nat) : State := setup ((mapped runner).onAux 128 fun a => { a with rsEnt := 4 }) (stacked d)

/-- Whether the checks of a list of accesses pass, on pages that a core's L1 may hold. -/
def checksPass (s : State) (r : Crew) (qs : List (Nat × LaneAcc)) : Bool :=
  match s.checkLanes (viaOf r) (s.ctxOf r) r.priv qs with
  | (.ok ps, t) => ps.length == qs.length && ps.all fun p => t.l1Able p.2.1 p.2.2 && !t.onDevice p.2.1 p.2.2
  | (.error _, _) => false

theorem witness_call_spills :
    let r := stacked 16
    let s := spilling 16
    let ls := (lanesOf r.head).filter fun l => decide (16 ≤ (r.rstack l).depth) && (s.auxOf 128).rsEnt != 0
    ls = [0] ∧ (s.gatherLanes (viaOf r) (s.ctxOf r) r.priv (spillAccs (s.auxOf 128) r ls)).1 = [] ∧
    targetFaults 2 0 s r = [] := by decide +kernel

theorem witness_call_spills_runs : Runs (spilling 16) group (stacked 16) (.call 0) := runs_setup (by decide +kernel)

/-- The accesses by which RET refills every lane. -/
def refills (r : Crew) (s : State) : List (Nat × LaneAcc) :=
  ((lanesOf r.head).filter fun l => decide (16 < (r.rstack l).depth)).map fun l =>
    (l, { va := (s.auxOf 128).spillAddr ((r.rstack l).refillSlot (s.auxOf 128).rsEnt) l, size := 8, align := 8, kind := .read,
          wr := true, ww := false, atL2 := false })

theorem witness_returns :
    (∀ l, l < 32 → 0 < ((stacked 16).rstack l).depth ∧ ((stacked 16).rstack l).depth ≤ 16) ∧
    (∀ l, l < 32 → (0xFFFFFFFF#32).getLsbD l = (runner.head.getLsbD l && (runner.rstack l).depth == 0)) ∧
    (refills (stacked 17) (spilling 17)).length = 1 ∧
    checksPass (spilling 17) (stacked 17) (refills (stacked 17) (spilling 17)) = true := by decide +kernel

theorem witness_returns_run : Runs (spilling 17) group (stacked 17) .ret := runs_setup (by decide +kernel)

theorem witness_return_stacks_nest :
    (deep 16).depth < 16 + 4 ∧ (deep 16).chip.length = min (deep 16).depth 16 ∧ (deep 16).ptr < 4 := by decide +kernel

theorem witness_exits :
    let s := (running runner).onAux 128 fun a => { a with trap := { a.trap with nesting := true, cause := 0x20 } }
    split.head ≠ split.live ∧ runner.head = runner.live ∧ ((running runner).auxOf 128).trap.nesting = false ∧
    (s.auxOf 128).trap.nesting = true ∧ (s.auxOf 128).trap.cause = 0x20 ∧ (s.auxOf 128).restored = false := by decide +kernel

theorem witness_exits_run : Runs (running split) group split .exit := runs_running (by decide +kernel)

theorem witness_save_routine_exits :
    let s := (running runner).onAux 128 fun a => { a with trap := { a.trap with nesting := true, cause := 0x20 } }
    Runs (setup s runner) group runner .exit := runs_setup (by decide +kernel)

/-- The accesses of a load, store or atomic of the crew. -/
def loadAcc (s : State) : List (Nat × LaneAcc) :=
  match Spec.loads s split [] (.ld 2 1 1 .w4 0) with
  | some x => lanesAcc x.m x.addr x.n x.n .read true false
  | none => []
def storeAcc (s : State) : List (Nat × LaneAcc) :=
  match Spec.stores s split [] (.st 2 1 1 .w4 0) with
  | some x => lanesAcc x.m x.addr x.n x.n .write false true
  | none => []
def atomAcc (s : State) : List (Nat × LaneAcc) :=
  match Spec.atomics s group split (.atom 3 1 1 false .add) with
  | some x => lanesAcc x.m x.addr x.n x.align .atomic true true
  | none => []

theorem witness_accesses :
    (loadAcc (mapped split)).length = 1 ∧ checksPass (mapped split) split (loadAcc (mapped split)) = true ∧
    (storeAcc (mapped split)).length = 1 ∧ checksPass (mapped split) split (storeAcc (mapped split)) = true ∧
    (atomAcc (mapped split)).length = 1 ∧ checksPass (mapped split) split (atomAcc (mapped split)) = true ∧
    ((mapped split).gatherLanes (viaOf split) 0 split.priv (atomAcc (mapped split))).1 = [] := by decide +kernel

theorem witness_accesses_fault :
    ((running split).gatherLanes (viaOf split) 0 split.priv (loadAcc (running split))).1.length = 1 ∧
    ((running split).gatherLanes (viaOf split) 0 split.priv (storeAcc (running split))).1.length = 1 := by
  decide +kernel

theorem witness_accesses_run : ∀ i ∈ [Instr.ld 2 1 1 .w4 0, .st 2 1 1 .w4 0, .atom 3 1 1 false .add],
    Runs (mapped split) group split i := runs_all (by decide +kernel)

/-- The page of a context's control page, mapped at 1 GiB. -/
def mmioMapped (r : Crew) : State := setup ((mapped r).poke 0x12008 8 (0xFF00_0000_0000 + 0x2F)) r

theorem witness_store_to_control_page :
    let r := { split with sregs := [(1, 0x40400000)] }
    let s := mmioMapped r
    (match Spec.stores s r [] (.st 2 1 1 .w4 0) with
      | some x => match s.checkLanes (viaOf r) (s.ctxOf r) r.priv (lanesAcc x.m x.addr x.n x.n .write false true) with
        | (.ok ps, t) => ps.length == 1 && ps.all fun p => t.onDevice p.2.1 p.2.2
        | (.error _, _) => false
      | none => false) = true := by decide +kernel

theorem witness_store_to_control_page_runs :
    let r := { split with sregs := [(1, 0x40400000)] }
    Runs (mmioMapped r) group r (.st 2 1 1 .w4 0) := runs_setup (by decide +kernel)

/-- A write-back page without a key. -/
def page : MemTag := { attr := 0, key := 0, home := 0 }

/-- An event of one byte, pending. -/
def pending (kind : StoreKind) (cache : CachePolicy) : StoreEvent :=
  { seq := 1, crew := 128, addr := 0x100, width := 1, kind := kind, release := none, cache := cache
    bytes := [(page, { pa := 0x100, byte := 7 })] }

/-- Neither cache has to give up a line for some lines. -/
def roomB (s : State) (core : Nat) (ls : List Nat) : Bool :=
  ls.all fun k => decide (((s.coreOf core).l1Set k).length + ls.length ≤ 12) && decide ((s.l2Set k).length + ls.length ≤ 16)

theorem room_of {s : State} {core : Nat} {ls : List Nat} (h : roomB s core ls = true) : s.roomFor core ls := by
  intro k hk
  simpa using List.all_eq_true.mp h k hk

theorem witness_stores_perform :
    ∀ x ∈ [pending .write .dflt, pending .write .stream, pending .write .noalloc, pending .clean .dflt, pending .flush .dflt],
    let s := (running runner).onAux 128 fun a => { a with storeQ := [x] }
    s.crews.find 128 = some runner ∧ (s.auxOf 128).storeQ = [x] ∧ x.release = none ∧ (s.coreOf runner.core).wc = [] ∧
    roomB s 0 (linesAt (x.bytes.map fun b => (b.1, b.2.pa)) 1) = true ∧ (∀ b ∈ x.bytes, s.l1Able b.1 b.2.pa = true) ∧
    (∀ b ∈ x.bytes, b.1 = page ∧ rangeOf b.2.pa = .lpddr) ∧ s.isLocal page = true ∧ page.attr ≠ 1 ∧
    (s.coreOf runner.core).l1 = [] := by decide +kernel

theorem witness_stores_find_room :
    let s := (running runner).onAux 128 fun a => { a with storeQ := [pending .write .dflt] }
    s.roomFor 0 (linesAt [(page, 0x100)] 1) := room_of (by decide +kernel)

theorem witness_atomic_lane :
    let s := (running runner).onAux 128 fun a => { a with storeQ := [pending .write .dflt] }
    let t := page
    (s.auxOf 128).storeQ ≠ [] ∧ s.isLocal t = true ∧ (s.coreOf runner.core).l1 = [] ∧ (t.attr = 0 ∨ t.attr = 3) ∧
    roomB s 0 (linesAt [(t, 0x100)] 4) = true ∧
    (∀ j, j < 4 → rangeOf (0x100 + j) = .lpddr ∧ rangeOf (0x100 + j) = rangeOf 0x100) ∧
    (leBytes 4 5).length = 4 ∧ (leBytes 8 5).length = 8 := by decide +kernel

theorem witness_bank_accesses :
    let s := running runner
    let va := Spec.addrSA s runner [] 1 2
    let s1 := s.races group runner false ((lanesOf (runner.active 0)).map va) Width.w4.regs
    s.bankFaults runner (runner.active 0) va 4 = [] ∧ (s1.part? runner.block runner.part).isSome = true ∧
    (∀ j, j < s.spreadOf runner → ((s.races group runner true ((lanesOf (runner.active 0)).map va) 1).part? runner.block j).isSome = true) := by
  decide +kernel

/-- Lane 0 alone fails, in one way. -/
theorem reports_one {m : LaneMask} {bad : Nat → LaneFault → Prop} {w : LaneTrap} (hm : m = 1) (hw : w.lanes = 1)
    (hb : ∀ f, bad 0 f ↔ f = w.fault) : Claims.Reports m bad w := by
  have one : ∀ l, l < 32 → (1#32).getLsbD l = true → l = 0 := by decide
  rw [hm]
  refine ⟨⟨0, by decide, by decide, (hb _).mpr rfl, fun l f hl h hf => ?_⟩, fun l hl => ?_⟩
  · obtain rfl := one l hl h
    rw [(hb f).mp hf]
    exact ⟨le_rfl, fun _ => le_rfl⟩
  · rw [hw]
    exact ⟨fun h => by obtain rfl := one l hl h; exact ⟨h, _, (hb _).mpr rfl, rfl⟩, fun h => h.1⟩

/-- A crew with one lane at its head whose addresses begin at s1. -/
def aimed (va : DWord) : Crew := { split with sregs := [(1, va)] }

theorem witness_atomic_faults :
    let r := aimed 2
    let f : LaneFault := { code := 0x05, level := 0, addr := 2, detail := 0 }
    ∃ x, Spec.atomics (mapped r) group r (.atom 3 1 1 false .add) = some x ∧
      ((mapped r).gatherLanes (viaOf r) 0 r.priv (lanesAcc 1 x.addr x.n x.align .atomic true true)).1 = [(0, f)] ∧
      Claims.Reports x.m (fun l e => ((x.n = 64 ∧ 4096 < (x.addr l).toNat % 4096 + 64) ∧
        e = { code := 0x05, level := 0, addr := x.addr l, detail := 0 }) ∨ (l, e) ∈ [(0, f)]) { lanes := 1, fault := f } :=
  ⟨_, rfl, by decide +kernel, reports_one (by decide +kernel) rfl fun e => by simp⟩

theorem witness_atomic_crosses :
    let r := aimed 4064
    ∃ x, Spec.atomics (mapped r) group r (.xadd 3 1 1 false 0) = some x ∧ x.n = 64 ∧ 4096 < (x.addr 0).toNat % 4096 + 64 ∧
      (x.addr 0).toNat % x.align = 0 :=
  ⟨_, rfl, rfl, by decide +kernel, by decide +kernel⟩

theorem witness_atomic_faults_run : Runs (mapped (aimed 2)) group (aimed 2) (.atom 3 1 1 false .add) := runs_setup (by decide +kernel)

/-- A read-only leaf, and leaves of the attributes that no atomic may use. -/
theorem witness_atomic_pages : ∀ pte ∈ [0x2B, 0x4F, 0x8F, 0xAF],
    let s := (mapped split).poke 0x12000 8 pte
    (match (s.findLeaf (some 0) 0 0 .atomic).1 with
      | .ok l => !l.pte.getLsbD 2 || l.tag.attr == 2 || l.tag.attr == 4 || l.tag.attr == 5
      | .error _ => false) = true := by decide +kernel

/-- A lane's bank address that is not aligned, and two outside the part's window and the block's parts. -/
theorem witness_bank_faults :
    let s := fun (v : Word) => withV (running split) 1 v
    (s 2).getV split 1 0 = 2 ∧ split.active 0 = 1 ∧ (s 0x3FFFFC).windowSize split 0 < 0x3FFFFC + 4 ∧ (s 0x400000).spreadOf split ≤ 1 ∧
    Spec.addrSA (s 2) split [] 1 2 0 = 2 := by decide +kernel

theorem witness_bank_reports : Claims.Reports 1 (fun (l : Nat) f =>
      (2 % 4 ≠ 0 ∧ f = ({ code := 0x05, level := 0, addr := BitVec.ofNat 64 (2 + 0 * l), detail := 0 } : LaneFault)) ∨
      (2 % 4 = 0 ∧ f = { code := 0x09, level := 0, addr := 2, detail := 0 }))
    { lanes := 1, fault := { code := 0x05, level := 0, addr := 2, detail := 0 } } :=
  reports_one rfl rfl fun f => by simp

theorem witness_bank_faults_run : ∀ i ∈ [Instr.lds 3 1 2 .w4 0, .sts 3 1 2 .w4 0, .ztest .less 1 1 3 0, .ldt 3 1 0 .w4 0],
    Runs (setup (withV (running split) 1 2) split) group split i := runs_all (by decide +kernel)

/-- The machine with a READY tile of 4 KiB as tile 0. -/
def tiled (r : Crew) (st : TileSt) : State :=
  setup ((running r).putTile 1 0 0 { offset := 0, size := 32, swz := 0, state := st, pend := 0 }) r

theorem witness_ldt :
    let s := tiled runner .ready
    let off := fun l => (s.getV runner 1 l).setWidth 64 + offOf []
    s.ldtBad runner 0 = false ∧ (∀ l, l < 32 → (off l).toNat % 4 = 0 ∧ 0 ≤ (off l).toInt ∧
      (off l).toInt + 4 ≤ 128 * (s.tile runner 0).size.toNat) ∧ (s.part? runner.block runner.part).isSome = true := by decide +kernel

theorem witness_ldt_runs : Runs (tiled runner .ready) group runner (.ldt 3 1 0 .w4 0) := runs_setup (by decide +kernel)

/-- A peer has yet to acknowledge what a release at SYSTEM scope waits for. -/
theorem witness_release_waits :
    let f : Flight := { seq := 1, req := .ack 0, sources := [], group := 0 }
    let s : State := { mapped split with links := { State.reset.links with peers := [(3, { Peer.zero with unacked := [f] })] } }
    let t := s.release 128 split .system
    t.awaiting = true ∧ ((mapped split).release 128 split .system).awaiting = false ∧ FenceOrder.release ≠ .acquire ∧
    (s.releaseAt 0 (s.wide split .system)).awaiting = true ∧ (orderOf [.order .release .system] (.plain, .crew)).1.rel = true ∧
    (orderOf [.order .release .system] (.plain, .crew)).2 = .system := by decide +kernel

theorem witness_fences : fenceRel .acqrel = true ∧ fenceAcq .acqrel = true ∧ (running runner).wide runner .device = true := by
  decide +kernel

theorem witness_barriers_complete :
    let s := (running runner).onAux 128 fun a => { a with arrived := 1 }
    (s.blocks.find 1).isSome = true ∧ (s.blocks.find 1).map (·.launch) = some 2 ∧
    (s.launches.find 2).map (fun l => l.packet.barriers) = some 16 ∧ (s.crewsOf 1).map (·.1) = [128] ∧
    (s.auxOf 128).arrived.getLsbD 0 = true ∧ (s.auxOf 128).arrived.getLsbD 15 = false := by decide +kernel

theorem witness_barwait_runs : Runs (running runner) group runner (.barwait 0) := runs_running (by decide +kernel)

theorem witness_tiles :
    let s := running runner
    s.tiledefFault runner 0 (0x20 * 2 ^ 22) = none ∧ (s.tiledefFault runner 0 0).isSome = true ∧
    (0#5).toNat < s.tileCount runner ∧ ((tiled runner .ready).tile runner 0).pend = 0 ∧
    ((tiled runner .ready).tile runner 0).size ≠ 0 ∧ (s.tile runner 0).size = 0 ∧ 32 ≤ s.tileCount runner := by decide +kernel

theorem witness_tiles_run : ∀ i ∈ [Instr.tiledef 0 3, .tileset 0 .empty, .tileq 3 0], Runs (tiled runner .ready) group runner i :=
  runs_all (by decide +kernel)

/-- The crew in matrix mode, its gang as given; lane 0's word 1 of a pair is the pair's high half. -/
def matrixRunner (gang : BitVec 48) : Crew := { runner with mode := modeWord true 0 true gang }

/-- A machine whose crew is in matrix mode with valid planes of INT8 of its own, in a lit cluster, beside a READY tile. -/
def matrixState (r : Crew) (st : TileSt) : State :=
  let plane : Plane := { bytes := [], fmt := 0, valid := true }
  let s : State := (tiled r st).onPn 0 fun p => { p with
    owners := [(0, 128)], planeOwner := some 128, front := plane, shadow := plane }
  setup { s with lamps := { s.lamps with clusters := [(0, .burst 0 0)] } } r

theorem witness_matrix_runs : ∀ i ∈ [Instr.mmodeOff, .wswap, .accz true, .accfl 3 false, .mma false false true false 0 0 .int8,
      .accst false 0 .raw, .accld false 0 .raw],
    Runs (matrixState (matrixRunner noGang) .ready) group (matrixRunner noGang) i := runs_all (by decide +kernel)

theorem witness_matrix_tiles :
    let r := matrixRunner noGang
    let s := matrixState r .ready
    s.tileReadFault r 0 1024 = none ∧ s.tileReadFault r 0 4096 = none ∧ s.accstFault r 0 .raw = none ∧
    (s.part? r.block r.part).isSome = true ∧ (s.pn r.pkey).planeOwner = some 128 ∧
    ((running r).pn r.pkey).planeOwner ≠ some 128 := by decide +kernel

/-- A tile that cannot be read or written, and one of 128 bytes. -/
theorem witness_tile_faults :
    let r := matrixRunner noGang
    let small := (matrixState r .ready).putTile 1 0 0 { offset := 0, size := 1, swz := 0, state := .ready, pend := 0 }
    ((matrixState r .empty).tile r 0).state = .empty ∧ ((matrixState r .filling).tile r 0).state = .filling ∧
    (small.tile r 0).state = .ready ∧ (small.tile r 0).size = 1 ∧ 128 * (small.tile r 0).size.toNat < 1024 ∧
    0 < small.tileCount r := by decide +kernel

theorem witness_tile_faults_run :
    let r := matrixRunner noGang
    (∀ i ∈ [Instr.mma false false true false 0 0 .int8, .accld false 0 .raw], Runs (matrixState r .empty) group r i) ∧
    Runs (matrixState r .filling) group r (.accst false 0 .raw) :=
  ⟨runs_all (by decide +kernel), runs_setup (by decide +kernel)⟩

theorem witness_wld_faults_run :
    let r := { matrixRunner noGang with tookPlanes := true }
    let s := setup ((matrixState (matrixRunner noGang) .empty).onPn 0 fun p => { p with planeOwner := none }) (matrixRunner noGang)
    Runs (matrixState r .empty) group r (.wld 0 0 .int8) ∧ runsB s group (matrixRunner noGang) (.wld 0 0 .int8) = true :=
  ⟨runs_setup (by decide +kernel), by decide +kernel⟩

/-- WLD has taken the planes and no plane is loading. -/
theorem witness_wld_runs :
    let r := { matrixRunner noGang with tookPlanes := true }
    Runs (matrixState r .ready) group r (.wld 0 0 .int8) :=
  runs_setup (by decide +kernel)

/-- The two crews of a gang: the second one has arrived. -/
def gangRunner : Crew := matrixRunner 0xFFFF_FFFF_0100
def gangState (fmt : MFmt) : State :=
  let s := withPacket (matrixState gangRunner .ready) { fetchPacket with crews := 2 }
  let m : Crew := { gangRunner with index := 1, partition := 1 }
  let a : Arrival := { arrivalOf group gangRunner false false true 0 0 fmt with crew := 129 }
  let t : State := (s.putCrew 129 m).onPn 1 fun p => { p with
    owners := [(0, 129)], planeOwner := some 129, front := { bytes := [], fmt := 0, valid := true } }
  setup { t with latches := [(leaderOf gangRunner, { arrivals := [a], start := 0, completed := none })] } gangRunner

theorem witness_gang_mma_runs : Runs (gangState .int8) group gangRunner (.mma false false true true 0 0 .int8) ∧
    Runs (gangState .uint8) group gangRunner (.mma false false true true 0 0 .int8) :=
  ⟨runs_setup (by decide +kernel), runs_setup (by decide +kernel)⟩

theorem witness_gang_agrees :
    let l := fun (f : MFmt) => (gangState f).latchWith gangRunner (arrivalOf group gangRunner false false true 0 0 .int8)
    (gangState .int8).tileReadFault gangRunner 0 1024 = none ∧ (gangState .int8).agree (l .int8) = true ∧
    (gangState .uint8).agree (l .uint8) = false ∧
    (((l .int8).arrivals.filterMap fun a => ((gangState .int8).crews.find a.crew).map Crew.pkey)).Nodup ∧
    (l .int8).arrivals.map (·.crew) = [129, 128] ∧ ((gangState .int8).crews.find 129).map (·.retStopEn) = some false ∧
    ((gangState .int8).crews.find 129).map (·.resident) = some true := by decide +kernel

/-- A frame of class 2 in slot 0 with no counter and no join word, and one that waits for counter 1. -/
def frame : Frame := 2 * 2 ^ 57
def waitingFrame : Frame := frame + 2 ^ 224

/-- The machine with lanes 0-7 of v3 holding a frame. -/
def withFrame (s : State) (f : Frame) : State :=
  s.putLanes runner 3 (List.range 8) fun l => BitVec.ofNat 32 (f.toNat / 2 ^ (32 * l))

theorem witness_spawn :
    let s := withFrame (running runner) frame
    let t := (withFrame (running runner) waitingFrame).putCtr 0 1 { value := 1, ctx := some 0 }
    (s.viewOf 0 0 2).chip.length < s.viewCap 0 (frameRslot frame) ∧ frameClass frame = 2 ∧ s.spawnFault runner (s.frameIn runner 3) = none ∧ frameCtr (s.frameIn runner 3) = 0 ∧
    ((match (s.release 128 runner .device).pushFrame 0 0 2 frame with
      | .ok _ => true
      | .error _ => false) = true) ∧
    t.spawnFault runner (t.frameIn runner 3) = none ∧ frameCtr (t.frameIn runner 3) = 1 ∧ (t.ctrOf 0 1).value ≠ 0 := by
  decide +kernel

/-- Frames with a zero bit set, an entry that is not aligned, a class below its slot's, and a counter that another context holds. -/
theorem witness_spawn_faults :
    let s := fun (f : Frame) => withFrame (running runner) f
    let t := (s waitingFrame).putCtr 0 1 { value := 1, ctx := some 3 }
    ((s (frame + 2 ^ 60)).frameIn runner 3).toNat / 2 ^ 60 % 16 = 1 ∧ ((s (frame + 2)).frameIn runner 3).toNat % 4 = 2 ∧
    (s (frame + 2 ^ 240)).region 0 1 = none ∧ ((s (frame + 2 ^ 240)).frameIn runner 3).toNat / 2 ^ 240 % 256 = 1 ∧
    t.heldCtr runner.core (t.ctxOf runner) 1 = true ∧ (t.frameIn runner 3).toNat / 2 ^ 224 % 2 ^ 16 = 1 ∧
    4 ≤ (((running runner).onAux 128 fun a => { a with frames := List.replicate 4 frame }).auxOf 128).frames.length := by
  decide +kernel

theorem witness_spawn_faults_run :
    Runs (setup (withFrame (running runner) (frame + 2)) runner) group runner (.spawn 3) ∧
    Runs (setup ((running runner).onAux 128 fun a => { a with frames := List.replicate 4 frame }) runner) group runner (.take 3) :=
  ⟨runs_setup (by decide +kernel), runs_setup (by decide +kernel)⟩

theorem witness_spawn_runs :
    Runs (setup (withFrame (running runner) frame) runner) group runner (.spawn 3) ∧
    Runs (setup ((withFrame (running runner) waitingFrame).putCtr 0 1 { value := 1, ctx := some 0 }) runner) group runner
      (.spawn 3) := ⟨runs_setup (by decide +kernel), runs_setup (by decide +kernel)⟩

/-- The machine with one frame on its view. -/
def taskState : State := setup ((running runner).putView 0 0 2 { chunks := [], chip := [frame] }) runner

theorem witness_take :
    (taskState.auxOf 128).frames.length < 4 ∧
    ((match taskState.search 0 0 with
      | (some (.ok f), t) => f == frame && (t.part? runner.block runner.part).isSome
      | _ => false) = true) ∧ (taskState.part? runner.block runner.part).isSome = true ∧
    (∀ k, k < 2 → taskState.viewOf 0 0 k = { chunks := [], chip := [] }) ∧
    (taskState.viewOf 0 0 2).chip.getLast? = some frame := by decide +kernel

theorem witness_take_runs : Runs taskState group runner (.take 3) := runs_setup (by decide +kernel)

/-- A held frame whose join word is at 0x100. -/
def doneState (f : Frame) : State := setup ((mapped runner).onAux 128 fun a => { a with frames := [f] }) runner

theorem witness_done :
    let s := doneState (0x100 * 2 ^ 128)
    frameJaddr frame = 0 ∧ frameJaddr (0x100 * 2 ^ 128) ≠ 0 ∧
    (match s.checkLane (viaOf runner) (s.ctxOf runner) runner.priv
        { va := (frameJaddr (0x100 * 2 ^ 128)).signExtend 64, size := 4, align := 4, kind := .atomic, wr := true, ww := true
          atL2 := true } with
      | (.ok _, _) => true
      | _ => false) = true := by decide +kernel

theorem witness_done_runs : Runs (doneState frame) group runner .done ∧ Runs (doneState (0x100 * 2 ^ 128)) group runner .done :=
  ⟨runs_setup (by decide +kernel), runs_setup (by decide +kernel)⟩

/-- The machine whose view of class 2 is full. -/
def fullState : State :=
  (uncached runner).putView 0 0 2 { chunks := [], chip := List.replicate ((uncached runner).viewCap 0 0) frame }

theorem witness_frame_deques :
    ((running runner).viewOf 0 0 2).chip.length < (running runner).viewCap 0 (frameRslot frame) ∧
    ((running runner).coreOf 0).park = [] ∧ fullState.viewCap 0 (frameRslot frame) ≤ (fullState.viewOf 0 0 2).chip.length ∧
    (match fullState.pushFrame 0 0 2 frame with
      | .ok _ => true
      | .error _ => false) = true := by decide +kernel

theorem witness_joins :
    let s := mapped runner
    (match s.checkLane (viaOf runner) 0 runner.priv
        { va := runner.sreg 3, size := 4, align := 4, kind := .read, wr := true, ww := false, atL2 := true } with
      | (.ok p, t) => leVal (t.loadLane 128 runner p.1 p.2 4 true .l2only).1 == 0 && s.isLocal p.1 && rangeOf p.2 == .lpddr
          && (List.range 4).all fun j => s.sliceGet p.1 (p.2 + j) == 0
      | _ => false) = true := by decide +kernel

theorem witness_quiet : Quiet (mapped runner) 128 runner := ⟨by decide +kernel, by decide +kernel, by decide +kernel⟩

theorem witness_joins_run : ∀ i ∈ [Instr.join 3 .block, .joinq 3 4 .block], Runs (mapped runner) group runner i :=
  runs_all (by decide +kernel)

/-- The crew with a counter's number and a value. -/
def counterRunner (n v : DWord) : Crew := { runner with sregs := [(3, n), (4, v)] }

theorem witness_counters :
    let s := (running runner).putCtr 0 1 { value := 1, ctx := some 5 }
    let r := counterRunner 1 7
    (running r).heldCtr 0 0 1 = false ∧ s.heldCtr 0 0 1 = true ∧ (r.sreg 3).toNat = 1 ∧ (r.sreg 4).toNat < 2 ^ 32 ∧
    256 ≤ ((counterRunner 256 0).sreg 3).toNat ∧ 2 ^ 32 ≤ ((counterRunner 1 0x1_0000_0000).sreg 4).toNat := by decide +kernel

theorem witness_counters_run : ∀ i ∈ [Instr.depset 3 4, .depdec 3], Runs (running (counterRunner 1 7)) group (counterRunner 1 7) i :=
  runs_all (by decide +kernel)

/-- A frame parked under counter 1 whose view has room. -/
theorem witness_counter_releases :
    let q : Parked := { ctr := 1, released := false, ctx := 0, frame := waitingFrame }
    let s := (running runner).onCore 0 fun k => { k with park := [q] }
    (s.coreOf 0).park = [q] ∧
    (s.viewOf 0 q.ctx (frameClass q.frame)).chip.length + 1 ≤ s.viewCap q.ctx (frameRslot q.frame) := by decide +kernel

/-- A ring header at 0x1000: 8 slots of 128 bytes at 0x8000, none acquired; and its crew, with the header's address. -/
def ringRunner : Crew := { runner with sregs := [(4, 0x1000)] }
def ringState : State :=
  setup ((((mapped runner).poke 0x1000 8 0x8000).poke 0x1008 4 128).poke 0x100C 4 8) ringRunner

/-- What an operation on that header answers. -/
def ringAnswer (s : State) (which : BitVec 2) : Option RingOut :=
  match s.checkLane (viaOf ringRunner) 0 ringRunner.priv
      { va := 0x1000, size := 64, align := 64, kind := .ring, wr := false, ww := false, atL2 := true } with
  | (.ok p, t) => some (ringOp which 0 (t.engAt p.1 p.2) ((List.range 64).map fun i => t.sliceGet p.1 (p.2 + i)))
  | _ => none

theorem witness_rings :
    (match ringAnswer ringState 0 with
      | some (.ok _ v _) => v == 0
      | _ => false) = true ∧
    (match ringAnswer (mapped ringRunner) 0 with
      | some (.fault n) => n == 1
      | _ => false) = true := by decide +kernel

/-- That header, and those of a ring with a slot acquired and of a full ring. -/
def header (a f l : Nat) : RingHdr :=
  { base := 0x8000, slotsz := 128, n := 8, a := a, f := f, l := l, retain := 0, rflg := 0, cbmp := 0, cons := 0
    rsvd := List.replicate 20 0 }

theorem ring_sound {a f l : Nat} (ha : Spec.apart a l ≤ 8) (hf : Spec.apart f l ≤ Spec.apart a l) : Spec.RingSound (header a f l) :=
  { base := by simp [header], slot := by simp [header], count := ⟨3, by simp [header]⟩, retain := by simp [header]
    kind := by simp [header], reserved := by simp [header], flags := by simp [header], span := ha, order := hf
    marks := by simp [header] }

theorem witness_sound_rings :
    ∃ p : MemTag × Nat, ∃ t, ringState.checkLane (viaOf ringRunner) (ringState.ctxOf ringRunner) ringRunner.priv
      { va := ringRunner.sreg 4, size := 64, align := 64, kind := .ring, wr := false, ww := false, atL2 := true } = (.ok p, t) ∧
    Quiet ringState 128 ringRunner ∧ ringState.isLocal p.1 = true ∧ rangeOf p.2 = .lpddr ∧
    (∀ e ∈ ringState.links.heads, e.2.regs.en = false) ∧
    RingHdr.ofBytes ((List.range 64).map fun j => ringState.sliceGet p.1 (p.2 + j)) = header 0 0 0 ∧ Spec.RingSound (header 0 0 0) ∧
    Spec.ringGoes (header 0 0 0) 0 0 :=
  ⟨(page, 0x1000), _, rfl, ⟨by decide +kernel, by decide +kernel, by decide +kernel⟩, by decide +kernel, by decide +kernel,
    by decide +kernel, by decide +kernel, ring_sound (by decide) (by decide), by simp [Spec.ringGoes, Spec.apart, header]⟩

theorem witness_ring_effects :
    Spec.RingSound (header 3 1 0) ∧ Spec.RingSound (header 8 8 0) ∧ ¬ Spec.RingSound { header 0 0 0 with n := 3 } ∧
    (header 3 1 0).bytes.length = 64 ∧ RingHdr.ofBytes (header 3 1 0).bytes = header 3 1 0 ∧
    Spec.apart 1 1 < Spec.apart 3 1 ∧ Spec.apart 3 1 ≤ Spec.apart 4 1 ∧ ¬ Spec.apart 8 0 + 0 < 8 :=
  ⟨ring_sound (by decide) (by decide), ring_sound (by decide) (by decide),
    fun h => by
      obtain ⟨k, hk, h3⟩ := h.count
      have : (3 : Nat) = 2 ^ k := h3
      interval_cases k <;> simp at this, by decide +kernel, by decide +kernel, by decide, by decide, by decide⟩

theorem witness_rings_run : ∀ i ∈ [Instr.racq 3 4, .rcommit 4 3, .rrel 4 3], Runs ringState group ringRunner i :=
  runs_all (by decide +kernel)

/-- The crew with a completion word that copies lane 0 alone (k1), to a fill of tile 0 or to none. -/
def copyRunner (fill : Bool) : Crew := { runner with sregs := [(3, 2 ^ 20 + if fill then 1 else 0)], kregs := [(1, 1)] }
def copyState (fill codebook : Bool) : State :=
  let s := (mapped (copyRunner fill)).putTile 1 0 0 { offset := 0, size := 32, swz := 0, state := .empty, pend := 0 }
  setup (if codebook then s.onCore 0 fun k => { k with books := [(0, { block := 1, entries := [] })] } else s) (copyRunner fill)

/-- The checks of a copy of lane 0. -/
def copyPasses (fill codebook : Bool) : Bool :=
  let s := copyState fill codebook
  let r := copyRunner fill
  let j : CopyJob :=
    { crew := 128, queue := 0, codebook := codebook, size := 4, word := r.sreg 3, cache := .dflt
      lanes := ((List.range 32).filter fun l => r.live.getLsbD l && (r.kreg (wordMask (r.sreg 3))).getLsbD l).map fun l =>
        (l, s.getV2 r 2 l, s.getV2 r 4 l)
      units := [], seq := s.nextId, origin := s.nextId, moved := false }
  !wordBad codebook (r.sreg 3) && (s.copyTileFault r (r.sreg 3)).isNone && wordCtr (r.sreg 3) == 0
    && match s.copyLanes r j with
      | (.ok us, _) => us.length == 1
      | (.error _, _) => false

theorem witness_copies :
    copyPasses false false = true ∧ copyPasses true false = true ∧ copyPasses false true = true ∧
    (copyState false true).bookOf 0 1 ≠ none := by decide +kernel

theorem witness_copies_run :
    Runs (copyState false false) group (copyRunner false) (.copy 0 3 2 4 .c4) ∧
    Runs (copyState true false) group (copyRunner true) (.copy 0 3 2 4 .c4) ∧
    Runs (copyState false true) group (copyRunner false) (.copycb 0 3 2 4) :=
  ⟨runs_setup (by decide +kernel), runs_setup (by decide +kernel), runs_setup (by decide +kernel)⟩

/-- Completion words that each fail one check alone, and a copy to memory that is not mapped. -/
theorem witness_copy_faults :
    let s := fun (v : DWord) => running { runner with sregs := [(3, v)], kregs := [(1, 1)] }
    let r := fun (v : DWord) => { runner with sregs := [(3, v)], kregs := [(1, 1)] }
    wordBad false 3 = true ∧ (copyState true false).copyTileFault (copyRunner true) (2 ^ 20 + 1 + 2 ^ 16) = some 0x0B ∧
    (s 1).copyTileFault (r 1) 1 = some 0x0A ∧ ((s 0x100).putCtr 0 1 { value := 1, ctx := some 3 }).heldCtr 0 0 1 = true ∧
    (copyState false false).bookOf 0 1 = none ∧
    (match (s (2 ^ 20)).copyLanes (r (2 ^ 20))
        { crew := 128, queue := 0, codebook := false, size := 4, word := 2 ^ 20, cache := .dflt, lanes := [(0, 0, 0)], units := []
          seq := 0, origin := 0, moved := false } with
      | (.error _, _) => true
      | _ => false) = true ∧
    (match (running runner).checkLane (viaOf runner) 0 true
        { va := 0, size := 4096, align := 4096, kind := .read, wr := true, ww := false, atL2 := true } with
      | (.error _, _) => true
      | _ => false) = true := by decide +kernel

theorem witness_copy_faults_run :
    let r := { runner with sregs := [(3, 3)], kregs := [(1, 1)] }
    ∀ i ∈ [Instr.copy 0 3 2 4 .c4, .copycb 0 3 2 4, .cbset 3], Runs (running r) group r i := runs_all (by decide +kernel)

/-- A copy of no lanes in queue 1. -/
def noCopy : CopyJob :=
  { crew := 128, queue := 1, codebook := false, size := 4, word := 0, cache := .dflt, lanes := [], units := [], seq := 0
    origin := 0, moved := false }

/-- A copy of 4 bytes from 0x100 to 0x200 for lane 0, to a fill of tile 0, and from a drain of it. -/
def oneCopy (kind : DWord) : CopyJob :=
  { noCopy with
    word := kind, lanes := [(0, 0x100, 0x200)]
    units := [(if kind = 2 then [] else [(page, 0x100)], if kind = 1 then [] else [(page, 0x200)])] }

theorem witness_copy_completes :
    let s := (running runner).onCore 0 fun k => { k with queues := [(1, [oneCopy 0])] }
    let t : State := { s with mem := { s.mem with poison := [0x100 / 32] } }
    (s.coreOf 0).queues.find (1#2).toNat = some [oneCopy 0] ∧ s.crews.find (oneCopy 0).crew = some runner ∧
    s.isLocal page = true ∧ s.poisoned 0x100 4 = false ∧ t.poisoned 0x100 4 = true := by decide +kernel

theorem witness_copies_move : ∀ kind, kind < 3 →
    let s := tiled runner .ready
    let j := oneCopy (BitVec.ofNat 64 kind)
    let places := j.units.flatMap fun u => u.1 ++ u.2
    (s.part? runner.block runner.part).isSome = true ∧ j.units.length = j.lanes.length ∧ j.size = 4 ∧ wordKind j.word = kind ∧
    (∀ x ∈ j.units, (if wordKind j.word = 2 then x.1 = [] else x.1.length = 1) ∧
      if wordKind j.word = 1 then x.2 = [] else x.2.length = 1) ∧
    (∀ p ∈ places, s.isLocal p.1 = true ∧ p.1.attr = 0 ∧ p.1.key = 0 ∧ ∀ i, i < 64 → rangeOf (p.2 + i) = .lpddr) ∧
    roomB s 0 (linesAt places 64) = true := by decide +kernel

theorem witness_codebook :
    let s := mapped runner
    (match s.checkLane (viaOf runner) 0 runner.priv
        { va := runner.sreg 3, size := 4096, align := 4096, kind := .read, wr := true, ww := false, atL2 := true } with
      | (.ok p, t) => t.bookSlot 0 1 == some 0 && !(t.isLocal p.1 && rangeOf p.2 == .mmio)
      | _ => false) = true := by decide +kernel

theorem witness_codebook_runs : Runs (mapped runner) group runner (.cbset 3) := runs_setup (by decide +kernel)

/-- A binning descriptor at 0x1000: bitmaps at 0x8000, 1024 primitives, one strip. -/
def binState (r : Crew) : State :=
  setup ((((mapped r).poke 0x1000 8 0x8000).poke 0x1008 4 1024).poke 0x100C 2 1) r
def binRunner : Crew := { split with sregs := [(2, 0x1000)] }

theorem witness_bin :
    let r := binRunner
    let s := binState r
    (match s.descriptor 128 r (r.active 0) 0x1000 16 with
      | (.ok bs, t) => !binBad bs && match t.checkLists (viaOf r) (s.ctxOf r) r.priv ((lanesOf (r.active 0)).map fun l =>
          (l, (binWords bs 8 (s.getV r 3 l).toNat (s.getV r 1 l).toNat).map fun va =>
            { va := va, size := 4, align := 4, kind := .atomic, wr := false, ww := true, atL2 := true })) with
        | (.ok ps, _) => ps.length == 1
        | _ => false
      | _ => false) = true ∧
    (match (mapped r).descriptor 128 r (r.active 0) 0x1000 16 with
      | (.ok bs, _) => binBad bs
      | _ => false) = true ∧
    (match (withV s 3 1024).descriptor 128 r (r.active 0) 0x1000 16 with
      | (.ok bs, _) => !binBad bs && decide (fieldAt bs 8 4 ≤ ((withV s 3 1024).getV r 3 0).toNat)
      | _ => false) = true := by decide +kernel

theorem witness_bin_runs : Runs (binState binRunner) group binRunner (.bin 3 1 2 .h8 0) := runs_setup (by decide +kernel)

/-- All the lanes of a group test the one word. -/
theorem witness_ztest :
    let s := running runner
    let va := fun l => (s.getV runner 1 l).setWidth 64
    s.bankFaults runner (runner.active 0) va 4 = [] ∧ runner.active 0 = 0xFFFFFFFF ∧ va 0 = va 31 ∧
    (∀ j, j < s.spreadOf runner → (s.part? runner.block j).isSome = true) := by decide +kernel

theorem witness_ztest_runs : Runs (running runner) group runner (.ztest .less 1 1 3 0) := runs_running (by decide +kernel)

theorem witness_texq :
    let r := split
    let s := mapped r
    (match s.descriptor 128 r (r.active 0) 0 32 with
      | (.ok bs, t) => !texBad bs && match t.checkLists (viaOf r) (s.ctxOf r) r.priv ((lanesOf (r.active 0)).map fun l =>
          (l, (texels bs .wrap (s.getV r 1 l)).filterMap fun p => p.map fun va =>
            { va := va, size := 4, align := 4, kind := .read, wr := true, ww := false, atL2 := false })) with
        | (.ok ps, u) => ps.length == 1 && roomB u r.core (linesAt (ps.flatMap (·.2)) 4)
            && ps.all fun x => x.2.length == 4 && x.2.all fun q => u.l1Able q.1 q.2
        | _ => false
      | _ => false) = true ∧ (s.part? r.block r.part).isSome = true ∧
    (match s.descriptor 128 r (r.active 0) 0 32 with
      | (.ok bs, _) => (texels bs .border 0)[0]? == some none
      | _ => false) = true := by decide +kernel

theorem witness_texq_runs : Runs (mapped split) group split (.texq 4 1 2 .wrap 0) := runs_setup (by decide +kernel)

/-- A chain of context 0 that runs its first instance, and a machine that holds it as chain 3. -/
def chain : Chain :=
  { ctx := 0, va := 0x7000, release0 := 100, period := 1000, drel := 500, guard := 0, work := 10, rparts := 1, ncore := 1, core0 := 0
    frame := 0, level := 0, pin := false, rslot := 0, state := .running, levelNow := 0, levelWas := 0, levelClk := 0, overruns := 0, pred := 0, inst := 0
    count := 0, next := 1, base := (100, 0), reports := [(200, 2)], held := [0] }
def chained (c : Chain) : State := { mapped runner with chains := [(3, c)] }

theorem witness_chainq :
    let own := (running { runner with sregs := [(4, 0xFFFF_0003)] })
    (((0x30003#64).toNat % 2 ^ 16 < 8 ∧ (0x30003#64).toNat < 2 ^ 32) ∧ (0x30003#64).toNat / 2 ^ 16 = 3) ∧
    (chained chain).chains.find 3 = some chain ∧ chain.ctx = (chained chain).ctxOf runner ∧ own.chains.find 3 = none ∧
    { chain with ctx := 1 }.ctx ≠ (chained chain).ctxOf runner ∧ 8 ≤ (8#64).toNat % 2 ^ 16 ∧ 2 ^ 32 ≤ (0x100000000#64).toNat := by
  decide +kernel

theorem witness_chainq_runs :
    let r := { runner with sregs := [(4, 0x30003)] }
    Runs (setup (chained chain) r) group r (.chainq 3 4) := runs_setup (by decide +kernel)

theorem witness_rng :
    ((running runner).part? runner.block runner.part).isSome = true ∧ (∀ l, l < 32 → (runner.draw l).toNat ≠ 2 ^ 64 - 1) ∧
    ({ runner with rngIdx := [(0, 0xFFFFFFFFFFFFFFFF)] }.draw 0).toNat = 2 ^ 64 - 1 := by decide +kernel

theorem witness_wrstate :
    let v : DWord := 2 ^ 62
    (∃ x ∈ Spec.itemZeros 1 31, v.extractLsb' x.1 x.2 ≠ 0) ∧ 4 < (5 : DWord).toNat ∧
    16 + ((running runner).auxOf 128).rsEnt < ((0x1FFFF : DWord).extractLsb' 0 17).toNat ∧
    ((running runner).tile runner 0).pend = 0 ∧ 0 < (running runner).tileCount runner ∧
    (withPacket (running runner) { fetchPacket with tiles := 16 }).tileCount runner ≤ 31 ∧ (runner.rstack 31).chip.length = min (runner.rstack 31).depth 16 ∧
    (((running runner).putTile 1 0 0 { offset := 0, size := 1, swz := 0, state := .filling, pend := 1 }).tile runner 0).pend ≠ 0 := by
  decide +kernel

/-- A value that breaks no layout of the first and last items of each group. -/
theorem witness_wrstate_values :
    ([(0, 0), (0, 12), (0, 28), (1, 0), (1, 31), (2, 31), (3, 31), (4, 31), (5, 0), (5, 15), (5, 16), (5, 27), (6, 0), (7, 63)] : List _).all
      (fun x => Spec.itemDefined x.1 x.2 && (Spec.itemZeros x.1 x.2).all fun f => decide ((4 : DWord).extractLsb' f.1 f.2 = 0)) = true ∧
    Spec.itemDefined 0 29 = false ∧ Spec.itemDefined 5 28 = false := by decide +kernel

/-- In a handler, in matrix mode, with the planes its own. -/
theorem witness_wrstate_runs (v : DWord) (hv : v = 4 ∨ v = 5 ∨ v = 0x1FFFF ∨ v = 2 ^ 62) :
    let r := { matrixRunner noGang with sregs := [(3, v)] }
    ∀ i ∈ [Instr.wrstate 3 0, .wrstate 3 8, .wrstate 3 9, .wrstate 3 10, .wrstate 3 12, .wrstate 3 28, .wrstate 3 64, .wrstate 3 95,
        .wrstate 3 128, .wrstate 3 159, .wrstate 3 192, .wrstate 3 223, .wrstate 3 256, .wrstate 3 287, .wrstate 3 320,
        .wrstate 3 335, .wrstate 3 336, .wrstate 3 347, .wrstate 3 384, .wrstate 3 415, .wrstate 3 448, .wrstate 3 511],
      Runs (setup ((matrixState r .ready).onAux 128 fun a => { a with trap := { a.trap with nesting := true } }) r) group r i := by
  rcases hv with h | h | h | h <;> subst h <;> exact runs_all (by decide +kernel)

theorem witness_crew_events :
    let held := { runner with phase := .waiting 14, sregs := [(1, 5)] }
    let a := { (running runner).auxOf 128 with retryAt := 7 }
    (running { runner with phase := .starting }).crews.find 128 = some { runner with phase := .starting } ∧
    ({ runner with phase := .waiting 15, stallEnd := 3 }.stallEnd ≠ 0 ∧ 3 ≤ { running runner with clk := 3 }.clk) ∧
    ((running runner).auxOf 128).susp = none ∧ ((running runner).auxOf 128).hold = 0 ∧
    (running { runner with phase := .waiting 14 }).crewWait 128 { runner with phase := .waiting 14 } = none ∧
    held.stallEnd ≤ (running held).clk ∧
    (a.retryAt ≠ 0 ∧ a.retryAt ≤ { running runner with time := 7 }.time.toNat) := by decide +kernel

/-- A crew whose group waits on TIME: its wait gives way to that. -/
theorem witness_wait_gives_way :
    let r := { runner with phase := .waiting 9, sregs := [(1, 5)] }
    ((fetched r 0xE4000400).crewWait 128 r).map (·.1) = some 14 := by decide +kernel

/-- A crew that waits for its group's line: once that is there, nothing holds the group. -/
theorem witness_wait_for_fetch :
    let r := { runner with phase := .waiting 12 }
    let s := uncached r
    s.fetchWaits r = true ∧ ((s.fetchGroup r r.headPc 3).2.2.crewWait 128 r).isNone = true := by decide +kernel

/-- Two results that return, the older one from a peer that has not answered. -/
theorem witness_load_returns :
    let x : Returning := { regs := [1], sregs := [], kregs := [], requests := 1, issued := 1, group := 4, lost := none, stack := false }
    let y : Returning := { regs := [2], sregs := [], kregs := [], requests := 1, issued := 2, group := 0, lost := none, stack := false }
    let f : Flight := { seq := 1, req := .ack 0, sources := [(128, 0x100)], group := 4 }
    let p : Peer := { Peer.zero with unacked := [f] }
    let s := (running runner).onAux 128 fun a => { a with returning := [x, y] }
    let t : State := { s with links := { s.links with peers := [(3, p)] } }
    (t.auxOf 128).returning = [x, y] ∧ (x.group ≠ 0 ∧ (3, p) ∈ t.links.peers ∧ f ∈ p.unacked ∧ f.group = x.group ∧
      (128, 0x100) ∈ f.sources) ∧ y.lost.isSome = false ∧ y.group = 0 ∧ t.awaiting = true := by decide +kernel

theorem witness_preemption :
    let s := (handled runner).onAux 128 fun a => { a with preempt := some 2 }
    (s.auxOf 128).preempt = some 2 ∧ (s.auxOf 128).trap.nesting = false ∧ (s.auxOf 128).retryAt = 0 ∧ runner.phase = .ready ∧
    (s.pn runner.pkey).streams = [] ∧ s.latches = [] ∧ s.freeFrameOf (s.ctxOf runner) (s.auxOf 128).started = some 0 ∧
    s.freeFrameOf 0 { (s.auxOf 128).started with saveFrames := 0 } = none := by decide +kernel

/-- What a stream of the crew works on: an empty tile, and zeros. -/
def work : StreamWork :=
  { fmt := .int8, tr := false, plane := { bytes := [], fmt := 0, valid := false }, before := [], events := 0
    read := { crew := 128, block := 1, part := 0, entry := { offset := 0, size := 1, swz := 0, state := .ready, pend := 0 }, lo := 0
              bytes := [] } }

/-- A crew asked to leave while its MMA streams, and one whose gang is complete on the clk of the request. -/
theorem witness_streams_first :
    let s := (handled runner).onPn 0 fun p => { p with streams := [{ crew := 128, acc := false, start := 0, work := work }] }
    let a : Arrival := arrivalOf group gangRunner false false true 0 0 .int8
    let l : Latch := { arrivals := [a], start := 0, completed := some 0 }
    (s.pn runner.pkey).streams.map (·.crew) = [128] ∧ l.completed = some ((handled runner).auxOf 128).preemptClk ∧ a.crew = 128 := by
  decide +kernel

theorem witness_resumption :
    let r := { runner with phase := .saved }
    let s := setup ((handled r).onAux 128 fun a => { a with frame := some 0 }) r
    r.phase = .saved ∧ (s.auxOf 128).frame = some 0 ∧ s.resumeSlot r = some 0 ∧ s.earlierSaved 128 r 0 = false ∧
    (s.tableEntry (s.ctxOf r) (s.startedOf (s.ctxOf r) (s.packetOf r).rslot).trapTab 0x21).1 = some (0x2000, true) := by decide +kernel

/-- A context whose pithead takes doorbells, with a packet in slot 0 of its page: one block of one crew. -/
def bellState (crews : Nat) : State :=
  let s : State := { State.reset with
    ctxs := [(0, fetchContext)], pithead := { State.reset.pithead with up := true } }
  s.bar2Put 0 (leBytes 8 0x20000 ++ leBytes 8 0 ++ leBytes 4 1 ++ leBytes 2 1 ++ leBytes 2 1
      ++ [BitVec.ofNat 8 crews, 16, 1, 1] ++ leBytes 2 64 ++ [32, 0x20] ++ leBytes 32 0)

theorem witness_doorbell :
    let p := fun (s : State) => Packet.ofBytes ((List.range 64).map fun i => Sparse.get 0 s.mem.bar2 (4096 * 0 + 64 * 0 + i))
    (0#32).toNat ≤ 62 ∧ (62#32).toNat ≤ 62 ∧ 62 < (63#32).toNat ∧ State.reset.pithead.up = false ∧ (bellState 1).pithead.up = true ∧
    (bellState 1).rejection 0 (p (bellState 1)) = none ∧ (bellState 0).rejection 0 (p (bellState 0)) = some 3 := by decide +kernel

/-- A launch with its block to place. -/
def launch : Launch :=
  { packet := fetchPacket, ctx := 0, subseq := 1, pred := none, ready := true, next := 0, passed := none, blocking := false
    retiredBlocks := 0, ending := false, left := [] }
def launched (k : Launch) : State :=
  { State.reset with ctxs := [(0, { fetchContext with slots := [(0, { fetchRegion with crewsUsed := 0 })] })], launches := [(2, k)] }

theorem witness_launches :
    let idle := { launch with ready := false }
    let passed := { launch with passed := some 0 }
    (launched idle).launches.find 2 = some idle ∧ idle.ready = false ∧ idle.packet.start.toNat ≤ (launched idle).time.toNat ∧
    (launched idle).predDone idle = true ∧ passed.passed = some 0 ∧ passed.next < passed.packet.blocks ∧
    (0#64).toNat + 1000000 ≤ { launched passed with time := 1000000 }.time.toNat ∧
    (launched launch).stripActs = false ∧ (launched launch).waitingLaunches = [(2, launch)] ∧ (launched launch).savedOf 2 = false ∧
    ((launched launch).place launch).isSome = true ∧ (launched launch).links.ptp.locked = false ∧
    (let s := launched launch
     let t := { s with links := { s.links with ptp := { s.links.ptp with locked := true } } }
     t.stripActs = false ∧ t.links.ptp.locked = true ∧ t.waitingLaunches = [(2, launch)] ∧ t.savedOf 2 = false ∧
     (t.place launch).isSome = true) := by decide +kernel

theorem witness_block_retires :
    let s := running { runner with phase := .exited }
    let late : State := { s with links := { s.links with peers := [(3, { Peer.zero with unacked :=
      [{ seq := 1, req := .ack 0, sources := [], group := 0 }] })] } }
    s.awaiting = false ∧ late.awaiting = true ∧ (s.blocks.find 1).map (·.launch) = some 2 ∧ s.blockDone 1 = true ∧
    (s.launches.find 2).map (fun l => l.retiredBlocks + 1) = some fetchPacket.blocks ∧
    ((withPacket s { fetchPacket with gridX := 2 }).launches.find 2).map (fun l => l.retiredBlocks + 1 == l.packet.blocks)
      = some false := by decide +kernel

theorem witness_matrix_events :
    let s : State := { running runner with clk := 2 ^ 20 }
    let x : Stream := { crew := 128, acc := false, start := 0, work := work }
    let y : AccStore := { crew := 128, acc := false, block := 1, part := 0, tile := 0, start := 0 }
    let t := s.onPn 0 fun p => { p with streams := [x], wld := some (128, 0), accst := [y] }
    let l : Latch := { arrivals := [arrivalOf group gangRunner false false true 0 0 .int8], start := 0, completed := none }
    (t.pn (partKey 0 0)).streams = [x] ∧ (t.pn (partKey 0 0)).wld = some (128, 0) ∧ (t.pn (partKey 0 0)).accst = [y] ∧
    x.start + 40 ≤ t.clk ∧ 0 + 32 ≤ t.clk ∧ y.start + 40 ≤ t.clk ∧ l.complete 128 = false ∧ l.start + 2 ^ 20 ≤ t.clk := by
  decide +kernel

theorem witness_lamp_rounds :
    let s : State := { State.reset with clk := 5000 }
    let at' := fun (l : Lamp) => { s.lamps with clusters := [(0, l)] }.at 0
    let done := { s.lamps with clusters := (List.range 12).map fun c => (c, Lamp.done) }
    at' (.hold 1) = .hold 1 ∧ 1 + 8 ≤ s.clk ∧ at' (.burst 0 0) = .burst 0 0 ∧ 0 + 4096 ≤ s.clk ∧ 0 + 256 ≤ s.clk ∧
    at' .drain = .drain ∧ s.clusterIdle 0 = true ∧ done.advance = none ∧
    (∀ i, i < 12 → done.lit i = true → done.at i = .done) ∧ { done with advance := some 8 }.advance = some 8 := by decide +kernel

/-- A crew that waits for memory, under reason 2, while its MMA stands at the lamp step: its cluster's burst begins with the round. -/
theorem witness_lamp_waiter :
    let r := { matrixRunner noGang with phase := .waiting 2 }
    let w : Nat := ((encode (.mma false false true false 0 0 .int8)).getD 0).toNat
    let f := State.reset.withFetchWord 32 w
    let s : State := { matrixState r .ready with cores := f.cores, mem := f.mem, lamps := { State.reset.lamps with advance := some 0 } }
    let v : State := { s with lamps := { s.lamps with clusters := { s.lamps with k := 1 }.fresh 0 } }
    s.crews.find 128 = some r ∧ (v.peekGroup 128 r).map (·.1) = some (.mma false false true false 0 0 .int8) ∧
    (match v.peekGroup 128 r with
      | some (i, g) => (issueFault v 128 r g.hints i).isNone && match mmaStand false false true false 0 0 .int8 v g r with
        | .lamp _ => true
        | _ => false
      | none => false) = true ∧ (running runner).atLamp 128 runner = false ∧ s.clusterOf 0 = 0 := by decide +kernel

theorem witness_chain_release :
    let c := { chain with state := .idle }
    let s : State := { chained c with time := 5000 }
    let full := withRegion s { fetchRegion with parts := 0 }
    s.chains.find (3#16).toNat = some c ∧ c.releaseOf c.next ≤ s.time.toNat ∧ c.period ≠ 0 ∧ chain.state ≠ .idle ∧
    (let fits := fun (u : State) => (u.regionChain c.ctx c.rslot).all fun k => match u.region c.ctx k with
       | some g => !g.override.getLsbD 6 || decide (g.partsUsed + c.rparts * c.ncore ≤ g.parts.toNat)
       | none => true
     fits s = true ∧ fits full = false) := by
  decide +kernel

theorem witness_chain_ends :
    let s : State := { chained chain with time := 5000 }
    chain.deadline chain.inst.toNat + 1000 ≤ s.time.toNat ∧ (∀ x ∈ { chain with reports := [] }.reports, chain.deadline 0 < x.1.toNat) ∧
    { chain with state := .reserving }.state = .reserving ∧ firstReport chain.reports = some (200, 2) ∧
    (200#64).toNat ≤ chain.deadline chain.inst.toNat ∧ ¬ chain.work.toNat ≤ chain.count.toNat + 2 ∧
    { chain with work := 2 }.work.toNat ≤ chain.count.toNat + 2 ∧
    chain.base.1.toNat ≤ 200 ∧ chain.base.2.toNat < 2 ∧ 2 ≤ chain.work.toNat ∧
    chain.state = .running ∧ s.skipDue { chain with next := 100 } = false ∧ s.skipDue { chain with next := 100, state := .reserving } = false := by
  decide +kernel

theorem witness_reservation_grant :
    let c := { chain with state := .reserving, held := [] }
    let s : State := { chained c with crews := [], time := 200 }
    (match s.dealParts.chains.find 3 with
      | some d => decide ((s.viewOf d.core0 d.ctx 0).chip.length < s.viewCap d.ctx (frameRslot d.frame)) && d.state == .reserving
          && s.dealParts.setWhole d && decide (s.time.toNat ≤ d.deadline d.inst.toNat) && !s.skipDue d
          && (match s.dealParts.pushFrame d.core0 d.ctx 0 d.frame with
            | .ok _ => true
            | .error _ => false)
      | none => false) = true := by decide +kernel

/-- A chain whose report raises its level. -/
theorem witness_chain_rate :
    let c := { chain with work := 1000, levelClk := 5 }
    let s : State := { chained c with time := 200 }
    let d := (s.report 3 c (200, 2)).chains.find 3
    c.count.toNat + 2 < c.work.toNat ∧ c.base.2.toNat < c.count.toNat + 2 ∧
    c.deadline c.inst.toNat < c.predict 200 2 + c.guard.toNat ∧ c.pin = false ∧ c.levelNow < 4 ∧ c.levelClk ≠ s.clk ∧
    d.map (·.rate s.clk) = some 0 ∧ d.map (·.rate (s.clk + 1)) = some 0x11 := by decide +kernel

/-- A head that shows and codes 64 lines of 64 pixels in one strip, its ring header at 0x1000 in context 0. -/
def headRegs : HeadRegs :=
  { HeadRegs.zero with
    hctl := 1 + 3 * 2 + 2 ^ 16, epoch := 100, fper := 2 ^ 36, lper := 2 ^ 16, geom := 64 + 64 * 2 ^ 16 + 64 * 2 ^ 32
    ring := 0x1000, eqp := 1 + 2 * 256, ertp := 96 * 2 ^ 32 + 1200 * 2 ^ 48, estate := 0x4010_0000 }
/-- The cells of a page table that maps the first GiB onto itself uncached, and the second likewise, write-back. -/
def tableCells : List Host.Cell :=
  [⟨0x10000, 1⟩, ⟨0x10001, 0x10⟩, ⟨0x10002, 1⟩, ⟨0x11000, 1⟩, ⟨0x11001, 0x20⟩, ⟨0x11002, 1⟩, ⟨0x12000, 0x2F⟩, ⟨0x12008, 0xF⟩, ⟨0x1200B, 0x40⟩]
def headState (due : Nat) (f a : Byte) : State :=
  { State.reset with
    time := 2 ^ 30, ctxs := [(0, fetchContext)]
    mem := { State.reset.mem with
      phys := [⟨0x1001, 0x80⟩, ⟨0x1009, 0x30⟩, ⟨0x100C, 8⟩] ++ [⟨0x1010, a⟩, ⟨0x1014, f⟩].filter (fun c => c.2 != 0) ++ tableCells }
    links := { State.reset.links with heads := [(5, { regs := headRegs, eng := { Engine.zero with due := due } })] } }

/-- How a head's ring stands to the strip that is due: committed, acquired, or neither. -/
def dueCase (s : State) : Option Nat :=
  match (s.ringOf 5).1 with
  | some r => some (if diff32 0 r.l < diff32 r.f r.l then 0 else if diff32 0 r.l < diff32 r.a r.l then 1 else 2)
  | none => none

theorem witness_strip_due :
    (headState 0 1 1).rowHead 0 = none ∧ headRegs.en = true ∧ headRegs.ns ≠ 0 ∧ headRegs.dueTime 0 0 ≤ 2 ^ 30 ∧
    dueCase (headState 0 1 1) = some 0 ∧ dueCase (headState 0 0 1) = some 1 ∧ dueCase (headState 0 0 0) = some 2 ∧
    ({ headState 0 0 0 with ctxs := [] }.ringOf 5).1 = none := by decide +kernel

/-- A strip of 32 lines whose last line lies by the next strip's due time, and, due a line earlier, after it. No head does anything by a
time before its first due, and a row whose last strip is due by now stands ready once its heads have caught up. -/
theorem witness_head_order :
    let g := { headRegs with hctl := 1 + 3 * 2 + 2 ^ 17, geom := 64 + 64 * 2 ^ 16 + 32 * 2 ^ 32 }
    let early := { g with due := 0xFFFF }
    let last := g.lineTime (0 / g.ns) (min (g.sh * (0 % g.ns) + g.sh) g.h)
    g.shows = true ∧ last ≤ g.dueTime (1 / g.ns) (1 % g.ns) ∧
    (let e := early.lineTime (0 / early.ns) (min (early.sh * (0 % early.ns) + early.sh) early.h)
     early.dueTime (1 / early.ns) (1 % early.ns) < e) ∧
    (let s : State := { headState 0 1 1 with time := 0 }
     (s.headOf 5).dueBy s.time.toNat = false ∧ (s.headOf 5).emittedBy s.time.toNat = false ∧ (s.headOf 6).dueBy s.time.toNat = false) ∧
    ({ headState 0 1 1 with time := 120 }.catchEngine 0).rowHead 0 = some 5 := by decide +kernel

theorem witness_readings_end :
    headRegs.shows = true ∧ headRegs.ns = 1 ∧ ((headState 1 1 1).headOf 5).eng.disp < ((headState 1 1 1).headOf 5).nextDue ∧
    headRegs.lineTime 0 (min (headRegs.sh * 0 + headRegs.sh) headRegs.h) ≤ 2 ^ 30 ∧ (headState 1 1 1).rowHead 0 = some 5 ∧
    ((headState 1 1 1).stateAreaFault headRegs).isNone = true ∧
    ({ headState 1 1 1 with ctxs := [] }.stateAreaFault headRegs).isSome = true := by decide +kernel

/-- The marks of a strip that was missed and of one that was not, an egress entry, and the ring that strip 0 is read from. -/
theorem witness_strip_marks :
    (∀ m ∈ [dueMark 0 true false true], m.idx = 0 → m.missed = true) ∧
    (∃ m ∈ [dueMark 0 false false false], m.idx = 0 ∧ m.missed = false) ∧
    ((headState 1 1 1).ringOf 5).1.isSome = true ∧ { Egress.zero with valid := true }.valid = true ∧ Egress.zero.valid = false := by
  decide +kernel

/-- A host whose command queue holds one command, and a context 0 whose windows span it. -/
def commanded (s : State) (bs : List Byte) : State :=
  let w : Window := { base := 0, len := 2 ^ 30, rd := true, wr := true, valid := true }
  let t : State := { s with
    pithead := { s.pithead with up := true }
    hostIf := { s.hostIf with
      cmdq := { base := 0x1000, log2n := 4, prod := 1, cons := 0 }
      cplq := { base := 0x4000, log2n := 4, prod := 0, cons := 0 }
      ctl := [(0, { CtlPage.zero with wins := [(0, w)] })] } }
  t.hostPut 0x1000 bs

/-- A command of 64 bytes: its operation, context and operands from offset 16. -/
def command (op ctx : Nat) (args : List Byte) : List Byte :=
  leBytes 2 op ++ leBytes 2 0 ++ leBytes 4 7 ++ leBytes 1 ctx ++ leBytes 7 0 ++ args

/-- Whether a command stands at the head of the queue and reaches its operation. -/
def takesB (s : State) (i : Instr) (owned : Bool) : Bool :=
  decide (s.nextCommand = some i) && s.pithead.badCap.isNone && s.cmd.zero 2 2 && s.cmd.zero 9 7
    && (decide (i = .lamps) || decide (s.cmd.ctx < 64)) && (!owned || (s.ctxs.find s.cmd.ctx).isSome)
    && s.pithead.staged.all fun g => !g.sent

theorem takes_of {s : State} {i : Instr} {owned : Bool} (h : takesB s i owned = true) : Takes s i owned := by
  simp only [takesB, Bool.and_eq_true, decide_eq_true_eq, Bool.or_eq_true, Option.isNone_iff_eq_none] at h
  exact ⟨h.1.1.1.1.1.1, fun g hg => by simpa [hg] using h.2, h.1.1.1.1.1.2, ⟨h.1.1.1.1.2, h.1.1.1.2⟩, h.1.1.2,
    fun ho => by simpa [ho] using h.1.2⟩

/-- A machine with context 0, its crew, and the first GiB mapped onto itself, for the pithead alone. -/
def serviced (cells : List Host.Cell) (bs : List Byte) : State :=
  let s : State := { mapped runner with
    mem := { State.reset.mem with phys := cells ++ tableCells.take 6 ++ [(0x12000, 0x3F)] }, issue := none
    ctxs := [(0, { fetchContext with slots := [(0, { fetchRegion with crewsUsed := 0 })] })] }
  commanded s bs

theorem witness_ctxcreate :
    let s := commanded State.reset (command 1 3 (leBytes 8 0x10000 ++ leBytes 8 0x10000 ++ leBytes 8 0x4000))
    Takes s .ctxcreate false ∧ s.cmd.num 0 2 = 1 ∧ s.cmd.zero 40 24 = true ∧ s.ctxs.find s.cmd.ctx = none ∧
    s.cmd.num 16 8 % 4096 = 0 ∧ s.cmd.num 24 8 ≤ s.cmd.num 16 8 ∧ s.cmd.num 16 8 + 4096 ≤ s.cmd.num 24 8 + s.cmd.num 32 8 ∧
    rangeOf (s.cmd.num 24 8 + s.cmd.num 32 8 - 1) = .lpddr := ⟨takes_of (by decide +kernel), by decide +kernel⟩

theorem witness_ctxdestroy :
    let s := commanded { State.reset with ctxs := [(3, fetchContext)] } (command 2 3 [])
    Takes s .ctxdestroy true ∧ s.cmd.zero 16 48 = true ∧ s.ctxBusy s.cmd.ctx = false :=
  ⟨takes_of (by decide +kernel), by decide +kernel⟩

theorem witness_region_load :
    let s := serviced [(0x9000, 0), (0x9002, 3)] (command 3 0 (leBytes 8 1 ++ leBytes 8 0x9000))
    Takes s .regionLoad true ∧ s.cmd.num 17 1 = 0 ∧ s.cmd.zero 18 6 = true ∧ s.cmd.zero 32 32 = true ∧
    s.cmd.num 24 8 % 256 = 0 ∧
    (match s.fwRead 0 0x9000 256 with
      | .ok (bs, t) =>
        let g := Region.ofBytes 0x9000 bs
        let slots : Tbl Region := ((t.ctxs.find 0).map (·.slots)).getD []
        t.privPage 0 g.va && g.fieldsOk bs && (slots.find 1).isNone && parentOk slots 1 g
      | .error _ => false) = true := ⟨takes_of (by decide +kernel), by decide +kernel⟩

theorem witness_region_remove :
    let s := serviced [] (command 3 0 (leBytes 8 0x101))
    let t := { s with ctxs := [(0, { fetchContext with slots := [(0, fetchRegion), (1, { fetchRegion with va := 0x9000, crewsUsed := 0, bankUsed := 0 })] })] }
    Takes t .regionRemove true ∧ t.cmd.zero 18 46 = true ∧ t.cmd.num 16 1 = 1 ∧
    t.slotBusy 0 1 { fetchRegion with va := 0x9000, crewsUsed := 0, bankUsed := 0 } ((t.ctxs.find 0).map (·.slots) |>.getD []) = false := ⟨takes_of (by decide +kernel), by decide +kernel⟩

theorem witness_keyload :
    let s := serviced [] (command 7 0 (leBytes 8 5 ++ leBytes 8 0x2000))
    Takes s .keyload true ∧ s.cmd.num 16 1 = 5 ∧ s.cmd.zero 17 7 = true ∧ s.cmd.zero 32 32 = true ∧ s.cmd.num 24 8 % 64 = 0 ∧
    leVal (s.hostRead 0x2000 64) = 0 ∧ leVal ((s.hostPut 0x2000 [1]).hostRead 0x2000 64) ≠ 0 :=
  ⟨takes_of (by decide +kernel), by decide +kernel⟩

theorem witness_debug_commands :
    Takes (serviced [] (command 8 0 [])) .dbggrant true ∧ (serviced [] (command 8 0 [])).cmd.zero 16 48 = true ∧
    Takes (serviced [] (command 9 0 [])) .dbgrevoke true := ⟨takes_of (by decide +kernel), by decide +kernel, takes_of (by decide +kernel)⟩

/-- A chain descriptor at 0x9000: deadline 500, one unit of work, one partition of core 0, slot 0, chain 3. -/
def chainCells : List Host.Cell := [(0x9010, 0xF4), (0x9011, 1), (0x9018, 1), (0x901C, 1), (0x901D, 1), (0x9046, 3)]

theorem witness_chainload :
    let s := serviced chainCells (command 4 0 (leBytes 8 0 ++ leBytes 8 0x9000))
    Takes s .chainload true ∧ s.cmd.zero 16 8 = true ∧ s.cmd.zero 32 32 = true ∧ s.cmd.num 24 8 % 128 = 0 ∧
    (match s.fwRead 0 0x9000 128 with
      | .ok (bs, t) =>
        let k := Chain.ofBytes 0 0x9000 bs
        t.descriptorOk k bs && fieldAt bs 70 2 == 3 && (t.chains.find 3).isNone && (t.region 0 k.rslot).isSome
          && t.classOf 0 k.rslot == 0
      | .error _ => false) = true := ⟨takes_of (by decide +kernel), by decide +kernel⟩

theorem witness_chainunload :
    let s := { serviced [] (command 5 0 (leBytes 8 3)) with chains := [(3, chain)] }
    Takes s .chainunload true ∧ s.cmd.zero 18 46 = true ∧ s.chains.find (s.cmd.num 16 2) = some chain ∧ chain.ctx = s.cmd.ctx :=
  ⟨takes_of (by decide +kernel), by decide +kernel⟩

theorem witness_lamps_command :
    let s := serviced [] (command 10 0 (leBytes 8 1))
    Takes s .lamps false ∧ s.cmd.zero 17 47 = true ∧ s.cmd.num 16 1 = 1 := ⟨takes_of (by decide +kernel), by decide +kernel⟩

theorem witness_preempt_commands :
    let s := fun (n : Nat) => serviced [] (command 11 0 (leBytes 4 1 ++ leBytes 4 n))
    Takes (s 0) .preemptLaunch true ∧ Takes (s 1) .preemptBlock true ∧ Takes (s 2) .preemptCrew true ∧
    (∀ n, n < 3 → (s n).launchNamed 0 1 = some 2) ∧ (s 0).cmd.num 20 1 = 0 ∧ (s 0).cmd.zero 21 43 = true ∧
    (s 1).cmd.zero 21 3 = true ∧ (s 1).cmd.zero 32 32 = true ∧ (s 2).cmd.zero 33 31 = true :=
  ⟨takes_of (by decide +kernel), takes_of (by decide +kernel), takes_of (by decide +kernel), by decide +kernel⟩

theorem witness_fault_answers :
    let s := fun (n : Nat) => serviced [] (command 12 0 (leBytes 4 9 ++ leBytes 4 n))
    Takes (s 1) .faultansRetry true ∧ (s 1).cmd.num 20 1 = 1 ∧ (s 1).cmd.zero 21 43 = true ∧
    Takes (s 2) .faultansDeliver true ∧ (s 2).cmd.zero 21 43 = true :=
  ⟨takes_of (by decide +kernel), by decide +kernel, by decide +kernel, takes_of (by decide +kernel), by decide +kernel⟩

/-- An image at 0x9000 of a display head that stays disabled: 64 by 64 pixels in one strip. -/
def imageCells : List Host.Cell :=
  [(0x9000, 2), (0x9002, 1), (0x901A, 1), (0x9020, 64), (0x9022, 64), (0x9024, 64), (0x9058, 1), (0x9059, 1), (0x906C, 96),
    (0x906F, 1)]

theorem witness_head :
    let s := fun (n : Nat) => serviced imageCells (command 6 0 (leBytes 8 (5 + 256 * n) ++ leBytes 8 0x9000))
    Takes (s 0) .head true ∧ Takes (s 1) .headHfillOnly true ∧ (s 0).cmd.num 16 1 = 5 ∧ (s 0).cmd.zero 18 6 = true ∧
    (s 1).cmd.num 17 1 = 1 ∧ ((s 0).headOf 5).regs.en = false ∧
    (match (s 0).fwRead 0 0x9000 128 with
      | .ok (bs, t) => (HeadRegs.ofBytes bs).imageOk && match t.writeImage 0 5 (HeadRegs.ofBytes bs) with
        | .ok _ => true
        | _ => false
      | .error _ => false) = true := ⟨takes_of (by decide +kernel), takes_of (by decide +kernel), by decide +kernel⟩

theorem witness_keyframe :
    let s := serviced [] (command 15 0 (leBytes 8 5))
    Takes s .keyframe true ∧ s.cmd.zero 17 47 = true ∧ s.cmd.num 16 1 ≤ 63 ∧ (s.headOf 5).regs.en = false ∧
    (headRegs.en = true ∧ headRegs.ctx = s.cmd.ctx) := ⟨takes_of (by decide +kernel), by decide +kernel⟩

theorem witness_attest :
    let s := serviced [] (command 16 0 (leBytes 8 0x3000 ++ leBytes 8 0x6000))
    Takes s .attest false ∧ s.cmd.num 24 8 % 4096 = 0 ∧ s.cmd.zero 32 32 = true := ⟨takes_of (by decide +kernel), by decide +kernel⟩

/-- A staging command of 4 bytes between host address 0x3000 and an address of the context, with TABLE or not. -/
def staging (op va n : Nat) : State :=
  serviced [] (command op 0 (leBytes 8 0x3000 ++ leBytes 8 va ++ leBytes 4 4 ++ leBytes 4 n))

theorem witness_staging :
    Takes (staging 13 0x8000 0) .stagein true ∧ Takes (staging 14 0x8000 0) .stageout true ∧
    Takes (staging 13 0x10000 1) .stageinTable true ∧ Takes (staging 14 0x10000 1) .stageoutTable true ∧
    (staging 13 0x8000 0).cmd.stageOk = true ∧ (staging 13 0x8000 0).windowOk 0 0x8000 4 true = true ∧
    (staging 13 0x4000_0000 0).windowOk 0 0x4000_0000 4 true = false ∧ ((staging 13 0x8000 0).devWrite 0 0x8000 [1, 2, 3, 4]).1 = true ∧
    ((staging 14 0x8000 0).devRead 0 0x8000 4).1.isSome = true ∧ (staging 14 0x10000 1).inTable 0 0x10000 4 = true ∧
    (staging 14 0x10000 1).poisoned 0x10000 4 = false :=
  ⟨takes_of (by decide +kernel), takes_of (by decide +kernel), takes_of (by decide +kernel), takes_of (by decide +kernel), by decide +kernel⟩

/-- The same beside a peer 3 that is up, the second GiB its memory. -/
def abroad (op va : Nat) (g : Option Staging) (fs : List Flight) : State :=
  let s := staging op va 0
  { s with
    mem := { s.mem with phys := tableCells.take 6 ++ [⟨0x12000, 0x3F⟩, ⟨0x12008, 0x1F⟩, ⟨0x1200B, 0x40⟩, ⟨0x1200F, 3⟩] }
    hostIf := { s.hostIf with ctl := [(0, { CtlPage.zero with wins := [(0, { base := 0, len := 2 ^ 31, rd := true, wr := true, valid := true })] })] }
    links := { s.links with peers := [(3, { Peer.zero with ports := 1, valid := true, up := true, unacked := fs })] }
    pithead := { s.pithead with staged := g } }

def awaited (k : Nat) : Flight := { seq := 1, req := .ack 0, sources := [], group := k }
def stage (sent lost : Bool) : Staging := { group := 9, sent := sent, lost := lost, again := false }

/-- Whether a read of the firmware has ended, waits, or is refused. -/
def readEnds (s : State) (va : Nat) : Nat :=
  match s.fwRead 0 va 4 with
  | .ok _ => 0
  | .error (.later _) => 1
  | .error (.status n) => 2 + n
  | .error _ => 9

/-- A staging command that reaches a peer: it waits, goes on once the peer has answered, and ends with STATUS 1 where that was lost. -/
theorem witness_staging_abroad :
    let va := 0x4000_8000
    (abroad 14 va none []).windowOk 0 (BitVec.ofNat 64 va) 4 false = true ∧ readEnds (abroad 14 va none []) va = 1 ∧
    readEnds (abroad 14 va (some (stage false false)) [awaited 9]) va = 1 ∧ readEnds (abroad 14 va (some (stage false false)) []) va = 0 ∧
    readEnds (abroad 14 va (some (stage false true)) []) va = 3 ∧ readEnds (abroad 14 0x8000 none []) 0x8000 = 0 ∧
    readEnds (abroad 14 0x7FFF_FFFF none []) 0x7FFF_FFFF = 9 := by decide +kernel

theorem witness_stagein_abroad :
    let s := abroad 13 0x4000_8000 none []
    Takes s .stagein true ∧ s.cmd.stageOk = true ∧ s.windowOk 0 0x4000_8000 4 true = true ∧
    ((s.devWrite 0 0x4000_8000 [1, 2, 3, 4]).1 = true ∧
      ((s.devWrite 0 0x4000_8000 [1, 2, 3, 4]).2.noteFlights s [] s.nextId).stageOwed s.nextId = true) ∧
    (let u := { s with ctxs := [(0, { fetchContext with tableBase := 0x20000 })] }
     Takes u .stagein true ∧ u.windowOk 0 0x4000_8000 4 true = true ∧ (u.devWrite 0 0x4000_8000 [1, 2, 3, 4]).1 = false) :=
  ⟨takes_of (by decide +kernel), by decide +kernel, by decide +kernel, by decide +kernel, takes_of (by decide +kernel), by decide +kernel⟩

/-- A command that has committed and awaits peers: they owe it answers, or have given them, or one is lost. -/
theorem witness_committed :
    let s := fun (lost : Bool) (fs : List Flight) => abroad 13 0x8000 (some (stage true lost)) fs
    (∀ lost fs, (s lost fs).pithead.staged = some (stage true lost)) ∧ (s false [awaited 9]).nextCommand = some .stagein ∧
    (s false [awaited 9]).stageOwed 9 = true ∧ (s false []).stageOwed 9 = false ∧ (s true []).stageOwed 9 = false ∧
    (stage true true).lost = true ∧ (stage true true).again = false :=
  ⟨fun _ _ => rfl, by decide +kernel, by decide +kernel, by decide +kernel, by decide +kernel, rfl, rfl⟩

theorem witness_command_ends :
    let s := commanded State.reset (command 2 3 [])
    let bad := commanded State.reset (command 2 64 [])
    s.nextCommand = some .ctxdestroy ∧ s.pithead.badCap = none ∧ s.cmd.zero 2 2 = true ∧ s.cmd.zero 9 7 = true ∧ s.cmd.ctx = 3 ∧
    s.ctxs.find 3 = none ∧ bad.nextCommand = some .ctxdestroy ∧ 64 ≤ bad.cmd.ctx ∧ s.pithead.up = true ∧ s.pithead.held = [] ∧
    s.hostIf.cplq.full = false ∧ { s.pithead with badCap := some 1 }.badCap = some 1 ∧ s.pithead.trip = false ∧
    { s.pithead with trip := true }.trip = true := by
  decide +kernel

theorem witness_boot :
    let s : State := { State.reset with boot := { State.reset.boot with status := .verifying } }
    State.reset.boot.status = .idle ∧ s.boot.status = .verifying ∧ { s.boot with status := .running }.status = .running ∧
    s.pithead.up = false ∧ s.pithead.committed = false ∧ { s.pithead with committed := true }.committed = true ∧
    s.pithead.halted = false ∧ { s.pithead with halted := true }.halted = true ∧ ¬ (s.boot.rollback ≤ 65 ∧ 65 ≤ 64) ∧
    s.ctxs = [] := by decide +kernel

/-- A peer with a frame that it has not acknowledged, and the machine that knows it as peer 3. -/
def owing : Peer :=
  { Peer.zero with ports := 1, valid := true, txSeq := 2, unacked := [{ seq := 1, req := .ack 0, sources := [], group := 0 }] }
def peered : State := { State.reset with links := { State.reset.links with peers := [(3, owing)] } }

theorem witness_device_events :
    peered.links.peers.find (3#4).toNat = some owing ∧ owing.valid = true ∧ Peer.zero.valid = false ∧ owing.unacked ≠ [] ∧
    owing.since.toNat + 1000000 ≤ { peered with time := 1000000 }.time.toNat ∧ peered.awaiting = true ∧ owing.rxSeq = 0 ∧
    (∀ n, ({ seq := 0, ack := 4, req := .read 0 1 0 0 } : FabricMsg).req ≠ .ack n) ∧ peered.hostIf.cmdq.prod = peered.hostIf.cmdq.cons := by
  refine ⟨by decide, by decide, by decide, by decide, by decide, by decide, by decide, (fun _ h => nomatch h), by decide⟩

/-- What a peer's loss ends: a load's access, a copy's and a store's. -/
theorem witness_peer_lost :
    let f : Flight := { seq := 1, req := .ack 0, sources := [(128, 0x100)], group := 4 }
    let j : CopyJob := { crew := 128, queue := 1, codebook := false, size := 0, word := 0, cache := .dflt, lanes := [], units := []
                         seq := 4, origin := 4, moved := true }
    let s : State := { (running runner).onCore 0 fun c => { c with queues := [(1, [j])] } with
      links := { State.reset.links with peers := [(3, { owing with unacked := [f] })] }
      pithead := { State.reset.pithead with staged := some { group := 4, sent := true, lost := false, again := false } } }
    s.links.peers.find (3#4).toNat = some { owing with unacked := [f] } ∧ { owing with unacked := [f] }.unacked ≠ [] ∧
    (∀ l ∈ s.launches, l.2.left = []) ∧ s.crews.find 128 = some runner ∧ (s.auxOf 128).returning = [] ∧
    (s.coreOf runner.core).queues.vals.flatten = [j] ∧ j.crew = 128 ∧ j.seq = f.group ∧ (128, 0x100) ∈ f.sources ∧
    ((running runner).coreOf 0).queues.vals.flatten = [] ∧ (s.pithead.staged.map (·.group)) = some f.group := by decide +kernel

/-- A Sync that awaits its Follow_Up, and a request that awaits its answer. -/
theorem witness_ptp :
    let d : PtpSent := { port := 0, transport := .layer2, seq := 4, time := 100 }
    let p := { State.reset.links.ptp with syncAt := some (4, 90), asked := some (d, 80, 90) }
    p.syncAt = some (4, 90) ∧ p.asked = some (d, 80, 90) ∧ d.seq = 4 ∧ p.locked = false ∧
    State.reset.crews = [] ∧ ((running runner).crews.map fun e => e.2.resident) = [true] := by decide +kernel

/-- A sector of a core's L1 and a line of its write-combining buffer that are 2048 clk old. -/
theorem witness_cache_timers :
    let w : WcLine := { line := 2, tag := { page with attr := 2 }, bytes := [(0x100, some 7)], start := 0, seq := 1, sources := [] }
    let b : CByte := { val := 7, dirty := true }
    let k := page.ckey 0x100
    let s : State := ({ State.reset with clk := 2048 }).onCore 0 fun c => { c with
      l1 := [(k, some b)], l1At := [(sectorKey k, some 0)], wc := [w] }
    Sparse.get none (s.coreOf 0).l1 k = some b ∧ (s.coreOf 0).l1At = [(sectorKey k, some 0)] ∧ 0 + 2048 ≤ s.clk ∧
    Sparse.wf none (s.coreOf 0).l1 = true ∧ rangeOf (k / 512) = .lpddr ∧ s.l2Set (page.ckey 2) = [] ∧
    (s.coreOf 0).wc.filter (fun w => decide (w.start + 2048 ≤ s.clk)) = [w] ∧ s.isLocal w.tag = true ∧ w.tag.attr = 2 ∧
    Sparse.wf none w.bytes = true ∧ Sparse.get none w.bytes 0x100 = some 7 := by decide +kernel

theorem witness_invalidations :
    let s : State := commanded { State.reset with ctxs := [(0, fetchContext)] } []
    let t : State := { s with hostIf := { s.hostIf with isubs := [(0, 0x8000 * 2 ^ 192)] } }
    (match t.nextInval with
      | some (d, u) => u.doneOk d.src (d.src.getD 0) d.done && u.invalOk d
      | none => false) = true ∧ t.pithead.up = true ∧ t.pithead.badCap = none ∧ { t.pithead with badCap := some 1 }.badCap = some 1 ∧
    ({ s with invals := [{ done := 0, src := none, ctx := 0, before := 5 }] }.invals[0]?).isSome = true ∧
    s.drainedBefore 0 5 = true := by decide +kernel

/-- A load that was issued before T0 and has not returned, a sample to write, and records held. -/
theorem witness_housekeeping :
    let owed : Returning := { regs := [1], sregs := [], kregs := [], requests := 1, issued := 2, group := 4, lost := none, stack := false }
    let s : State := { (running runner).onAux 128 fun a => { a with returning := [owed] } with
      invals := [{ done := 0, src := none, ctx := 0, before := 5 }] }
    let n : SampleNote := { n := 0, clk := 0, crew := 128, core := 0, partition := 0, slot := 0, pc := 0x20000, lanes := 1, flg := 0
                            index := 0, handle := 1, bl := 0, reason := some 1 }
    let d := (mapped runner).dbgOf 0
    let b := { d.samples with base := 0x8000, count := 4 }
    let t := (mapped runner).putDbg 0 { d with notes := [n], samples := b }
    let held := { s.ctlOf 0 with heldEvents := [List.replicate 32 1], heldFaults := [List.replicate 64 1] }
    (s.invals[0]?).map (·.before) = some 5 ∧ (s.auxOf 128).returning = [owed] ∧ s.ctxOf runner = 0 ∧ s.drainedBefore 0 5 = false ∧
    (t.dbgOf 0).notes = [n] ∧ (b.wr + 1 - b.rd).toNat ≤ b.count.toNat ∧ ((0 : Word) + 1 - 1).toNat ≤ (0 : Word).toNat ∧ (t.devWrite 0 (0x8000 + 32 * 0) (List.replicate 32 0)).1 = true ∧
    { b with count := 0 }.count.toNat < (b.wr + 1 - b.rd).toNat ∧ held.heldEvents ≠ [] ∧ held.heldFaults ≠ [] ∧
    { held.evq with prod := 0, cons := 0, log2n := 4 }.full = false := by decide +kernel

/-- A 9610 that the harvest rule allows, and its reset. -/
def harvested : PartNo := { full := false, sizes := [8, 4, 8, 6, 8, 7, 8, 5, 8, 6, 6, 6] }

theorem witness_parts :
    harvested.wf = true ∧ PartNo.p9612.wf = true ∧ (State.resetOf harvested).ncores = 80 ∧
    (State.resetOf harvested).clusterOf 11 = 1 ∧ (State.resetOf harvested).clusterOf 12 = 2 ∧
    (State.resetOf harvested).clusterCores 1 = [8, 9, 10, 11] := by decide +kernel

theorem witness_step : ∃ t, step State.reset = .next t := ⟨_, rfl⟩

/-! ## One step on the spec's worked examples -/

/-- The machine after the group of the word w under hints, from s. -/
def ran (s : State) (hs : List Hint) (w : Word) : Option State :=
  match decode w with
  | .ok i => match exec i { s with issue := some { group with hints := hs } } with
    | .next t => some t
    | _ => none
  | _ => none

/-- A vector register's lane after that group. -/
def laneAfter (s : State) (hs : List Hint) (w : Word) (d l : Nat) : Option Word :=
  (ran s hs w).map fun t => t.getV runner d l

/-- The crew's sticky flags after that group. -/
def flagsAfter (s : State) (hs : List Hint) (w : Word) : Option (BitVec 6) :=
  ((ran s hs w).bind fun t => t.crews.find 128).map (·.flags)

/-- The machine whose vector registers hold the given lanes. -/
def lanes (l : List (Nat × List Word)) : State :=
  l.foldl (fun s p => s.putLanes runner p.1 (List.range 32) fun n => p.2.getD n 0) (running runner)

/-- 05, the example after R116. -/
theorem test_bfx : laneAfter (withV (running runner) 2 0xDEAD_BEEF) [] 0x1D02_0868 1 0 = some 0xE := by decide +kernel
theorem test_bfxs : laneAfter (withV (running runner) 2 0xDEAD_BEEF) [] 0x1E02_0868 1 0 = some 0xFFFF_FFFE := by decide +kernel
theorem test_bfi :
    laneAfter (withV (withV (running runner) 2 0xDEAD_BEEF) 1 5) [] (vvi 0x1F 2 1 (3#5 ++ 28#5)) 2 0 = some 0x5EAD_BEEF := by
  decide +kernel

/-- 05, the example of LEA and ADD64. -/
theorem test_lea :
    let s := lanes [(6, [0xFFFF_FFF0]), (7, [0x12]), (8, [3])]
    laneAfter s [] (vvv 0x31 4 6 8 3) 4 0 = some 8 ∧ laneAfter s [] (vvv 0x31 4 6 8 3) 5 0 = some 0x13 := by decide +kernel

/-- 06 Table 6.6. -/
theorem test_dot4 :
    let s := lanes [(2, [0x44B0_4038, 0x7FB0_4038, 0]), (3, [0xC034_443E, 0xC034_443E, 0x7C]), (20, List.replicate 3 0x3F80_0000)]
    laneAfter s [.src3 20] 0x5914_081D 10 0 = some 0x408C_0000 ∧ laneAfter s [.src3 20] 0x5914_081D 10 1 = some 0x7FC0_0000 ∧
    laneAfter s [.src3 20] 0x5914_081D 10 2 = some 0x7FC0_0000 ∧ flagsAfter s [.src3 20] 0x5914_081D = some 0x10 := by decide +kernel

/-- 04 Table 4.8 with SAT = 0, RNE: 27.0, 464.0, 500.0 and 2^-10. -/
theorem test_cvtf :
    let s := lanes [(1, [0x41D8_0000, 0x43E8_0000, 0x43FA_0000, 0x3A80_0000])]
    let w : Word := vvi 0x5C 2 1 3
    laneAfter s [] w 2 0 = some 0x5E ∧ laneAfter s [] w 2 1 = some 0x7E ∧ laneAfter s [] w 2 2 = some 0x7F ∧
    laneAfter s [] w 2 3 = some 0 := by decide +kernel

/-- The example after 06 R150: SAT = 1. -/
theorem test_cvtf_saturates : laneAfter (lanes [(1, [0x43FA_0000])]) [] 0x5C04_0603 2 0 = some 0x7E := by decide +kernel

/-- The example after 06 R151. -/
theorem test_cvtfi :
    let s := lanes [(1, [0xC070_0000, 0x4348_0000])]
    let w : Word := vvi 0x5D 2 1 (0#1 ++ 1#3 ++ 0#3 ++ 4#3)
    laneAfter s [] w 2 0 = some 0xFFFF_FFFD ∧ laneAfter s [] w 2 1 = some 0x7F := by decide +kernel

/-- The example after 06 R154. -/
theorem test_pack : laneAfter (lanes [(1, [0x43FA_0000]), (6, [0x1122_3344])]) [] 0x5F0C_0423 6 0 = some 0x117E_3344 := by decide +kernel
theorem test_unpack : laneAfter (lanes [(6, [0x117E_3344])]) [] 0x600E_1823 7 0 = some 0x43E0_0000 := by decide +kernel

/-- The example after 06 R158, with the register that ROUTESET builds. -/
theorem test_route :
    let s := setup (lanes [(10, (List.range 32).map (BitVec.ofNat 32))]) { runner with qregs := [(1, 0xFFFF_FFFF_FFFF_FFFF_FFFF)] }
    ((ran s [] 0x6312_2808).map fun t => (List.range 32).map fun l => (t.getV runner 9 l).toNat) =
      some ((List.range 32).map fun l => 31 - l) := by decide +kernel

/-- 06 Table 6.9. -/
theorem test_scan :
    let r := { runner with kregs := [(2, 0xB5)] }
    let s := setup (lanes [(3, [0x4B80_0000, 0x40A0_0000, 0x3F80_0000, 0x4110_0000, 0x3F80_0000, 0xCB80_0000, 0x4080_0000,
      0x3E80_0000])]) r
    ((ran s [] 0x6708_0C15).map fun t => (List.range 9).map (t.getV r 4)) =
      some [0x4B80_0000, 0x4B80_0000, 0x4B80_0000, 0x4B80_0000, 0x4B80_0001, 0x4000_0000, 0x4000_0000, 0x4010_0000, 0x4010_0000] ∧
    flagsAfter s [] 0x6708_0C15 = some 1 := by decide +kernel

/-- The example after 07 R185, its word in mapped memory. -/
theorem test_atom :
    let r := { runner with sregs := [(2, 0x3000)], pcs := List.replicate 4 0x20000 ++ List.replicate 28 0x20004 }
    let s := (setup (mapped r) r).poke 0x3000 4 10
    let t := s.putLanes r 5 [0, 1, 2, 3] fun l => BitVec.ofNat 32 (l + 1)
    ((ran t [] 0x890A_0440).map fun u => (List.range 4).map (u.getV r 5)) = some [10, 11, 13, 16] := by decide +kernel

/-- 10, the example of COVER. -/
theorem test_cover :
    laneAfter (lanes [(1, [0xFFFF_0002]), (2, [1]), (3, [0xFFFF])]) [] (vvv 0xD1 3 1 2 0) 3 0 = some 0xEEFF := by decide +kernel

/-- 10, the example of TEXW. -/
theorem test_texw : laneAfter (lanes [(1, [0x8000_1000]), (2, [0x12])]) [] (vvv 0xD4 3 1 2 0) 3 0 = some 0x0080_00C0 := by decide +kernel

end Sys2Proof.Tests
end

/-!
The logical clusters of a part (00 R1-R3): where each begins, which cores it holds, and that every core stands in one.
-/

namespace Sys2Proof.Machine

/-! ## Where the clusters begin (00 R2) -/

@[simp] theorem clusterBase_zero (sizes : List Nat) : clusterBase sizes 0 = 0 := rfl

theorem clusterBase_eq_sum_take (sizes : List Nat) (c : Nat) : clusterBase sizes c = (sizes.take c).sum :=
  List.sum_eq_foldl_nat.symm

/-- Each cluster's cores follow those of the clusters before it. -/
theorem clusterBase_succ (sizes : List Nat) (c : Nat) : clusterBase sizes (c + 1) = clusterBase sizes c + sizes.getD c 0 := by
  cases h : sizes[c]? <;> simp [clusterBase_eq_sum_take, List.take_add_one, h]

theorem clusterBase_length (sizes : List Nat) : clusterBase sizes sizes.length = sizes.sum := by
  rw [clusterBase_eq_sum_take, List.take_length]

theorem clusterBase_mono (sizes : List Nat) : Monotone (clusterBase sizes) :=
  monotone_nat_of_le_succ fun c => clusterBase_succ sizes c ▸ Nat.le_add_right _ _

theorem sum_map_range_getD (sizes : List Nat) (c : Nat) :
    ((List.range c).map fun i => sizes.getD i 0).sum = clusterBase sizes c := by
  induction c with
  | zero => rfl
  | succ c ih => rw [List.range_succ, List.map_append, List.sum_append_nat, ih, clusterBase_succ]; simp

/-- A core below the first of cluster n stands in one of the n clusters before it. -/
theorem exists_cluster_of_lt_base {sizes : List Nat} {k n : Nat} (h : k < clusterBase sizes n) :
    ∃ c < n, clusterBase sizes c ≤ k ∧ k < clusterBase sizes (c + 1) := by
  induction n with
  | zero => exact absurd h (Nat.not_lt_zero k)
  | succ n ih =>
    rcases Nat.lt_or_ge k (clusterBase sizes n) with below | above
    · obtain ⟨c, hc, inside⟩ := ih below
      exact ⟨c, Nat.lt_succ_of_lt hc, inside⟩
    · exact ⟨n, Nat.lt_succ_self n, above, h⟩

/-! ## The cores of a cluster, and the cluster of a core (00 R2) -/

theorem State.ncores_eq_sum (s : State) : s.ncores = s.partNo.sizes.sum := List.sum_eq_foldl_nat.symm

@[simp] theorem State.length_clusterCores (s : State) (c : Nat) : (s.clusterCores c).length = s.partNo.sizes.getD c 0 := by
  simp [State.clusterCores]

theorem State.mem_clusterCores {s : State} {k c : Nat} :
    k ∈ s.clusterCores c ↔ clusterBase s.partNo.sizes c ≤ k ∧ k < clusterBase s.partNo.sizes (c + 1) := by
  rw [State.clusterCores, List.mem_map, clusterBase_succ]
  constructor
  · rintro ⟨i, hi, rfl⟩
    exact ⟨Nat.le_add_right _ _, Nat.add_lt_add_left (List.mem_range.mp hi) _⟩
  · rintro ⟨low, high⟩
    exact ⟨k - clusterBase s.partNo.sizes c, List.mem_range.mpr (by omega), by omega⟩

theorem State.lt_length_of_mem_clusterCores {s : State} {k c : Nat} (h : k ∈ s.clusterCores c) : c < s.partNo.sizes.length := by
  by_contra past
  have empty : s.partNo.sizes.getD c 0 = 0 := List.getD_eq_default _ _ (Nat.le_of_not_lt past)
  have inside := State.mem_clusterCores.mp h
  rw [clusterBase_succ, empty] at inside
  omega

/-- The cluster of a core is the last that begins at or below it. -/
theorem State.clusterOf_eq_of_mem {s : State} {k c : Nat} (h : k ∈ s.clusterCores c) : s.clusterOf k = c := by
  obtain ⟨low, high⟩ := State.mem_clusterCores.mp h
  have begun : ∀ d, clusterBase s.partNo.sizes d ≤ k → d ≤ c := fun d hd => by
    by_contra later
    have := clusterBase_mono s.partNo.sizes (Nat.succ_le_of_lt (Nat.lt_of_not_le later))
    exact absurd (high.trans_le this) (Nat.not_lt_of_le hd)
  have last : (0 :: (List.range s.partNo.sizes.length).filter fun d => decide (clusterBase s.partNo.sizes d ≤ k)).max? = some c :=
    List.max?_eq_some_iff.mpr
      ⟨by simp [State.lt_length_of_mem_clusterCores h, low], by simpa using fun d _ hd => begun d hd⟩
  exact Option.some.inj (List.max?_cons'.symm.trans last)

/-- Each of the N logical cores stands in exactly one cluster. -/
theorem State.clusterOf_unique {s : State} {k : Nat} (h : k < s.ncores) :
    s.clusterOf k < s.partNo.sizes.length ∧ ∀ c, k ∈ s.clusterCores c ↔ c = s.clusterOf k := by
  rw [State.ncores_eq_sum, ← clusterBase_length] at h
  obtain ⟨c, hc, inside⟩ := exists_cluster_of_lt_base h
  have mem : k ∈ s.clusterCores c := State.mem_clusterCores.mpr inside
  have here : s.clusterOf k = c := State.clusterOf_eq_of_mem mem
  refine ⟨here ▸ hc, fun d => ⟨fun hd => (State.clusterOf_eq_of_mem hd).symm, ?_⟩⟩
  rintro rfl
  exact here.symm ▸ mem

/-! ## DEVID (00 Table 0.1) -/

/-- The three fields of DEVID at their places. -/
theorem State.devid_toNat (s : State) : s.devid.toNat =
    (if s.partNo.full then 0x9612 else 0x9610) ||| Config.step.toNat * 2 ^ 16 ||| s.ncores % 2 ^ 8 * 2 ^ 24 := by
  have partno : ∀ full : Bool, ((if full then 0x9612 else 0x9610 : Nat) : Word).toNat = if full then 0x9612 else 0x9610 := by
    decide
  have step : (Config.step.setWidth 32 <<< 16).toNat = Config.step.toNat * 2 ^ 16 := by
    have := Config.step.isLt
    rw [BitVec.toNat_shiftLeft, BitVec.toNat_setWidth, Nat.shiftLeft_eq]
    omega
  have ncore : (BitVec.ofNat 32 s.ncores <<< 24).toNat = s.ncores % 2 ^ 8 * 2 ^ 24 := by
    rw [BitVec.toNat_shiftLeft, BitVec.toNat_ofNat, Nat.shiftLeft_eq]
    omega
  rw [State.devid, BitVec.toNat_or, BitVec.toNat_or, partno, step, ncore]

/-- PARTNO: STEP and NCORE do not reach it. -/
theorem State.devid_partno (s : State) : s.devid.toNat % 2 ^ 16 = if s.partNo.full then 0x9612 else 0x9610 := by
  have partno : (if s.partNo.full then 0x9612 else 0x9610) % 2 ^ 16 = if s.partNo.full then 0x9612 else 0x9610 := by
    split <;> rfl
  have step : Config.step.toNat * 2 ^ 16 % 2 ^ 16 = 0 := Nat.mul_mod_left _ _
  have ncore : s.ncores % 2 ^ 8 * 2 ^ 24 % 2 ^ 16 = 0 := Nat.mod_eq_zero_of_dvd ((pow_dvd_pow 2 (by decide)).mul_left _)
  rw [State.devid_toNat, Nat.or_mod_two_pow, Nat.or_mod_two_pow, partno, step, ncore, Nat.or_zero, Nat.or_zero]

/-- NCORE: PARTNO and STEP do not reach it. -/
theorem State.devid_ncore {s : State} (h : s.ncores < 2 ^ 8) : s.devid.toNat / 2 ^ 24 = s.ncores := by
  have partno : (if s.partNo.full then 0x9612 else 0x9610) / 2 ^ 24 = 0 := by split <;> rfl
  have step : Config.step.toNat * 2 ^ 16 / 2 ^ 24 = 0 := by
    have := Config.step.isLt
    omega
  have ncore : s.ncores % 2 ^ 8 * 2 ^ 24 / 2 ^ 24 = s.ncores := by
    rw [Nat.mul_div_cancel _ (Nat.two_pow_pos 24), Nat.mod_eq_of_lt h]
  rw [State.devid_toNat, Nat.or_div_two_pow, Nat.or_div_two_pow, partno, step, ncore, Nat.zero_or, Nat.zero_or]

/-! ## The parts that ship (00 R1) -/

theorem PartNo.wf_iff (p : PartNo) : p.wf = true ↔ p.sizes.length = 12 ∧
    if p.full then ∀ n ∈ p.sizes, n = 8 else (∀ n ∈ p.sizes, 4 ≤ n ∧ n ≤ 8) ∧ 4 ≤ p.sizes.count 8 ∧ p.sizes.sum = 80 := by
  cases h : p.full <;> simp [PartNo.wf, h, List.count_eq_length_filter, and_assoc]

theorem PartNo.sizes_of_full {p : PartNo} (wf : p.wf = true) (h : p.full = true) : p.sizes = List.replicate 12 8 := by
  obtain ⟨twelve, all⟩ := (PartNo.wf_iff p).mp wf
  rw [h, if_pos rfl] at all
  exact List.eq_replicate_iff.mpr ⟨twelve, all⟩

/-- The harvest rule, which the 9612 meets too. -/
theorem PartNo.harvest {p : PartNo} (wf : p.wf = true) : p.sizes.length = 12 ∧ (∀ n ∈ p.sizes, 4 ≤ n ∧ n ≤ 8) ∧
    4 ≤ p.sizes.count 8 ∧ p.sizes.sum = if p.full then 96 else 80 := by
  cases h : p.full
  case true => rw [PartNo.sizes_of_full wf h]; decide
  case false => simpa [PartNo.wf_iff, h] using wf

/-- The number of indices whose entry is v is the number of entries that are. -/
theorem length_filter_range_getD (sizes : List Nat) (v : Nat) :
    ((List.range sizes.length).filter fun c => sizes.getD c 0 == v).length = sizes.count v := by
  have entries : (List.range sizes.length).map (fun c => sizes.getD c 0) = sizes :=
    List.ext_getElem (by simp) fun i _ h => by simp [List.getElem?_eq_getElem h]
  conv_rhs => rw [← entries, List.count_eq_length_filter, List.filter_map, List.length_map]
  rfl

end Sys2Proof.Machine

/-!
Reset on either part (16 R403, R412, R415, R418, R421, R422), and the parts there are (00 R1-R3).
-/

namespace Sys2Proof.Machine

/-- Every byte of memory reads 0 after reset: the L2 is empty, and LPDDR6 holds plaintext zeros (log entry 5). -/
theorem State.sliceGet_resetOf (part : PartNo) (pa : Nat) :
    (State.resetOf part).sliceGet (State.resetOf part).walkTag pa = 0 := by
  unfold State.sliceGet
  cases rangeOf pa <;> rfl

/-- The values that reset leaves. -/
theorem claims_resetValues : Claims.ResetValues :=
  ⟨rfl, fun part => ⟨rfl, rfl, rfl, rfl, rfl, rfl, rfl, rfl, rfl, rfl, rfl, rfl, rfl, rfl, rfl, rfl, rfl, rfl, rfl, rfl,
    State.sliceGet_resetOf part⟩⟩

/-- The cores and clusters of each part that ships. -/
theorem claims_parts : Claims.Parts := by
  refine ⟨fun sizes twelve bounds eights sum => ?_, fun part wf => ?_⟩
  · exact (PartNo.wf_iff _).mpr ⟨twelve, bounds, eights, sum⟩
  obtain ⟨twelve, bounds, eights, sum⟩ := PartNo.harvest wf
  have parts : (State.resetOf part).partNo = part := rfl
  have ncores : (State.resetOf part).ncores = if part.full then 96 else 80 := (State.ncores_eq_sum _).trans sum
  have entry : ∀ c, c < 12 → part.sizes.getD c 0 ∈ part.sizes := fun c hc => by
    rw [List.getD_eq_getElem _ _ (twelve ▸ hc)]
    exact List.getElem_mem _
  simp only [State.length_clusterCores, parts]
  refine ⟨ncores, State.devid_partno _, State.devid_ncore (by rw [ncores]; split <;> decide), fun c hc => ?_, ?_, fun c => ?_,
    fun k hk => ?_⟩
  · obtain ⟨four, eight⟩ := bounds _ (entry c hc)
    refine ⟨four, eight, fun full => ?_⟩
    have mem := entry c hc
    rw [PartNo.sizes_of_full wf full] at mem ⊢
    exact List.eq_of_mem_replicate mem
  · rwa [← twelve, length_filter_range_getD]
  · rw [sum_map_range_getD]
    rfl
  · exact twelve ▸ State.clusterOf_unique hk

/-- Settles O58: reset's values by computation, the clusters from the sizes that the harvest rule allows. -/
theorem resetValues : Obligations.ResetValues := ⟨claims_resetValues, claims_parts⟩

end Sys2Proof.Machine

/-!
The end of a group without a fault (01 R24, R11; 02 R55, R58; 07 R192).
-/

namespace Sys2Proof.Machine

/-- A crew whose group has counted in RETIRED. -/
def Crew.retire (r : Crew) : Crew := { r with retired := r.retired + 1 }

/-- What a completed group leaves before its SCHED hint and a hold act: no group in progress, RETIRED one higher, breakpoints armed. -/
def State.counted (u : State) (c : Nat) (r : Crew) : State :=
  (({ u with issue := none }).putCrew c r.retire).onAux c fun a => { a with exempt := false }

@[simp] theorem State.crews_counted (u : State) (c : Nat) (r : Crew) :
    (u.counted c r).crews = u.crews.put c r.retire := rfl

@[simp] theorem State.auxOf_counted (u : State) (c x : Nat) (r : Crew) :
    (u.counted c r).auxOf x = if x = c then { u.auxOf c with exempt := false } else u.auxOf x := State.auxOf_onAux _ _ _ _

theorem State.held_auxOf_counted {u : State} {c : Nat} (free : (u.auxOf c).held = false) (r : Crew) :
    ((u.counted c r).auxOf c).held = false := by rw [State.auxOf_counted, if_pos rfl]; exact free

theorem State.holdCrew_of_not_held {s : State} {c : Nat} (free : (s.auxOf c).held = false) : s.holdCrew c = s := by
  simp [State.holdCrew, free]

theorem State.afterSched_none {hs : List Hint} (none : schedOfGroup hs = .none) (s : State) (c : Nat) : s.afterSched c hs = s := by
  unfold State.afterSched
  split
  · rfl
  · split <;> simp [none]

theorem State.afterSched_yield {s : State} {c : Nat} {r : Crew} {hs : List Hint} (crew : s.crews.find c = some r)
    (ready : r.phase = .ready) (yield : schedOfGroup hs = .yield) : s.afterSched c hs = s.moveRecent c r := by
  simp [State.afterSched, crew, ready, yield]

theorem State.afterSched_stall {s : State} {c : Nat} {r : Crew} {hs : List Hint} {n : BitVec 6} (crew : s.crews.find c = some r)
    (ready : r.phase = .ready) (stall : schedOfGroup hs = .stall n) :
    s.afterSched c hs = s.putCrew c { r with phase := .waiting 15, stallEnd := s.groupEnd r + n.toNat + 1 } := by
  simp [State.afterSched, crew, ready, stall]

theorem State.getLast?_recency_moveRecent (s : State) (c : Nat) (r : Crew) :
    ((s.moveRecent c r).pn r.pkey).recency.getLast? = some c := by simp [State.moveRecent]

section
variable {s u : State} {g : Issue} {r r' : Crew}

/-- A group that falls through ends as one that has set the head run's live lanes to the address after it. -/
theorem State.finish_eq_finishMoved (crew : u.crews.find g.crew = some r') :
    s.finish u g r = s.finishMoved (u.putCrew g.crew (r'.setPcs (r.head &&& r'.live) fun _ => g.next)) g r := by
  simp [State.finish, State.finishMoved, Issue.close, crew]

/-- A group of a resident crew that meets no retired-count stop counts; then SCHED acts, and then a hold. -/
theorem State.finishMoved_of_going (crew : u.crews.find g.crew = some r') (there : r'.resident = true) (goes : s.stops g r' = false) :
    s.finishMoved u g r = ((u.counted g.crew r').afterSched g.crew g.hints).holdCrew g.crew := by
  have stop : (!s.nested g.crew && r'.retStopEn && r'.retired + 1 == r'.retStop) = false := goes
  simp only [State.finishMoved, Issue.close, State.complete, crew, there, stop, Bool.not_true, Bool.not_false, Bool.and_true,
    Bool.false_eq_true, if_false]
  rfl

/-- Without a hint or a hold there is nothing more. -/
theorem State.finishMoved_eq_counted (crew : u.crews.find g.crew = some r') (there : r'.resident = true)
    (goes : s.stops g r' = false) (plain : schedOfGroup g.hints = .none) (free : (u.auxOf g.crew).held = false) :
    s.finishMoved u g r = u.counted g.crew r' := by
  rw [State.finishMoved_of_going crew there goes, State.afterSched_none plain,
    State.holdCrew_of_not_held (State.held_auxOf_counted free r')]

theorem State.finish_eq_counted (crew : u.crews.find g.crew = some r') (there : r'.resident = true)
    (goes : s.stops g r' = false) (plain : schedOfGroup g.hints = .none) (free : (u.auxOf g.crew).held = false) :
    s.finish u g r = (u.putCrew g.crew (r'.setPcs (r.head &&& r'.live) fun _ => g.next)).counted g.crew
      (r'.setPcs (r.head &&& r'.live) fun _ => g.next) := by
  rw [State.finish_eq_finishMoved crew]
  exact State.finishMoved_eq_counted (by simp) there goes plain free

end

theorem Crew.resident_of_ready {r : Crew} (ready : r.phase = .ready) : r.resident = true := by simp [Crew.resident, ready]

/-- What counting a group changes beside its crew. -/
theorem State.counted_frame (u : State) (c : Nat) (r : Crew) : (u.counted c r).issue = none ∧
    (u.counted c r).auxOf c = { u.auxOf c with exempt := false } ∧
    (∀ x, x ≠ c → (u.counted c r).crews.find x = u.crews.find x ∧ (u.counted c r).auxOf x = u.auxOf x) ∧
    { u.counted c r with crews := u.crews, aux := u.aux, issue := u.issue } = u :=
  ⟨rfl, by simp, fun x other => by simp [other], rfl⟩

theorem claims_groupCloses : Claims.GroupCloses := by
  intro s u g r r' crew there plain free goes
  have moved := State.finishMoved_eq_counted (r := r) crew there goes plain free
  have fell := State.finish_eq_counted (r := r) crew there goes plain free
  refine ⟨(r'.setPcs (r.head &&& r'.live) fun _ => g.next).retire, r'.retire, by simp [fell], by simp [moved], rfl, rfl,
    Crew.pc_setPcs r' (r.head &&& r'.live) fun _ => g.next, rfl, ?_⟩
  rintro t (rfl | rfl)
  · obtain ⟨idle, aux, others, -⟩ := State.counted_frame (u.putCrew g.crew (r'.setPcs (r.head &&& r'.live) fun _ => g.next))
      g.crew (r'.setPcs (r.head &&& r'.live) fun _ => g.next)
    rw [fell]
    exact ⟨idle, aux, fun x other => ⟨(others x other).1.trans (by simp [other]), (others x other).2⟩, rfl⟩
  · rw [moved]
    exact State.counted_frame u g.crew r'

theorem claims_schedActs : Claims.SchedActs := by
  intro s u g r r' crew ready free goes
  have ends := State.finishMoved_of_going (r := r) crew (Crew.resident_of_ready ready) goes
  have counted : (u.counted g.crew r').crews.find g.crew = some r'.retire := by simp
  have free' := State.held_auxOf_counted free r'
  refine ⟨fun yield => ?_, fun n stall => ?_⟩
  · have moved : s.finishMoved u g r = (u.counted g.crew r').moveRecent g.crew r'.retire := by
      rw [ends, State.afterSched_yield counted ready yield, State.holdCrew_of_not_held]
      exact free'
    exact ⟨moved, by rw [moved]; exact State.getLast?_recency_moveRecent _ _ _⟩
  · rw [ends, State.afterSched_stall counted ready stall, State.holdCrew_of_not_held]
    · rfl
    · exact free'

/-- Settles O10, from the state in which a group's completion counts it, before SCHED and a hold act. -/
theorem groupCloses : Obligations.GroupCloses := ⟨claims_groupCloses, claims_schedActs⟩

end Sys2Proof.Machine

/-!
The fault of a group: its crew traps, or suspends under host-assisted paging (01 R38; 14 R357, R360, R361, R374).
-/

namespace Sys2Proof.Machine

@[simp] theorem State.crews_postFault (s : State) (ctx : Nat) (rec : List Byte) : (s.postFault ctx rec).crews = s.crews := by
  unfold State.postFault
  dsimp only
  split <;> rfl

theorem State.find_crews_suspend (s : State) (c : Nat) (r : Crew) (q : TrapReq) (replay : Bool) :
    (s.suspend c r q replay).crews.find c = some { r with phase := .waiting 15 } := by
  simp [State.suspend, State.onAux]

/-- A fault that the host may answer: Permission, or Translation at levels 1-5, where the crew's pager is off the device. -/
theorem State.hostAssisted_iff (s : State) (c : Nat) (q : TrapReq) : s.hostAssisted c q = true ↔
    (q.code = 0x07 ∨ (q.code = 0x06 ∧ 1 ≤ q.level.toNat ∧ q.level.toNat ≤ 5)) ∧ (s.auxOf c).started.pager = false := by
  simp [State.hostAssisted, and_comm, and_assoc]

theorem State.raise_of_assisted {s : State} {c : Nat} {r : Crew} {q : TrapReq} {replay : Bool} (crew : s.crews.find c = some r)
    (calm : s.nested c = false) (assisted : s.hostAssisted c q = true) : s.raise c q replay = s.suspend c r q replay := by
  have calm : (s.auxOf c).trap.nesting = false := calm
  simp [State.raise, crew, calm, assisted]

theorem State.raise_of_trap {s : State} {c : Nat} {r : Crew} {q : TrapReq} {replay : Bool} (crew : s.crews.find c = some r)
    (traps : s.nested c = true ∨ ¬ s.hostAssisted c q = true) : s.raise c q replay = s.trapEntry c q (s.auxOf c).trapRec := by
  have guard : ¬ ((!(s.auxOf c).trap.nesting && s.hostAssisted c q) = true) := by
    rcases traps with nested | unassisted
    · have nested : (s.auxOf c).trap.nesting = true := nested
      simp [nested]
    · simp [unassisted]
  simp only [State.raise, crew]
  exact if_neg guard

/-- A group's fault is raised for its crew once no group is in progress. -/
theorem State.finishFault_eq_raise (s u : State) (g : Issue) (r : Crew) (f : LaneTrap) :
    s.finishFault u g r f = ({ u with issue := none } : State).raise g.crew
      { code := f.fault.code, lanes := f.lanes, detail := f.fault.detail, level := f.fault.level, addr := f.fault.addr,
        pc := g.addr, retired := r.retired, flg := if f.fault.code = 0x14 then 0x20 else 0, token := 0 } false := by
  simp [State.finishFault, Res.lanes, Issue.close, groupTrap]

/-- Settles O12: the two branches of a raise, told apart by `State.hostAssisted_iff`. -/
theorem faultTrapsOrSuspends : Obligations.FaultTrapsOrSuspends := by
  intro s u g r r' f crew q v paged
  have raised : s.finishFault u g r f = v.raise g.crew q false := State.finishFault_eq_raise s u g r f
  have assisted : v.hostAssisted g.crew q = true ↔ paged := State.hostAssisted_iff v g.crew q
  rw [raised]
  refine ⟨fun calm isPaged => ?_, fun traps => State.raise_of_trap crew (traps.imp_right (mt assisted.mp))⟩
  have suspends := State.raise_of_assisted (replay := false) (show v.crews.find g.crew = some r' from crew) calm (assisted.mpr isPaged)
  rw [suspends]
  exact ⟨rfl, _, State.find_crews_suspend v g.crew r' q false, rfl⟩

end Sys2Proof.Machine

/-!
Reading a context's memory: what a walk, a fill and a frame to a peer leave alone (12 R308-R329; 16 R420).
-/

namespace Sys2Proof.Machine

/-- Finding a leaf takes at most one free choice. -/
theorem State.findLeaf_state (s : State) (via : Option Nat) (ctx va : Nat) (kind : AccKind) :
    (s.findLeaf via ctx va kind).2 = s ∨ (s.findLeaf via ctx va kind).2 = { s with fresh := s.fresh + 1 } := by
  unfold State.findLeaf
  dsimp only
  repeat' split
  all_goals simp

/-- From s to u nothing changes but memory, the links and the counter of free choices. -/
structure MovesMemory (s u : State) : Prop where
  rest : { u with mem := s.mem, links := s.links, fresh := s.fresh } = s

namespace MovesMemory

variable {s u : State}

theorem refl (s : State) : MovesMemory s s := ⟨rfl⟩

theorem setMem (h : MovesMemory s u) (m : Memory) : MovesMemory s { u with mem := m } := ⟨h.rest⟩

theorem setLinks (h : MovesMemory s u) (l : Links) : MovesMemory s { u with links := l } := ⟨h.rest⟩

theorem setFresh (h : MovesMemory s u) (n : Nat) : MovesMemory s { u with fresh := n } := ⟨h.rest⟩

theorem aux (h : MovesMemory s u) : u.aux = s.aux := (congrArg State.aux h.rest :)

theorem launches (h : MovesMemory s u) : u.launches = s.launches := (congrArg State.launches h.rest :)

theorem ctxs (h : MovesMemory s u) : u.ctxs = s.ctxs := (congrArg State.ctxs h.rest :)

theorem auxOf (h : MovesMemory s u) (c : Nat) : u.auxOf c = s.auxOf c := by rw [State.auxOf, State.auxOf, h.aux]

theorem packetOf (h : MovesMemory s u) (r : Crew) : u.packetOf r = s.packetOf r := by
  rw [State.packetOf, State.packetOf, h.launches]

theorem ctxOf (h : MovesMemory s u) (r : Crew) : u.ctxOf r = s.ctxOf r := by rw [State.ctxOf, State.ctxOf, h.launches]

/-- A launch region's values in force depend on the contexts alone. -/
theorem startedOf (h : MovesMemory s u) (ctx slot : Nat) : u.startedOf ctx slot = s.startedOf ctx slot :=
  (congrArg (fun x : State => x.startedOf ctx slot) h.rest :)

theorem foldl {α : Type} (h : MovesMemory s u) (f : State → α → State) (step : ∀ v x, MovesMemory s v → MovesMemory s (f v x))
    (l : List α) : MovesMemory s (l.foldl f u) := List.foldlRecOn l f h fun v hv x _ => step v x hv

/-! ## LPDDR6 and the L2 -/

theorem physPut (h : MovesMemory s u) (pa : Nat) (b : Byte) : MovesMemory s (u.physPut pa b) := h.setMem _

theorem l2Put (h : MovesMemory s u) (k : Nat) (b : Option CByte) : MovesMemory s (u.l2Put k b) := h.setMem _

theorem choose (h : MovesMemory s u) (n : Nat) : MovesMemory s (u.choose n).2 := h.setFresh _

theorem putSector (h : MovesMemory s u) (key : BitVec 8) (sector : Nat) (vals : List Byte) :
    MovesMemory s (u.putSector key sector vals) := by
  unfold State.putSector
  extract_lets t
  exact setMem (u := t) (h.foldl _ (fun _ _ hv => hv.physPut _ _) _) _

theorem rekey (h : MovesMemory s u) (key : BitVec 8) (sector : Nat) : MovesMemory s (u.rekey key sector) :=
  h.foldl _ (fun _ _ hv => hv.putSector _ _ _) _

theorem backPut (h : MovesMemory s u) (key : BitVec 8) (pa : Nat) (b : Byte) : MovesMemory s (u.backPut key pa b) :=
  (h.rekey _ _).physPut _ _

theorem reform (h : MovesMemory s u) (line : Nat) (key : BitVec 8) (view bounded : Bool) :
    MovesMemory s (u.reform line key view bounded) := by
  unfold State.reform
  split
  · exact h
  · extract_lets t
    exact setMem (u := t) (h.foldl _ (fun _ _ hv => hv.rekey _ _) _) _

theorem l2Back (h : MovesMemory s u) (lk i : Nat) : MovesMemory s (u.l2Back lk i) := by
  unfold State.l2Back
  split
  · exact (h.l2Put _ _).backPut _ _ _
  · exact h

theorem l2WriteBack (h : MovesMemory s u) (lk : Nat) : MovesMemory s (u.l2WriteBack lk) := by
  unfold State.l2WriteBack
  dsimp only
  split
  · exact h
  · exact (h.foldl _ (fun _ _ hv => hv.foldl _ (fun _ _ hw => hw.l2Back _ _) _) _).reform _ _ _ _

theorem l2Drop (h : MovesMemory s u) (lk : Nat) : MovesMemory s (u.l2Drop lk) := by
  unfold State.l2Drop
  extract_lets t
  exact setMem (u := t) (h.foldl _ (fun _ _ hv => hv.l2Put _ _) _) _

theorem l2Evict (h : MovesMemory s u) (lk : Nat) : MovesMemory s (u.l2Evict lk) := (h.l2WriteBack lk).l2Drop lk

theorem l2Room (h : MovesMemory s u) (lk : Nat) : MovesMemory s (u.l2Room lk) := by
  unfold State.l2Room
  dsimp only
  split
  · exact h
  · exact (h.choose _).l2Evict _

theorem l2SetMark (h : MovesMemory s u) (lk : Nat) (m : L2Mark) (bounded : Bool) : MovesMemory s (u.l2SetMark lk m bounded) :=
  h.setMem _

theorem l2Alloc (h : MovesMemory s u) (lk : Nat) (m : L2Mark) : MovesMemory s (u.l2Alloc lk m) := by
  unfold State.l2Alloc
  split
  · split
    · exact h.l2SetMark _ _ _
    · exact h
  · exact (h.l2Room _).l2SetMark _ _ _

theorem l2Fill (h : MovesMemory s u) (t : MemTag) (m : L2Mark) (pa : Nat) : MovesMemory s (u.l2Fill t m pa) := by
  have allocated := h.l2Alloc (t.ckey (pa / 128)) m
  unfold State.l2Fill
  extract_lets v
  split
  · exact allocated
  · exact setMem (u := v) allocated _

theorem sliceFill (h : MovesMemory s u) (t : MemTag) (how : Option L2Mark) (pa : Nat) : MovesMemory s (u.sliceFill t how pa) := by
  unfold State.sliceFill
  split
  · split
    · exact h.l2Fill _ _ _
    · exact h
  · exact h

theorem noteView (h : MovesMemory s u) (t : MemTag) (pa : Nat) : MovesMemory s (u.noteView t pa) := by
  unfold State.noteView
  split
  · exact h.setMem _
  · exact h

theorem slicePut (h : MovesMemory s u) (t : MemTag) (how : Option L2Mark) (pa : Nat) (b : Byte) :
    MovesMemory s (u.slicePut t how pa b) := by
  have filled := h.sliceFill t how pa
  unfold State.slicePut
  split
  · dsimp only
    split
    · exact (filled.l2Put _ _).noteView _ _
    · exact (filled.backPut _ _ _).reform _ _ _ _
  · exact h.physPut _ _
  · exact h
  · exact h

/-! ## Reads at the home of a page -/

theorem sendPeer (h : MovesMemory s u) (peer : BitVec 4) (q : FabricReq) : MovesMemory s (u.sendPeer peer q) := by
  unfold State.sendPeer
  split
  · exact h
  · split
    · exact h
    · exact h.setLinks _

theorem homeRead (h : MovesMemory s u) (t : MemTag) (how : Option L2Mark) (pa n : Nat) :
    MovesMemory s (u.homeRead t how pa n).2 := by
  unfold State.homeRead
  split
  · exact h.foldl _ (fun _ _ hv => hv.sliceFill _ _ _) _
  · exact (h.setFresh (u.fresh + n)).foldl _ (fun _ _ hv => hv.sendPeer _ _) _

/-! ## Translation -/

theorem findLeaf (h : MovesMemory s u) (via : Option Nat) (ctx va : Nat) (kind : AccKind) :
    MovesMemory s (u.findLeaf via ctx va kind).2 := by
  rcases State.findLeaf_state u via ctx va kind with same | chose
  · rwa [same]
  · rw [chose]
    exact h.setFresh _

theorem setAD (h : MovesMemory s u) (kind : AccKind) (l : Leaf) : MovesMemory s (u.setAD kind l) := by
  unfold State.setAD
  extract_lets e'
  split
  · exact h
  · exact h.foldl _ (fun _ _ hv => hv.slicePut _ _ _ _) _

theorem remember (h : MovesMemory s u) (via : Option Nat) (ctx va : Nat) (l : Leaf) : MovesMemory s (u.remember via ctx va l) := by
  unfold State.remember
  split
  · exact h
  · exact ⟨h.rest⟩

theorem xlate (h : MovesMemory s u) (via : Option Nat) (ctx : Nat) (priv : Bool) (kind : AccKind) (va : DWord) :
    MovesMemory s (u.xlate via ctx priv kind va).2 := by
  have found := h.findLeaf via ctx (va.setWidth 57).toNat kind
  unfold State.xlate
  split
  · exact h
  · dsimp only
    split
    next eq => rwa [eq] at found
    next l t eq =>
      rw [eq] at found
      split
      · split
        · exact found.remember _ _ _ _
        · exact found
      · exact (found.setAD _ _).remember _ _ _ _

theorem devRead (h : MovesMemory s u) (ctx : Nat) (va : DWord) (n : Nat) : MovesMemory s (u.devRead ctx va n).2 := by
  refine List.foldlRecOn (motive := fun acc : Option (List Byte) × State => MovesMemory s acc.2) _ _ h fun acc hv i _ => ?_
  dsimp only
  split
  · exact hv
  · have read := hv.xlate none ctx true .read (va + BitVec.ofNat 64 i)
    split
    next eq => rwa [eq] at read
    next t eq =>
      rw [eq] at read
      split
      · exact read
      · split
        · exact read
        · exact read.homeRead _ _ _ _

theorem tableEntry (h : MovesMemory s u) (ctx : Nat) (tab : Option DWord) (code : Nat) :
    MovesMemory s (u.tableEntry ctx tab code).2 := by
  unfold State.tableEntry
  split
  · exact h
  next va =>
    have read := h.devRead ctx (va + BitVec.ofNat 64 (8 * code)) 8
    split
    next eq => rwa [eq] at read
    next eq =>
      rw [eq] at read
      dsimp only
      split <;> exact read

end MovesMemory

end Sys2Proof.Machine

/-!
What moves a crew between groups, pre-emption and resumption (01 R19; 02 R58; 05 R109; 14 R363-R368).
-/

namespace Sys2Proof.Machine

theorem State.onCrew_of_find {s : State} {c : Nat} {r : Crew} (crew : s.crews.find c = some r) (f : Crew → Crew) :
    s.onCrew c f = s.putCrew c (f r) := by simp [State.onCrew, State.putCrew, Tbl.upd, crew]

/-! ## Results that arrive (05 R109) -/

theorem dropFirst_of_forall {α : Type} {p : α → Bool} {l : List α} (none : ∀ x ∈ l, p x = false) : dropFirst p l = l := by
  induction l with
  | nil => rfl
  | cons x t ih =>
    obtain ⟨head, tail⟩ := List.forall_mem_cons.mp none
    simp [dropFirst, head, ih tail]

theorem dropFirst_append {α : Type} {p : α → Bool} {pre post : List α} {x : α} (before : ∀ y ∈ pre, p y = false) (here : p x = true) :
    dropFirst p (pre ++ x :: post) = pre ++ post := by
  induction pre with
  | nil => simp [dropFirst, here]
  | cons y t ih =>
    obtain ⟨head, tail⟩ := List.forall_mem_cons.mp before
    simp [dropFirst, head, ih tail]

/-- A result has not arrived where a peer's loss ended its access, or a peer has yet to answer it (12 R331, R333). -/
theorem State.arrives_eq_false_iff (s : State) (c : Nat) (x : Returning) : s.arrives c x = false ↔
    x.lost.isSome = true ∨ (x.group ≠ 0 ∧ ∃ p ∈ s.links.peers, ∃ f ∈ p.2.unacked, f.group = x.group ∧ ∃ y ∈ f.sources, y.1 = c) := by
  cases lost : x.lost <;> simp [State.arrives, lost]

/-! ## Crews between states (01 R19; 02 R58) -/

section
variable {s : State} {c : Nat} {r : Crew}

theorem exec_crewStartComplete (crew : s.crews.find c = some r) (starting : r.phase = .starting) :
    exec (.crewStartComplete c) s = .next (s.putCrew c { r with phase := .ready }) := by
  show execCrewStartComplete c s = _
  rw [execCrewStartComplete, State.onCrew_of_find crew, starting]
  rfl

theorem exec_schedStallExpiry (crew : s.crews.find c = some r) (stalled : r.phase = .waiting 15) (stall : r.stallEnd ≠ 0)
    (past : r.stallEnd ≤ s.clk) :
    exec (.schedStallExpiry c) s = .next (s.putCrew c { r with phase := .ready, stallEnd := 0 }) := by
  show execSchedStallExpiry c s = _
  rw [execSchedStallExpiry, State.onCrew_of_find crew]
  simp [stalled, stall, past]

/-- A crew that waits on its group, and not on a host, a stall or a hold, is looked at again, a fetch once its lines are in. -/
theorem exec_waitResolved {n : Nat} (crew : s.crews.find c = some r) (waits : r.phase = .waiting n)
    (answered : (s.auxOf c).susp = none) (unstalled : n = 15 → r.stallEnd = 0) (free : (s.auxOf c).held = false)
    (past : r.stallEnd ≤ s.clk) :
    exec (.waitResolved c) s =
      (let s1 := if n = 12 then (s.fetchGroup r r.headPc 3).2.2 else s
       match s1.crewWait c r with
       | none => .next (s1.putCrew c { r with phase := .ready })
       | some (m, t) => .next (t.onCrew c fun r => { r with phase := .waiting m })) := by
  show execWaitResolved c s = _
  have guard : ((s.auxOf c).susp.isSome || (n == 15 && r.stallEnd != 0) || (s.auxOf c).held) = false := by
    simpa [answered, free] using unstalled
  simp only [execWaitResolved, crew, waits, guard, if_neg (Nat.not_lt.mpr past), Bool.false_eq_true, if_false] <;>
    rfl

end

theorem claims_crewEvents : Claims.CrewEvents := by
  intro s c r crew a
  refine ⟨exec_crewStartComplete crew, exec_schedStallExpiry crew, fun n waits answered unstalled free past => ?_, ?_, fun due late => ?_⟩
  · have resolved := exec_waitResolved crew waits answered unstalled (by simpa [CrewAux.held] using free) past
    exact ⟨fun goes => by rw [resolved]; simp only [goes], fun m t holds => by rw [resolved]; simp only [holds]⟩
  · refine ⟨s.onAux c fun a => { a with returning := dropFirst (s.arrives c) a.returning }, rfl, fun pre x post split before here => ?_,
      fun none => ?_, fun x other => by simp [other], rfl⟩
    · have arrived : s.arrives c x = true := by
        rw [← Bool.not_eq_false]
        exact mt (s.arrives_eq_false_iff c x).mp here
      have dropped := dropFirst_append (fun y hy => (s.arrives_eq_false_iff c y).mpr (before y hy)) arrived (post := post)
      rw [← split] at dropped
      simp [dropped, a]
    · have kept := dropFirst_of_forall fun y hy => (s.arrives_eq_false_iff c y).mpr (none y hy)
      rw [State.auxOf_onAux, if_pos rfl, kept]
  · show execPreemptionRetry c s = _
    exact if_pos ⟨due, late⟩

/-! ## Pre-emption (14 R363-R365) -/

/-- A crew's MMA is under way: it streams, or it stands in a rendezvous that completed, or may yet, on the clk of the request. -/
theorem State.mmaHolds_iff (s : State) (c : Nat) (r : Crew) (a : CrewAux) : s.mmaHolds c r a = true ↔
    (∃ x ∈ (s.pn r.pkey).streams, x.crew = c) ∨ ∃ l ∈ s.latches, (∃ x ∈ l.2.arrivals, x.crew = c) ∧
      (l.2.completed = some a.preemptClk ∨ (l.2.completed = none ∧ s.clk = a.preemptClk)) := by
  simp only [State.mmaHolds, State.completesFirst, Bool.or_eq_true, List.any_eq_true, beq_iff_eq, Bool.and_eq_true,
    Option.isNone_iff_eq_none, or_assoc, ← exists_or, ← and_or_left]
  refine or_congr Iff.rfl (exists_congr fun l => and_congr Iff.rfl ?_)
  rw [and_or_left, and_comm (a := l.2.completed = some a.preemptClk), and_assoc]

/-- A request of a crew that stands between groups and outside a handler is taken unless an MMA of the crew is under way. -/
theorem State.takesPreempt_eq {s : State} {c : Nat} {r : Crew} {a : CrewAux} (calm : a.trap.nesting = false) (asks : a.retryAt = 0)
    (between : r.phase = .ready ∨ ∃ n, r.phase = .waiting n) : s.takesPreempt c r a = !s.mmaHolds c r a := by
  rcases between with ready | ⟨n, waits⟩
  · simp [State.takesPreempt, calm, asks, ready]
  · simp [State.takesPreempt, calm, asks, waits]

section
variable {s : State} {c : Nat} {r : Crew} {d : BitVec 16}

theorem exec_preemptionEntry_of_held (crew : s.crews.find c = some r) (asked : (s.auxOf c).preempt = some d)
    (held : s.takesPreempt c r (s.auxOf c) = false) : exec (.preemptionEntry c) s = .next s := by
  show execPreemptionEntry c s = _
  simp [execPreemptionEntry, crew, asked, held]

theorem exec_preemptionEntry_of_full (crew : s.crews.find c = some r) (asked : (s.auxOf c).preempt = some d)
    (taken : s.takesPreempt c r (s.auxOf c) = true) (full : s.freeFrameOf (s.ctxOf r) (s.auxOf c).started = none) :
    exec (.preemptionEntry c) s = .next (s.putAux c { s.auxOf c with retryAt := s.time.toNat + 1000 }) := by
  show execPreemptionEntry c s = _
  simp [execPreemptionEntry, crew, asked, taken, full]

theorem exec_preemptionEntry_of_free {f : Nat} (crew : s.crews.find c = some r) (asked : (s.auxOf c).preempt = some d)
    (taken : s.takesPreempt c r (s.auxOf c) = true) (free : s.freeFrameOf (s.ctxOf r) (s.auxOf c).started = some f) :
    exec (.preemptionEntry c) s =
      (let a := s.auxOf c
       let place := a.started.frameAddr f
       .next (State.trapEntry (((s.holdFrame (s.ctxOf r) a.started f).putAux c
         { a with preempt := none, susp := none, frame := some f, frameAt := place, frameSlot := a.started.saveSlot }).putCrew c
         { r with stallEnd := 0 }) c
         { code := 0x20, lanes := 0, detail := d, level := 0, addr := 0, pc := r.headPc, retired := r.retired, flg := 0,
           token := BitVec.ofNat 32 f } place)) := by
  show execPreemptionEntry c s = _
  simp only [execPreemptionEntry, crew, asked, taken, free, Bool.not_true, Bool.false_eq_true, if_false]

end

/-! ## Resumption (14 R368) -/

/-- A SAVED crew with a slot to take, before which no other of its launch comes, resumes where its restore entry is there. -/
theorem exec_crewResume {s t : State} {c f slot : Nat} {r : Crew} {e : PC × Bool} (crew : s.crews.find c = some r)
    (saved : r.phase = .saved) (framed : (s.auxOf c).frame = some f) (free : s.resumeSlot r = some slot)
    (first : s.earlierSaved c r f = false)
    (entry : s.tableEntry (s.ctxOf r) (s.startedOf (s.ctxOf r) (s.packetOf r).rslot).trapTab 0x21 = (some e, t)) :
    exec (.crewResume c) s = .next (t.reseat c r f slot e) := by
  show execCrewResume c s = _
  simp only [execCrewResume, crew, saved, framed, free, first, entry, Bool.false_eq_true, if_false]

@[simp] theorem Crew.mode_setS (r : Crew) (n : SReg) (v : DWord) : (r.setS n v).mode = r.mode := by
  unfold Crew.setS; split <;> rfl

/-- The privilege bit of a mode word. -/
theorem priv_modeWord (m : Bool) (pair : BitVec 3) (priv : Bool) (gang : BitVec 48) :
    (modeWord m pair priv gang).getLsbD 4 = priv := by
  cases m <;> cases priv <;> simp [modeWord]

/-- A crew that starts in a slot stands at its entry in every lane, all live, with the entry's privilege. -/
theorem crewStart_spec (launch block index part core partition slot : Nat) (p : Packet) (pc : PC) (priv : Bool) :
    let r := crewStart launch block index part core partition slot p pc priv
    r.phase = .starting ∧ r.slot = slot ∧ (∀ l, l < 32 → r.pc l = pc) ∧ r.live = 0xFFFFFFFF ∧ r.priv = priv := by
  refine ⟨rfl, rfl, fun l hl => ?_, show ~~~(0 : LaneMask) = _ by decide, priv_modeWord _ _ _ _⟩
  have there : l < (List.replicate 32 pc).length := by rwa [List.length_replicate]
  exact (List.getD_eq_getElem (List.replicate 32 pc) 0 there).trans (List.getElem_replicate there)

theorem State.crews_seat (s : State) (c : Nat) (r : Crew) (a : CrewAux) : (s.seat c r a).crews = s.crews.put c r := rfl

theorem State.auxOf_seat (s : State) (c : Nat) (r : Crew) (a : CrewAux) : (s.seat c r a).auxOf c = a :=
  (State.auxOf_putAux _ _ _ _).trans (if_pos rfl)

/-- Reseating leaves the crew at the entry of its restore routine, in a handler, under its launch region's values. -/
theorem State.reseat_spec (s : State) (c : Nat) (r : Crew) (f slot : Nat) (e : PC × Bool) :
    ∃ r', (s.reseat c r f slot e).crews.find c = some r' ∧ r'.phase = .starting ∧ r'.slot = slot ∧ (∀ l, l < 32 → r'.pc l = e.1) ∧
      r'.live = 0xFFFFFFFF ∧ r'.priv = e.2 ∧ r'.sreg 1 = (s.auxOf c).frameAt ∧
      ((s.reseat c r f slot e).auxOf c).trap.nesting = true ∧ ((s.reseat c r f slot e).auxOf c).frame = some f ∧
      ((s.reseat c r f slot e).auxOf c).replay = (s.auxOf c).replay ∧
      ((s.reseat c r f slot e).auxOf c).started = s.startedOf (s.ctxOf r) (s.packetOf r).rslot := by
  obtain ⟨phase, place, pcs, live, priv⟩ :=
    crewStart_spec r.launch r.block r.index r.part r.core r.partition slot (s.packetOf r) e.1 e.2
  let r1 := (crewStart r.launch r.block r.index r.part r.core r.partition slot (s.packetOf r) e.1 e.2).setS 1 (s.auxOf c).frameAt
  have seated : (s.reseat c r f slot e).crews.find c = some r1 := by
    rw [State.reseat, State.crews_seat, Tbl.find_put, if_pos rfl]
  have address : r1.sreg 1 = (s.auxOf c).frameAt := (Crew.setsS _ _ _).new (by decide)
  refine ⟨r1, seated, phase, place, pcs, live, priv, address, ?_⟩
  rw [State.reseat, State.auxOf_seat]
  exact ⟨rfl, rfl, rfl, rfl⟩

theorem claims_preemption : Claims.Preemption := by
  intro s c r crew a ctx streams
  refine ⟨fun d asked calm asks between => ?_, fun f slot e t saved framed free first entry => ?_⟩
  · have takes := State.takesPreempt_eq (s := s) (c := c) (a := a) calm asks between
    have holds : s.mmaHolds c r a = true ↔ streams := s.mmaHolds_iff c r a
    have taken (still : ¬ streams) : s.takesPreempt c r a = true := by simpa [takes] using mt holds.mp still
    refine ⟨fun busy => ?_, fun still full => ?_, fun still f free => ?_⟩
    · exact exec_preemptionEntry_of_held crew asked (by simp [a, takes, holds.mpr busy])
    · exact exec_preemptionEntry_of_full crew asked (taken still) full
    · exact exec_preemptionEntry_of_free crew asked (taken still) free
  · have moved : MovesMemory s t := by
      have read := (MovesMemory.refl s).tableEntry ctx (s.startedOf ctx (s.packetOf r).rslot).trapTab 0x21
      rwa [entry] at read
    obtain ⟨r', seated, phase, place, pcs, live, priv, address, nesting, frame, replay, started⟩ := t.reseat_spec c r f slot e
    rw [moved.auxOf] at address replay
    rw [moved.ctxOf, moved.packetOf, moved.startedOf] at started
    exact ⟨_, r', exec_crewResume crew saved framed free first entry, seated, phase, place, pcs, live, priv, address, nesting, frame,
      replay, started⟩

/-- Settles O48: each event is one equation of `exec`, and what a seated crew holds follows from the state that its entry leaves, since a
walk of the trap table moves memory and nothing of the crew. -/
theorem crewEvents : Obligations.CrewEvents := ⟨claims_crewEvents, claims_preemption⟩

end Sys2Proof.Machine

/-!
What a group reports of its lanes' faults, and the codes that an access can raise (07 R168; 12 R327; 14 R358).
-/

namespace Sys2Proof.Machine

/-! ## The trap that lanes' faults make together -/

/-- A code that stands in the order of faults. -/
abbrev FaultRanked (code : BitVec 8) : Prop := faultRank code < 11

/-- Codes in the order of faults are told apart by their ranks. -/
theorem faultRank_inj {a b : BitVec 8} (ranked : FaultRanked a) (same : faultRank a = faultRank b) : a = b := by
  have mem : a ∈ ([0x05, 0x06, 0x08, 0x07, 0x09, 0x0A, 0x0B, 0x0F, 0x10, 0x11, 0x14] : List (BitVec 8)) :=
    List.idxOf_lt_length_iff.mp ranked
  exact (List.idxOf_inj mem).mp same

/-- The worse of two faults, the first where their codes rank alike. -/
def worseOf (b g : Nat × LaneFault) : Nat × LaneFault := if faultRank g.2.code < faultRank b.2.code then g else b

/-- b is, of some lanes' faults, one of the lowest rank, and of the lowest lane among those. -/
structure IsWorst (fs : List (Nat × LaneFault)) (b : Nat × LaneFault) : Prop where
  mem : b ∈ fs
  least : ∀ g ∈ fs, faultRank b.2.code ≤ faultRank g.2.code
  first : ∀ g ∈ fs, faultRank g.2.code = faultRank b.2.code → b.1 ≤ g.1

/-- Taking the worse of each two finds the worst of faults that stand in the order of their lanes. -/
theorem isWorst_foldl {f : Nat × LaneFault} {rest : List (Nat × LaneFault)} (asc : (f :: rest).Pairwise (·.1 < ·.1)) :
    IsWorst (f :: rest) (rest.foldl worseOf f) := by
  induction rest generalizing f with
  | nil => exact ⟨by simp, by simp, by simp⟩
  | cons g rest ih =>
    obtain ⟨below, asc'⟩ := List.pairwise_cons.mp asc
    obtain ⟨below', -⟩ := List.pairwise_cons.mp asc'
    have lower : f.1 < g.1 := below g (by simp)
    by_cases worse : faultRank g.2.code < faultRank f.2.code
    · have step : (g :: rest).foldl worseOf f = rest.foldl worseOf g := by simp [worseOf, worse]
      obtain ⟨mem, least, first⟩ := ih asc'
      have least_g := least g (by simp)
      rw [step]
      refine ⟨List.mem_cons_of_mem _ mem, List.forall_mem_cons.mpr ⟨by omega, least⟩, List.forall_mem_cons.mpr ⟨?_, first⟩⟩
      intro same
      omega
    · have step : (g :: rest).foldl worseOf f = rest.foldl worseOf f := by simp [worseOf, worse]
      obtain ⟨mem, least, first⟩ := ih (List.pairwise_cons.mpr ⟨fun x hx => below x (List.mem_cons_of_mem _ hx),
        (List.pairwise_cons.mp asc').2⟩)
      obtain ⟨least_f, least_rest⟩ := List.forall_mem_cons.mp least
      obtain ⟨first_f, first_rest⟩ := List.forall_mem_cons.mp first
      rw [step]
      refine ⟨?_, ?_, ?_⟩
      · exact List.Sublist.subset ((List.sublist_cons_self g rest).cons_cons f) mem
      · exact List.forall_mem_cons.mpr ⟨least_f, List.forall_mem_cons.mpr ⟨by omega, least_rest⟩⟩
      · refine List.forall_mem_cons.mpr ⟨first_f, List.forall_mem_cons.mpr ⟨fun same => ?_, first_rest⟩⟩
        have := first_f (by omega)
        omega

theorem worstOf_cons (f : Nat × LaneFault) (rest : List (Nat × LaneFault)) : worstOf (f :: rest) =
    some { lanes := maskOf fun l => (f :: rest).any fun g => g.1 == l && g.2.code == (rest.foldl worseOf f).2.code
           fault := (rest.foldl worseOf f).2 } := rfl

/-- Faults in the order of their lanes, one to a lane, are reported as R358 says. -/
theorem worstOf_of_reports {m : LaneMask} {bad : Nat → LaneFault → Prop} {w : LaneTrap} {fs : List (Nat × LaneFault)}
    (reports : Claims.Reports m bad w) (mem : ∀ l f, (l, f) ∈ fs ↔ l < 32 ∧ m.getLsbD l = true ∧ bad l f)
    (asc : fs.Pairwise (·.1 < ·.1)) (ranked : ∀ e ∈ fs, FaultRanked e.2.code) : worstOf fs = some w := by
  obtain ⟨⟨l, hl, active, isBad, worst⟩, lanes⟩ := reports
  have reported : (l, w.fault) ∈ fs := (mem l w.fault).mpr ⟨hl, active, isBad⟩
  cases fs with
  | nil => exact absurd reported (by simp)
  | cons f rest =>
    obtain ⟨found, least, first⟩ := isWorst_foldl asc
    rw [worstOf_cons]
    generalize rest.foldl worseOf f = b at found least first
    obtain ⟨hb, active', isBad'⟩ := (mem b.1 b.2).mp found
    obtain ⟨rank, lane⟩ := worst b.1 b.2 hb active' isBad'
    have same : faultRank b.2.code = faultRank w.fault.code := le_antisymm (least _ reported) rank
    have code : b.2.code = w.fault.code := faultRank_inj (ranked b found) same
    have nodup : ((f :: rest).map Prod.fst).Nodup := (List.pairwise_map.mpr asc).imp Nat.ne_of_lt
    have best : b = (l, w.fault) := List.inj_on_of_nodup_map nodup found reported (le_antisymm (first _ reported same.symm) (lane code))
    rw [best]
    have marked : (maskOf fun l => (f :: rest).any fun g => g.1 == l && g.2.code == w.fault.code) = w.lanes := by
      refine BitVec.eq_of_getLsbD_eq fun i hi => ?_
      rw [getLsbD_maskOf, Bool.eq_iff_iff, lanes i hi]
      simp only [hi, decide_true, Bool.true_and, List.any_eq_true, Bool.and_eq_true, beq_iff_eq, Prod.exists]
      constructor
      · rintro ⟨l', g, hg, rfl, hcode⟩
        exact ⟨((mem _ g).mp hg).2.1, g, ((mem _ g).mp hg).2.2, hcode⟩
      · rintro ⟨on, g, hg, hcode⟩
        exact ⟨i, g, (mem i g).mpr ⟨hi, on, hg⟩, rfl, hcode⟩
    rw [marked]

theorem pairwise_lanesOf (m : LaneMask) : (lanesOf m).Pairwise (· < ·) := List.pairwise_lt_range.filter _

/-- Entries made of lanes in ascending order stand in that order. -/
theorem pairwise_filterMap_lanes {ls : List Nat} (asc : ls.Pairwise (· < ·)) {F : Nat → Option (Nat × LaneFault)}
    (own : ∀ l e, F l = some e → e.1 = l) : (ls.filterMap F).Pairwise (·.1 < ·.1) :=
  asc.filterMap F fun l l' lt e he e' he' => by rwa [own l e he, own l' e' he']

/-- Lanes that are each checked once report as R358 says. -/
theorem worstOf_lanes {m : LaneMask} {w : LaneTrap} {F : Nat → Option LaneFault}
    (reports : Claims.Reports m (fun l f => F l = some f) w) (ranked : ∀ l f, F l = some f → FaultRanked f.code) :
    worstOf ((lanesOf m).filterMap fun l => (F l).map fun f => (l, f)) = some w := by
  refine worstOf_of_reports reports (fun l f => ?_) (pairwise_filterMap_lanes (pairwise_lanesOf m) fun l e he => ?_) fun e he => ?_
  · simp [mem_lanesOf, and_assoc]
  · obtain ⟨f, -, rfl⟩ := Option.map_eq_some_iff.mp he
    rfl
  · obtain ⟨l, -, he⟩ := List.mem_filterMap.mp he
    obtain ⟨f, hf, rfl⟩ := Option.map_eq_some_iff.mp he
    exact ranked l f hf

/-! ## The codes of an access (12 R322-R328; 07 R168) -/

/-- An outcome of a translation that, where it is a fault, has a code in the order of faults. -/
def XRanked {α : Type} : Except XFault α → Prop
  | .error f => FaultRanked f.code
  | .ok _ => True

theorem xTranslation_ranked (lvl : Nat) : FaultRanked (xTranslation lvl).code := show FaultRanked 0x06 by decide
theorem xPermission_ranked (lvl : Nat) : FaultRanked (xPermission lvl).code := show FaultRanked 0x07 by decide
theorem xReserved_ranked (lvl : Nat) : FaultRanked (xReserved lvl).code := show FaultRanked 0x08 by decide

section
variable (s : State)

theorem State.leafPa_ranked (va lvl ea : Nat) (e : DWord) : XRanked (s.leafPa va lvl ea e) := by
  unfold State.leafPa
  dsimp only
  repeat' split
  all_goals simp only [XRanked, xReserved_ranked]

theorem State.walk_ranked (va base n : Nat) : XRanked (s.walk va base n) := by
  induction n generalizing base with
  | zero => exact xReserved_ranked 5
  | succ n ih =>
    unfold State.walk
    dsimp only
    split
    · exact xTranslation_ranked 6
    split
    · exact xTranslation_ranked _
    split
    · have leaf := s.leafPa_ranked va (5 - n) (base + 8 * (va / 2 ^ (12 + 9 * n) % 512)) (s.entryAt (base + 8 * (va / 2 ^ (12 + 9 * n) % 512)))
      generalize s.leafPa va (5 - n) (base + 8 * (va / 2 ^ (12 + 9 * n) % 512)) (s.entryAt (base + 8 * (va / 2 ^ (12 + 9 * n) % 512))) = x at leaf
      cases x
      · exact leaf
      · trivial
    split
    · exact xReserved_ranked _
    · exact ih _

theorem State.cachedLeaves_ranked (via : Option Nat) (ctx va : Nat) (kind : AccKind) (root : Except XFault Leaf) :
    ∀ x ∈ s.cachedLeaves via ctx va kind root, XRanked x := by
  unfold State.cachedLeaves
  cases via with
  | none => simp
  | some core =>
    intro x hx
    rcases List.mem_append.mp hx with hx | hx
    · obtain ⟨l, -, rfl⟩ := List.mem_map.mp hx
      trivial
    · obtain ⟨e, -, rfl⟩ := List.mem_map.mp (List.mem_filter.mp hx).1
      exact s.walk_ranked _ _ _

theorem State.findLeaf_ranked (via : Option Nat) (ctx va : Nat) (kind : AccKind) : XRanked (s.findLeaf via ctx va kind).1 := by
  have root := s.walk_ranked va (s.rootOf ctx) 5
  have cached := s.cachedLeaves_ranked via ctx va kind (s.walk va (s.rootOf ctx) 5)
  unfold State.findLeaf
  extract_lets rt
  split
  · exact root
  next c cs eq =>
    rw [eq] at cached
    extract_lets pick
    have picked : XRanked pick := by
      have all : ∀ x ∈ rt :: c :: cs, XRanked x := List.forall_mem_cons.mpr ⟨root, cached⟩
      cases at_ : (rt :: c :: cs)[Config.pick s.fresh % (cs.length + 2)]? with
      | none => exact (congrArg (fun o => XRanked (o.getD rt)) at_).mpr root
      | some y => exact (congrArg (fun o => XRanked (o.getD rt)) at_).mpr (all y (List.mem_of_getElem? at_))
    clear_value pick
    cases pick with
    | error f => exact picked
    | ok l =>
      dsimp only
      generalize l.pte ||| 0x200 ||| (if kind.writes then 0x400 else 0) = set
      split
      · exact root
      · trivial

theorem State.leafFault_ranked {ctx : Nat} {priv : Bool} {kind : AccKind} {l : Leaf} {f : XFault}
    (fault : s.leafFault ctx priv kind l = some f) : FaultRanked f.code := by
  unfold State.leafFault at fault
  extract_lets t here rg up at fault
  repeat' split at fault
  all_goals cases fault
  all_goals simp only [xPermission_ranked, xTranslation_ranked]

theorem State.xlate_ranked (via : Option Nat) (ctx : Nat) (priv : Bool) (kind : AccKind) (va : DWord) :
    XRanked (s.xlate via ctx priv kind va).1 := by
  have found := s.findLeaf_ranked via ctx (va.setWidth 57).toNat kind
  unfold State.xlate
  split
  · exact xTranslation_ranked 0
  dsimp only
  split
  next eq => rwa [eq] at found
  next l t eq =>
    split
    next fault => exact t.leafFault_ranked fault
    next => trivial

/-- The faults of one lane's access. -/
theorem State.checkLane_ranked {via : Option Nat} {ctx : Nat} {priv : Bool} {q : LaneAcc} {f : LaneFault} {t : State}
    (fault : s.checkLane via ctx priv q = (.error f, t)) : FaultRanked f.code := by
  have found := s.xlate_ranked via ctx priv q.kind q.va
  unfold State.checkLane at fault
  split at fault
  · cases fault
    exact (by decide : FaultRanked 0x05)
  split at fault
  next eq =>
    rw [eq] at found
    cases fault
    exact found
  split at fault
  · cases fault
    exact (by decide : FaultRanked 0x06)
  split at fault
  · cases fault
    exact (by decide : FaultRanked 0x14)
  · cases fault

/-! ## The faults of lanes' accesses -/

/-- What checking one more lane adds to what the lanes before it gave. -/
def gatherStep (via : Option Nat) (ctx : Nat) (priv : Bool) (acc : List (Nat × LaneFault) × List (Nat × MemTag × Nat) × State)
    (q : Nat × LaneAcc) : List (Nat × LaneFault) × List (Nat × MemTag × Nat) × State :=
  match acc.2.2.checkLane via ctx priv q.2 with
  | (.error f, t) => (acc.1 ++ [(q.1, f)], acc.2.1, t)
  | (.ok p, t) => (acc.1, acc.2.1 ++ [(q.1, p.1, p.2)], t)

theorem State.gatherLanes_eq_foldl (via : Option Nat) (ctx : Nat) (priv : Bool) (qs : List (Nat × LaneAcc)) :
    s.gatherLanes via ctx priv qs = qs.foldl (gatherStep via ctx priv) ([], [], s) := rfl

/-- Each lane checked adds at most its own fault, of a code in the order of faults. -/
theorem gatherStep_faults (via : Option Nat) (ctx : Nat) (priv : Bool) (qs : List (Nat × LaneAcc))
    (acc : List (Nat × LaneFault) × List (Nat × MemTag × Nat) × State) :
    ∃ fs, (qs.foldl (gatherStep via ctx priv) acc).1 = acc.1 ++ fs ∧ (fs.map Prod.fst).Sublist (qs.map Prod.fst) ∧
      ∀ e ∈ fs, FaultRanked e.2.code := by
  induction qs generalizing acc with
  | nil => exact ⟨[], by simp⟩
  | cons q qs ih =>
    obtain ⟨fs, out, lanes, ranked⟩ := ih (gatherStep via ctx priv acc q)
    rw [List.foldl_cons, out]
    unfold gatherStep
    split
    next f t eq =>
      exact ⟨(q.1, f) :: fs, by simp, by simpa using lanes.cons_cons q.1,
        List.forall_mem_cons.mpr ⟨acc.2.2.checkLane_ranked eq, ranked⟩⟩
    next => exact ⟨fs, rfl, by simpa using lanes.cons q.1, ranked⟩

/-- The faults that lanes' checks give stand in the lanes' order, one to a lane. -/
theorem State.gatherLanes_faults (via : Option Nat) (ctx : Nat) (priv : Bool) (qs : List (Nat × LaneAcc)) :
    ((s.gatherLanes via ctx priv qs).1.map Prod.fst).Sublist (qs.map Prod.fst) ∧
      ∀ e ∈ (s.gatherLanes via ctx priv qs).1, FaultRanked e.2.code := by
  obtain ⟨fs, out, lanes, ranked⟩ := gatherStep_faults via ctx priv qs ([], [], s)
  rw [State.gatherLanes_eq_foldl, out]
  exact ⟨lanes, ranked⟩

end

end Sys2Proof.Machine

/-!
What the accesses to memory, bank, tiles, gangs, frames and copies fault on (07 R168, R174, R181, R187; 08 R207, R220; 09 R234,
R236, R246, R252; 14 R358).
-/

namespace Sys2Proof.Machine

/-! ## A group whose effect finds a fault -/

/-- A group whose body finds a fault commits nothing else. -/
theorem Issues.faults {s u : State} {g : Issue} {r : Crew} {i : Instr} {wait : WaitFn} {body : BodyFn} {w : LaneTrap}
    (h : Issues s g r i) (hi : (i == Instr.rett) = false) (hw : wait s g r = none) (hb : body s g r = Res.lanes u w) :
    runGroup i s wait body = .next (s.finishFault u g r w) := by
  rw [h.run hw, hi, hb]; rfl

/-! ## Addresses (02 Table 2.9) -/

theorem State.addrSA_eq (s : State) (r : Crew) (hs : List Hint) (a : VReg) (b : SReg) (l : Nat) :
    s.addrSA r hs a b l = Spec.addrSA s r hs a b l := by
  simp [State.addrSA, Spec.addrSA, BitVec.ofInt_add]

theorem State.getV2_toNat (s : State) (r : Crew) (n l : Nat) :
    (s.getV2 r n l).toNat = (s.getV r n l).toNat + 2 ^ 32 * (s.getV r (n + 1) l).toNat := by
  rw [State.getV2, BitVec.toNat_append, ← Nat.shiftLeft_add_eq_or_of_lt (s.getV r n l).isLt, Nat.shiftLeft_eq]
  ring

theorem State.addrPair_eq (s : State) (r : Crew) (hs : List Hint) (a : VReg) (b : SReg) (l : Nat) :
    s.addrPair r hs a b l = Spec.addrPair s r hs a b l := by
  have pair : s.getV2 r a.toNat l = BitVec.ofInt 64 ((s.getV r a.toNat l).toNat + 2 ^ 32 * (s.getV r (a.toNat + 1) l).toNat) := by
    have value := congrArg (BitVec.ofNat 64) (s.getV2_toNat r a.toNat l)
    rw [BitVec.ofNat_toNat, BitVec.setWidth_eq] at value
    rw [value, ← BitVec.ofInt_natCast]
    push_cast
    rfl
  simp only [State.addrPair, Spec.addrPair, pair, BitVec.ofInt_add, BitVec.ofInt_natCast, BitVec.ofNat_toNat, BitVec.setWidth_eq,
    BitVec.ofInt_toInt]

theorem formSA_eq (s : State) (g : Issue) (r : Crew) (a : VReg) (b : SReg) : formSA a b s g r = Spec.addrSA s r g.hints a b :=
  funext fun l => s.addrSA_eq r g.hints a b l

theorem formPair_eq (s : State) (g : Issue) (r : Crew) (a : VReg) (b : SReg) :
    formPair a b s g r = Spec.addrPair s r g.hints a b := funext fun l => s.addrPair_eq r g.hints a b l

theorem formOf_eq (s : State) (g : Issue) (r : Crew) (f : Bool) (a : VReg) (b : SReg) :
    formOf f a b s g r = Spec.addrForm s r g.hints f a b := by
  funext l
  cases f
  · exact s.addrSA_eq r g.hints a b l
  · exact s.addrPair_eq r g.hints a b l

/-! ## Loads, stores and maintenance (07 R168, R173, R196) -/

section
variable {s t : State} {g : Issue} {r : Crew} {n : Nat} {k : KReg} {addr : State → Issue → Crew → Nat → DWord} {at_ : Nat → DWord}
  {w : LaneTrap}

theorem loadBody_faults {regs : Nat} {d : VReg} {ext : List Byte → List Byte} (here : addr s g r = at_)
    (fault : s.checkLanes (viaOf r) (s.ctxOf r) r.priv (lanesAcc (r.active k) at_ n n .read true false
      (orderOf g.hints (.plain, .crew)).1.acq) = (.error w, t)) : loadBody n regs d k addr ext s g r = Res.lanes t w := by
  subst here
  simp only [loadBody, fault]

theorem storeBody_faults {data : State → Crew → Nat → List Byte} (here : addr s g r = at_)
    (fault : s.checkLanes (viaOf r) (s.ctxOf r) r.priv (lanesAcc (r.active k) at_ n n .write false true) = (.error w, t)) :
    storeBody n k addr data s g r = Res.lanes t w := by
  subst here
  simp only [storeBody, fault]

theorem maintBody_faults {kind : StoreKind} {f : Bool} {a : VReg} {b : SReg}
    (fault : s.checkLanes (viaOf r) (s.ctxOf r) r.priv (lanesAcc (r.active k) (Spec.addrForm s r g.hints f a b) 1 1 .maint false
      false) = (.error w, t)) : maintBody kind a b f k s g r = Res.lanes t w := by
  rw [← formOf_eq] at fault
  simp only [maintBody, fault]

end

theorem claims_accessFaults : Claims.AccessFaults := by
  intro s t g r i w runs
  refine ⟨fun x loads fault => ?_, fun x stores fault => ?_⟩
  · unfold Spec.loads at loads
    split at loads <;> cases loads
    · exact runs.issues.faults rfl runs.own (loadBody_faults (formSA_eq s g r _ _) fault)
    · exact runs.issues.faults rfl runs.own (loadBody_faults (formPair_eq s g r _ _) fault)
    · exact runs.issues.faults rfl runs.own (loadBody_faults (formSA_eq s g r _ _) fault)
  · unfold Spec.stores at stores
    split at stores <;> cases stores
    · exact runs.issues.faults rfl runs.own (storeBody_faults (formSA_eq s g r _ _) fault)
    · exact runs.issues.faults rfl runs.own (storeBody_faults (formPair_eq s g r _ _) fault)
    · exact runs.issues.faults rfl runs.own (storeBody_faults (formSA_eq s g r _ _) fault)
    · exact runs.issues.faults rfl runs.own (maintBody_faults fault)
    · exact runs.issues.faults rfl runs.own (maintBody_faults fault)

/-! ## Atomics (04 R100; 07 R187) -/

/-- The fault of an n-byte atomic that crosses a 4 KiB boundary, where it is an accumulator of 64 bytes. -/
def crossFault (n : Nat) (va : DWord) : Option LaneFault :=
  if n = 64 ∧ 4096 < va.toNat % 4096 + 64 then some { code := 0x05, level := 0, addr := va, detail := 0 } else none

theorem accCross_eq : accCross = crossFault 64 := by
  funext va
  simp [accCross, crossFault]

theorem none_eq_crossFault {n : Nat} (small : n ≠ 64) : (fun _ => none) = crossFault n := by
  funext va
  simp [crossFault, small]

theorem crossFault_eq_some_iff {n : Nat} {va : DWord} {f : LaneFault} : crossFault n va = some f ↔
    (n = 64 ∧ 4096 < va.toNat % 4096 + 64) ∧ f = { code := 0x05, level := 0, addr := va, detail := 0 } := by
  unfold crossFault
  split
  next crosses => simp [crosses, eq_comm]
  next fits => simp [fits]

/-- Looking a lane up among faults, one to a lane, finds that lane's. -/
theorem find?_lane_eq_some_iff {fs : List (Nat × LaneFault)} (once : (fs.map Prod.fst).Nodup) {l : Nat} {e : Nat × LaneFault} :
    fs.find? (fun b => b.1 == l) = some e ↔ e ∈ fs ∧ e.1 = l := by
  constructor
  · intro found
    exact ⟨List.mem_of_find?_eq_some found, by simpa using List.find?_some found⟩
  · rintro ⟨mem, lane⟩
    cases found : fs.find? (fun b => b.1 == l) with
    | none => exact absurd lane (by simpa using List.find?_eq_none.mp found e mem)
    | some e' =>
      have lane' : e'.1 = l := by simpa using List.find?_some found
      rw [List.inj_on_of_nodup_map once (List.mem_of_find?_eq_some found) mem (lane'.trans lane.symm)]

section
variable {s t : State} {g : Issue} {r : Crew} {n align : Nat} {m : Crew → LaneMask} {addr : State → Issue → Crew → Nat → DWord}
  {at_ : Nat → DWord} {faults : DWord → Option LaneFault} {good : LaneMask} {fs : List (Nat × LaneFault)}
  {ps : List (Nat × MemTag × Nat)} {w : LaneTrap}

/-- The faults of the lanes that cross and those of the lanes that are checked report together as R358 says. -/
theorem worstOf_crossing {m : LaneMask}
    (passes : ∀ l, l < 32 → (good.getLsbD l = true ↔ m.getLsbD l = true ∧ ¬ (n = 64 ∧ 4096 < (at_ l).toNat % 4096 + 64)))
    (lanes : (fs.map Prod.fst).Sublist (lanesOf good)) (ranked : ∀ e ∈ fs, FaultRanked e.2.code)
    (reports : Claims.Reports m (fun l f => ((n = 64 ∧ 4096 < (at_ l).toNat % 4096 + 64) ∧
      f = { code := 0x05, level := 0, addr := at_ l, detail := 0 }) ∨ (l, f) ∈ fs) w) :
    worstOf (allLanes.filterMap fun l =>
      (((lanesOf m).filterMap fun l => (crossFault n (at_ l)).map fun e => (l, e)) ++ fs).find? fun b => b.1 == l) = some w := by
  have bad : ∀ l f, (l, f) ∈ ((lanesOf m).filterMap fun l => (crossFault n (at_ l)).map fun e => (l, e)) ↔
      l < 32 ∧ m.getLsbD l = true ∧ crossFault n (at_ l) = some f := fun l f => by simp [mem_lanesOf, and_assoc]
  have checked : ∀ l f, (l, f) ∈ fs → l < 32 ∧ m.getLsbD l = true ∧ crossFault n (at_ l) = none := fun l f mem => by
    obtain ⟨hl, on⟩ := mem_lanesOf.mp (lanes.subset (List.mem_map_of_mem mem))
    obtain ⟨active, fits⟩ := (passes l hl).mp on
    exact ⟨hl, active, if_neg fits⟩
  have asc : ((lanesOf m).filterMap fun l => (crossFault n (at_ l)).map fun e => (l, e)).Pairwise (·.1 < ·.1) :=
    pairwise_filterMap_lanes (pairwise_lanesOf m) fun l e he => by obtain ⟨f, -, rfl⟩ := Option.map_eq_some_iff.mp he; rfl
  generalize ((lanesOf m).filterMap fun l => (crossFault n (at_ l)).map fun e => (l, e)) = xs at bad asc
  have once : ((xs ++ fs).map Prod.fst).Nodup := by
    rw [List.map_append, List.nodup_append']
    refine ⟨(List.pairwise_map.mpr asc).imp Nat.ne_of_lt, lanes.nodup ((pairwise_lanesOf good).imp Nat.ne_of_lt), ?_⟩
    rintro _ inBad inChecked
    obtain ⟨⟨l, f⟩, hf, rfl⟩ := List.mem_map.mp inBad
    obtain ⟨⟨l', f'⟩, hf', same⟩ := List.mem_map.mp inChecked
    obtain rfl : l' = l := same
    exact absurd ((bad l' f).mp hf).2.2 (by simp [(checked l' f' hf').2.2])
  refine worstOf_of_reports reports (fun l f => ?_) (pairwise_filterMap_lanes List.pairwise_lt_range fun l e he => ?_) fun e he => ?_
  · rw [List.mem_filterMap, ← crossFault_eq_some_iff]
    simp only [find?_lane_eq_some_iff once, mem_allLanes, List.mem_append, bad]
    constructor
    · rintro ⟨_, hl, hit | hit, rfl⟩
      · exact ⟨hl, hit.2.1, .inl hit.2.2⟩
      · exact ⟨hl, (checked l f hit).2.1, .inr hit⟩
    · rintro ⟨hl, active, hit | hit⟩
      · exact ⟨l, hl, .inl ⟨hl, active, hit⟩, rfl⟩
      · exact ⟨l, hl, .inr hit, rfl⟩
  · exact ((find?_lane_eq_some_iff once).mp he).2
  · obtain ⟨l, -, hit⟩ := List.mem_filterMap.mp he
    rcases List.mem_append.mp ((find?_lane_eq_some_iff once).mp hit).1 with hit | hit
    · rw [(crossFault_eq_some_iff.mp ((bad e.1 e.2).mp hit).2.2).2]
      exact (by decide : FaultRanked 0x05)
    · exact ranked e hit

/-- The lanes that an atomic checks are those that do not cross. -/
theorem uncrossed_eq {m : LaneMask}
    (passes : ∀ l, l < 32 → (good.getLsbD l = true ↔ m.getLsbD l = true ∧ ¬ (n = 64 ∧ 4096 < (at_ l).toNat % 4096 + 64))) :
    (m &&& ~~~ maskOf fun l => ((lanesOf m).filterMap fun l => (crossFault n (at_ l)).map fun e => (l, e)).any fun b => b.1 == l) =
      good := by
  refine BitVec.eq_of_getLsbD_eq fun l hl => ?_
  rw [Bool.eq_iff_iff, passes l hl]
  have crossed : (∃ f, crossFault n (at_ l) = some f) ↔ n = 64 ∧ 4096 < (at_ l).toNat % 4096 + 64 := by
    simp [crossFault_eq_some_iff]
  have hit : (((lanesOf m).filterMap fun l => (crossFault n (at_ l)).map fun e => (l, e)).any fun b => b.1 == l) = true ↔
      m.getLsbD l = true ∧ ∃ f, crossFault n (at_ l) = some f := by
    simp only [List.any_eq_true, List.mem_filterMap, Option.map_eq_some_iff, mem_lanesOf, beq_iff_eq]
    constructor
    · rintro ⟨_, ⟨l', ⟨-, on⟩, f, hf, rfl⟩, rfl⟩
      exact ⟨on, f, hf⟩
    · rintro ⟨on, f, hf⟩
      exact ⟨(l, f), ⟨l, ⟨hl, on⟩, f, hf, rfl⟩, rfl⟩
  simp only [BitVec.getLsbD_and, BitVec.getLsbD_not, getLsbD_maskOf, hl, decide_true, Bool.true_and, Bool.and_eq_true,
    Bool.not_eq_true', ← Bool.not_eq_true, hit, crossed]
  tauto

theorem atomicBody_faults {req : PeerOp} {opnd : State → Crew → Nat → List Byte} {f : List Byte → List Byte → Option (List Byte)}
    {put : State → Issue → Crew → Nat → List Byte → State} {d regs : Nat} (here : addr s g r = at_) (code : faults = crossFault n)
    (passes : ∀ l, l < 32 → (good.getLsbD l = true ↔ (m r).getLsbD l = true ∧ ¬ (n = 64 ∧ 4096 < (at_ l).toNat % 4096 + 64)))
    (check : s.gatherLanes (viaOf r) (s.ctxOf r) r.priv (lanesAcc good at_ n align .atomic true true) = (fs, ps, t))
    (reports : Claims.Reports (m r) (fun l f => ((n = 64 ∧ 4096 < (at_ l).toNat % 4096 + 64) ∧
      f = { code := 0x05, level := 0, addr := at_ l, detail := 0 }) ∨ (l, f) ∈ fs) w) :
    atomicBody n align m addr faults req opnd f put d regs s g r = Res.lanes t w := by
  subst here code
  obtain ⟨lanes, ranked⟩ := s.gatherLanes_faults (viaOf r) (s.ctxOf r) r.priv (lanesAcc good (addr s g r) n align .atomic true true)
  rw [check] at lanes ranked
  have lanes : (fs.map Prod.fst).Sublist (lanesOf good) := by simpa [lanesAcc, Function.comp_def] using lanes
  simp only [atomicBody, uncrossed_eq passes, check, worstOf_crossing passes lanes ranked reports]

end

/-- What fails of an atomic's page fails as Permission at the leaf's level (07 R187; 12 R327). -/
theorem State.leafFault_atomic (s : State) (ctx : Nat) (priv : Bool) (l : Leaf)
    (barred : l.pte.getLsbD 2 = false ∨ l.tag.attr = 2 ∨ l.tag.attr = 4 ∨ l.tag.attr = 5) :
    s.leafFault ctx priv .atomic l = some (xPermission l.level) := by
  unfold State.leafFault
  extract_lets t here rg up
  split
  · rfl
  split
  · rfl
  next writable =>
    have attr : attrOk t.attr .atomic rg = false := by
      have attr : l.tag.attr = 2 ∨ l.tag.attr = 4 ∨ l.tag.attr = 5 := barred.resolve_left fun closed =>
        writable (by rw [closed]; rfl)
      rcases attr with attr | attr | attr <;> simp [attrOk, t, attr]
    simp [attr]

theorem State.xlate_of_leafFault {s t : State} {via : Option Nat} {ctx : Nat} {priv : Bool} {kind : AccKind} {va : DWord} {l : Leaf}
    {f : XFault} (canon : canonical va = true) (found : s.findLeaf via ctx (va.setWidth 57).toNat kind = (.ok l, t))
    (fault : t.leafFault ctx priv kind l = some f) : (s.xlate via ctx priv kind va).1 = .error f := by
  simp only [State.xlate, canon, found, fault, Bool.not_true, Bool.false_eq_true, if_false]

theorem claims_atomicFaults : Claims.AtomicFaults := by
  constructor
  · intro s t g r i x good fs ps w atomic runs crosses passes check reports
    unfold Spec.atomics at atomic
    dsimp only at atomic
    split at atomic <;> cases atomic
    · exact runs.issues.faults rfl runs.own
        (atomicBody_faults (formOf_eq s g r _ _ _) (none_eq_crossFault (by decide)) passes check reports)
    · exact runs.issues.faults rfl runs.own
        (atomicBody_faults (formOf_eq s g r _ _ _) (none_eq_crossFault (by decide)) passes check reports)
    · exact runs.issues.faults rfl runs.own
        (atomicBody_faults (formOf_eq s g r _ _ _) (none_eq_crossFault (by split <;> decide)) passes check reports)
    · exact runs.issues.faults rfl runs.own
        (atomicBody_faults (formOf_eq s g r _ _ _) (none_eq_crossFault (by split <;> decide)) passes check reports)
    all_goals exact runs.issues.faults rfl runs.own (atomicBody_faults (formOf_eq s g r _ _ _) accCross_eq passes check reports)
  · intro s t via ctx priv q l kind aligned canon found barred
    have low : (q.va.setWidth 57).toNat = q.va.toNat % 2 ^ 57 := BitVec.toNat_setWidth _ _
    rw [← low, ← kind] at found
    have fault : t.leafFault ctx priv q.kind l = some (xPermission l.level) := by rw [kind]; exact t.leafFault_atomic ctx priv l barred
    have denied := State.xlate_of_leafFault canon found fault
    unfold State.checkLane
    rw [if_neg (not_not_intro aligned)]
    generalize s.xlate via ctx priv q.kind q.va = y at denied
    obtain ⟨_, u⟩ := y
    obtain rfl := denied
    rfl

/-! ## The bank (01 R30; 07 R174, R181; 10 R259) -/

/-- When a first check and a second one, each with its own fault, report f. -/
theorem ite_ite_eq_some_iff {α : Type} {A B : Prop} [Decidable A] [Decidable B] {x y f : α} :
    (if A then some x else if B then some y else none) = some f ↔ (A ∧ f = x) ∨ (¬ A ∧ B ∧ f = y) := by
  by_cases first : A
  · simp [first, eq_comm]
  · by_cases second : B <;> simp [first, second, eq_comm]

/-- The faults of a lane's bank access (07 R174). -/
theorem State.bankFault_eq_some_iff (s : State) (r : Crew) (va : DWord) (n : Nat) (f : LaneFault) :
    s.bankFault r va n = some f ↔
      (va.toNat % n ≠ 0 ∧ f = { code := 0x05, level := 0, addr := va, detail := 0 }) ∨
      (va.toNat % n = 0 ∧ (2 ^ 25 ≤ va.toNat ∨ s.spreadOf r ≤ va.toNat / 2 ^ 22 % 8 ∨
        s.windowSize r (va.toNat / 2 ^ 22 % 8) < va.toNat % 2 ^ 22 + n) ∧ f = { code := 0x09, level := 0, addr := va, detail := 0 }) := by
  have part : (va.extractLsb' 22 3).toNat = va.toNat / 2 ^ 22 % 8 := by
    rw [BitVec.extractLsb'_toNat, Nat.shiftRight_eq_div_pow]
  have low : (va.extractLsb' 0 22).toNat = va.toNat % 2 ^ 22 := by rw [BitVec.extractLsb'_toNat, Nat.shiftRight_zero]
  simp only [State.bankFault, part, low]
  rw [ite_ite_eq_some_iff, not_not]

theorem State.worstOf_bankFaults {s : State} {r : Crew} {m : LaneMask} {addr : Nat → DWord} {n : Nat} {w : LaneTrap}
    (reports : Claims.Reports m (fun l f =>
      ((addr l).toNat % n ≠ 0 ∧ f = { code := 0x05, level := 0, addr := addr l, detail := 0 }) ∨
      ((addr l).toNat % n = 0 ∧ (2 ^ 25 ≤ (addr l).toNat ∨ s.spreadOf r ≤ (addr l).toNat / 2 ^ 22 % 8 ∨
        s.windowSize r ((addr l).toNat / 2 ^ 22 % 8) < (addr l).toNat % 2 ^ 22 + n) ∧
        f = { code := 0x09, level := 0, addr := addr l, detail := 0 })) w) :
    worstOf (s.bankFaults r m addr n) = some w := by
  simp only [← State.bankFault_eq_some_iff] at reports
  refine worstOf_lanes reports fun l f fault => ?_
  rcases (s.bankFault_eq_some_iff r _ n f).mp fault with ⟨-, rfl⟩ | ⟨-, -, rfl⟩
  · exact (by decide : FaultRanked 0x05)
  · exact (by decide : FaultRanked 0x09)

/-- A tile that cannot be read: above the part's count, EMPTY or without a size (07 R181; 08 R207). -/
theorem State.ldtBad_iff (s : State) (r : Crew) (t : TReg) : s.ldtBad r t = true ↔
    s.tileCount r ≤ t.toNat ∨ (s.tile r t.toNat).state = .empty ∨ (s.tile r t.toNat).size = 0 := by
  simp [State.ldtBad, or_assoc]

/-- The faults of a lane's offset in a tile (07 R181). -/
theorem ldtFault_eq_some_iff (e : TileEntry) (o : DWord) (n : Nat) (f : LaneFault) : ldtFault e o n = some f ↔
    (o.toNat % n ≠ 0 ∧ f = { code := 0x05, level := 0, addr := o, detail := 0 }) ∨
    (o.toNat % n = 0 ∧ (o.toInt < 0 ∨ 128 * e.size.toNat < o.toNat + n) ∧ f = { code := 0x09, level := 0, addr := o, detail := 0 }) := by
  have negative : o.slt 0 = true ↔ o.toInt < 0 := by simp [BitVec.slt]
  simp only [ldtFault, negative, TileEntry.bytes]
  rw [ite_ite_eq_some_iff, not_not]

theorem worstOf_ldtFaults {m : LaneMask} {off : Nat → DWord} {e : TileEntry} {n : Nat} {w : LaneTrap}
    (reports : Claims.Reports m (fun l f =>
      ((off l).toNat % n ≠ 0 ∧ f = { code := 0x05, level := 0, addr := off l, detail := 0 }) ∨
      ((off l).toNat % n = 0 ∧ ((off l).toInt < 0 ∨ 128 * e.size.toNat < (off l).toNat + n) ∧
        f = { code := 0x09, level := 0, addr := off l, detail := 0 })) w) :
    worstOf ((lanesOf m).filterMap fun l => (ldtFault e (off l) n).map fun f => (l, f)) = some w := by
  simp only [← ldtFault_eq_some_iff] at reports
  refine worstOf_lanes reports fun l f fault => ?_
  rcases (ldtFault_eq_some_iff e _ n f).mp fault with ⟨-, rfl⟩ | ⟨-, -, rfl⟩
  · exact (by decide : FaultRanked 0x05)
  · exact (by decide : FaultRanked 0x09)

theorem claims_bankFaults : Claims.BankFaults := by
  intro s g r w k m fails fault bank
  have worst {a : VReg} {b : SReg} {n : Nat} (reports : bank (Spec.addrSA s r g.hints a b) n) :
      worstOf (s.bankFaults r (r.active k) (fun l => s.addrSA r g.hints a b l) n) = some w := by
    simp only [State.addrSA_eq]
    exact State.worstOf_bankFaults reports
  refine ⟨fun d a b x => ⟨fun runs reports => ?_, fun runs reports => ?_⟩, fun c p a b runs reports => ?_, fun d a t x runs => ?_⟩
  · change execLds d a b x k s = _
    exact runs.issues.faults rfl runs.own (by simp only [worst reports])
  · change execSts d a b x k s = _
    exact runs.issues.faults rfl runs.own (by simp only [worst reports])
  · change execZtest c p a b k s = _
    have tested : worstOf (s.bankFaults r (r.active k) (fun l => (s.getV r a.toNat l).setWidth 64) 4) = some w :=
      State.worstOf_bankFaults reports
    exact runs.issues.faults rfl runs.own (by simp only [tested])
  · intro e off unusable
    have bad : s.ldtBad r t = true ↔ unusable := s.ldtBad_iff r t
    change (unusable → _ → execLdt d a t x k s = _) ∧ (_ → _ → execLdt d a t x k s = _)
    refine ⟨fun unusable eq => ?_, fun usable reports => ?_⟩
    · subst eq
      exact runs.issues.faults rfl runs.own (if_pos (bad.mpr unusable))
    · have found : worstOf ((lanesOf (r.active k)).filterMap fun l =>
          (ldtFault (s.tile r t.toNat) ((s.getV r a.toNat l).setWidth 64 + offOf g.hints) x.bytes).map fun f => (l, f)) = some w :=
        worstOf_ldtFaults reports
      exact runs.issues.faults rfl runs.own ((if_neg (mt bad.mp usable)).trans (by simp only [found]))

/-! ## Tiles as operands (08 R205, R207, R212) -/

/-- The fault of a read of n bytes of a tile (08 R207). -/
theorem State.tileReadFault_eq_some_iff (s : State) (r : Crew) (t : TReg) (n : Nat) (code : BitVec 8) :
    s.tileReadFault r t n = some code ↔
      ((s.tileCount r ≤ t.toNat ∨ (s.tile r t.toNat).state = .empty ∨ (s.tile r t.toNat).size = 0) ∧ code = 0x0A) ∨
      (¬ (s.tileCount r ≤ t.toNat ∨ (s.tile r t.toNat).state = .empty ∨ (s.tile r t.toNat).size = 0) ∧
        128 * (s.tile r t.toNat).size.toNat < n ∧ code = 0x09) := by
  simp only [State.tileReadFault, State.ldtBad_iff, TileEntry.bytes]
  exact ite_ite_eq_some_iff

/-- The fault of ACCST's write of its tile (08 R207). -/
theorem State.accstFault_eq_some_iff (s : State) (r : Crew) (t : TReg) (c : AccConv) (code : BitVec 8) :
    s.accstFault r t c = some code ↔
      ((s.tileCount r ≤ t.toNat ∨ (s.tile r t.toNat).state = .filling ∨ (s.tile r t.toNat).size = 0) ∧ code = 0x0A) ∨
      (¬ (s.tileCount r ≤ t.toNat ∨ (s.tile r t.toNat).state = .filling ∨ (s.tile r t.toNat).size = 0) ∧
        128 * (s.tile r t.toNat).size.toNat < 1024 * convBytes c ∧ code = 0x09) := by
  simp only [State.accstFault, TileEntry.bytes, or_comm (a := (s.tile r t.toNat).size = 0)]
  exact ite_ite_eq_some_iff

/-- An MMA that reads its own tile stands at that tile's fault. -/
theorem mmaStand_of_fault {s : State} {g : Issue} {r : Crew} {n tr z gang : Bool} {sb : BitVec 2} {t : TReg} {f : MFmt} {code : BitVec 8}
    (reads : gang = false ∨ (g.crew = leaderOf r ∧ s.arrivedIn g.crew r = false))
    (fault : s.tileReadFault r t (1024 * (sb.toNat + 1)) = some code) : mmaStand n tr z gang sb t f s g r = .faults := by
  have own : (readsTile gang g.crew r && !(gang && s.arrivedIn g.crew r)) = true := by
    rcases reads with rfl | ⟨leads, alone⟩
    · rfl
    · rw [alone, Bool.and_false, Bool.not_false, Bool.and_true, readsTile, leads, beq_self_eq_true, Bool.or_true]
  simp only [mmaStand, own, fault, Option.isSome_some, Bool.and_self, if_true]

theorem claims_tileFaults : Claims.TileFaults := by
  intro s g r t code e bad fails
  have read {n : Nat} (h : bad .empty n) : s.tileReadFault r t n = some code := (s.tileReadFault_eq_some_iff r t n code).mpr h
  refine ⟨fun sb f runs isBad => ?_, fun n tr z gang sb f runs reads isBad => ?_, fun n c runs isBad => ?_,
    fun n c runs isBad => ?_⟩
  · have goes : wldWait sb t s g r = none := runs.own
    intro u
    change (_ → execWld sb t f s = _) ∧ (_ → execWld sb t f s = _)
    refine ⟨fun kept => ?_, fun took => ?_⟩
    · exact runs.issues.faults rfl rfl (by simp only [goes, read isBad, kept]; rfl)
    · exact runs.issues.faults rfl rfl (by simp only [goes, read isBad, took]; rfl)
  · have goes : mmaWait n tr z gang sb t f s g r = none := runs.own
    change execMma n tr z gang sb t f s = _
    exact runs.issues.faults rfl rfl (by simp only [goes, mmaStand_of_fault reads (read isBad), read isBad]; rfl)
  · change execAccld n t c s = _
    exact runs.issues.faults rfl runs.own (by simp only [read isBad]; rfl)
  · change execAccst n t c s = _
    exact runs.issues.faults rfl runs.own (by simp only [(s.accstFault_eq_some_iff r t c code).mpr isBad]; rfl)

/-! ## GANG (08 R220) -/

theorem matrix_modeWord (m : Bool) (pair : BitVec 3) (priv : Bool) (gang : BitVec 48) :
    (modeWord m pair priv gang).getLsbD 0 = m := by
  cases m <;> cases priv <;> simp [modeWord]

theorem pair_modeWord (m : Bool) (pair : BitVec 3) (priv : Bool) (gang : BitVec 48) :
    (modeWord m pair priv gang).extractLsb' 1 3 = pair := by
  refine BitVec.eq_of_getLsbD_eq fun i hi => ?_
  cases m <;> cases priv <;> interval_cases i <;> simp [modeWord]

theorem gang_modeWord (m : Bool) (pair : BitVec 3) (priv : Bool) (gang : BitVec 48) :
    (modeWord m pair priv gang).extractLsb' 8 48 = gang := by
  refine BitVec.eq_of_getLsbD_eq fun i hi => ?_
  have above : pair.getLsbD (7 + i) = false ∧ (BitVec.ofBool priv).getLsbD (4 + i) = false ∧ (BitVec.ofBool m).getLsbD (8 + i) = false :=
    ⟨BitVec.getLsbD_of_ge _ _ (by omega), BitVec.getLsbD_of_ge _ _ (by omega), BitVec.getLsbD_of_ge _ _ (by omega)⟩
  obtain ⟨pairAbove, privAbove, modeAbove⟩ := above
  have fourth : 8 + i - 4 = 4 + i := by omega
  have inside : 8 + i < 64 ∧ i < 64 := by omega
  simp [modeWord, hi, pairAbove, privAbove, modeAbove, inside, fourth]

/-- Crew values that name k members of a gang, and no other: R220's form of GANG's operand. -/
def GangFits (crews q index : Nat) (G : Nat → Nat) (k : Nat) : Prop :=
  2 ≤ k ∧ k ≤ 6 ∧ (∀ i, i < 6 → (G i = 0xFF ↔ k ≤ i)) ∧
    (∀ i, i < k → G i < crews ∧ G i / q = index / q) ∧ (∃ i, i < k ∧ G i = index) ∧
    ∀ i j, i < j → j < k → G i ≠ G j ∧ G i % q % 32 ≠ G j % q % 32

/-- Byte i of a register, as GANG reads its members. -/
def gangByte (v : DWord) (i : Nat) : Nat := v.toNat / 256 ^ i % 256

/-- The bytes of the register that GANG reads are its six members. -/
theorem gangBytes_eq (v : DWord) :
    ((List.range 6).map fun i => ((v.extractLsb' 0 48).extractLsb' (8 * i) 8).toNat) = (List.range 6).map (gangByte v) := by
  refine List.map_congr_left fun i hi => ?_
  have hi : i < 6 := List.mem_range.mp hi
  simp only [gangByte, BitVec.extractLsb'_toNat, Nat.shiftRight_eq_div_pow, Nat.pow_zero, Nat.div_one]
  interval_cases i <;> omega

theorem gangMembers_eq (v : DWord) :
    gangMembers (v.extractLsb' 0 48) = ((List.range 6).map (gangByte v)).filter (· != 0xFF) := by
  rw [gangMembers, gangBytes_eq]

/-- The present members, where they stand below the absent ones. -/
theorem filter_present {G : Nat → Nat} {k : Nat} (le : k ≤ 6) (absent : ∀ i, i < 6 → (G i = 0xFF ↔ k ≤ i)) :
    ((List.range 6).map G).filter (· != 0xFF) = (List.range k).map G ∧
      (List.range 6).map G = (List.range k).map G ++ List.replicate (6 - k) 0xFF := by
  have split : List.range 6 = List.range k ++ (List.range (6 - k)).map (k + ·) := by
    rw [← List.range_add, Nat.add_sub_cancel' le]
  have tail : ((List.range (6 - k)).map (k + ·)).map G = List.replicate (6 - k) 0xFF := by
    refine List.eq_replicate_iff.mpr ⟨by simp, fun x hx => ?_⟩
    obtain ⟨j, hj, rfl⟩ : ∃ j < 6 - k, G (k + j) = x := by simpa using hx
    exact (absent _ (by omega)).mpr (by omega)
  have kept : ((List.range k).map G).filter (· != 0xFF) = (List.range k).map G := by
    refine List.filter_eq_self.mpr fun x hx => ?_
    obtain ⟨j, hj, rfl⟩ : ∃ j < k, G j = x := by simpa using hx
    exact bne_iff_ne.mpr fun eq => absurd ((absent j (by omega)).mp eq) (by omega)
  rw [split, List.map_append, tail, List.filter_append, kept]
  simp

/-- Members that stand below 0xFF bytes that fill the list up are absent from their number on. -/
theorem absent_of_padded {G : Nat → Nat} {k : List Nat} (present : ∀ x ∈ k, x ≠ 0xFF)
    (padded : (List.range 6).map G = k ++ List.replicate (6 - k.length) 0xFF) (i : Nat) (hi : i < 6) :
    G i = 0xFF ↔ k.length ≤ i := by
  have at_ : (k ++ List.replicate (6 - k.length) 0xFF)[i]? = some (G i) := by rw [← padded]; simp [hi]
  by_cases low : i < k.length
  · rw [List.getElem?_append_left low, List.getElem?_eq_getElem low, Option.some_inj] at at_
    have here := present _ (List.getElem_mem low)
    rw [at_] at here
    exact ⟨fun eq => absurd eq here, fun le => absurd low (by omega)⟩
  · rw [List.getElem?_append_right (by omega), List.getElem?_replicate_of_lt (by omega), Option.some_inj] at at_
    exact ⟨fun _ => by omega, fun _ => at_.symm⟩

theorem nodup_map_range {F : Nat → Nat} {k : Nat} :
    ((List.range k).map F).Nodup ↔ ∀ i j, i < j → j < k → F i ≠ F j := by
  simp only [List.Nodup, List.pairwise_iff_getElem, List.length_map, List.length_range, List.getElem_map, List.getElem_range]
  exact ⟨fun h i j lt hj => h i j (by omega) hj lt, fun h i j _ hj lt => h i j lt hj⟩

/-- GANG's test of its present members and R220's form are one. -/
theorem gangFits_iff {crews q index : Nat} {G : Nat → Nat} (k : List Nat) (members : k = ((List.range 6).map G).filter (· != 0xFF)) :
    ((List.range 6).map G = k ++ List.replicate (6 - k.length) 0xFF ∧ 2 ≤ k.length ∧ k.all (fun i => decide (i < crews)) ∧ k.Nodup ∧
      k.all (fun i => i / q == index / q) ∧ (k.map fun i => i % q % 32).Nodup ∧ index ∈ k) ↔ ∃ n, GangFits crews q index G n := by
  have shape {n : Nat} (eq : k = (List.range n).map G) : (2 ≤ k.length ∧ k.all (fun i => decide (i < crews)) ∧ k.Nodup ∧
      k.all (fun i => i / q == index / q) ∧ (k.map fun i => i % q % 32).Nodup ∧ index ∈ k) ↔
      2 ≤ n ∧ (∀ i, i < n → G i < crews ∧ G i / q = index / q) ∧ (∃ i, i < n ∧ G i = index) ∧
        ∀ i j, i < j → j < n → G i ≠ G j ∧ G i % q % 32 ≠ G j % q % 32 := by
    rw [eq, List.map_map, nodup_map_range, nodup_map_range]
    simp only [List.length_map, List.length_range, List.all_map, List.all_eq_true, List.mem_range, Function.comp_apply,
      decide_eq_true_eq, beq_iff_eq, List.mem_map]
    grind
  constructor
  · rintro ⟨padded, rest⟩
    have le : k.length ≤ 6 := by
      rw [members]; exact (List.length_filter_le _ _).trans (by simp)
    have present : ∀ x ∈ k, x ≠ 0xFF := fun x hx => by
      rw [members] at hx; exact bne_iff_ne.mp (List.mem_filter.mp hx).2
    have absent := absent_of_padded present padded
    obtain ⟨two, same, own, apart⟩ := (shape (members.trans (filter_present le absent).1)).mp rest
    exact ⟨k.length, two, le, absent, same, own, apart⟩
  · rintro ⟨n, two, le, absent, same, own, apart⟩
    have eq := members.trans (filter_present le absent).1
    refine ⟨?_, (shape eq).mpr ⟨two, same, own, apart⟩⟩
    rw [eq, List.length_map, List.length_range]
    exact (filter_present le absent).2

/-- GANG's fault, or none (08 R220). -/
theorem State.gangFaultOf_eq (s : State) (r : Crew) (v : DWord) :
    (2 ^ 48 ≤ v.toNat → s.gangFaultOf r v = some 0x08) ∧
    (v.toNat < 2 ^ 48 → (∀ i, i < 6 → gangByte v i = 0xFF) → s.gangFaultOf r v = none) ∧
    (v.toNat < 2 ^ 48 → ¬ (∀ i, i < 6 → gangByte v i = 0xFF) →
      let fits := ∃ k, GangFits (s.packetOf r).crews.toNat (perPart (s.packetOf r).crews.toNat (s.spreadOf r)) r.index (gangByte v) k
      (fits → s.gangFaultOf r v = none) ∧ (¬ fits → s.gangFaultOf r v = some 0x0D)) := by
  have above : v.extractLsb' 48 16 ≠ 0 ↔ 2 ^ 48 ≤ v.toNat := by
    rw [Ne, ← BitVec.toNat_inj, BitVec.extractLsb'_toNat, Nat.shiftRight_eq_div_pow]
    have := v.isLt
    simp only [BitVec.ofNat_eq_ofNat, BitVec.toNat_ofNat, Nat.zero_mod]
    omega
  have empty : (gangMembers (v.extractLsb' 0 48)).isEmpty = true ↔ ∀ i, i < 6 → gangByte v i = 0xFF := by
    simp [gangMembers_eq, List.filter_eq_nil_iff]
  have fit := gangFits_iff (crews := (s.packetOf r).crews.toNat) (q := perPart (s.packetOf r).crews.toNat (s.spreadOf r))
    (index := r.index) _ (gangMembers_eq v)
  rw [← gangBytes_eq] at fit
  simp only [State.gangFaultOf, above, empty]
  refine ⟨fun high => if_pos high, fun low absent => ?_, fun low some_ => ⟨fun fits => ?_, fun unfit => ?_⟩⟩
  · rw [if_neg (by omega), if_pos absent]
  · rw [if_neg (by omega), if_neg some_]; exact if_pos (fit.mpr fits)
  · rw [if_neg (by omega), if_neg some_]; exact if_neg (mt fit.mp unfit)

theorem claims_gangFaults : Claims.GangFaults := by
  intro s g r a runs v crews q G good none_
  obtain ⟨high, cleared, named⟩ := s.gangFaultOf_eq r (r.sreg a)
  have raises {code : BitVec 8} (fault : s.gangFaultOf r (r.sreg a) = some code) :
      execGang a s = .next (s.finishFault s g r (raised r code)) :=
    runs.issues.faults rfl runs.own (by simp only [fault]; rfl)
  have sets (passes : s.gangFaultOf r (r.sreg a) = none) : ∃ x : Crew, x.gang = BitVec.ofNat 48 v ∧ { x with mode := r.mode } = r ∧
      x.matrix = r.matrix ∧ x.pair = r.pair ∧ x.priv = r.priv ∧ execGang a s = .next (s.finish (s.putCrew g.crew x) g r) := by
    refine ⟨{ r with mode := modeWord r.matrix (r.mode.extractLsb' 1 3) r.priv ((r.sreg a).extractLsb' 0 48) }, ?_, rfl,
      matrix_modeWord _ _ _ _, congrArg BitVec.toNat (pair_modeWord _ _ _ _), priv_modeWord _ _ _ _,
      runs.issues.finish rfl runs.own (by simp only [passes])⟩
    refine (gang_modeWord _ _ _ _).trans (BitVec.eq_of_toNat_eq ?_)
    rw [BitVec.extractLsb'_toNat, Nat.shiftRight_zero, BitVec.toNat_ofNat]
  refine ⟨fun reserved => raises (high reserved), fun low some_ unfit => raises ((named low some_).2 fun ⟨k, fits⟩ => unfit k fits),
    fun low fits => sets ?_⟩
  by_cases absent : none_
  · exact cleared low absent
  · exact (named low absent).1 (fits.resolve_left absent)

/-! ## SPAWN and TAKE (09 R234, R236) -/

theorem extract_ne_zero_iff {w : Nat} (v : BitVec w) (lo n : Nat) : v.extractLsb' lo n ≠ 0 ↔ v.toNat / 2 ^ lo % 2 ^ n ≠ 0 := by
  rw [Ne, ← BitVec.toNat_inj, BitVec.extractLsb'_toNat, Nat.shiftRight_eq_div_pow, BitVec.ofNat_eq_ofNat, BitVec.toNat_ofNat,
    Nat.zero_mod]

theorem extract_toNat {w : Nat} (v : BitVec w) (lo n : Nat) : (v.extractLsb' lo n).toNat = v.toNat / 2 ^ lo % 2 ^ n := by
  rw [BitVec.extractLsb'_toNat, Nat.shiftRight_eq_div_pow]

/-- The checks of a frame's own bits (09 R234). -/
theorem frameFault_eq (f : Frame) : frameFault f =
    if f.toNat / 2 ^ 60 % 2 ^ 4 ≠ 0 ∨ f.toNat / 2 ^ 188 % 2 ^ 4 ≠ 0 ∨ f.toNat / 2 ^ 254 % 2 ^ 2 ≠ 0 ∨ 5 ≤ f.toNat / 2 ^ 185 % 2 ^ 3 ∨
        255 < f.toNat / 2 ^ 224 % 2 ^ 16 then some 0x08
    else if f.toNat / 2 ^ 0 % 2 ^ 2 ≠ 0 ∨ f.toNat / 2 ^ 128 % 2 ^ 2 ≠ 0 then some 0x05 else none := by
  simp only [frameFault, extract_ne_zero_iff, frameJscope, frameCtr, extract_toNat]

/-- The checks of a frame against what its core holds (09 R234). -/
theorem State.spawnFault_of_refused {s : State} {r : Crew} {f : Frame} (bits : frameFault f = none)
    (refused : s.region (s.ctxOf r) (frameRslot f) = none ∨ frameClass f < s.classOf (s.ctxOf r) (frameRslot f) ∨
      (frameCtr f ≠ 0 ∧ s.heldCtr r.core (s.ctxOf r) (frameCtr f) = true)) : s.spawnFault r f = some 0x07 := by
  simp only [State.spawnFault, bits, Option.isNone_iff_eq_none]
  split
  next => rfl
  next mapped =>
    split
    next => rfl
    next admitted => exact if_pos ((refused.resolve_left mapped).resolve_left admitted)

theorem claims_spawnFaults : Claims.SpawnFaults := by
  intro s g r a f ctx bits reserved unaligned refused
  refine ⟨fun runs code fault => ?_, fun runs full => ?_⟩
  · have checked : s.spawnFault r (s.frameIn r a) = some code := by
      rcases fault with ⟨bad, rfl⟩ | ⟨good, bad, rfl⟩ | ⟨good, even, bad, rfl⟩
      · have found := (frameFault_eq (s.frameIn r a)).trans (if_pos bad)
        simp only [State.spawnFault, found]
      · have found := (frameFault_eq (s.frameIn r a)).trans ((if_neg good).trans (if_pos bad))
        simp only [State.spawnFault, found]
      · refine State.spawnFault_of_refused ((frameFault_eq (s.frameIn r a)).trans ((if_neg good).trans (if_neg even))) ?_
        simpa only [frameRslot, frameClass, frameCtr, extract_toNat] using bad
    change execSpawn a s = _
    exact runs.issues.faults rfl runs.own (by simp only [checked]; rfl)
  · change execTake a s = _
    exact runs.issues.faults rfl runs.own (if_pos full)

/-! ## COPY, COPYCB and CBSET (09 R244, R246, R252, R253) -/

/-- A completion word that R244's table does not allow. -/
theorem wordBad_iff (codebook : Bool) (v : DWord) : wordBad codebook v = true ↔
    v.toNat / 128 % 2 ≠ 0 ∨ v.toNat / 2 ^ 23 ≠ 0 ∨ v.toNat % 4 = 3 ∨ (codebook = true ∧ v.toNat % 4 = 2) ∨
      (v.toNat % 4 = 0 ∧ (v.toNat / 4 % 32 ≠ 0 ∨ v.toNat / 2 ^ 16 % 16 ≠ 0)) := by
  have seventh : v.getLsbD 7 = true ↔ v.toNat / 128 % 2 ≠ 0 := by
    rw [BitVec.getLsbD, Nat.testBit_eq_decide_div_mod_eq, decide_eq_true_eq]; omega
  have high : v.extractLsb' 23 41 ≠ 0 ↔ v.toNat / 2 ^ 23 ≠ 0 := by
    rw [extract_ne_zero_iff, Nat.mod_eq_of_lt (by have := v.isLt; omega)]
  have kind : wordKind v = v.toNat % 4 := (extract_toNat v 0 2).trans (congrArg (· % 4) (Nat.div_one _))
  have tile : wordTile v = v.toNat / 4 % 32 := extract_toNat v 2 5
  have swizzle : wordSwz v ≠ 0 ↔ v.toNat / 2 ^ 16 % 16 ≠ 0 := extract_ne_zero_iff v 16 4
  simp only [wordBad, Bool.or_eq_true, Bool.and_eq_true, beq_iff_eq, bne_iff_ne, seventh, high, kind, tile, swizzle, or_assoc]

/-- R246's checks of the tile of a fill or a drain. -/
theorem State.copyTileFault_eq (s : State) (r : Crew) (v : DWord) :
    let e := s.tile r (wordTile v)
    let unusable := wordKind v ≠ 0 ∧ (s.tileCount r ≤ wordTile v ∨ e.size = 0 ∨
      (wordKind v = 1 ∧ (e.state = .ready ∨ e.state = .draining)) ∨ (wordKind v = 2 ∧ (e.state = .empty ∨ e.state = .filling)))
    s.copyTileFault r v = if unusable then some 0x0A else if wordKind v ≠ 0 ∧ wordSwz v ≠ e.swz then some 0x0B else none := by
  intro e unusable
  by_cases idle : wordKind v = 0
  · simp [State.copyTileFault, unusable, idle]
  · simp only [State.copyTileFault, ← ite_or, or_assoc, unusable, e, ne_eq, idle, not_false_eq_true, true_and, if_false]

/-- The lanes that a copy issues for: those live that its mask names. -/
theorem copyMask_lanes (live k : LaneMask) :
    ((List.range 32).filter fun l => live.getLsbD l && k.getLsbD l) = lanesOf (live &&& k) := by
  simp only [lanesOf, allLanes, BitVec.getLsbD_and]

/-- A copy with a bad completion word. -/
theorem copyBody_of_wordBad {q : BitVec 2} {c : SReg} {a b : VReg} {codebook : Bool} {size : Nat} {s : State} {g : Issue} {r : Crew}
    (bad : wordBad codebook (r.sreg c) = true) : copyBody q c a b codebook size s g r = Res.raise r s 0x08 := if_pos bad

/-- A copy whose word passes and whose tile does not. -/
theorem copyBody_of_tileFault {q : BitVec 2} {c : SReg} {a b : VReg} {codebook : Bool} {size : Nat} {s : State} {g : Issue} {r : Crew}
    {code : BitVec 8} (word : ¬ wordBad codebook (r.sreg c) = true) (tile : s.copyTileFault r (r.sreg c) = some code) :
    copyBody q c a b codebook size s g r = Res.raise r s code := by
  simp only [copyBody, if_neg word, tile]

/-- A copy whose counter another context holds. -/
theorem copyBody_of_held {q : BitVec 2} {c : SReg} {a b : VReg} {codebook : Bool} {size : Nat} {s : State} {g : Issue} {r : Crew}
    (word : ¬ wordBad codebook (r.sreg c) = true) (tile : s.copyTileFault r (r.sreg c) = none)
    (held : wordCtr (r.sreg c) ≠ 0 ∧ s.heldCtr r.core (s.ctxOf r) (wordCtr (r.sreg c)) = true) :
    copyBody q c a b codebook size s g r = Res.raise r s 0x07 := by
  simp only [copyBody, if_neg word, tile, if_pos held]

/-- A copy that reaches its lanes, one of which fails. -/
theorem copyBody_of_lanes {q : BitVec 2} {c : SReg} {a b : VReg} {codebook : Bool} {size : Nat} {s t : State} {g : Issue} {r : Crew}
    {w : LaneTrap} (word : ¬ wordBad codebook (r.sreg c) = true) (tile : s.copyTileFault r (r.sreg c) = none)
    (free : ¬ (wordCtr (r.sreg c) ≠ 0 ∧ s.heldCtr r.core (s.ctxOf r) (wordCtr (r.sreg c)) = true))
    (lanes : s.copyLanes r
      { crew := g.crew, queue := q.toNat, codebook := codebook, size := size, word := r.sreg c, cache := cacheOf g.hints
        lanes := (lanesOf (r.live &&& r.kreg (wordMask (r.sreg c)))).map fun l => (l, s.getV2 r a.toNat l, s.getV2 r b.toNat l)
        units := [], seq := s.nextId, origin := s.nextId, moved := false } = (.error w, t)) :
    copyBody q c a b codebook size s g r = Res.lanes t w := by
  simp only [copyBody, if_neg word, tile, if_neg free, lanes]

/-- COPY and COPYCB trap with what their body answers, where COPYCB's block has a codebook. -/
theorem copy_faults {s : State} {g : Issue} {r : Crew} {i : Instr} {q : BitVec 2} {c : SReg} {a b : VReg} {codebook : Bool} {size : Nat}
    (form : (∃ z, i = .copy q c a b z ∧ codebook = false ∧ size = copyBytes z) ∨ (i = .copycb q c a b ∧ codebook = true ∧ size = 4))
    (runs : Runs s g r i) (present : ¬ (codebook = true ∧ s.bookOf r.core r.block = none)) {u : State} {w : LaneTrap}
    (traps : copyBody q c a b codebook size s g r = Res.lanes u w) : exec i s = .next (s.finishFault u g r w) := by
  rcases form with ⟨z, rfl, rfl, rfl⟩ | ⟨rfl, rfl, rfl⟩
  · change execCopy q c a b z s = _
    exact runs.issues.faults rfl runs.own traps
  · change execCopycb q c a b s = _
    refine runs.issues.faults rfl runs.own ((if_neg fun gone => present ⟨rfl, ?_⟩).trans traps)
    exact Option.isNone_iff_eq_none.mp gone

theorem claims_copyFaults : Claims.CopyFaults := by
  refine ⟨fun s g r i q c a b codebook size form runs => ?_, fun s r e va n kind => ?_, fun s t g r a e runs check => ?_⟩
  · intro v kind tile ctr e fails reserved unusable swizzle held absent
    have word : wordBad codebook (r.sreg c) = true ↔ reserved := wordBad_iff codebook (r.sreg c)
    have kindEq : wordKind (r.sreg c) = kind := (extract_toNat _ 0 2).trans (congrArg (· % 4) (Nat.div_one _))
    have tileEq : wordTile (r.sreg c) = tile := extract_toNat _ 2 5
    have ctrEq : wordCtr (r.sreg c) = ctr := extract_toNat _ 8 8
    have swzEq : wordSwz (r.sreg c) ≠ e.swz ↔ v / 2 ^ 16 % 16 ≠ e.swz.toNat := by
      rw [Ne, ← BitVec.toNat_inj, wordSwz, extract_toNat]
      exact Iff.rfl
    have ofTile := s.copyTileFault_eq r (r.sreg c)
    simp only [kindEq, tileEq] at ofTile
    have tilePasses (usable : ¬ unusable) (laid : ¬ swizzle) : s.copyTileFault r (r.sreg c) = none :=
      ofTile.trans ((if_neg usable).trans (if_neg fun ⟨moves, other⟩ => laid ⟨moves, swzEq.mp other⟩))
    have traps (here : ¬ absent) (u : State) (w : LaneTrap) (body : copyBody q c a b codebook size s g r = Res.lanes u w) : fails u w :=
      copy_faults form runs here body
    refine ⟨?_, ?_, ?_, ?_, ?_, ?_⟩
    · rintro ⟨rfl, gone⟩
      obtain ⟨z, -, isCopy, -⟩ | ⟨rfl, -, -⟩ := form
      · cases isCopy
      · change execCopycb q c a b s = _
        exact runs.issues.faults rfl runs.own (if_pos (Option.isNone_iff_eq_none.mpr gone))
    · exact fun here bad => traps here _ _ (copyBody_of_wordBad (word.mpr bad))
    · exact fun here good bad => traps here _ _ (copyBody_of_tileFault (mt word.mp good) (ofTile.trans (if_pos bad)))
    · exact fun here good usable bad => traps here _ _ (copyBody_of_tileFault (mt word.mp good)
        (ofTile.trans ((if_neg usable).trans (if_pos ⟨bad.1, swzEq.mpr bad.2⟩))))
    · refine fun here good usable laid taken => traps here _ _ (copyBody_of_held (mt word.mp good) (tilePasses usable laid) ?_)
      rwa [ctrEq]
    · intro here good usable laid free j w t lanes
      refine traps here t w (copyBody_of_lanes (mt word.mp good) (tilePasses usable laid) ?_ ?_)
      · rwa [ctrEq]
      · rw [← copyMask_lanes]; exact lanes
  · intro code
    by_cases odd : va.toNat % n ≠ 0
    · exact (if_pos odd).trans (by rw [if_pos odd])
    · refine (if_neg odd).trans ?_
      by_cases out : 128 * e.size.toNat < va.toNat + n
      · exact (if_pos out).trans (by rw [if_neg odd, if_pos out])
      · exact (if_neg out).trans (by rw [if_neg odd, if_neg out])
  · change execCbset a s = _
    exact runs.issues.faults rfl runs.own (by simp only [cbsetAcc, check]; rfl)

/-- Settles O28, each part by the body's first check that fails: the lanes' faults are ranked, so that the worst of them is the one
that the statement describes. -/
theorem accessFaults : Obligations.AccessFaults :=
  ⟨claims_accessFaults, claims_atomicFaults, claims_bankFaults, claims_tileFaults, claims_gangFaults, claims_spawnFaults,
    claims_copyFaults⟩

end Sys2Proof.Machine

/-!
Fields and codes of a word, and what they are worth read back (02 R44-R49).
-/

namespace Sys2Proof

/-! ## Field codes (02 Tables 2.2, 2.4-2.6, 2.10) -/

theorem IntCond.ofBits_eq_some {x : BitVec 4} {c : IntCond} : IntCond.ofBits x = some c ↔ c.toBits = x := by
  revert x; cases c <;> decide

theorem FpCond.ofBits_eq_some {x : BitVec 4} {c : FpCond} : FpCond.ofBits x = some c ↔ c.toBits = x := by
  revert x; cases c <;> decide

theorem DepthCond.ofBits_eq_some {x : BitVec 4} {c : DepthCond} : DepthCond.ofBits x = some c ↔ c.toBits = x := by
  revert x; cases c <;> decide

theorem VTest.ofBits_eq_some {x : BitVec 3} {c : VTest} : VTest.ofBits x = some c ↔ c.toBits = x := by
  revert x; cases c <;> decide

theorem Width.ofBits_eq_some {x : BitVec 2} {c : Width} : Width.ofBits x = some c ↔ c.toBits = x := by
  revert x; cases c <;> decide

theorem Pair2.ofBits_eq_some {x : BitVec 3} {c : Pair2} : Pair2.ofBits x = some c ↔ c.toBits = x := by
  revert x; cases c <;> decide

theorem Pair4.ofBits_eq_some {x : BitVec 3} {c : Pair4} : Pair4.ofBits x = some c ↔ c.toBits = x := by
  revert x; cases c <;> decide

theorem Pair8.ofBits_eq_some {x : BitVec 3} {c : Pair8} : Pair8.ofBits x = some c ↔ c.toBits = x := by
  revert x; cases c <;> decide

theorem FFmt.ofBits_eq_some {x : BitVec 3} {c : FFmt} : FFmt.ofBits x = some c ↔ c.toBits = x := by
  revert x; cases c <;> decide

theorem Rm.ofBits_eq_some {x : BitVec 3} {c : Rm} : Rm.ofBits x = some c ↔ c.toBits = x := by
  revert x; cases c <;> decide

theorem Scope.ofBits_eq_some {x : BitVec 3} {c : Scope} : Scope.ofBits x = some c ↔ c.toBits = x := by
  revert x; cases c <;> decide

theorem StripH.ofBits_eq_some {x : BitVec 2} {c : StripH} : StripH.ofBits x = some c ↔ c.toBits = x := by
  revert x; cases c <;> decide

theorem CopySize.ofBits_eq_some {x : BitVec 2} {c : CopySize} : CopySize.ofBits x = some c ↔ c.toBits = x := by
  revert x; cases c <;> decide

theorem CachePolicy.ofBits_eq_some {x : BitVec 3} {c : CachePolicy} : CachePolicy.ofBits x = some c ↔ c.toBits = x := by
  revert x; cases c <;> decide

@[simp] theorem IntCond.ofBits_toBits (c : IntCond) : IntCond.ofBits c.toBits = some c := IntCond.ofBits_eq_some.mpr rfl
@[simp] theorem FpCond.ofBits_toBits (c : FpCond) : FpCond.ofBits c.toBits = some c := FpCond.ofBits_eq_some.mpr rfl
@[simp] theorem DepthCond.ofBits_toBits (c : DepthCond) : DepthCond.ofBits c.toBits = some c := DepthCond.ofBits_eq_some.mpr rfl
@[simp] theorem VTest.ofBits_toBits (c : VTest) : VTest.ofBits c.toBits = some c := VTest.ofBits_eq_some.mpr rfl
@[simp] theorem Width.ofBits_toBits (c : Width) : Width.ofBits c.toBits = some c := Width.ofBits_eq_some.mpr rfl
@[simp] theorem Pair2.ofBits_toBits (c : Pair2) : Pair2.ofBits c.toBits = some c := Pair2.ofBits_eq_some.mpr rfl
@[simp] theorem Pair4.ofBits_toBits (c : Pair4) : Pair4.ofBits c.toBits = some c := Pair4.ofBits_eq_some.mpr rfl
@[simp] theorem Pair8.ofBits_toBits (c : Pair8) : Pair8.ofBits c.toBits = some c := Pair8.ofBits_eq_some.mpr rfl
@[simp] theorem FFmt.ofBits_toBits (c : FFmt) : FFmt.ofBits c.toBits = some c := FFmt.ofBits_eq_some.mpr rfl
@[simp] theorem Rm.ofBits_toBits (c : Rm) : Rm.ofBits c.toBits = some c := Rm.ofBits_eq_some.mpr rfl
@[simp] theorem Scope.ofBits_toBits (c : Scope) : Scope.ofBits c.toBits = some c := Scope.ofBits_eq_some.mpr rfl
@[simp] theorem StripH.ofBits_toBits (c : StripH) : StripH.ofBits c.toBits = some c := StripH.ofBits_eq_some.mpr rfl
@[simp] theorem CopySize.ofBits_toBits (c : CopySize) : CopySize.ofBits c.toBits = some c := CopySize.ofBits_eq_some.mpr rfl
@[simp] theorem CachePolicy.ofBits_toBits (c : CachePolicy) : CachePolicy.ofBits c.toBits = some c := CachePolicy.ofBits_eq_some.mpr rfl

@[simp] theorem SubWidth.ofBits_toBits (c : SubWidth) : SubWidth.ofBits c.toBits = c := by cases c <;> rfl
@[simp] theorem AtomOp.ofBits_toBits (c : AtomOp) : AtomOp.ofBits c.toBits = c := by cases c <;> rfl
@[simp] theorem RedOp.ofBits_toBits (c : RedOp) : RedOp.ofBits c.toBits = c := by cases c <;> rfl
@[simp] theorem IFmt.ofBits_toBits (c : IFmt) : IFmt.ofBits c.toBits = c := by cases c <;> rfl
@[simp] theorem MFmt.ofBits_toBits (c : MFmt) : MFmt.ofBits c.toBits = c := by cases c <;> rfl
@[simp] theorem AccConv.ofBits_toBits (c : AccConv) : AccConv.ofBits c.toBits = c := by cases c <;> rfl
@[simp] theorem TileSt.ofBits_toBits (c : TileSt) : TileSt.ofBits c.toBits = c := by cases c <;> rfl
@[simp] theorem FenceOrder.ofBits_toBits (c : FenceOrder) : FenceOrder.ofBits c.toBits = c := by cases c <;> rfl
@[simp] theorem TexMode.ofBits_toBits (c : TexMode) : TexMode.ofBits c.toBits = c := by cases c <;> rfl
@[simp] theorem MemOrder.ofBits_toBits (c : MemOrder) : MemOrder.ofBits c.toBits = c := by cases c <;> rfl

@[simp] theorem SubWidth.toBits_ofBits (x : BitVec 2) : (SubWidth.ofBits x).toBits = x := by revert x; decide
@[simp] theorem AtomOp.toBits_ofBits (x : BitVec 3) : (AtomOp.ofBits x).toBits = x := by revert x; decide
@[simp] theorem RedOp.toBits_ofBits (x : BitVec 3) : (RedOp.ofBits x).toBits = x := by revert x; decide
@[simp] theorem IFmt.toBits_ofBits (x : BitVec 3) : (IFmt.ofBits x).toBits = x := by revert x; decide
@[simp] theorem MFmt.toBits_ofBits (x : BitVec 3) : (MFmt.ofBits x).toBits = x := by revert x; decide
@[simp] theorem AccConv.toBits_ofBits (x : BitVec 3) : (AccConv.ofBits x).toBits = x := by revert x; decide
@[simp] theorem TileSt.toBits_ofBits (x : BitVec 2) : (TileSt.ofBits x).toBits = x := by revert x; decide
@[simp] theorem FenceOrder.toBits_ofBits (x : BitVec 2) : (FenceOrder.ofBits x).toBits = x := by revert x; decide
@[simp] theorem TexMode.toBits_ofBits (x : BitVec 2) : (TexMode.ofBits x).toBits = x := by revert x; decide
@[simp] theorem MemOrder.toBits_ofBits (x : BitVec 2) : (MemOrder.ofBits x).toBits = x := by revert x; decide

theorem ElemFmt.ofBits_eq_some {x : BitVec 4} {f : ElemFmt} : ElemFmt.ofBits x = some f ↔ f.toBits = x := by
  revert x; rcases f with f | f <;> cases f <;> decide

@[simp] theorem ElemFmt.ofBits_toBits (f : ElemFmt) : ElemFmt.ofBits f.toBits = some f := ElemFmt.ofBits_eq_some.mpr rfl

/-! ## Fields in place -/

section
variable {n lo : Nat}

/-- The bits of a field. -/
def fieldBits (lo n : Nat) : Word := (BitVec.allOnes n).setWidth 32 <<< lo

theorem getElem_fieldBits {j : Nat} (hj : j < 32) : (fieldBits lo n)[j] = (decide (lo ≤ j) && decide (j < lo + n)) := by
  rw [fieldBits, BitVec.getElem_shiftLeft, BitVec.getElem_setWidth, BitVec.getLsbD_allOnes, ← decide_not, ← Bool.decide_and,
    ← Bool.decide_and]
  exact decide_eq_decide.mpr (by omega)

theorem extract_place (v : BitVec n) (fits : lo + n ≤ 32) : ((v.setWidth 32 : Word) <<< lo).extractLsb' lo n = v := by
  ext j hj
  simp only [BitVec.getElem_extractLsb', BitVec.getLsbD_shiftLeft, BitVec.getLsbD_setWidth, Nat.add_sub_cancel_left]
  simp [show lo + j < 32 by omega, show j < 32 by omega, hj]

theorem extract_place_other (v : BitVec n) {lo' n' : Nat} (apart : lo' + n' ≤ lo ∨ lo + n ≤ lo') :
    ((v.setWidth 32 : Word) <<< lo).extractLsb' lo' n' = 0#n' := by
  ext j hj
  simp only [BitVec.getElem_extractLsb', BitVec.getLsbD_shiftLeft, BitVec.getLsbD_setWidth, BitVec.getElem_zero]
  rcases apart with below | above
  · simp [show lo' + j < lo by omega]
  · rw [BitVec.getLsbD_of_ge v _ (by omega)]; simp

theorem place_extract (w : Word) (lo n : Nat) : (w.extractLsb' lo n).setWidth 32 <<< lo = w &&& fieldBits lo n := by
  ext j hj
  rw [BitVec.getElem_and, getElem_fieldBits, BitVec.getElem_shiftLeft, BitVec.getElem_setWidth, BitVec.getLsbD_extractLsb',
    ← BitVec.getLsbD_eq_getElem]
  grind

theorem setWidth_extract (w : Word) (n : Nat) : (w.extractLsb' 0 n).setWidth 32 = w &&& fieldBits 0 n := by
  rw [← place_extract, BitVec.shiftLeft_zero]

theorem place_bit (w : Word) (j : Nat) : (BitVec.ofBool (w.getLsbD j)).setWidth 32 <<< j = w &&& fieldBits j 1 := by
  rw [← place_extract]
  congr 2
  ext k hk
  obtain rfl : k = 0 := by omega
  simp

theorem place_and_other (v : BitVec n) {m : Word} (apart : fieldBits lo n &&& m = 0) :
    (v.setWidth 32 : Word) <<< lo &&& m = 0#32 := by
  have within : (v.setWidth 32 : Word) <<< lo &&& fieldBits lo n = v.setWidth 32 <<< lo := by
    ext j hj
    rw [BitVec.getElem_and, getElem_fieldBits, BitVec.getElem_shiftLeft, BitVec.getElem_setWidth]
    grind
  rw [← within, BitVec.and_assoc, apart]
  exact BitVec.and_zero

theorem and_fieldBits {w : Word} {v : Nat} (value : (w.extractLsb' lo n).toNat = v) :
    w &&& fieldBits lo n = BitVec.ofNat 32 v <<< lo := by
  rw [← place_extract, ← value, BitVec.ofNat_toNat]

theorem extract_eq_zero {w z : Word} (zero : w &&& z = 0) (within : fieldBits lo n &&& z = fieldBits lo n) (fits : lo + n ≤ 32) :
    w.extractLsb' lo n = 0#n := by
  have place : (w.extractLsb' lo n).setWidth 32 <<< lo = 0#32 := by
    rw [place_extract, ← within, BitVec.and_comm _ z, ← BitVec.and_assoc, zero]
    exact BitVec.zero_and
  rw [← extract_place (w.extractLsb' lo n) fits, place]
  simp

end

theorem or_and_or (x w m n : Word) : x ||| w &&& m ||| w &&& n = x ||| w &&& (m ||| n) := by
  rw [BitVec.or_assoc, BitVec.and_or_distrib_left]

theorem and_or_known {w z b z' b' : Word} (known : w &&& z = b) (known' : w &&& z' = b') : w &&& (z ||| z') = b ||| b' := by
  rw [BitVec.and_or_distrib_left, known, known']

theorem toNat_opcode (w : Word) : (w.extractLsb' 24 8).toNat = (w >>> 24).toNat := by
  rw [BitVec.extractLsb'_toNat, BitVec.toNat_ushiftRight, Nat.mod_eq_of_lt]
  have := w.isLt
  rw [Nat.shiftRight_eq_div_pow]
  omega

theorem bit_set {w z b : Word} {j : Nat} (known : w &&& z = b) (set : w.getLsbD j = true) :
    w &&& (z ||| fieldBits j 1) = b ||| 1#32 <<< j :=
  and_or_known known (by rw [← place_bit, set]; rfl)

theorem bit_clear {w z b : Word} {j : Nat} (known : w &&& z = b) (clear : ¬ w.getLsbD j = true) :
    w &&& (z ||| fieldBits j 1) = b ||| 0#32 :=
  and_or_known known (by rw [← place_bit, Bool.eq_false_of_not_eq_true clear]; simp)

theorem isHint_iff (w : Word) : isHint w = true ↔ (w >>> 24).toNat = 0xFF := by
  rw [isHint, beq_iff_eq, ← BitVec.toNat_inj]
  rfl

/-- A word is its opcode, the bits b known of those in z, and its fields, which are all its other bits. -/
theorem word_of_fields {w o z b m : Word} {op : Nat} (opcode : (w >>> 24).toNat = op) (known : w &&& z = b)
    (fixed : BitVec.ofNat 32 op <<< 24 ||| b = o) (all : fieldBits 24 8 ||| z ||| m = BitVec.allOnes 32) : o ||| w &&& m = w := by
  rw [← fixed, ← known, ← and_fieldBits ((toNat_opcode w).trans opcode), ← BitVec.and_or_distrib_left,
    ← BitVec.and_or_distrib_left, all, BitVec.and_allOnes]

/-- A word without fields. -/
theorem word_of_opcode {w o z b : Word} {op : Nat} (opcode : (w >>> 24).toNat = op) (known : w &&& z = b)
    (fixed : BitVec.ofNat 32 op <<< 24 ||| b = o) (all : fieldBits 24 8 ||| z = BitVec.allOnes 32) : o = w := by
  have word := word_of_fields (m := 0) opcode known fixed (by rw [all]; rfl)
  rwa [show w &&& 0 = 0 from BitVec.and_zero, show o ||| 0 = o from BitVec.or_zero] at word

/-! ## The fields of PACK, BR and RDSV, whose meaning depends on another field -/

/-- PACK's rounding field, which is zero for an integer format. -/
theorem toBits_of_packRm {f : ElemFmt} {x : BitVec 3} {rm : Rm} (found : packRm f x = some rm)
    (int : f.toBits.getLsbD 3 = true → x = 0) : rm.toBits = x := by
  cases f with
  | float f => exact Rm.ofBits_eq_some.mp found
  | int f =>
    cases found
    exact (int (by cases f <;> rfl)).symm

theorem VTest.ofBits_eq_none {x : BitVec 3} : VTest.ofBits x = none ↔ x.getLsbD 1 = true ∧ x.getLsbD 2 = true := by
  revert x; decide

theorem brOp_of_mask {c : BitVec 3} (mask : VTest.ofBits c = none) (a : BitVec 7) : brOp c a = .mask (c == 6) (a.setWidth 3) := by
  simp only [brOp, mask]

theorem brC_mask {c : BitVec 3} (mask : VTest.ofBits c = none) (k : KReg) : brC (.mask (c == 6) k) = c.setWidth 32 := by
  have : c = 6 ∨ c = 7 := by revert c; decide
  rcases this with rfl | rfl <;> rfl

theorem svI_svDest (scal : Bool) (d : BitVec 7) : svI (svDest scal d) = (BitVec.ofBool scal).setWidth 32 := by
  cases scal <;> rfl

/-! ## What the decoder reads is what the encoder writes -/

/-- Every instruction that a row of the decoder gives is in P. -/
def Gives (P : Instr → Prop) (row : Option Instr) : Prop := ∀ i, row = some i → P i

section
variable {P : Instr → Prop}

@[simp] theorem gives_none : Gives P none := fun _ found => nomatch found

@[simp] theorem gives_some {i : Instr} : Gives P (some i) ↔ P i :=
  ⟨fun all => all i rfl, fun holds _ found => Option.some.inj found ▸ holds⟩

@[simp] theorem gives_bind {α : Type} {code : Option α} {row : α → Option Instr} :
    Gives P (code.bind row) ↔ ∀ c, code = some c → Gives P (row c) := by
  cases code <;> simp

@[simp] theorem gives_ite {p : Prop} [Decidable p] {row row' : Option Instr} :
    Gives P (if p then row else row') ↔ (p → Gives P row) ∧ (¬ p → Gives P row') := by
  split <;> simp [*]

end

/-- Every instruction that a row of the decoder gives has the word w. -/
abbrev Encodes (w : Word) (row : Option Instr) : Prop := Gives (fun i => encode i = some w) row

section
variable {w : Word} {op : Nat}

theorem encodes_decodeArith (opcode : (w >>> 24).toNat = op) (zero : w &&& mbzArith op = 0) : Encodes w (decodeArith w op) := by
  unfold decodeArith
  split
  all_goals simp only [gives_none, gives_some]
  all_goals
    refine congrArg some ?_
    simp only [place_extract, or_and_or]
    exact word_of_fields opcode zero rfl rfl

theorem encodes_decodeScalar (opcode : (w >>> 24).toNat = op) (zero : w &&& mbzScalar op = 0) : Encodes w (decodeScalar w op) := by
  unfold decodeScalar
  split
  all_goals simp only [gives_none, gives_some, gives_bind, IntCond.ofBits_eq_some]
  all_goals
    intros
    refine congrArg some ?_
    simp only [*, place_extract, or_and_or]
    exact word_of_fields opcode zero rfl rfl

theorem encodes_decodeFloat (opcode : (w >>> 24).toNat = op) (zero : w &&& mbzFloat op = 0) : Encodes w (decodeFloat w op) := by
  unfold decodeFloat
  split
  all_goals simp only [gives_none, gives_some, gives_bind, FpCond.ofBits_eq_some]
  all_goals
    intros
    refine congrArg some ?_
    simp only [*, place_extract, or_and_or]
    exact word_of_fields opcode zero rfl rfl

theorem encodes_decodePacked (opcode : (w >>> 24).toNat = op) (zero : w &&& mbzPacked w op = 0) : Encodes w (decodePacked w op) := by
  unfold decodePacked
  split
  all_goals
    simp only [mbzPacked] at zero
    simp only [gives_none, gives_some, gives_bind, gives_ite, Pair2.ofBits_eq_some,
      Pair4.ofBits_eq_some, Pair8.ofBits_eq_some, Rm.ofBits_eq_some, FFmt.ofBits_eq_some, ElemFmt.ofBits_eq_some]
  case h_11 => -- PACK
    intro f format rm rounding
    have mode : rm.toBits = w.extractLsb' 7 3 := toBits_of_packRm rounding fun int => by
      rw [format, BitVec.getLsbD_extractLsb'] at int
      rw [if_pos (by simpa using int)] at zero
      exact extract_eq_zero zero rfl (by decide)
    refine congrArg some ?_
    simp only [format, mode, place_extract, or_and_or]
    exact word_of_fields (z := 0) opcode BitVec.and_zero rfl rfl
  case h_18 => -- SCAN, XSCAN
    refine ⟨fun set => congrArg some ?_, fun clear => congrArg some ?_⟩
    all_goals simp only [RedOp.toBits_ofBits, place_extract, or_and_or]
    · exact word_of_fields opcode (bit_set zero set) rfl rfl
    · exact word_of_fields opcode (bit_clear zero clear) rfl rfl
  all_goals
    intros
    refine congrArg some ?_
    simp only [*, IFmt.toBits_ofBits, RedOp.toBits_ofBits, place_bit, place_extract, or_and_or]
    exact word_of_fields opcode zero rfl rfl

theorem encodes_decodeMem (opcode : (w >>> 24).toNat = op) (zero : w &&& mbzMem op = 0) : Encodes w (decodeMem w op) := by
  unfold decodeMem
  split
  all_goals simp only [gives_none, gives_some, gives_bind, gives_ite, Width.ofBits_eq_some]
  case h_15 => -- XRD, XRDC
    refine ⟨fun set => congrArg some ?_, fun clear => congrArg some ?_⟩
    all_goals simp only [place_bit, place_extract, or_and_or]
    · exact word_of_fields opcode (bit_set zero set) rfl rfl
    · exact word_of_fields opcode (bit_clear zero clear) rfl rfl
  all_goals
    intros
    refine congrArg some ?_
    simp only [*, SubWidth.toBits_ofBits, AtomOp.toBits_ofBits, place_bit, place_extract, or_and_or]
    exact word_of_fields opcode zero rfl rfl

theorem encodes_decodeSync (opcode : (w >>> 24).toNat = op) (zero : w &&& mbzSync op = 0) : Encodes w (decodeSync w op) := by
  unfold decodeSync
  split
  all_goals simp only [gives_none, gives_some, gives_bind, gives_ite, Scope.ofBits_eq_some]
  case h_3 | h_10 | h_11 => exact congrArg some (word_of_opcode opcode zero rfl rfl)
  case h_12 | h_13 => -- CCLEAN, CFLUSH, PREFETCH, PREFETCHL2
    refine ⟨fun set => congrArg some ?_, fun clear => congrArg some ?_⟩
    all_goals simp only [place_bit, place_extract, or_and_or]
    · exact word_of_fields opcode (bit_set zero set) rfl rfl
    · exact word_of_fields opcode (bit_clear zero clear) rfl rfl
  all_goals
    intros
    refine congrArg some ?_
    simp only [*, FenceOrder.toBits_ofBits, TileSt.toBits_ofBits, place_extract, or_and_or]
    exact word_of_fields opcode zero rfl rfl

theorem encodes_decodeMatrix (opcode : (w >>> 24).toNat = op) (zero : w &&& mbzMatrix w op = 0) : Encodes w (decodeMatrix w op) := by
  unfold decodeMatrix
  split
  all_goals
    simp only [mbzMatrix] at zero
    simp only [gives_none, gives_some, gives_ite]
  case h_1 => -- MMODE
    refine ⟨fun set => congrArg some ?_, fun clear => congrArg some ?_⟩
    · rw [if_pos set] at zero
      simp only [place_extract]
      exact word_of_fields opcode (bit_set zero set) rfl rfl
    · rw [if_neg clear] at zero
      exact word_of_opcode opcode (bit_clear zero clear) rfl rfl
  case h_3 => exact congrArg some (word_of_opcode opcode zero rfl rfl)
  all_goals
    refine congrArg some ?_
    simp only [MFmt.toBits_ofBits, AccConv.toBits_ofBits, place_bit, place_extract, or_and_or]
    exact word_of_fields opcode zero rfl rfl

theorem encodes_decodeTask (opcode : (w >>> 24).toNat = op) (zero : w &&& mbzTask op = 0) : Encodes w (decodeTask w op) := by
  unfold decodeTask
  split
  all_goals simp only [gives_none, gives_some, gives_bind, Scope.ofBits_eq_some, CopySize.ofBits_eq_some]
  case h_3 => exact congrArg some (word_of_opcode opcode zero rfl rfl)
  all_goals
    intros
    refine congrArg some ?_
    simp only [*, place_extract, or_and_or]
    exact word_of_fields opcode zero rfl rfl

theorem encodes_decodeControl (opcode : (w >>> 24).toNat = op) (zero : w &&& mbzControl w op = 0) : Encodes w (decodeControl w op) := by
  unfold decodeControl
  split
  all_goals
    simp only [mbzControl] at zero
    simp only [gives_none, gives_some, gives_bind, VTest.ofBits_eq_some]
  case h_1 => -- BR
    rcases test : VTest.ofBits (w.extractLsb' 14 3) with _ | t
    · obtain ⟨low, high⟩ := VTest.ofBits_eq_none.mp test
      rw [if_pos (by simpa using And.intro low high)] at zero
      refine congrArg some ?_
      simp only [brOp_of_mask test, brA, brC_mask test, BitVec.setWidth_extractLsb'_of_le (show 3 ≤ 7 by decide),
        place_extract, setWidth_extract, or_and_or]
      exact word_of_fields opcode zero rfl rfl
    · refine congrArg some ?_
      simp only [brOp, test, brA, brC, VTest.ofBits_eq_some.mp test, place_extract, setWidth_extract, or_and_or]
      exact word_of_fields (z := 0) opcode BitVec.and_zero rfl rfl
  case h_6 | h_7 | h_8 | h_9 => exact congrArg some (word_of_opcode opcode zero rfl rfl)
  all_goals
    intros
    refine congrArg some ?_
    simp only [*, place_extract, or_and_or]
    exact word_of_fields opcode zero rfl rfl

theorem encodes_decodeStrip (opcode : (w >>> 24).toNat = op) (zero : w &&& mbzStrip op = 0) : Encodes w (decodeStrip w op) := by
  unfold decodeStrip
  split
  all_goals simp only [gives_none, gives_some, gives_bind, StripH.ofBits_eq_some, DepthCond.ofBits_eq_some]
  all_goals
    intros
    refine congrArg some ?_
    simp only [*, TexMode.toBits_ofBits, place_extract, or_and_or]
    exact word_of_fields opcode zero rfl rfl

theorem encodes_decodeSystem (opcode : (w >>> 24).toNat = op) (zero : w &&& mbzSystem w op = 0) : Encodes w (decodeSystem w op) := by
  unfold decodeSystem
  split
  all_goals
    simp only [mbzSystem] at zero
    simp only [gives_none, gives_some, gives_ite]
  case h_2 => -- RDSV
    refine congrArg some ?_
    by_cases scalar : w.getLsbD 5 = true
    · rw [if_pos scalar] at zero
      simp only [svI_svDest, place_bit]
      simp only [svDest, if_pos scalar, svD, BitVec.setWidth_extractLsb'_of_le (show 5 ≤ 7 by decide),
        place_extract, setWidth_extract, or_and_or]
      exact word_of_fields opcode zero rfl rfl
    · rw [if_neg scalar] at zero
      simp only [svI_svDest, place_bit]
      simp only [svDest, if_neg scalar, svD, place_extract, setWidth_extract, or_and_or]
      exact word_of_fields opcode zero rfl rfl
  case h_6 => -- FRFLAGS, FWFLAGS, FCFLAGS, FRCFLAGS
    refine ⟨fun write => ⟨fun clearing => congrArg some ?_, fun keeping => congrArg some ?_⟩,
      fun read => ⟨fun clearing => congrArg some ?_, fun keeping => congrArg some ?_⟩⟩
    all_goals simp only [place_extract]
    · exact word_of_fields opcode (bit_set (bit_set zero write) clearing) rfl rfl
    · exact word_of_fields opcode (bit_clear (bit_set zero write) keeping) rfl rfl
    · exact word_of_fields opcode (bit_set (bit_clear zero read) clearing) rfl rfl
    · exact word_of_fields opcode (bit_clear (bit_clear zero read) keeping) rfl rfl
  case h_9 => exact congrArg some (word_of_opcode opcode zero rfl rfl)
  all_goals
    refine congrArg some ?_
    simp only [place_extract, or_and_or]
    exact word_of_fields opcode zero rfl rfl

theorem encodes_decodeHint (hint : isHint w = true) : Encodes w (decodeHint w) := by
  have opcode := (isHint_iff w).mp hint
  unfold decodeHint
  split
  case h_1 kind | h_3 kind => -- WIDE, OFF
    simp only [gives_some]
    refine congrArg some ?_
    simp only [place_extract]
    exact word_of_fields opcode (and_fieldBits kind) rfl rfl
  case h_2 kind | h_6 kind => -- SRC3, LASTREAD
    simp only [gives_ite, gives_none, gives_some, implies_true, and_true]
    intro clear
    refine congrArg some ?_
    rw [BitVec.extractLsb'_extractLsb'_of_le (by decide)] at clear ⊢
    simp only [place_extract]
    exact word_of_fields opcode (and_or_known (and_fieldBits kind) (and_fieldBits (congrArg BitVec.toNat clear))) rfl rfl
  case h_4 kind | h_5 kind | h_7 kind => -- ORDER, CACHE, ROUND
    simp only [gives_ite, gives_none, gives_some, gives_bind, implies_true, and_true, Scope.ofBits_eq_some,
      CachePolicy.ofBits_eq_some, Rm.ofBits_eq_some]
    intro clear _ code
    refine congrArg some ?_
    rw [BitVec.extractLsb'_extractLsb'_of_le (by decide)] at clear code
    simp only [code, MemOrder.toBits_ofBits, BitVec.extractLsb'_extractLsb'_of_le (show 3 + 2 ≤ 20 by decide),
      place_extract, or_and_or]
    exact word_of_fields opcode (and_or_known (and_fieldBits kind) (and_fieldBits (congrArg BitVec.toNat clear))) rfl rfl
  case h_8 kind => -- SCHED
    simp (disch := decide) only [schedOf, BitVec.extractLsb'_extractLsb'_of_le]
    split_ifs with top stall rest none yield
    all_goals simp only [Option.bind_none, Option.bind_some, gives_none, gives_some]
    all_goals
      rw [ne_eq, not_not] at top
      have known := and_or_known (and_fieldBits kind) (and_fieldBits (congrArg BitVec.toNat top))
      refine congrArg some ?_
    · rw [schedBits, place_extract, BitVec.or_comm (w &&& _), ← BitVec.or_assoc]
      exact word_of_fields opcode (and_or_known known (and_fieldBits (congrArg BitVec.toNat stall))) rfl rfl
    all_goals
      rw [ne_eq, not_not] at rest
      have known := and_or_known known (and_fieldBits (congrArg BitVec.toNat rest))
    · exact word_of_opcode opcode (and_or_known known (and_fieldBits (congrArg BitVec.toNat none))) rfl rfl
    · exact word_of_opcode opcode (and_or_known known (and_fieldBits (congrArg BitVec.toNat yield))) rfl rfl
  case h_9 => exact gives_none

/-- A hint is well formed. -/
theorem wf_of_decodeHint : Gives (fun i => i.wf = true) (decodeHint w) := by
  unfold decodeHint
  split
  all_goals simp only [gives_none, gives_some, gives_bind, gives_ite, Instr.wf, implies_true, and_self]

end

section
variable {w : Word}

/-- A choice between rows whose must-be-zero bits are chosen alike. -/
theorem Encodes.choose {p : Prop} [Decidable p] {row row' : Option Instr} {z z' : Word} (yes : w &&& z = 0 → Encodes w row)
    (no : w &&& z' = 0 → Encodes w row') : w &&& (if p then z else z') = 0 → Encodes w (if p then row else row') := by
  split
  · exact yes
  · exact no

theorem encodes_decodeCore : w &&& mbzBits w = 0 → Encodes w (decodeCore w) :=
  .choose (encodes_decodeArith rfl) <| .choose (encodes_decodeScalar rfl) <| .choose (encodes_decodeFloat rfl) <|
  .choose (encodes_decodePacked rfl) <| .choose (encodes_decodeMem rfl) <| .choose (encodes_decodeSync rfl) <|
  .choose (encodes_decodeMatrix rfl) <| .choose (encodes_decodeTask rfl) <| .choose (encodes_decodeControl rfl) <|
  .choose (encodes_decodeStrip rfl) <| .choose (encodes_decodeSystem rfl) fun _ => gives_none

end

theorem wf_and_encode_of_decode {w : Word} {i : Instr} (found : decode w = .ok i) : i.wf = true ∧ encode i = some w := by
  unfold decode at found
  split at found
  case isTrue hint =>
    split at found
    case h_1 j row =>
      cases found
      exact ⟨wf_of_decodeHint _ row, encodes_decodeHint hint i row⟩
    case h_2 => cases found
  case isFalse =>
    split at found
    case h_1 => cases found
    case h_2 j row =>
      split_ifs at found with wf zero
      cases found
      exact ⟨wf, encodes_decodeCore zero i row⟩

/-- Settles O2: a row of the decoder reads every bit of its word that the opcode and the must-be-zero bits leave, and each code it
reads is one that its value is written with. -/
theorem encodeInvertsDecode : Obligations.EncodeInvertsDecode := fun _ _ found => wf_and_encode_of_decode found

end Sys2Proof

/-!
What the encoder writes is what the decoder reads (02 R44-R58).
-/

namespace Sys2Proof

open Machine

/-! ## A field read back from its word -/

section
variable {n lo j : Nat}

theorem place_shift_opcode (v : BitVec n) (apart : lo + n ≤ 24) : (v.setWidth 32 : Word) <<< lo >>> 24 = 0#32 := by
  ext j hj
  simp only [BitVec.getElem_ushiftRight, BitVec.getLsbD_shiftLeft, BitVec.getLsbD_setWidth, BitVec.getElem_zero]
  rw [BitVec.getLsbD_of_ge v _ (by omega)]
  simp

theorem getLsbD_place (v : BitVec n) (above : lo ≤ j) (fits : j < 32) :
    ((v.setWidth 32 : Word) <<< lo).getLsbD j = v.getLsbD (j - lo) := by
  simp [fits, Nat.not_lt.mpr above]

theorem getLsbD_place_other (v : BitVec n) (apart : j < lo ∨ lo + n ≤ j) : ((v.setWidth 32 : Word) <<< lo).getLsbD j = false := by
  simp only [BitVec.getLsbD_shiftLeft, BitVec.getLsbD_setWidth]
  rcases apart with below | above
  · simp [below]
  · rw [BitVec.getLsbD_of_ge v _ (by omega)]
    simp
end

/-! ## The decoder on an instruction's word -/

/-- A word given by its parts, taken as one. -/
theorem of_word {v : Word} {p : Word → Prop} (all : ∀ w, v = w → p w) : p v := all v rfl

theorem packRm_of_wf {d a : VReg} {rm : Rm} {n : BitVec 3} {f : ElemFmt} (wf : (Instr.pack d a rm n f).wf = true) :
    packRm f rm.toBits = some rm := by
  cases f with
  | float f => exact Rm.ofBits_toBits rm
  | int f =>
    simp only [Instr.wf, Bool.and_eq_true, decide_eq_true_eq] at wf
    rw [wf.2]
    rfl

theorem ElemFmt.getLsbD_toBits_float (f : FFmt) : (ElemFmt.float f).toBits.getLsbD 3 = false := by cases f <;> rfl

theorem ElemFmt.getLsbD_toBits_int (f : IFmt) : (ElemFmt.int f).toBits.getLsbD 3 = true := by cases f <;> rfl

theorem setWidth_brA (o : BrOp) : ((brA o).setWidth 7).setWidth 32 = brA o := by
  cases o <;> exact BitVec.eq_of_toNat_eq (by simp [brA])

theorem setWidth_brC (o : BrOp) : ((brC o).setWidth 3).setWidth 32 = brC o := by
  rcases o with ⟨t, a⟩ | ⟨_ | _, k⟩
  · cases t <;> rfl
  · rfl
  · rfl

theorem brOp_brC_brA (o : BrOp) : brOp ((brC o).setWidth 3) ((brA o).setWidth 7) = o := by
  rcases o with ⟨t, a⟩ | ⟨_ | _, k⟩
  · simp [brOp, brC, brA]
  · simp [brOp, brC, brA, VTest.ofBits]
  · simp [brOp, brC, brA, VTest.ofBits]

theorem setWidth_svD (d : SvDest) : ((svD d).setWidth 7).setWidth 32 = svD d := by
  cases d <;> exact BitVec.eq_of_toNat_eq (by simp [svD])

theorem setWidth_svI (d : SvDest) : (BitVec.ofBool ((svI d)[0])).setWidth 32 = svI d := by
  cases d <;> simp [svI]

theorem svDest_svI_svD (d : SvDest) : svDest ((svI d)[0]) ((svD d).setWidth 7) = d := by
  cases d <;> simp [svDest, svI, svD]

/-- The word of a hint is a hint word, and its kind and payload read back. -/
theorem decodeHint_encode {i : Instr} {h : Hint} {w : Word} (hint : hintOf i = some h) (enc : encode i = some w) :
    isHint w = true ∧ decodeHint w = some i := by
  cases i
  all_goals cases hint
  all_goals cases enc
  case' hintSched p => rcases p with _ | _ | n <;> simp only [schedBits]
  case none | yield => exact ⟨rfl, rfl⟩
  all_goals
    refine of_word (p := fun w => isHint w = true ∧ decodeHint w = some _) fun w enc => ⟨?_, ?_⟩
    · simp (disch := decide) [isHint, ← enc, BitVec.ushiftRight_or_distrib, place_shift_opcode, -BitVec.shiftLeft_zero]
    · simp (disch := decide) [decodeHint, schedOf, ← enc, BitVec.extractLsb'_or, extract_place, extract_place_other,
        BitVec.extractLsb'_extractLsb'_of_le, -BitVec.shiftLeft_zero]

/-- The encoder writes no must-be-zero bit: once the opcode is read, the mask is a number, or a choice by a field of PACK, BR or RDSV,
and each field lies outside it. -/
theorem and_mbzBits_encode {i : Instr} {w : Word} (plain : hintOf i = none) (wf : i.wf = true) (enc : encode i = some w) :
    w &&& mbzBits w = 0 := by
  cases i
  all_goals cases plain
  all_goals cases enc
  case' pack d a rm n f => rcases f with f | f
  case' int =>
    simp only [Instr.wf, Bool.and_eq_true, decide_eq_true_eq] at wf
    obtain ⟨-, rfl⟩ := wf
    simp only [Rm.toBits]
  case' br o off =>
    rw [← BitVec.shiftLeft_zero (off.setWidth 32)]
    rcases o with ⟨_ | _ | _ | _ | _ | _, a⟩ | ⟨_ | _, k⟩
    all_goals simp only [brA, brC, VTest.toBits]
  case' rdsv d id =>
    rw [← BitVec.shiftLeft_zero (id.setWidth 32)]
    rcases d with d | d
    all_goals simp only [svD, svI]
  all_goals
    refine of_word (p := fun w => w &&& mbzBits w = 0) fun w enc => ?_
    have opcode := congrArg (fun x : Word => (x >>> 24).toNat) enc
    simp (disch := decide) only [BitVec.ushiftRight_or_distrib, place_shift_opcode, BitVec.reduceHShiftRight, BitVec.or_zero,
      BitVec.reduceToNat, BitVec.reduceSetWidth, BitVec.reduceHShiftLeft] at opcode
    simp only [mbzBits, ← opcode, Nat.reduceLeDiff, and_self, and_false, ↓reduceIte]
    simp only [mbzArith, mbzScalar, mbzFloat, mbzPacked, mbzMem, mbzSync, mbzMatrix, mbzTask, mbzControl, mbzStrip, mbzSystem]
    simp (disch := decide) only [← enc, BitVec.ofNat_eq_ofNat, BitVec.and_zero, BitVec.and_or_distrib_right, place_and_other,
      BitVec.reduceAnd, BitVec.or_zero, BitVec.getLsbD_or, BitVec.reduceGetLsb, getLsbD_place_other, Bool.or_false, ↓reduceIte,
      Bool.false_eq_true, BitVec.reduceSetWidth, BitVec.reduceHShiftLeft, ElemFmt.getLsbD_toBits_float,
      ElemFmt.getLsbD_toBits_int, Bool.false_or, Bool.and_false, Bool.and_true, getLsbD_place, Nat.reduceSub]

/-- The row of an instruction's opcode gives the instruction back: each field is read where it stands, and no other field reaches
there. -/
theorem decodeCore_encode {i : Instr} {w : Word} (plain : hintOf i = none) (wf : i.wf = true) (enc : encode i = some w) :
    decodeCore w = some i := by
  cases i
  all_goals cases plain
  all_goals cases enc
  case' br o off => rw [← setWidth_brA o, ← setWidth_brC o, ← BitVec.shiftLeft_zero (off.setWidth 32)]
  case' rdsv d id => rw [← setWidth_svD d, ← setWidth_svI d, ← BitVec.shiftLeft_zero (id.setWidth 32)]
  all_goals
    refine of_word (p := fun w => decodeCore w = _) fun w enc => ?_
    have opcode := congrArg (fun x : Word => (x >>> 24).toNat) enc
    simp (disch := decide) only [BitVec.ushiftRight_or_distrib, place_shift_opcode, BitVec.reduceHShiftRight, BitVec.or_zero,
      BitVec.reduceToNat] at opcode
    simp only [decodeCore, ← opcode, Nat.reduceLeDiff, and_self, and_false, ↓reduceIte]
  -- rows that read a code with reserved values, or that two instructions share
  case icmp | icmpi | scmp | fcmp | dot2 | dot4 | dot8 | cvtf | cvtfi | cvtif | unpack | ld | st | ldx | stx | lds | sts | ldt |
      fence | join | joinq | copy | br | brs | bin | ztest | rdsv | scan | xscan | xrd | xrdc | cclean | cflush | prefetch |
      prefetchl2 | mmodeOn | mmodeOff | frflags | fwflags | fcflags | frcflags =>
    simp only [decodeScalar, decodeFloat, decodePacked, decodeMem, decodeSync, decodeMatrix, decodeTask, decodeControl, decodeStrip,
      decodeSystem]
    simp (disch := decide) [← enc, BitVec.extractLsb'_or, extract_place, extract_place_other, brOp_brC_brA, svDest_svI_svD,
      -BitVec.shiftLeft_zero]
  case pack =>
    simp only [decodePacked]
    simp (disch := decide) [← enc, BitVec.extractLsb'_or, extract_place, extract_place_other, packRm_of_wf wf, -BitVec.shiftLeft_zero]
  case wswap | dcfence | predwait | startnext | done | ret | exit | nop | yield | rett => rfl
  all_goals
    refine congrArg some ?_
    simp (disch := decide) [← enc, BitVec.extractLsb'_or, extract_place, extract_place_other, -BitVec.shiftLeft_zero]

/-! ## Opcodes without a row (02 Table 2.4) -/

/-- The opcodes of a group of Table 2.4 that the table leaves out. -/
theorem decodeCore_of_gap {w : Word} (gap : (w >>> 24).toNat ∈ [0x32, 0x33, 0x5B, 0x61]) : decodeCore w = none := by
  simp only [List.mem_cons, List.not_mem_nil, or_false] at gap
  rcases gap with op | op | op | op
  all_goals
    simp only [decodeCore, op, Nat.reduceLeDiff, and_self, and_false, ↓reduceIte]
    rfl

/-- An opcode of none of Table 2.4's groups. -/
theorem decodeCore_of_outside {w : Word} {op : Nat} (opcode : (w >>> 24).toNat = op)
    (outside : op = 0 ∨ (0x67 < op ∧ op < 0x80) ∨ op = 0x8F ∨ (0x9C < op ∧ op < 0xA0) ∨ (0xA8 < op ∧ op < 0xB0) ∨
      (0xBD < op ∧ op < 0xC0) ∨ (0xC9 < op ∧ op < 0xD0) ∨ (0xD9 < op ∧ op < 0xE0) ∨ 0xE9 < op) : decodeCore w = none := by
  simp only [decodeCore, opcode]
  iterate 11 rw [if_neg (by omega)]

theorem mem_map_add_range {b n op : Nat} : op ∈ (List.range n).map (b + ·) ↔ b ≤ op ∧ op < b + n := by
  rw [← List.range'_eq_map_range, List.mem_range'_1]

/-- R50: Table 2.4's list of opcodes leaves these out, which are those of the gaps and those outside the groups. -/
theorem decode_of_unlisted {w : Word} (unlisted : w = 0 ∨ (w.extractLsb' 24 8).toNat ∈ [0x00, 0x32, 0x33, 0x5B, 0x61, 0x8F]
    ++ (List.range 0x18).map (0x68 + ·) ++ (List.range 3).map (0x9D + ·) ++ (List.range 7).map (0xA9 + ·) ++ [0xBE, 0xBF]
    ++ (List.range 6).map (0xCA + ·) ++ (List.range 6).map (0xDA + ·) ++ (List.range 0x15).map (0xEA + ·)) : decode w = .illegal := by
  rw [toNat_opcode] at unlisted
  generalize opcode : (w >>> 24).toNat = op at unlisted
  replace unlisted := unlisted.imp_left fun zero => show op = 0 by rw [← opcode, zero]; rfl
  simp only [List.mem_append, List.mem_cons, List.not_mem_nil, or_false, mem_map_add_range] at unlisted
  have core : decodeCore w = none := by
    by_cases gap : op ∈ [0x32, 0x33, 0x5B, 0x61]
    · exact decodeCore_of_gap (opcode ▸ gap)
    · simp only [List.mem_cons, List.not_mem_nil, or_false] at gap
      exact decodeCore_of_outside opcode (by omega)
  have plain : ¬ isHint w = true := by
    rw [isHint_iff, opcode]
    omega
  simp only [decode, if_neg plain, core]

/-- A word that a row other than the hints' gives is no hint word. -/
theorem isHint_of_decodeCore {w : Word} {i : Instr} (found : decodeCore w = some i) : isHint w = false := by
  by_contra hint
  rw [Bool.not_eq_false, isHint_iff] at hint
  rw [decodeCore_of_outside hint (by omega)] at found
  cases found

/-- Settles O1: the row of the instruction's opcode reads each field where the encoder has put it, and finds the must-be-zero bits
zero. -/
theorem decodeInvertsEncode : Obligations.DecodeInvertsEncode := by
  intro i w wf enc
  cases form : hintOf i with
  | none =>
    have found := decodeCore_encode form wf enc
    have zero := and_mbzBits_encode form wf enc
    simp [decode, isHint_of_decodeCore found, found, wf, zero]
  | some h =>
    obtain ⟨hint, found⟩ := decodeHint_encode form enc
    simp [decode, hint, found]

end Sys2Proof

/-!
What issuing a word does: the instruction, the faults found at issue, and the words that are no instruction (02 R49-R58).
-/

namespace Sys2Proof.Machine

/-! ## Checks at issue (02 R53) -/

/-- Every instruction of a group but RETT runs as a group: what it adds is a wait of its own and an effect. -/
theorem exec_eq_runGroup {i : Instr} (group : isGroup i = true) (other : i ≠ .rett) :
    ∃ (wait : WaitFn) (body : BodyFn), ∀ s, exec i s = runGroup i s wait body := by
  cases i
  case rett => exact absurd rfl other
  all_goals cases group
  all_goals exact ⟨_, _, fun _ => rfl⟩

/-- A group that fails a check at issue traps, and its body does nothing. -/
theorem runGroup_of_issueFault {s : State} {g : Issue} {r : Crew} {i : Instr} {code : BitVec 8} (issue : s.issue = some g)
    (crew : s.crews.find g.crew = some r) (fault : issueFault s g.crew r g.hints i = some code) (wait : WaitFn) (body : BodyFn) :
    runGroup i s wait body = .next (s.finishFault s g r (raised r code)) := by
  simp only [runGroup, issue, crew, fault]
  rfl

/-- A group of RETT that fails a check at issue. -/
theorem execRett_of_issueFault {s : State} {g : Issue} {r : Crew} {code : BitVec 8} (issue : s.issue = some g)
    (crew : s.crews.find g.crew = some r) (fault : issueFault s g.crew r g.hints .rett = some code) :
    execRett s = .next ((s.finishFault s g r (raised r code)).replayCopies g.crew) := by
  simp only [execRett, runGroup_of_issueFault issue crew fault, issue]
  rfl

theorem claims_issueFaultTraps : Claims.IssueFaultTraps := by
  intro s g r i code issue crew group fault
  by_cases rett : i = .rett
  · subst rett
    exact execRett_of_issueFault issue crew fault
  · obtain ⟨wait, body, runs⟩ := exec_eq_runGroup group rett
    rw [runs, runGroup_of_issueFault issue crew fault, State.after, if_neg rett]

theorem claims_issueFaultOrder : Claims.IssueFaultOrder := by
  intro s c r hs i checks
  simp only [checks, issueFault]
  split_ifs <;> simp [*]

/-- Settles O8: every group runs as `runGroup`, which looks for a fault at issue first, and the checks of R53's order are the
branches of `issueFault` in turn. -/
theorem issueFaults : Obligations.IssueFaults := ⟨claims_issueFaultTraps, claims_issueFaultOrder⟩

/-! ## The word that a step issues -/

theorem step_of_word {s : State} {g : Issue} {w : Word} {rest : List Word} (issue : s.issue = some g) (words : g.words = w :: rest) :
    step s = exec (wordInstr (s.barriersOf g.crew) g.hints w)
      { s.takeClock g.crew with issue := some { g with next := g.next + 4, words := rest } } := by
  simp only [step, State.nextMove, issue, State.moveWord, words]

/-- Settles O5, by the cases of `wordInstr`. -/
theorem stepIssuesWord : Obligations.StepIssuesWord := by
  intro s g w rest issue words t
  have steps : step s = exec (wordInstr (s.barriersOf g.crew) g.hints w) t := step_of_word issue words
  refine ⟨fun i ok room => ?_, fun i ok hint full => ?_, fun illegal => ?_, fun i reserved known => ?_, fun i reserved unknown => ?_,
    fun bad => ?_⟩
  · rw [steps, wordInstr, ok]
    refine congrArg (exec · t) (if_neg fun third => ?_)
    obtain ⟨hint, full⟩ := (Bool.and_eq_true _ _).mp third
    exact absurd (room hint) (Nat.not_lt.mpr (of_decide_eq_true full))
  · rw [steps, wordInstr, ok]
    exact congrArg (exec · t) (if_pos (by simp [hint, full]))
  · rw [steps, wordInstr, illegal]
  · rw [steps, wordInstr, reserved]
    exact congrArg (exec · t) (if_neg (by simp [known]))
  · rw [steps, wordInstr, reserved]
    exact congrArg (exec · t) (if_pos unknown)
  · rw [steps, wordInstr, bad]

/-! ## Words that are no instruction, and hint words (02 R49-R58) -/

theorem claims_wordFaults : Claims.WordFaults := by
  intro s g r w issue crew
  have raises (code : BitVec 8) : runFault s (fun s _ r => Res.raise r s code) = .next (s.finishFault s g r (raised r code)) := by
    simp only [runFault, issue, crew]
    rfl
  refine ⟨raises 0x01, raises 0x08, raises 0x02, fun f ws t fetched => ?_⟩
  change execFetchFault s = _
  simp only [execFetchFault, issue, crew, fetched]
  rfl

theorem claims_hintsJoinTheirGroup : Claims.HintsJoinTheirGroup := by
  intro s g i h issue hint
  have joins : runHint s h = .next { s with issue := some { g with hints := g.hints ++ [h] } } := by
    simp only [runHint, issue]
  cases i
  all_goals cases hint
  all_goals exact joins

/-- Settles O17: the words that are no instruction fault as soon as they issue, and a hint word is only appended to its group. -/
theorem wordFaults : Obligations.WordFaults := ⟨claims_wordFaults, claims_hintsJoinTheirGroup⟩

/-! ## Opcodes that Table 2.4 does not list (02 R50) -/

@[simp] theorem State.takeClock_crews (s : State) (c : Nat) : (s.takeClock c).crews = s.crews := by
  unfold State.takeClock
  split <;> rfl

/-- Settles O4: no row of the decoder has the opcode, so the step issues the word as an Illegal Instruction. -/
theorem unlistedOpcodesIllegal : Obligations.UnlistedOpcodesIllegal := by
  intro w unlisted
  have illegal := decode_of_unlisted unlisted
  refine ⟨illegal, ?_⟩
  intro s g r rest issue words crew g' t
  have steps : step s = exec (.illegalInstruction w) t :=
    (stepIssuesWord s g w rest issue words).2.2.1 illegal
  have found : t.crews.find g.crew = some r := by
    rw [← crew]
    exact congrArg (·.find g.crew) (s.takeClock_crews g.crew)
  exact steps.trans (claims_wordFaults t g' r w rfl found).1

end Sys2Proof.Machine

/-!
Encodings and the magnitudes they stand for, in units of 2^-298 (04 R77-R79).
-/

namespace Sys2Proof.Machine

/-! ## Formats (04 Tables 4.1, 4.2) -/

theorem claims_format_eq (f : FFmt) : Claims.format f = (f.width, fracBits f, (biasOf f : Int), maxEnc f) := by
  cases f <;> rfl

/-- The exponents of a format's subnormal spacing, its bias and its fraction make up the unit's. -/
theorem subExp_add (f : FFmt) : subExp f + biasOf f + fracBits f = 299 := by cases f <;> rfl

theorem subExp_ge (f : FFmt) : 149 ≤ subExp f := by cases f <;> decide

theorem width_pos (f : FFmt) : 0 < f.width := by cases f <;> decide

theorem maxEnc_lt (f : FFmt) : maxEnc f < 2 ^ (f.width - 1) := by cases f <;> decide

theorem infEnc_lt (f : FFmt) : infEnc f < 2 ^ (f.width - 1) := by cases f <;> decide

theorem maxEnc_normal (f : FFmt) : maxEnc f / 2 ^ fracBits f ≠ 0 := by cases f <;> decide

/-! ## Values (04 R77-R79) -/

/-- The magnitude, in units, of a magnitude encoding read as a finite one. -/
def magUnits (f : FFmt) (e : Nat) : Nat :=
  if e / 2 ^ fracBits f = 0 then e % 2 ^ fracBits f * 2 ^ subExp f
  else (2 ^ fracBits f + e % 2 ^ fracBits f) * 2 ^ (subExp f + e / 2 ^ fracBits f - 1)

/-- Whether a magnitude encoding is a NaN's. -/
def isNanMag (f : FFmt) (mag : Nat) : Bool :=
  match f with
  | .e4m3 => mag == 0x7F
  | .e2m1 => false
  | _ => decide (mag > infEnc f)

/-- Whether a magnitude encoding is an infinity's. -/
def isInfMag (f : FFmt) (mag : Nat) : Bool :=
  match f with
  | .e4m3 => false
  | .e2m1 => false
  | _ => mag == infEnc f

theorem isNanMag_of_le {f : FFmt} {mag : Nat} (le : mag ≤ maxEnc f) : isNanMag f mag = false := by
  cases f <;> simp [isNanMag, maxEnc, infEnc] at le ⊢ <;> omega

theorem isInfMag_of_le {f : FFmt} {mag : Nat} (le : mag ≤ maxEnc f) : isInfMag f mag = false := by
  cases f <;> simp [isInfMag, maxEnc, infEnc] at le ⊢ <;> omega

theorem valueOf_eq (f : FFmt) (b : Nat) : valueOf f b =
    if isNanMag f (b % 2 ^ (f.width - 1)) then .nan
    else if isInfMag f (b % 2 ^ (f.width - 1)) then .inf (b.testBit (f.width - 1))
    else .fin (b.testBit (f.width - 1)) (magUnits f (b % 2 ^ (f.width - 1))) := by
  rw [magUnits, apply_ite (XVal.fin _)]
  cases f <;> rfl

/-- The value of a finite encoding. -/
theorem valueOf_finite {f : FFmt} {b : Nat} (finite : b % 2 ^ (f.width - 1) ≤ maxEnc f) :
    valueOf f b = .fin (b.testBit (f.width - 1)) (magUnits f (b % 2 ^ (f.width - 1))) := by
  simp [valueOf_eq, isNanMag_of_le finite, isInfMag_of_le finite]

/-- The magnitude encodings that are no finite value's. -/
theorem maxEnc_lt_iff {f : FFmt} {mag : Nat} (fits : mag < 2 ^ (f.width - 1)) :
    maxEnc f < mag ↔ isNanMag f mag = true ∨ isInfMag f mag = true := by
  cases f <;> simp [isNanMag, isInfMag, maxEnc, infEnc, FFmt.width] at fits ⊢ <;> omega

/-- An encoding whose value is finite. -/
theorem finite_of_valueOf {f : FFmt} {b : Nat} {s : Bool} {m : Nat} (value : valueOf f b = .fin s m) :
    b % 2 ^ (f.width - 1) ≤ maxEnc f ∧ s = b.testBit (f.width - 1) ∧ m = magUnits f (b % 2 ^ (f.width - 1)) := by
  rw [valueOf_eq] at value
  split at value
  · cases value
  next noNan =>
    split at value
    · cases value
    next noInf =>
      cases value
      have fits := Nat.mod_lt b (Nat.two_pow_pos (f.width - 1))
      exact ⟨Nat.le_of_not_lt fun above => ((maxEnc_lt_iff fits).mp above).elim noNan noInf, rfl, rfl⟩

/-! ## Magnitudes and their encodings -/

/-- The magnitude of k spacings, j binades above the subnormals. -/
theorem magUnits_add {f : FFmt} {j k : Nat} (low : k ≤ 2 ^ (fracBits f + 1)) (normal : j = 0 ∨ 2 ^ fracBits f ≤ k) :
    magUnits f (j * 2 ^ fracBits f + k) = k * 2 ^ (subExp f + j) := by
  have pos := Nat.two_pow_pos (fracBits f)
  have sub := subExp_ge f
  rw [Nat.pow_succ] at low
  rcases Nat.lt_or_ge k (2 ^ fracBits f) with subnormal | above
  · obtain rfl : j = 0 := normal.resolve_right (Nat.not_le.mpr subnormal)
    rw [Nat.zero_mul, Nat.zero_add, magUnits, if_pos (Nat.div_eq_of_lt subnormal), Nat.mod_eq_of_lt subnormal, Nat.add_zero]
  obtain ⟨i, rfl⟩ := Nat.exists_eq_add_of_le above
  have shift : j * 2 ^ fracBits f + (2 ^ fracBits f + i) = i + (j + 1) * 2 ^ fracBits f := by ring
  have nonzero : ¬ i / 2 ^ fracBits f + (j + 1) = 0 := Nat.succ_ne_zero _
  rw [shift, magUnits, Nat.add_mul_div_right _ _ pos, Nat.add_mul_mod_self_right, if_neg nonzero]
  rcases Nat.lt_or_ge i (2 ^ fracBits f) with inside | carry
  · rw [Nat.div_eq_of_lt inside, Nat.mod_eq_of_lt inside, show subExp f + (0 + (j + 1)) - 1 = subExp f + j by omega]
  · obtain rfl : i = 2 ^ fracBits f := by omega
    rw [Nat.div_self pos, Nat.mod_self, show subExp f + (1 + (j + 1)) - 1 = subExp f + j + 1 by omega, Nat.pow_succ]
    ring

/-- Every encoding is j binades and k spacings. -/
theorem exists_binade (f : FFmt) (e : Nat) : ∃ j k, e = j * 2 ^ fracBits f + k ∧ k < 2 ^ (fracBits f + 1) ∧ (j = 0 ∨ 2 ^ fracBits f ≤ k) := by
  have pos := Nat.two_pow_pos (fracBits f)
  have split := Nat.div_add_mod' e (2 ^ fracBits f)
  have low := Nat.mod_lt e pos
  rw [Nat.pow_succ]
  cases binade : e / 2 ^ fracBits f with
  | zero => exact ⟨0, e, by omega, by rw [binade] at split; omega, .inl rfl⟩
  | succ j =>
    rw [binade, Nat.succ_mul] at split
    exact ⟨j, 2 ^ fracBits f + e % 2 ^ fracBits f, by omega, by omega, .inr (by omega)⟩

theorem magUnits_strictMono (f : FFmt) : StrictMono (magUnits f) := by
  refine strictMono_nat_of_lt_succ fun e => ?_
  obtain ⟨j, k, rfl, low, normal⟩ := exists_binade f e
  rw [Nat.add_assoc, magUnits_add low.le normal, magUnits_add (Nat.succ_le_of_lt low) (normal.imp_right (by omega))]
  exact Nat.mul_lt_mul_of_pos_right (Nat.lt_succ_self k) (Nat.two_pow_pos _)

/-- Every finite magnitude is a multiple of its format's smallest. -/
theorem dvd_magUnits (f : FFmt) (e : Nat) : 2 ^ subExp f ∣ magUnits f e := by
  obtain ⟨j, k, rfl, low, normal⟩ := exists_binade f e
  rw [magUnits_add low.le normal]
  exact (pow_dvd_pow 2 (Nat.le_add_right _ j)).mul_left k

/-! ## The real values that encodings stand for -/

/-- A real number's sign as a factor. -/
def signed (neg : Bool) (t : ℝ) : ℝ := (if neg then -1 else 1) * t

theorem two_zpow_sub (a b : Nat) : (2 : ℝ) ^ ((a : Int) - b) = 2 ^ a / 2 ^ b := by
  rw [zpow_sub₀ two_ne_zero, zpow_natCast, zpow_natCast]

/-- The magnitude in the form of 04 R78. -/
theorem magUnits_real (f : FFmt) (e : Nat) : (magUnits f e : ℝ) / 2 ^ 298 =
    if e / 2 ^ fracBits f = 0 then ((e % 2 ^ fracBits f : Nat) : ℝ) / 2 ^ fracBits f * (2 : ℝ) ^ (1 - (biasOf f : Int))
    else (1 + ((e % 2 ^ fracBits f : Nat) : ℝ) / 2 ^ fracBits f) * (2 : ℝ) ^ (((e / 2 ^ fracBits f : Nat) : Int) - biasOf f) := by
  have total := subExp_add f
  have sub := subExp_ge f
  unfold magUnits
  generalize e / 2 ^ fracBits f = d
  split
  · have spacing : (2 : ℝ) ^ (1 - (biasOf f : Int)) = 2 ^ (subExp f + fracBits f) / 2 ^ 298 := by
      rw [← two_zpow_sub]; congr 1; push_cast; omega
    rw [spacing, pow_add]
    push_cast
    field_simp
  · have spacing : (2 : ℝ) ^ ((d : Int) - biasOf f) = 2 ^ (subExp f + d - 1 + fracBits f) / 2 ^ 298 := by
      rw [← two_zpow_sub]; congr 1; push_cast; omega
    rw [spacing, pow_add _ _ (fracBits f)]
    push_cast
    field_simp

/-- What it is for an encoding to be finite with a sign and a value. -/
theorem encodes_iff {f : FFmt} {b : Nat} {neg : Bool} {x : ℝ} : Claims.Encodes f b neg x ↔
    b < 2 ^ f.width ∧ b % 2 ^ (f.width - 1) ≤ maxEnc f ∧ neg = b.testBit (f.width - 1) ∧
      x = signed neg ((magUnits f (b % 2 ^ (f.width - 1)) : ℝ) / 2 ^ 298) := by
  simp only [Claims.Encodes, claims_format_eq, magUnits_real, signed]

end Sys2Proof.Machine

/-!
Rounding: the machine's integer arithmetic against the spec's real one (04 R84-R86).
-/

namespace Sys2Proof.Machine

/-- m units, and whether a part below one unit is left over, stand for the real number t of units. -/
structure Stands (m : Nat) (sticky : Bool) (t : ℝ) : Prop where
  le : (m : ℝ) ≤ t
  lt : t < m + 1
  exact : sticky = false ↔ t = m

theorem stands_nat (m : Nat) : Stands m false m := ⟨le_rfl, by linarith, by simp⟩

theorem Stands.nonneg {m : Nat} {st : Bool} {t : ℝ} (h : Stands m st t) : 0 ≤ t := (Nat.cast_nonneg m).trans h.le

theorem Stands.eq_zero_iff {m : Nat} {st : Bool} {t : ℝ} (h : Stands m st t) : t = 0 ↔ m = 0 ∧ st = false := by
  constructor
  · rintro rfl
    have : m = 0 := by exact_mod_cast le_antisymm h.le (Nat.cast_nonneg m)
    exact ⟨this, h.exact.mpr (by simp [this])⟩
  · rintro ⟨rfl, exact⟩
    simpa using h.exact.mp exact

/-- A quotient of whole numbers, cut to whole units. -/
theorem stands_div (m : Nat) {n : Nat} (pos : 0 < n) : Stands (m / n) (m % n != 0) ((m : ℝ) / n) where
  le := Nat.cast_div_le
  lt := by
    rw [div_lt_iff₀ (by exact_mod_cast pos)]
    have := Nat.lt_mul_div_succ m pos
    rw [mul_comm] at this
    exact_mod_cast this
  exact := by
    rw [bne_eq_false_iff_eq, ← Nat.dvd_iff_mod_eq_zero]
    have cancel : (m : ℝ) / n = ((m / n : Nat) : ℝ) ↔ (m : ℝ) = ((m / n * n : Nat) : ℝ) := by
      rw [div_eq_iff (by exact_mod_cast pos.ne'), Nat.cast_mul]
    rw [cancel, Nat.cast_inj]
    exact ⟨fun h => (Nat.div_mul_cancel h).symm, fun h => ⟨m / n, by rw [mul_comm]; exact h⟩⟩

/-- A square root, cut to whole units. -/
theorem stands_sqrt (n : Nat) : Stands n.sqrt (n.sqrt * n.sqrt != n) (Real.sqrt n) where
  le := Real.nat_sqrt_le_real_sqrt
  lt := Real.real_sqrt_lt_nat_sqrt_succ
  exact := by
    rw [bne_eq_false_iff_eq, Real.sqrt_eq_iff_mul_self_eq (Nat.cast_nonneg _) (Nat.cast_nonneg _)]
    norm_cast
    exact eq_comm

/-! ## Whole numbers near a real one (04 R85) -/

/-- The floor and the ceiling of a number between two neighbours, and of its negation. -/
theorem floor_ceil_of_between {n : Int} {x : ℝ} (above : (n : ℝ) < x) (below : x < n + 1) :
    ⌊x⌋ = n ∧ ⌈x⌉ = n + 1 ∧ ⌊-x⌋ = -(n + 1) ∧ ⌈-x⌉ = -n := by
  have floor : ⌊x⌋ = n := Int.floor_eq_iff.mpr ⟨above.le, below⟩
  have ceil : ⌈x⌉ = n + 1 := Int.ceil_eq_iff.mpr ⟨by push_cast; linarith, by push_cast; linarith⟩
  exact ⟨floor, ceil, by rw [Int.floor_neg, ceil], by rw [Int.ceil_neg, floor]⟩

/-- Every mode takes a whole number for itself. -/
theorem nearest_int (rm : Rm) (k : Int) : Claims.Nearest rm k k := by
  cases rm <;> simp [Claims.Nearest]

/-- Where t stands among the multiples of 2^q: the whole part, and the rest against a half. -/
theorem Stands.scaled {m : Nat} {st : Bool} {t : ℝ} (h : Stands m st t) {q : Nat} (pos : 1 ≤ q) :
    let n : ℝ := (m / 2 ^ q : Nat)
    let r := m % 2 ^ q
    n ≤ t / 2 ^ q ∧ t / 2 ^ q < n + 1 ∧ (t / 2 ^ q = n ↔ r = 0 ∧ st = false) ∧ (t / 2 ^ q - n < 1 / 2 ↔ r < 2 ^ q / 2) ∧
      (t / 2 ^ q - n = 1 / 2 ↔ r = 2 ^ q / 2 ∧ st = false) := by
  intro n r
  obtain ⟨half, twice⟩ : ∃ half, 2 ^ q = 2 * half := ⟨2 ^ (q - 1), by rw [← Nat.pow_succ']; congr 1; omega⟩
  have room : r < 2 * half := twice ▸ Nat.mod_lt m (Nat.two_pow_pos q)
  have parts : (m : ℝ) = n * (2 * half) + r := by
    have := Nat.div_add_mod' m (2 ^ q)
    rw [← this, twice]
    simp only [n, r, twice]
    push_cast
    ring
  have scale : (2 : ℝ) ^ q = 2 * half := by exact_mod_cast twice
  have pos : (0 : ℝ) < half := by
    have : 0 < half := by omega
    exact_mod_cast this
  have le := h.le
  have lt := h.lt
  have roomR : (r : ℝ) + 1 ≤ 2 * half := by exact_mod_cast room
  rw [scale, twice, Nat.mul_div_cancel_left _ two_pos, le_div_iff₀ (by linarith), div_lt_iff₀ (by linarith), div_eq_iff (by linarith),
    sub_lt_iff_lt_add, div_lt_iff₀ (by linarith), sub_eq_iff_eq_add, div_eq_iff (by linarith), h.exact]
  have whole (k : Nat) : t = n * (2 * half) + k ↔ r = k ∧ t = m := by
    constructor
    · intro eq
      have below : (r : ℝ) ≤ k := by linarith
      have above : (k : ℝ) < r + 1 := by linarith
      have same : r = k := by
        have : k < r + 1 := by exact_mod_cast above
        have : r ≤ k := by exact_mod_cast below
        omega
      exact ⟨same, by rw [eq, parts, same]⟩
    · rintro ⟨rfl, eq⟩
      rw [eq, parts]
  refine ⟨?_, ?_, ?_, ?_, ?_⟩
  · have : (0 : ℝ) ≤ r := Nat.cast_nonneg r
    linarith
  · linarith
  · simpa using whole 0
  · constructor
    · intro lower
      have : (r : ℝ) < half := by linarith
      exact_mod_cast this
    · intro lower
      have : (r : ℝ) + 1 ≤ half := by exact_mod_cast lower
      linarith
  · have := whole half
    rw [← this]
    constructor <;> intro eq <;> linarith

/-- Whether a mode takes, of a magnitude x between n and n + 1, the upper neighbour. -/
def RoundsUp (rm : Rm) (neg : Bool) (n : Nat) (x : ℝ) : Prop :=
  match rm with
  | .rne => 1 / 2 < x - n ∨ (x - n = 1 / 2 ∧ n % 2 = 1)
  | .rtz => False
  | .rup => neg = false
  | .rdn => neg = true
  | .rto => n % 2 = 0

theorem nearest_of_between {rm : Rm} {neg : Bool} {n : Nat} {x : ℝ} (above : n < x) (below : x < n + 1) {up : Bool}
    (rounds : up = true ↔ RoundsUp rm neg n x) :
    Claims.Nearest rm (signed neg x) (Claims.units (.fin neg (if up then n + 1 else n))) := by
  have pos : 0 < x := (Nat.cast_nonneg n).trans_lt above
  obtain ⟨floor, ceil, floorNeg, ceilNeg⟩ := floor_ceil_of_between (n := n) (by exact_mod_cast above) (by exact_mod_cast below)
  have plus : signed false x = x := one_mul x
  have minus : signed true x = -x := neg_one_mul x
  have fraction : -x - (-((n : Int) + 1) : Int) = 1 - (x - n) := by push_cast; ring
  cases rm
  case rne =>
    have parity := Nat.mod_two_eq_zero_or_one n
    cases up
    · obtain ⟨notAbove, notOdd⟩ := not_or.mp fun h => Bool.false_ne_true (rounds.mpr h)
      cases neg
      · have lower : x - n < 1 / 2 ∨ x - n = 1 / 2 ∧ (n : Int) % 2 = 0 := by
          rcases (not_lt.mp notAbove).lt_or_eq with lt | eq
          · exact .inl lt
          · exact .inr ⟨eq, by have := parity.resolve_right fun odd => notOdd ⟨eq, odd⟩; omega⟩
        simp only [Claims.Nearest, Claims.units, plus, floor, Int.cast_natCast, if_pos lower]
        rfl
      · have upper : ¬ (1 - (x - n) < 1 / 2 ∨ 1 - (x - n) = 1 / 2 ∧ (-((n : Int) + 1)) % 2 = 0) := by
          rintro (lt | ⟨eq, even⟩)
          · exact notAbove (by linarith)
          · exact notOdd ⟨by linarith, by omega⟩
        simp only [Claims.Nearest, Claims.units, minus, floorNeg, ceilNeg, fraction, if_neg upper]
        rfl
    · have above := rounds.mp rfl
      cases neg
      · have upper : ¬ (x - n < 1 / 2 ∨ x - n = 1 / 2 ∧ (n : Int) % 2 = 0) := by
          rintro (lt | ⟨eq, even⟩) <;> rcases above with gt | ⟨_, odd⟩
          · linarith
          · linarith
          · linarith
          · omega
        simp only [Claims.Nearest, Claims.units, plus, floor, ceil, Int.cast_natCast, if_neg upper]
        rfl
      · have lower : 1 - (x - n) < 1 / 2 ∨ 1 - (x - n) = 1 / 2 ∧ (-((n : Int) + 1)) % 2 = 0 :=
          above.imp (fun gt => by linarith) fun ⟨eq, odd⟩ => ⟨by linarith, by omega⟩
        simp only [Claims.Nearest, Claims.units, minus, floorNeg, ceilNeg, fraction, if_pos lower]
        rfl
  case rtz => cases neg <;> simp_all [Claims.Nearest, RoundsUp, Claims.units, pos.le, pos.not_ge]
  case rup => cases neg <;> simp_all [Claims.Nearest, RoundsUp, Claims.units]
  case rdn => cases neg <;> simp_all [Claims.Nearest, RoundsUp, Claims.units]
  case rto =>
    cases up
    · have odd : n % 2 = 1 := by have := mt rounds.mpr Bool.false_ne_true; simp only [RoundsUp] at this; omega
      cases neg
      · have : (n : Int) % 2 = 1 := by omega
        simp [Claims.Nearest, Claims.units, plus, floor, this]
      · have : ¬ (-((n : Int) + 1)) % 2 = 1 := by omega
        simp only [Claims.Nearest, Claims.units, minus, floorNeg, ceilNeg, if_neg this]
        rfl
    · have even : n % 2 = 0 := rounds.mp rfl
      cases neg
      · have : ¬ (n : Int) % 2 = 1 := by omega
        simp only [Claims.Nearest, Claims.units, plus, floor, ceil, if_neg this]
        rfl
      · have : (-((n : Int) + 1)) % 2 = 1 := by omega
        simp only [Claims.Nearest, Claims.units, minus, floorNeg, if_pos this]
        rfl

/-- The machine's rounding takes the whole number that 04 R85 names, and knows whether it is exact. -/
theorem roundQ_spec (rm : Rm) (neg : Bool) {m : Nat} {st : Bool} {t : ℝ} (h : Stands m st t) {q : Nat} (pos : 1 ≤ q) :
    let p := roundQ rm neg m st q
    Claims.Nearest rm (signed neg (t / 2 ^ q)) (Claims.units (.fin neg p.1)) ∧ (p.2 = false ↔ t / 2 ^ q = p.1) ∧
      (p.1 = m / 2 ^ q ∨ p.1 = m / 2 ^ q + 1) := by
  obtain ⟨above, below, whole, lower, tie⟩ := h.scaled pos
  have half : 0 < 2 ^ q / 2 := Nat.div_pos (Nat.le_self_pow (by omega) 2) two_pos
  by_cases exact : m % 2 ^ q = 0 ∧ st = false
  · have value := whole.mpr exact
    have stays : roundQ rm neg m st q = (m / 2 ^ q, false) := by
      obtain ⟨rest, none⟩ := exact
      cases rm <;> simp [roundQ, rest, none, half.ne]
    rw [stays, value]
    have cast : signed neg ((m / 2 ^ q : Nat) : ℝ) = ((Claims.units (.fin neg (m / 2 ^ q)) : Int) : ℝ) := by
      generalize m / 2 ^ q = k
      cases neg <;> simp [signed, Claims.units]
    exact ⟨cast ▸ nearest_int rm _, iff_of_true rfl rfl, .inl rfl⟩
  · have inexact : (m % 2 ^ q != 0 || st) = true := by
      rw [Bool.or_eq_true, bne_iff_ne]
      by_contra no
      exact exact ⟨by tauto, by simpa using fun st => no (.inr st)⟩
    have strict : ((m / 2 ^ q : Nat) : ℝ) < t / 2 ^ q := lt_of_le_of_ne above fun eq => exact (whole.mp eq.symm)
    obtain ⟨up, rounds, took⟩ : ∃ up : Bool, (up = true ↔ RoundsUp rm neg (m / 2 ^ q) (t / 2 ^ q)) ∧
        roundQ rm neg m st q = (if up then m / 2 ^ q + 1 else m / 2 ^ q, true) := by
      refine ⟨_, ?_, congrArg (Prod.mk _) inexact⟩
      cases rm
      case rne =>
        have upper : 1 / 2 < t / 2 ^ q - (m / 2 ^ q : Nat) ↔ 2 ^ q / 2 < m % 2 ^ q ∨ (m % 2 ^ q = 2 ^ q / 2 ∧ st = true) := by
          rw [lt_iff_le_and_ne, ← not_lt, lower, ne_comm, Ne, tie]
          cases st <;> simp <;> omega
        simp only [RoundsUp, upper, tie, Bool.or_eq_true, Bool.and_eq_true, decide_eq_true_eq, beq_iff_eq, half, and_true]
        cases st <;> simp
      case rtz => simp [RoundsUp]
      case rup => cases neg <;> simp [RoundsUp, inexact]
      case rdn => cases neg <;> simp [RoundsUp, inexact]
      case rto => simp [RoundsUp, inexact]
    rw [took]
    refine ⟨nearest_of_between strict below rounds, iff_of_false nofun ?_, by cases up <;> simp⟩
    cases up
    · exact strict.ne'
    · simpa using below.ne

/-! ## Rounding in a format (04 R84-R86) -/

/-- The exponent, in units, of the spacing that a format rounds a magnitude of m units to. -/
def roundExp (f : FFmt) (m : Nat) : Nat := max (Nat.log2 m - fracBits f) (subExp f)

/-- A real number of units is below a power of two where its whole part is. -/
theorem Stands.lt_two_pow_iff {m : Nat} {st : Bool} {t : ℝ} (h : Stands m st t) (k : Nat) : t < 2 ^ k ↔ m < 2 ^ k := by
  constructor
  · intro lt
    exact_mod_cast h.le.trans_lt lt
  · intro lt
    have le : (m : ℝ) + 1 ≤ 2 ^ k := by exact_mod_cast lt
    exact h.lt.trans_le le

theorem roundUnbounded_spec (f : FFmt) (rm : Rm) (neg : Bool) {m : Nat} {st : Bool} {t : ℝ} (h : Stands m st t) :
    let p := roundUnbounded f rm neg m st
    ∃ k : Nat, Claims.Nearest rm (signed neg (t / 2 ^ roundExp f m)) (Claims.units (.fin neg k)) ∧
      magUnits f p.1 = k * 2 ^ roundExp f m ∧ (p.2.1 = false ↔ t = magUnits f p.1) ∧
      (p.2.2 = true ↔ t < 2 ^ (subExp f + fracBits f)) := by
  have spacing : 1 ≤ roundExp f m := le_max_of_le_right ((Nat.le_of_ble_eq_true rfl).trans (subExp_ge f))
  obtain ⟨nearest, exact, value⟩ := roundQ_spec rm neg h spacing
  have below : m < 2 ^ (roundExp f m + fracBits f + 1) := by
    refine Nat.lt_log2_self.trans_le (Nat.pow_le_pow_right two_pos ?_)
    have := le_max_left (Nat.log2 m - fracBits f) (subExp f)
    unfold roundExp
    omega
  have low : (roundQ rm neg m st (roundExp f m)).1 ≤ 2 ^ (fracBits f + 1) := by
    have : m / 2 ^ roundExp f m < 2 ^ (fracBits f + 1) := by
      rw [Nat.div_lt_iff_lt_mul (Nat.two_pow_pos _), ← Nat.pow_add]
      convert below using 2
      omega
    omega
  have normal : roundExp f m - subExp f = 0 ∨ 2 ^ fracBits f ≤ (roundQ rm neg m st (roundExp f m)).1 := by
    rcases Nat.eq_zero_or_pos (roundExp f m - subExp f) with zero | above
    · exact .inl zero
    have log : Nat.log2 m = roundExp f m + fracBits f := by
      have := subExp_ge f
      unfold roundExp at above ⊢
      omega
    have nonzero : m ≠ 0 := by
      rintro rfl
      simp at log
      omega
    have : 2 ^ fracBits f ≤ m / 2 ^ roundExp f m := by
      rw [Nat.le_div_iff_mul_le (Nat.two_pow_pos _), ← Nat.pow_add, Nat.add_comm, ← log]
      exact Nat.log2_self_le nonzero
    right
    omega
  have mag := magUnits_add low normal
  have least : subExp f ≤ roundExp f m := le_max_right _ _
  rw [Nat.add_sub_cancel' least] at mag
  refine ⟨_, nearest, mag, ?_, ?_⟩
  · refine exact.trans ?_
    show _ ↔ t = (magUnits f ((roundExp f m - subExp f) * 2 ^ fracBits f + (roundQ rm neg m st (roundExp f m)).1) : Nat)
    rw [mag, div_eq_iff (by positivity)]
    push_cast
    rfl
  · rw [h.lt_two_pow_iff]
    exact decide_eq_true_iff

/-- The spacing of the format at a value, as 04 R85 has it. -/
theorem spacing_eq (f : FFmt) {m : Nat} {st : Bool} {t x : ℝ} (h : Stands m st t) (pos : 0 < t) (abs : |x| = t / 2 ^ 298) :
    (2 : ℝ) ^ (max (Int.log 2 |x|) (1 - (biasOf f : Int)) - (fracBits f : Int)) = 2 ^ roundExp f m / 2 ^ 298 := by
  have total := subExp_add f
  have positive : 0 < |x| := by rw [abs]; positivity
  rw [← two_zpow_sub]
  congr 1
  unfold roundExp
  rcases Nat.eq_zero_or_pos m with rfl | nonzero
  · have below : Int.log 2 |x| < -298 := by
      rw [← Int.lt_zpow_iff_log_lt one_lt_two positive, abs, Nat.cast_ofNat,
        show (-298 : Int) = (0 : Nat) - (298 : Nat) by rfl, two_zpow_sub, pow_zero]
      gcongr
      simpa using h.lt
    simp
    omega
  · have log : Int.log 2 |x| = Nat.log2 m - 298 := by
      apply le_antisymm
      · rw [← Int.lt_add_one_iff, ← Int.lt_zpow_iff_log_lt one_lt_two positive, abs, Nat.cast_ofNat]
        rw [show (Nat.log2 m : Int) - 298 + 1 = (Nat.log2 m + 1 : Nat) - (298 : Nat) by push_cast; ring, two_zpow_sub]
        gcongr
        exact (h.lt_two_pow_iff _).mpr Nat.lt_log2_self
      · rw [← Int.zpow_le_iff_le_log one_lt_two positive, abs, Nat.cast_ofNat]
        rw [show (Nat.log2 m : Int) - 298 = (Nat.log2 m : Nat) - (298 : Nat) by push_cast; ring, two_zpow_sub]
        gcongr
        refine le_trans ?_ h.le
        exact_mod_cast Nat.log2_self_le nonzero.ne'
    rw [log]
    omega

/-! ## Encodings with a sign -/

theorem signBit_eq (f : FFmt) (neg : Bool) : signBit f neg = if neg then 2 ^ (f.width - 1) else 0 := rfl

/-- A magnitude encoding and a sign bit. -/
theorem signed_encoding {f : FFmt} {e : Nat} (fits : e < 2 ^ (f.width - 1)) (neg : Bool) :
    e + signBit f neg < 2 ^ f.width ∧ (e + signBit f neg) % 2 ^ (f.width - 1) = e ∧ (e + signBit f neg).testBit (f.width - 1) = neg := by
  have pos := width_pos f
  have twice : 2 ^ f.width = 2 * 2 ^ (f.width - 1) := by rw [← Nat.pow_succ']; congr 1; omega
  rw [signBit_eq]
  cases neg
  · simp only [Bool.false_eq_true, if_false, Nat.add_zero]
    exact ⟨by omega, Nat.mod_eq_of_lt fits, Nat.testBit_lt_two_pow fits⟩
  · simp only [if_true]
    refine ⟨by omega, by rw [Nat.add_mod_right, Nat.mod_eq_of_lt fits], ?_⟩
    rw [Nat.add_comm, Nat.testBit_two_pow_add_eq, Nat.testBit_lt_two_pow fits]
    rfl

/-- A finite magnitude encoding with a sign bit encodes its value. -/
theorem encodes_signed {f : FFmt} {e : Nat} (finite : e ≤ maxEnc f) (neg : Bool) :
    Claims.Encodes f (e + signBit f neg) neg (signed neg ((magUnits f e : ℝ) / 2 ^ 298)) := by
  obtain ⟨below, mag, sign⟩ := signed_encoding (finite.trans_lt (maxEnc_lt f)) neg
  rw [encodes_iff, mag, sign]
  exact ⟨below, finite, rfl, rfl⟩

/-! ## RoundTo (04 R85, Table 4.6) -/

@[simp] theorem signed_zero (neg : Bool) : signed neg 0 = 0 := mul_zero _

theorem abs_signed (neg : Bool) (t : ℝ) : |signed neg t| = |t| := by
  cases neg <;> simp [signed]

theorem signed_lt_zero_iff {neg : Bool} {t : ℝ} (pos : 0 < t) : signed neg t < 0 ↔ neg = true := by
  cases neg <;> simp [signed, pos, pos.le]

theorem signed_eq_zero_iff {neg : Bool} {t : ℝ} : signed neg t = 0 ↔ t = 0 := by
  cases neg <;> simp [signed]

theorem signed_inj {neg : Bool} {t u : ℝ} : signed neg t = signed neg u ↔ t = u := by
  cases neg <;> simp [signed]

theorem signed_mul (neg : Bool) (t c : ℝ) : signed neg (t * c) = signed neg t * c := (mul_assoc _ t c).symm

theorem signed_div (neg : Bool) (t c : ℝ) : signed neg (t / c) = signed neg t / c := (mul_div_assoc _ t c).symm

theorem units_fin (neg : Bool) (m : Nat) : ((Claims.units (.fin neg m) : Int) : ℝ) = signed neg m := by
  cases neg <;> simp [Claims.units, signed]

/-- The largest finite value, in the form of `Claims.Rounds`. -/
theorem high_eq (f : FFmt) : (1 + ((maxEnc f % 2 ^ fracBits f : Nat) : ℝ) / 2 ^ fracBits f) *
    (2 : ℝ) ^ (((maxEnc f / 2 ^ fracBits f : Nat) : Int) - (biasOf f : Int)) = magUnits f (maxEnc f) / 2 ^ 298 := by
  rw [magUnits_real, if_neg (maxEnc_normal f)]

theorem least_normal_eq (f : FFmt) : (2 : ℝ) ^ (1 - (biasOf f : Int)) = 2 ^ (subExp f + fracBits f) / 2 ^ 298 := by
  have total := subExp_add f
  rw [← two_zpow_sub]
  congr 1
  omega

/-- What a rounding of a nonzero value answers is as 04 R85 says, where it encodes what rounding without a bound gives, or is the overflow
result. -/
theorem rounds_of_unbounded {f : FFmt} {sat : Bool} {rm : Rm} {neg neg' : Bool} {m : Nat} {st : Bool} {t : ℝ} {y : Nat} {fl : FFlags}
    (h : Stands m st t) (pos : 0 < t)
    (small : (roundUnbounded f rm neg m st).1 ≤ maxEnc f → y = (roundUnbounded f rm neg m st).1 + signBit f neg ∧
      fl = if (roundUnbounded f rm neg m st).2.1 then (if (roundUnbounded f rm neg m st).2.2 then fUF ||| fNX else fNX) else 0)
    (large : maxEnc f < (roundUnbounded f rm neg m st).1 → fl = fOF ||| fNX ∧
      y = if sat then maxEnc f + signBit f neg else overflowResult f rm neg) :
    Claims.Rounds f sat rm (signed neg (t / 2 ^ 298)) neg' y fl := by
  obtain ⟨k, nearest, mag, exact, tiny⟩ := roundUnbounded_spec f rm neg h
  have scaled : 0 < t / (2 : ℝ) ^ 298 := by positivity
  have abs : |signed neg (t / 2 ^ 298)| = t / 2 ^ 298 := by rw [abs_signed, abs_of_pos scaled]
  have magR : (magUnits f (roundUnbounded f rm neg m st).1 : ℝ) = k * 2 ^ roundExp f m := by exact_mod_cast mag
  have value : ((Claims.units (.fin neg k) : Int) : ℝ) * (2 ^ roundExp f m / 2 ^ 298) =
      signed neg ((magUnits f (roundUnbounded f rm neg m st).1 : ℝ) / 2 ^ 298) := by
    rw [units_fin, magR, signed_div, signed_mul, mul_div_assoc]
  have sign : decide (signed neg (t / 2 ^ 298) < 0) = neg := by
    simp [signed_lt_zero_iff scaled]
  simp only [Claims.Rounds, claims_format_eq, spacing_eq f h pos abs, high_eq, least_normal_eq, sign]
  refine ⟨fun zero => absurd (signed_eq_zero_iff.mp zero) scaled.ne', fun _ => ⟨Claims.units (.fin neg k), ?_, ?_⟩⟩
  · convert nearest using 1
    rw [← signed_div]
    congr 1
    field_simp
  rw [value, abs_signed, abs_of_nonneg (by positivity), abs]
  have finite_iff (a b : Nat) : (magUnits f a : ℝ) / 2 ^ 298 ≤ magUnits f b / 2 ^ 298 ↔ a ≤ b := by
    rw [div_le_div_iff_of_pos_right (by positivity), Nat.cast_le, (magUnits_strictMono f).le_iff_le]
  have tiny_iff : t / 2 ^ 298 < 2 ^ (subExp f + fracBits f) / 2 ^ 298 ↔ (roundUnbounded f rm neg m st).2.2 = true := by
    rw [tiny, div_lt_div_iff_of_pos_right (by positivity)]
  have same : signed neg ((magUnits f (roundUnbounded f rm neg m st).1 : ℝ) / 2 ^ 298) = signed neg (t / 2 ^ 298) ↔
      (roundUnbounded f rm neg m st).2.1 = false := by
    rw [signed_inj, exact, div_left_inj' (by positivity), eq_comm]
  refine ⟨fun finite => ?_, fun above => ?_⟩
  · have finite := (finite_iff _ _).mp finite
    obtain ⟨rfl, flags⟩ := small finite
    refine ⟨encodes_signed finite neg, fun eq => ?_, fun ne => ?_⟩
    · rw [flags, same.mp eq]
      rfl
    · rw [flags, if_pos (by simpa using mt same.mpr ne)]
      exact if_congr tiny_iff.symm rfl rfl
  · obtain ⟨flags, result⟩ := large (Nat.lt_of_not_le (mt (finite_iff _ _).mpr above.not_ge))
    refine ⟨flags, ?_⟩
    subst result
    cases sat
    · cases f <;> cases rm <;> cases neg <;> simp [overflowResult, maxEnc, infEnc, canonNaN, signBit]
    · simp [signBit_eq]

theorem rounds_zero (f : FFmt) (sat : Bool) (rm : Rm) (neg : Bool) : Claims.Rounds f sat rm 0 neg (signBit f neg) 0 := by
  simp [Claims.Rounds, claims_format_eq, signBit_eq]

/-- A rounding of a nonzero value does not look at the sign for a zero. -/
theorem rounds_of_ne_zero {f : FFmt} {sat : Bool} {rm : Rm} {x : ℝ} {neg neg' : Bool} {y : Nat} {fl : FFlags} (nonzero : x ≠ 0)
    (h : Claims.Rounds f sat rm x neg y fl) : Claims.Rounds f sat rm x neg' y fl := by
  simp only [Claims.Rounds, claims_format_eq, nonzero, false_imp_iff, true_and] at h ⊢
  exact h

/-- Rounding a magnitude rounds the real number that it stands for. -/
theorem roundFin_rounds (f : FFmt) (rm : Rm) (neg : Bool) {m : Nat} {st : Bool} {t : ℝ} (h : Stands m st t) :
    Claims.Rounds f false rm (signed neg (t / 2 ^ 298)) neg (roundFin f rm neg m st).1 (roundFin f rm neg m st).2 := by
  by_cases zero : m = 0 ∧ st = false
  · rw [h.eq_zero_iff.mpr zero, zero_div, signed_zero]
    simpa [roundFin, zero] using rounds_zero f false rm neg
  · have pos : 0 < t := lt_of_le_of_ne h.nonneg fun eq => zero (h.eq_zero_iff.mp eq.symm)
    refine rounds_of_unbounded h pos (fun finite => ?_) fun above => ?_
    · simp [roundFin, zero, not_lt.mpr finite]
    · simp [roundFin, zero, above]

/-- RoundTo of a finite value. -/
theorem roundTo_rounds (f : FFmt) (rm : Rm) (neg : Bool) (m : Nat) : Claims.Rounds f false rm (signed neg ((m : ℝ) / 2 ^ 298)) neg
    (roundTo f rm (.fin neg m)).1 (roundTo f rm (.fin neg m)).2 := roundFin_rounds f rm neg (stands_nat m)

/-- RoundTo of a finite value, with saturation where a conversion asks for it. -/
theorem saturating_rounds (f : FFmt) (rm : Rm) (sat neg : Bool) (m : Nat) :
    let p := if sat && m != 0 && decide ((roundUnbounded f rm neg m false).1 > maxEnc f) then
      (maxEnc f + signBit f neg, fOF ||| fNX) else roundTo f rm (.fin neg m)
    Claims.Rounds f sat rm (signed neg ((m : ℝ) / 2 ^ 298)) neg p.1 p.2 := by
  intro p
  rcases Nat.eq_zero_or_pos m with rfl | pos
  · have zero : p = (signBit f neg, 0) := by simp [p, roundTo, roundFin]
    rw [zero, Nat.cast_zero, zero_div, signed_zero]
    exact rounds_zero f sat rm neg
  · refine rounds_of_unbounded (stands_nat m) (by exact_mod_cast pos) (fun finite => ?_) fun above => ?_
    · simp [p, roundTo, roundFin, pos.ne', not_lt.mpr finite]
    · cases sat <;> simp [p, roundTo, roundFin, pos.ne', above]

theorem roundFin_lt (f : FFmt) (rm : Rm) (neg : Bool) (m : Nat) (st : Bool) : (roundFin f rm neg m st).1 < 2 ^ f.width := by
  have sign : signBit f neg < 2 ^ f.width := by cases f <;> cases neg <;> decide
  have overflow : overflowResult f rm neg < 2 ^ f.width := by cases f <;> cases rm <;> cases neg <;> decide
  unfold roundFin
  split
  · exact sign
  · dsimp only
    split
    · exact overflow
    next finite => exact (signed_encoding ((Nat.le_of_not_lt finite).trans_lt (maxEnc_lt f)) neg).1

/-- Every result of RoundTo is an encoding of its format. -/
theorem roundTo_lt (f : FFmt) (rm : Rm) (x : XVal) : (roundTo f rm x).1 < 2 ^ f.width := by
  cases x with
  | nan => cases f <;> simp [roundTo, canonNaN, FFmt.width]
  | inf neg => exact (signed_encoding (infEnc_lt f) neg).1
  | fin neg m => exact roundFin_lt f rm neg m false

theorem claims_valuesRead : Claims.ValuesRead := by
  intro f b
  simp only [claims_format_eq]
  intro fits
  have below := Nat.mod_lt b (Nat.two_pow_pos (f.width - 1))
  refine ⟨fun finite => ⟨_, _, valueOf_finite finite, ?_⟩, fun mag e4 e2 => ?_, fun e4 mag => ?_, fun mag e4 e2 => ?_⟩
  · exact encodes_iff.mpr ⟨fits, finite, rfl, by rw [units_fin, signed_div]⟩
  all_goals rw [valueOf_eq]
  · rw [mag]
    cases f <;> simp_all [isNanMag, isInfMag, maxEnc, infEnc]
  · subst e4
    rw [mag]
    rfl
  · have nan : isNanMag f (b % 2 ^ (f.width - 1)) = true := by
      generalize b % 2 ^ (f.width - 1) = e at mag
      cases f <;> simp_all [isNanMag, maxEnc, infEnc]
    rw [if_pos nan]

theorem claims_roundsRight : Claims.RoundsRight := by
  intro f rm
  simp only [claims_format_eq]
  refine ⟨fun neg m => ?_, fun e4 e2 neg => ?_, ?_⟩
  · rw [units_fin, ← signed_div]
    exact roundTo_rounds f rm neg m
  · cases f <;> simp_all [roundTo, infEnc, maxEnc, signBit_eq]
  · cases f <;> rfl

end Sys2Proof.Machine

/-!
Exact sums and products, and the FP32 arithmetic (04 R87-R89, R95, R96; 06 R139-R143).
-/

namespace Sys2Proof.Machine

/-! ## Sums (04 R87, R95) -/

theorem XVal.toInt_eq_units (x : XVal) : x.toInt = Claims.units x := by cases x <;> rfl

theorem any_isNan_iff {xs : List XVal} : xs.any XVal.isNan = true ↔ .nan ∈ xs := by
  rw [List.any_eq_true]
  refine ⟨fun ⟨x, mem, nan⟩ => ?_, fun mem => ⟨.nan, mem, rfl⟩⟩
  cases x
  · exact mem
  all_goals cases nan

theorem any_isInf_iff {xs : List XVal} {s : Bool} : xs.any (XVal.isInf s) = true ↔ .inf s ∈ xs := by
  rw [List.any_eq_true]
  refine ⟨fun ⟨x, mem, inf⟩ => ?_, fun mem => ⟨.inf s, mem, beq_self_eq_true s⟩⟩
  cases x with
  | inf u => rwa [← eq_of_beq inf]
  | nan => cases inf
  | fin => cases inf

theorem isZero_iff {x : XVal} {s : Bool} : x.isZero s = true ↔ x = .fin s 0 := by
  cases x <;> simp [XVal.isZero]

section
variable {rm : Rm} {xs : List XVal}

theorem exactSum_of_nan (nan : .nan ∈ xs) : exactSum rm xs = (.nan, 0) := if_pos (any_isNan_iff.mpr nan)

theorem exactSum_of_infs (noNan : .nan ∉ xs) (plus : .inf false ∈ xs) (minus : .inf true ∈ xs) : exactSum rm xs = (.nan, fNV) := by
  simp [exactSum, Bool.eq_false_iff.mpr (mt any_isNan_iff.mp noNan), any_isInf_iff.mpr plus, any_isInf_iff.mpr minus]

theorem exactSum_of_inf {s : Bool} (noNan : .nan ∉ xs) (inf : .inf s ∈ xs) (other : .inf (!s) ∉ xs) : exactSum rm xs = (.inf s, 0) := by
  have none := Bool.eq_false_iff.mpr (mt any_isNan_iff.mp noNan)
  have one := any_isInf_iff.mpr inf
  have not := Bool.eq_false_iff.mpr (mt any_isInf_iff.mp other)
  cases s
  · simp only [exactSum, none, one, Bool.not_false ▸ not, Bool.and_false, Bool.false_eq_true, if_false, if_true]
  · simp only [exactSum, none, one, Bool.not_true ▸ not, Bool.false_and, Bool.false_eq_true, if_false, if_true]

theorem exactSum_of_finite (finite : ∀ x ∈ xs, ∃ s m, x = XVal.fin s m) : exactSum rm xs =
    if (xs.map Claims.units).sum = 0 then
      if xs.all (XVal.isZero true) then (.fin true 0, 0)
      else if xs.all (XVal.isZero false) then (.fin false 0, 0)
      else (.fin (decide (rm = .rdn)) 0, 0)
    else (.fin (decide ((xs.map Claims.units).sum < 0)) (xs.map Claims.units).sum.natAbs, 0) := by
  have absent (x : XVal) (odd : ∀ s m, x ≠ .fin s m) : x ∉ xs := fun mem => by
    obtain ⟨s, m, eq⟩ := finite x mem
    exact odd s m eq
  have noNan := Bool.eq_false_iff.mpr (mt any_isNan_iff.mp (absent .nan nofun))
  have noInf (s : Bool) := Bool.eq_false_iff.mpr (mt any_isInf_iff.mp (absent (.inf s) nofun))
  have sum : xs.foldl (fun s x => s + x.toInt) (0 : Int) = (xs.map Claims.units).sum := by
    simp only [XVal.toInt_eq_units]
    rw [← List.foldl_map (f := Claims.units) (g := fun s x => s + x), ← List.sum_eq_foldl]
  simp [exactSum, noNan, noInf, sum]

theorem exactSum_of_finite_ne_zero (finite : ∀ x ∈ xs, ∃ s m, x = XVal.fin s m) (nonzero : (xs.map Claims.units).sum ≠ 0) :
    exactSum rm xs = (.fin (decide ((xs.map Claims.units).sum < 0)) (xs.map Claims.units).sum.natAbs, 0) :=
  (exactSum_of_finite finite).trans (if_neg nonzero)

theorem exactSum_of_finite_zero (finite : ∀ x ∈ xs, ∃ s m, x = XVal.fin s m) (zero : (xs.map Claims.units).sum = 0) :
    exactSum rm xs = (.fin (if ∀ x ∈ xs, x = .fin true 0 then true else if ∀ x ∈ xs, x = .fin false 0 then false
      else decide (rm = .rdn)) 0, 0) := by
  rw [exactSum_of_finite finite, if_pos zero]
  simp only [List.all_eq_true, isZero_iff]
  split
  · rfl
  · split <;> rfl

end

/-! ## Products (04 R96) -/

/-- The product of two finite values of the formats is a whole number of units. -/
theorem exactProd_finite {f g : FFmt} {a b : Nat} {s u : Bool} {m n : Nat} (left : valueOf f a = .fin s m)
    (right : valueOf g b = .fin u n) : ∃ p, exactProd (.fin s m) (.fin u n) = (.fin (s != u) p, 0) ∧ p * 2 ^ unitExp = m * n := by
  refine ⟨_, rfl, Nat.div_mul_cancel ?_⟩
  obtain ⟨-, -, rfl⟩ := finite_of_valueOf left
  obtain ⟨-, -, rfl⟩ := finite_of_valueOf right
  refine (pow_dvd_pow 2 ?_).trans ((pow_add 2 (subExp f) (subExp g)).symm ▸ mul_dvd_mul (dvd_magUnits f _) (dvd_magUnits g _))
  have := subExp_ge f
  have := subExp_ge g
  unfold unitExp
  omega

@[simp] theorem exactProd_nan_left (y : XVal) : exactProd .nan y = (.nan, 0) := rfl

@[simp] theorem exactProd_nan_right (x : XVal) : exactProd x .nan = (.nan, 0) := by cases x <;> rfl

theorem claims_sumsAndProducts : Claims.SumsAndProducts := by
  refine ⟨fun rm xs _ => ⟨exactSum_of_nan, exactSum_of_infs, fun s => exactSum_of_inf, exactSum_of_finite_ne_zero,
    exactSum_of_finite_zero⟩, fun f g a b => ⟨fun s m u n => by
    simpa only [unitExp] using exactProd_finite, fun x y s u m => ?_⟩⟩
  refine ⟨rfl, exactProd_nan_right x, rfl, rfl, rfl, fun pos => ⟨if_neg pos.ne', ?_⟩⟩
  rw [bne_comm]
  exact if_neg pos.ne'

/-! ## FP32 words -/

/-- A result as `Claims.Rounds` reads it. -/
abbrev Rounds32 (rm : Rm) (x : ℝ) (neg : Bool) (p : Word × FFlags) : Prop := Claims.Rounds .fp32 false rm x neg p.1.toNat p.2

theorem toNat_round32 (rm : Rm) (x : XVal) : (round32 rm x).1.toNat = (roundTo .fp32 rm x).1 :=
  Nat.mod_eq_of_lt (roundTo_lt .fp32 rm x)

theorem round32_rounds (rm : Rm) (neg : Bool) (m : Nat) :
    Rounds32 rm (signed neg ((m : ℝ) / 2 ^ 298)) neg (round32 rm (.fin neg m)) := by
  rw [Rounds32, toNat_round32]
  exact roundTo_rounds .fp32 rm neg m

theorem round32_zero (rm : Rm) (neg : Bool) : Rounds32 rm 0 neg (round32 rm (.fin neg 0)) := by
  simpa using round32_rounds rm neg 0

theorem signed_natAbs (t : Int) : signed (decide (t < 0)) (t.natAbs : ℝ) = t := by
  rcases lt_or_ge t 0 with neg | pos
  · simp [signed, neg, abs_of_neg (show (t : ℝ) < 0 by exact_mod_cast neg)]
  · simp [signed, not_lt.mpr pos, abs_of_nonneg (show (0 : ℝ) ≤ t by exact_mod_cast pos)]

/-- Rounding a nonzero whole number of units. -/
theorem round32_int (rm : Rm) {t : Int} (nonzero : t ≠ 0) (neg : Bool) :
    Rounds32 rm ((t : ℝ) / 2 ^ 298) neg (round32 rm (.fin (decide (t < 0)) t.natAbs)) := by
  have rounds := round32_rounds rm (decide (t < 0)) t.natAbs
  rw [signed_div, signed_natAbs] at rounds
  exact rounds_of_ne_zero (div_ne_zero (by exact_mod_cast nonzero) (by positivity)) rounds

theorem val32_sign {w : Word} {s : Bool} {m : Nat} (value : val32 w = .fin s m) : w.getLsbD 31 = s :=
  (finite_of_valueOf value).2.1.symm

/-- An encoding is its magnitude and its sign bit. -/
theorem split_encoding {f : FFmt} {b : Nat} (fits : b < 2 ^ f.width) :
    b = b % 2 ^ (f.width - 1) + signBit f (b.testBit (f.width - 1)) := by
  have twice : 2 ^ f.width = 2 * 2 ^ (f.width - 1) := by rw [← Nat.pow_succ']; congr 1; have := width_pos f; omega
  have parts := Nat.div_add_mod b (2 ^ (f.width - 1))
  have top : b / 2 ^ (f.width - 1) < 2 := by rw [Nat.div_lt_iff_lt_mul (Nat.two_pow_pos _)]; omega
  rw [signBit_eq, Nat.testBit_eq_decide_div_mod_eq, Nat.mod_eq_of_lt top]
  interval_cases h : b / 2 ^ (f.width - 1) 
  · simp_all
  · simp_all; omega

/-- The word of an infinity. -/
theorem val32_inf {w : Word} {s : Bool} (value : val32 w = .inf s) : w = if s then 0xFF800000 else 0x7F800000 := by
  have parts := split_encoding (f := .fp32) w.isLt
  have mag : w.toNat % 2 ^ 31 = infEnc .fp32 ∧ w.toNat.testBit 31 = s := by
    rw [val32, valueOf_eq] at value
    split at value
    · cases value
    · split at value
      next inf => exact ⟨eq_of_beq inf, XVal.inf.inj value⟩
      · cases value
  apply BitVec.eq_of_toNat_eq
  rw [parts]
  simp only [FFmt.width, mag]
  cases s <;> rfl

/-! ## Sums of two -/

section
variable {rm : Rm} {s u : Bool} {m n : Nat}

theorem finite_pair (s u : Bool) (m n : Nat) : ∀ x ∈ [XVal.fin s m, .fin u n], ∃ s m, x = .fin s m := by simp

theorem exactSum_pair_of_ne_zero (nonzero : Claims.units (.fin s m) + Claims.units (.fin u n) ≠ 0) :
    exactSum rm [.fin s m, .fin u n] = (.fin (decide (Claims.units (.fin s m) + Claims.units (.fin u n) < 0))
      (Claims.units (.fin s m) + Claims.units (.fin u n)).natAbs, 0) := by
  have sum : ([XVal.fin s m, .fin u n].map Claims.units).sum = Claims.units (.fin s m) + Claims.units (.fin u n) := by simp
  have exact := exactSum_of_finite_ne_zero (rm := rm) (finite_pair s u m n) (by rwa [sum])
  rwa [sum] at exact

theorem exactSum_pair_of_cancel (zero : Claims.units (.fin s m) + Claims.units (.fin u n) = 0)
    (nonzero : Claims.units (.fin s m) ≠ 0 ∨ Claims.units (.fin u n) ≠ 0) :
    exactSum rm [.fin s m, .fin u n] = (.fin (decide (rm = .rdn)) 0, 0) := by
  have pos : m ≠ 0 := by
    rintro rfl
    cases s <;> cases u <;> simp_all [Claims.units]
  rw [exactSum_of_finite_zero (finite_pair s u m n) (by simpa using zero)]
  simp [pos]

theorem exactSum_zeros : exactSum rm [.fin s 0, .fin u 0] = (.fin (if s = u then s else decide (rm = .rdn)) 0, 0) := by
  rw [exactSum_of_finite_zero (finite_pair s u 0 0) (by cases s <;> cases u <;> rfl)]
  cases s <;> cases u <;> simp

theorem units_eq_zero_iff : Claims.units (.fin s m) = 0 ↔ m = 0 := by cases s <;> simp [Claims.units]

end

/-! ## FADD, FMUL, FMA, FDIV, FSQRT of finite operands (06 R139, R140; 04 R87, R89) -/

theorem cast_unit : ((2 ^ unitExp : Nat) : ℝ) = 2 ^ 298 := Nat.cast_pow 2 unitExp

theorem signed_mul_signed (s u : Bool) (x y : ℝ) : signed s x * signed u y = signed (s != u) (x * y) := by
  cases s <;> cases u <;> simp [signed]

theorem signed_div_signed (s u : Bool) (x y : ℝ) : signed s x / signed u y = signed (s != u) (x / y) := by
  cases s <;> cases u <;> simp [signed, neg_div, div_neg]

/-- The word of an encoding that rounds a value. -/
theorem rounds32_of_nat {rm : Rm} {x : ℝ} {neg : Bool} {y : Nat} {fl : FFlags} (fits : y < 2 ^ 32)
    (h : Claims.Rounds .fp32 false rm x neg y fl) : Rounds32 rm x neg (BitVec.ofNat 32 y, fl) := by
  rw [Rounds32, BitVec.toNat_ofNat, Nat.mod_eq_of_lt fits]
  exact h

section
variable {rm : Rm} {s u : Bool} {m n : Nat}

theorem addX_of_sum {x y t : XVal} (sum : exactSum rm [x, y] = (t, 0)) : addX rm x y = round32 rm t := by
  simp [addX, sum]

theorem addX_rounds (nonzero : Claims.units (.fin s m) + Claims.units (.fin u n) ≠ 0) (neg : Bool) :
    Rounds32 rm (((Claims.units (.fin s m) + Claims.units (.fin u n) : Int) : ℝ) / 2 ^ 298) neg (addX rm (.fin s m) (.fin u n)) := by
  rw [addX_of_sum (exactSum_pair_of_ne_zero nonzero)]
  exact round32_int rm nonzero neg

theorem addX_cancels (zero : Claims.units (.fin s m) + Claims.units (.fin u n) = 0) (nonzero : Claims.units (.fin s m) ≠ 0) :
    Rounds32 rm 0 (decide (rm = .rdn)) (addX rm (.fin s m) (.fin u n)) := by
  rw [addX_of_sum (exactSum_pair_of_cancel zero (.inl nonzero))]
  exact round32_zero rm _

theorem addX_zeros : Rounds32 rm 0 (if s = u then s else decide (rm = .rdn)) (addX rm (.fin s 0) (.fin u 0)) := by
  rw [addX_of_sum exactSum_zeros]
  exact round32_zero rm _

theorem cast_product {p : Nat} (exact : p * 2 ^ unitExp = m * n) : (p : ℝ) * 2 ^ 298 = m * n := by
  rw [← cast_unit]
  exact_mod_cast exact

theorem mulX_rounds {p : Nat} (prod : exactProd (.fin s m) (.fin u n) = (.fin (s != u) p, 0)) (exact : p * 2 ^ unitExp = m * n) :
    Rounds32 rm (((Claims.units (.fin s m) * Claims.units (.fin u n) : Int) : ℝ) / (2 ^ 298) ^ 2) (s != u)
      (mulX rm (.fin s m) (.fin u n)) := by
  have value : ((Claims.units (.fin s m) * Claims.units (.fin u n) : Int) : ℝ) / (2 ^ 298) ^ 2 = signed (s != u) ((p : ℝ) / 2 ^ 298) := by
    rw [Int.cast_mul, units_fin, units_fin, signed_mul_signed, ← cast_product exact, ← signed_div]
    congr 1
    field_simp
  have result : mulX rm (.fin s m) (.fin u n) = round32 rm (.fin (s != u) p) := by simp [mulX, prod]
  rw [value, result]
  exact round32_rounds rm _ p

theorem fmaX_of_finite {np : Bool} {z t : XVal} {p : Nat} (prod : exactProd (.fin s m) (.fin u n) = (.fin (s != u) p, 0))
    (sum : exactSum rm [.fin ((s != u) != np) p, z] = (t, 0)) : fmaX rm np (.fin s m) (.fin u n) z = round32 rm t := by
  have sign : (if np then (XVal.fin (s != u) p).neg else .fin (s != u) p) = .fin ((s != u) != np) p := by
    cases np <;> simp [XVal.neg]
  simp only [fmaX, prod, sign, sum]
  simp

/-- The exact value of a multiply-add. -/
theorem fma_value (np : Bool) {p : Nat} (exact : p * 2 ^ unitExp = m * n) (c : Int) :
    (((if np then -1 else 1) * (Claims.units (.fin s m) * Claims.units (.fin u n)) : Int) : ℝ) / (2 ^ 298) ^ 2 + (c : ℝ) / 2 ^ 298 =
      ((Claims.units (.fin ((s != u) != np) p) + c : Int) : ℝ) / 2 ^ 298 := by
  have factor : ((if np then -1 else 1 : Int) : ℝ) = signed np 1 := by cases np <;> simp [signed]
  rw [Int.cast_mul, Int.cast_mul, factor, units_fin, units_fin, signed_mul_signed, signed_mul_signed, ← cast_product exact, one_mul,
    bne_comm, Int.cast_add, units_fin, signed_mul]
  field_simp

/-- FDIV by a divisor that is not zero. (The quotient is split and not computed, for the kernel would unfold the unit.) -/
theorem divX_of_ne_zero (nonzero : n ≠ 0) : divX rm (.fin s m) (.fin u n) =
    wordFlags (roundFin .fp32 rm (s != u) (m * 2 ^ unitExp / n) (m * 2 ^ unitExp % n != 0)) := by
  rw [divX, if_neg nonzero]
  extract_lets q
  split
  next e fl rounded =>
    have rounded : roundFin .fp32 rm (s != u) (m * 2 ^ unitExp / n) (m * 2 ^ unitExp % n != 0) = (e, fl) := rounded
    rw [rounded]
    rfl

theorem divX_rounds (nonzero : n ≠ 0) : Rounds32 rm ((Claims.units (.fin s m) : ℝ) / (Claims.units (.fin u n) : ℝ)) (s != u)
    (divX rm (.fin s m) (.fin u n)) := by
  have stands := stands_div (m * 2 ^ unitExp) (Nat.pos_of_ne_zero nonzero)
  have rounds := roundFin_rounds .fp32 rm (s != u) stands
  have value : (Claims.units (.fin s m) : ℝ) / (Claims.units (.fin u n) : ℝ) =
      signed (s != u) (((m * 2 ^ unitExp : Nat) : ℝ) / n / 2 ^ 298) := by
    rw [units_fin, units_fin, signed_div_signed, Nat.cast_mul, cast_unit]
    congr 1
    field_simp
  rw [value, divX_of_ne_zero nonzero]
  exact rounds32_of_nat (roundFin_lt .fp32 rm _ _ _) rounds

end

/-! ## The integer square root -/

theorem isqrtFrom_spec {n r k : Nat} (low : r * r ≤ n) (high : n < (r + 2 ^ k) * (r + 2 ^ k)) :
    isqrtFrom n r k * isqrtFrom n r k ≤ n ∧ n < (isqrtFrom n r k + 1) * (isqrtFrom n r k + 1) := by
  induction k generalizing r with
  | zero => exact ⟨low, by simpa [isqrtFrom] using high⟩
  | succ k ih =>
    unfold isqrtFrom
    dsimp only
    split
    next fits => exact ih fits (by rw [Nat.add_assoc, ← Nat.two_mul, ← Nat.pow_succ']; exact high)
    next passes => exact ih low (Nat.lt_of_not_le passes)

theorem isqrt_eq_sqrt (n : Nat) : isqrt n = n.sqrt := by
  have bound : n < (0 + 2 ^ (Nat.log2 n / 2 + 1)) * (0 + 2 ^ (Nat.log2 n / 2 + 1)) := by
    rw [Nat.zero_add, ← Nat.pow_add]
    exact Nat.lt_log2_self.trans_le (Nat.pow_le_pow_right two_pos (by omega))
  exact Nat.eq_sqrt.mpr (isqrtFrom_spec (Nat.zero_le n) bound)

/-- FSQRT of a positive value. -/
theorem sqrtX_of_pos {rm : Rm} {m : Nat} (pos : 0 < m) : sqrtX rm (.fin false m) =
    wordFlags (roundFin .fp32 rm false (isqrt (m * 2 ^ unitExp)) (isqrt (m * 2 ^ unitExp) * isqrt (m * 2 ^ unitExp) != m * 2 ^ unitExp)) := by
  rw [sqrtX, if_neg pos.ne', if_neg Bool.false_ne_true]
  extract_lets n r
  split
  next e fl rounded =>
    have rounded : roundFin .fp32 rm false (isqrt (m * 2 ^ unitExp))
      (isqrt (m * 2 ^ unitExp) * isqrt (m * 2 ^ unitExp) != m * 2 ^ unitExp) = (e, fl) := rounded
    rw [rounded]
    rfl

theorem sqrtX_rounds (rm : Rm) (s : Bool) {m : Nat} (nonneg : 0 ≤ Claims.units (.fin s m)) :
    Rounds32 rm (Real.sqrt ((Claims.units (.fin s m) : ℝ) / 2 ^ 298)) s (sqrtX rm (.fin s m)) := by
  rcases Nat.eq_zero_or_pos m with rfl | pos
  · have zero : Claims.units (.fin s 0) = 0 := units_eq_zero_iff.mpr rfl
    simpa [zero, sqrtX] using round32_zero rm s
  obtain rfl : s = false := by
    cases s
    · rfl
    · simp [Claims.units] at nonneg; omega
  have rounds := roundFin_rounds .fp32 rm false (stands_sqrt (m * 2 ^ unitExp))
  have value : Real.sqrt ((Claims.units (.fin false m) : ℝ) / 2 ^ 298) =
      signed false (Real.sqrt (m * 2 ^ unitExp : Nat) / 2 ^ 298) := by
    have square : ((m * 2 ^ unitExp : Nat) : ℝ) = m / 2 ^ 298 * (2 ^ 298 * 2 ^ 298) := by
      rw [Nat.cast_mul, cast_unit]
      field_simp
    rw [square, Real.sqrt_mul (by positivity), Real.sqrt_mul_self (by positivity), mul_div_assoc, div_self (by positivity), mul_one,
      units_fin]
    simp [signed]
  rw [value, sqrtX_of_pos pos, isqrt_eq_sqrt]
  exact rounds32_of_nat (roundFin_lt .fp32 rm _ _ _) rounds

/-! ## NaNs, infinities and zeros (04 R87, R89; 06 R139-R143) -/

theorem units_neg (s : Bool) (m : Nat) : Claims.units (.fin (!s) m) = -Claims.units (.fin s m) := by cases s <;> simp [Claims.units]

theorem round32_inf (rm : Rm) (s : Bool) : round32 rm (.inf s) = (if s then 0xFF800000 else 0x7F800000, 0) := by
  cases s <;> rfl

theorem round32_zero_eq (rm : Rm) (s : Bool) : round32 rm (.fin s 0) = (if s then 0x80000000 else 0, 0) := by
  cases s <;> rfl

section
variable {rm : Rm}

theorem addX_inf_right (s u : Bool) (m : Nat) : addX rm (.fin s m) (.inf u) = (if u then 0xFF800000 else 0x7F800000, 0) :=
  (addX_of_sum (exactSum_of_inf (s := u) (by simp) (by simp) (by simp))).trans (round32_inf rm u)

theorem addX_inf_left (s u : Bool) (m : Nat) : addX rm (.inf u) (.fin s m) = (if u then 0xFF800000 else 0x7F800000, 0) :=
  (addX_of_sum (exactSum_of_inf (s := u) (by simp) (by simp) (by simp))).trans (round32_inf rm u)

theorem addX_infs (u : Bool) : addX rm (.inf u) (.inf u) = (if u then 0xFF800000 else 0x7F800000, 0) :=
  (addX_of_sum (exactSum_of_inf (s := u) (by simp) (by simp) (by simp))).trans (round32_inf rm u)

theorem addX_inf_minus_inf (u : Bool) : addX rm (.inf u) (XVal.inf u).neg = (0x7FC00000, fNV) := by
  have sum : exactSum rm [.inf u, (XVal.inf u).neg] = (.nan, fNV) := by
    cases u <;> exact exactSum_of_infs (by simp [XVal.neg]) (by simp [XVal.neg]) (by simp [XVal.neg])
  rw [addX, sum]
  rfl

theorem addX_nan {x y : XVal} (nan : x = .nan ∨ y = .nan) : addX rm x y = (0x7FC00000, 0) := by
  have mem : XVal.nan ∈ [x, y] := by rcases nan with rfl | rfl <;> simp
  exact addX_of_sum (exactSum_of_nan mem)

theorem mulX_inf (s u : Bool) (m : Nat) : mulX rm (.fin s m) (.inf u) =
    if Claims.units (.fin s m) = 0 then (0x7FC00000, fNV) else (if s != u then 0xFF800000 else 0x7F800000, 0) := by
  simp only [units_eq_zero_iff, mulX, exactProd]
  split
  · simp [round32, roundTo, canonNaN]
  · simp [round32_inf]

theorem fmaX_nan (x y : XVal) : fmaX rm false x y .nan = (0x7FC00000, (exactProd x y).2) := by
  have sum (p : XVal) : exactSum rm [p, .nan] = (.nan, 0) := exactSum_of_nan (by simp)
  simp only [fmaX, sum, round32]
  simp [roundTo, canonNaN]

end

theorem claims_arithmeticRounds : Claims.ArithmeticRounds := by
  unfold Claims.ArithmeticRounds
  intro fin u unit neg canon rounds zero rm a b c ⟨s, m, va⟩
  have sign (w : Word) {s : Bool} {m : Nat} (v : val32 w = .fin s m) : neg w = s := val32_sign v
  simp only [u, va, sign a va]
  refine ⟨?_, ?_, ?_, ?_, ?_, ?_, ?_, ?_, ?_, ?_, ?_, ?_⟩
  · rintro ⟨t, n, vb⟩ nonzero
    rw [vb] at nonzero ⊢
    exact addX_rounds nonzero false
  · rintro ⟨t, n, vb⟩ nonzero
    rw [vb] at nonzero ⊢
    rw [sub_eq_add_neg, ← units_neg] at nonzero ⊢
    exact addX_rounds nonzero false
  · rintro ⟨t, n, vb⟩ zero nonzero
    rw [vb] at zero ⊢
    exact addX_cancels zero nonzero
  · rintro ⟨t, n, vb⟩ left right
    rw [vb] at right ⊢
    rw [sign b vb]
    obtain rfl := units_eq_zero_iff.mp left
    obtain rfl := units_eq_zero_iff.mp right
    exact addX_zeros
  · rintro ⟨t, n, vb⟩
    obtain ⟨p, prod, exact⟩ := exactProd_finite va vb
    rw [vb, sign b vb]
    exact mulX_rounds prod exact
  · rintro ⟨t, n, vb⟩ ⟨v, k, vc⟩ np
    obtain ⟨p, prod, exact⟩ := exactProd_finite va vb
    simp only [vb, vc, sign b vb, sign c vc, unit, fma_value np exact]
    have zero_iff : ((Claims.units (.fin ((s != t) != np) p) + Claims.units (.fin v k) : Int) : ℝ) / 2 ^ 298 = 0 ↔
        Claims.units (.fin ((s != t) != np) p) + Claims.units (.fin v k) = 0 := by
      rw [div_eq_zero_iff, or_iff_left (by positivity), Int.cast_eq_zero]
    rw [Ne, zero_iff]
    refine ⟨fun nonzero => ?_, fun cancel nonzero => ?_, fun cancel none => ?_⟩
    · rw [fmaX_of_finite prod (exactSum_pair_of_ne_zero nonzero)]
      exact round32_int rm nonzero false
    · rw [fmaX_of_finite prod (exactSum_pair_of_cancel cancel (.inr nonzero))]
      exact round32_zero rm _
    · rw [none, add_zero] at cancel
      obtain rfl := units_eq_zero_iff.mp none
      obtain rfl := units_eq_zero_iff.mp cancel
      rw [fmaX_of_finite prod exactSum_zeros]
      exact round32_zero rm _
  · rintro ⟨t, n, vb⟩ nonzero
    rw [vb] at nonzero ⊢
    rw [sign b vb]
    exact divX_rounds (mt units_eq_zero_iff.mpr nonzero)
  · rintro zero ⟨t, n, vb⟩
    rw [vb] at zero ⊢
    rw [sign b vb]
    obtain rfl := units_eq_zero_iff.mp zero
    refine ⟨fun nonzero => ?_, fun none => ?_⟩
    · simp [divX, mt units_eq_zero_iff.mpr nonzero, round32_inf]
    · simp [divX, units_eq_zero_iff.mp none, canon]
  · exact sqrtX_rounds rm s
  · intro below
    obtain ⟨rfl, pos⟩ : s = true ∧ m ≠ 0 := by
      cases s <;> simp [Claims.units] at below ⊢ <;> omega
    simp [sqrtX, pos, canon]
  · intro t vb
    have word : b = if t then 0xFF800000 else 0x7F800000 := val32_inf vb
    simp only [vb, ← word, addX_inf_right, addX_inf_left, addX_infs, addX_inf_minus_inf, mulX_inf]
    refine ⟨trivial, trivial, rfl, ?_, ?_, rfl, trivial, rfl, ?_⟩
    · exact round32_zero_eq rm _
    · rw [bne_comm]
      exact round32_inf rm _
    · cases t <;> simp [sqrtX, word, canon, round32_inf]
  · intro vb
    rw [vb]
    exact ⟨addX_nan (.inr rfl), addX_nan (.inl rfl), rfl, fmaX_nan _ _, rfl, rfl, rfl⟩

end Sys2Proof.Machine

/-!
Whole numbers, conversions, packed halves and dot products (04 R90, R91, R97; 06 R144, R147-R153).
-/

namespace Sys2Proof.Machine

/-! ## Magnitudes that a format has (04 R78, R85) -/

theorem subExp_fp32 : subExp .fp32 = 149 := rfl

theorem fracBits_fp32 : fracBits .fp32 = 23 := rfl

/-- A multiple of the smallest magnitude by few significant bits is a magnitude of the format, were it not for its range. -/
theorem exists_magUnits {f : FFmt} {c q : Nat} (low : c ≤ 2 ^ (fracBits f + 1)) (least : subExp f ≤ q) :
    ∃ e, magUnits f e = c * 2 ^ q := by
  obtain ⟨j, rfl⟩ := Nat.exists_eq_add_of_le least
  induction j generalizing c with
  | zero => exact ⟨_, magUnits_add (j := 0) low (.inl rfl)⟩
  | succ j ih =>
    rcases Nat.lt_or_ge c (2 ^ fracBits f) with small | normal
    · obtain ⟨e, value⟩ := ih (c := 2 * c) (by rw [Nat.pow_succ]; omega) (by omega)
      exact ⟨e, by rw [value, ← Nat.add_assoc, Nat.pow_succ]; ring⟩
    · exact ⟨_, magUnits_add (j := j + 1) low (.inr normal)⟩

/-- Every mode takes the one whole number that is the value. -/
theorem nearest_int_iff {rm : Rm} {n k : Int} : Claims.Nearest rm n k ↔ k = n := by
  cases rm <;> simp [Claims.Nearest]

theorem dvd_two_pow_roundExp (f : FFmt) (e : Nat) : 2 ^ roundExp f (magUnits f e) ∣ magUnits f e := by
  obtain ⟨j, k, rfl, low, normal⟩ := exists_binade f e
  rw [magUnits_add low.le normal]
  refine (pow_dvd_pow 2 ?_).mul_left k
  rcases Nat.eq_zero_or_pos k with rfl | pos
  · simp [roundExp]
  have log : Nat.log2 (k * 2 ^ (subExp f + j)) < fracBits f + 1 + (subExp f + j) := by
    rw [Nat.log2_lt (Nat.mul_pos pos (Nat.two_pow_pos _)).ne', Nat.pow_add 2 (fracBits f + 1)]
    exact Nat.mul_lt_mul_of_pos_right low (Nat.two_pow_pos _)
  unfold roundExp
  omega

/-- Rounding a magnitude that the format has leaves it. -/
theorem roundUnbounded_magUnits (f : FFmt) (rm : Rm) (neg : Bool) (e : Nat) :
    (roundUnbounded f rm neg (magUnits f e) false).1 = e ∧ (roundUnbounded f rm neg (magUnits f e) false).2.1 = false := by
  obtain ⟨k, nearest, mag, exact, -⟩ := roundUnbounded_spec f rm neg (stands_nat (magUnits f e))
  obtain ⟨c, whole⟩ := dvd_two_pow_roundExp f e
  have value : (magUnits f e : ℝ) / 2 ^ roundExp f (magUnits f e) = c := by
    rw [div_eq_iff (by positivity), mul_comm]
    exact_mod_cast whole
  rw [value, ← units_fin, nearest_int_iff] at nearest
  obtain rfl : k = c := by cases neg <;> simp [Claims.units] at nearest <;> exact nearest
  have same : magUnits f (roundUnbounded f rm neg (magUnits f e) false).1 = magUnits f e := by rw [mag, mul_comm]; exact whole.symm
  have stays := (magUnits_strictMono f).injective same
  exact ⟨stays, exact.mpr (by rw [stays])⟩

/-- RoundTo of a value that the format has. -/
theorem roundTo_magUnits {f : FFmt} {e : Nat} (finite : e ≤ maxEnc f) (rm : Rm) (neg : Bool) :
    roundTo f rm (.fin neg (magUnits f e)) = (e + signBit f neg, 0) := by
  obtain ⟨stays, exact⟩ := roundUnbounded_magUnits f rm neg e
  rcases Nat.eq_zero_or_pos (magUnits f e) with zero | pos
  · have none : magUnits f 0 = 0 := by simp [magUnits]
    have : e = 0 := (magUnits_strictMono f).injective (zero.trans none.symm)
    subst this
    simp [roundTo, roundFin, none]
  · simp [roundTo, roundFin, pos.ne', stays, exact, not_lt.mpr finite]

theorem magUnits_maxEnc_fp32 : magUnits .fp32 (maxEnc .fp32) = (2 ^ 24 - 1) * 2 ^ 402 :=
  magUnits_add (f := .fp32) (j := 253) (k := 2 ^ 24 - 1) (Nat.sub_le _ _) (.inr (by rw [fracBits_fp32]; omega))

/-! ## FRINT and the conversions (06 R144, R149-R153; 04 R90, R91) -/

theorem roundInt_spec (rm : Rm) (s : Bool) (m : Nat) :
    Claims.Nearest rm ((Claims.units (.fin s m) : ℝ) / 2 ^ 298) (Claims.units (.fin s (roundInt rm s m).1)) ∧
      ((roundInt rm s m).2 = false ↔ ((Claims.units (.fin s (roundInt rm s m).1) : Int) : ℝ) = (Claims.units (.fin s m) : ℝ) / 2 ^ 298) ∧
      ((roundInt rm s m).1 = m / 2 ^ unitExp ∨ (roundInt rm s m).1 = m / 2 ^ unitExp + 1) := by
  obtain ⟨nearest, exact, near⟩ := roundQ_spec rm s (stands_nat m) (q := unitExp) (by decide)
  rw [units_fin s m, ← signed_div]
  refine ⟨nearest, ?_, near⟩
  rw [units_fin, signed_inj]
  exact exact.trans eq_comm

theorem nx_eq {rm : Rm} {s : Bool} {m : Nat} : (if (roundInt rm s m).2 then fNX else 0 : FFlags) =
    if ((Claims.units (.fin s (roundInt rm s m).1) : Int) : ℝ) = (Claims.units (.fin s m) : ℝ) / 2 ^ 298 then 0 else fNX := by
  obtain ⟨-, exact, -⟩ := roundInt_spec rm s m
  by_cases same : (roundInt rm s m).2 = false
  · rw [if_pos (exact.mp same), same]; rfl
  · rw [if_neg (mt exact.mpr same), if_pos (by simpa using same)]

theorem roundInt_of_dvd {rm : Rm} {s : Bool} {m : Nat} (whole : 2 ^ unitExp ∣ m) : (roundInt rm s m).1 * 2 ^ unitExp = m := by
  have rest := Nat.mod_eq_zero_of_dvd whole
  have half : 0 < 2 ^ unitExp / 2 := Nat.div_pos (Nat.le_self_pow (by decide) 2) two_pos
  have stays : (roundInt rm s m).1 = m / 2 ^ unitExp := by cases rm <;> simp [roundInt, roundQ, rest, half.ne]
  rw [stays, Nat.div_mul_cancel whole]

/-- An FP32 value rounded to a whole number is an FP32 value. -/
theorem exists_magUnits_roundInt (rm : Rm) (s : Bool) {e : Nat} (finite : e ≤ maxEnc .fp32) :
    ∃ e', e' ≤ maxEnc .fp32 ∧ magUnits .fp32 e' = (roundInt rm s (magUnits .fp32 e)).1 * 2 ^ unitExp := by
  obtain ⟨-, exact, near⟩ := roundInt_spec rm s (magUnits .fp32 e)
  obtain ⟨j, k, rfl, low, normal⟩ := exists_binade .fp32 e
  have mag := magUnits_add low.le normal
  rw [subExp_fp32] at mag
  rw [fracBits_fp32] at low
  rcases Nat.lt_or_ge j 149 with small | large
  · have part : magUnits .fp32 (j * 2 ^ fracBits .fp32 + k) / 2 ^ unitExp < 2 ^ 23 := by
      rw [mag, Nat.div_lt_iff_lt_mul (Nat.two_pow_pos _), ← Nat.pow_add]
      calc k * 2 ^ (149 + j) < 2 ^ 24 * 2 ^ (149 + j) := Nat.mul_lt_mul_of_pos_right low (Nat.two_pow_pos _)
        _ = 2 ^ (24 + (149 + j)) := (Nat.pow_add ..).symm
        _ ≤ 2 ^ (23 + unitExp) := Nat.pow_le_pow_right two_pos (by unfold unitExp; omega)
    have bound : (roundInt rm s (magUnits .fp32 (j * 2 ^ fracBits .fp32 + k))).1 ≤ 2 ^ 23 := by omega
    generalize (roundInt rm s (magUnits .fp32 (j * 2 ^ fracBits .fp32 + k))).1 = n at bound ⊢
    obtain ⟨e', value⟩ := exists_magUnits (f := .fp32) (c := n) (q := unitExp) (by rw [fracBits_fp32]; omega)
      (by rw [subExp_fp32]; unfold unitExp; omega)
    refine ⟨e', (magUnits_strictMono .fp32).le_iff_le.mp ?_, value⟩
    rw [value, magUnits_maxEnc_fp32]
    exact Nat.mul_le_mul (by omega) (Nat.pow_le_pow_right two_pos (by unfold unitExp; omega))
  · refine ⟨_, finite, (roundInt_of_dvd ?_).symm⟩
    rw [mag]
    exact (pow_dvd_pow 2 (by unfold unitExp; omega)).mul_left k

theorem frint32_of_finite {w : Word} {s : Bool} {m : Nat} (value : val32 w = .fin s m) (rm : Rm) :
    frint32 rm w = ((round32 .rtz (.fin s ((roundInt rm s m).1 * 2 ^ unitExp))).1, if (roundInt rm s m).2 then fNX else 0) := by
  rw [frint32, value]

theorem frint32_spec {w : Word} {s : Bool} {m : Nat} (value : val32 w = .fin s m) (rm : Rm) :
    let k := Claims.units (.fin s (roundInt rm s m).1)
    Claims.Nearest rm ((Claims.units (.fin s m) : ℝ) / 2 ^ 298) k ∧ Claims.Encodes .fp32 (frint32 rm w).1.toNat s k ∧
      (frint32 rm w).2 = if k = (Claims.units (.fin s m) : ℝ) / 2 ^ 298 then 0 else fNX := by
  obtain ⟨finite, -, mag⟩ := finite_of_valueOf value
  obtain ⟨e, most, whole⟩ := exists_magUnits_roundInt rm s finite
  rw [← mag] at whole
  have real : (((Claims.units (.fin s (roundInt rm s m).1) : Int)) : ℝ) = signed s ((magUnits .fp32 e : ℝ) / 2 ^ 298) := by
    rw [whole, units_fin, Nat.cast_mul, cast_unit, mul_div_assoc, div_self (by positivity), mul_one]
  refine ⟨(roundInt_spec rm s m).1, ?_, ?_⟩
  · rw [frint32_of_finite value, ← whole, toNat_round32, roundTo_magUnits most, real]
    exact encodes_signed most s
  · rw [frint32_of_finite value]
    exact nx_eq

theorem toIntX_fin (d : IFmt) (rm : Rm) (s : Bool) (m : Nat) : toIntX d rm (.fin s m) =
    let k := Claims.units (.fin s (roundInt rm s m).1)
    if k < intMin d then (intMin d, fNV) else if intMax d < k then (intMax d, fNV) else
      (k, if k = (Claims.units (.fin s m) : ℝ) / 2 ^ 298 then 0 else fNX) := by
  simp only [← nx_eq]
  rfl

theorem convIF_rounds (d : FFmt) (rm : Rm) (sat : Bool) (x : Int) :
    Claims.Rounds d sat rm x false (convIF d rm sat x).1 (convIF d rm sat x).2 := by
  have rounds := saturating_rounds d rm sat (decide (x < 0)) (x.natAbs * 2 ^ unitExp)
  rw [Nat.cast_mul, cast_unit, mul_div_assoc, div_self (by positivity), mul_one, signed_natAbs] at rounds
  by_cases zero : x = 0
  · subst zero
    exact rounds
  · exact rounds_of_ne_zero (by exact_mod_cast zero) rounds

theorem mod_of_claims {f : FFmt} {b : Nat} (fits : b < 2 ^ (Claims.format f).1) : b % 2 ^ f.width = b := by
  rw [claims_format_eq] at fits
  exact Nat.mod_eq_of_lt fits

theorem convFF_same (f : FFmt) (rm : Rm) (sat : Bool) {b : Nat} (fits : b < 2 ^ (Claims.format f).1) :
    convFF f f rm sat b = (if valueOf f b = .nan then canonNaN f else b, 0) := by
  have nan : (valueOf f b).isNan = decide (valueOf f b = .nan) := by cases valueOf f b <;> rfl
  rw [convFF, if_pos rfl, nan, mod_of_claims fits]
  by_cases h : valueOf f b = .nan <;> simp [h]

section
variable {d f : FFmt} (rm : Rm) (sat : Bool) {b : Nat}

theorem convFF_nan (ne : d ≠ f) (nan : valueOf f b = .nan) : convFF d f rm sat b = (canonNaN d, if d = .e2m1 then fNV else 0) := by
  rw [convFF, if_neg ne, nan]
  cases d <;> rfl

theorem convFF_inf (ne : d ≠ f) {s : Bool} (inf : valueOf f b = .inf s) : convFF d f rm sat b =
    if sat = true ∨ d = .e2m1 then (maxEnc d + signBit d s, fNV) else if d = .e4m3 then (0x7F, fNV)
      else (maxEnc d + 1 + signBit d s, 0) := by
  rw [convFF, if_neg ne, inf]
  cases d <;> cases sat <;> simp [infEnc, maxEnc, canonNaN]

theorem convFF_rounds (ne : d ≠ f) {s : Bool} {m : Nat} (value : valueOf f b = .fin s m) :
    Claims.Rounds d sat rm ((Claims.units (.fin s m) : ℝ) / 2 ^ 298) s (convFF d f rm sat b).1 (convFF d f rm sat b).2 := by
  rw [convFF, if_neg ne, value, units_fin, ← signed_div]
  exact saturating_rounds d rm sat s m

end

/-! ## Packed halves and dot products (04 R97; 06 R147, R148) -/

/-- The two halves of a packed result. -/
theorem packed2_halves {f : FFmt} (half : f = .fp16 ∨ f = .bf16) (rm : Rm) (op : Rm → XVal → XVal → XVal → XVal × FFlags) (a b c : Word) :
    let y := fun i => roundTo f rm (op rm (valueOf f (subElem a 16 i)) (valueOf f (subElem b 16 i)) (valueOf f (subElem c 16 i))).1
    (packed2 f rm op a b c).1.toNat % 2 ^ 16 = (y 0).1 ∧ (packed2 f rm op a b c).1.toNat / 2 ^ 16 = (y 1).1 := by
  intro y
  have fits (i : Nat) : (y i).1 < 2 ^ 16 := by
    have lt := roundTo_lt f rm (op rm (valueOf f (subElem a 16 i)) (valueOf f (subElem b 16 i)) (valueOf f (subElem c 16 i))).1
    rcases half with rfl | rfl <;> exact lt
  have word : (packed2 f rm op a b c).1.toNat = ((y 1).1 * 65536 + (y 0).1) % 2 ^ 32 := BitVec.toNat_ofNat ..
  have low := fits 0
  have high := fits 1
  omega

/-- The sum of the products and the addend, in units. -/
theorem units_sum_products {n : Nat} {p : Nat → XVal} {t : Nat → Int} {c : Int} {z : XVal}
    (exact : ∀ i < n, Claims.units (p i) * 2 ^ unitExp = t i) (addend : Claims.units z = c) :
    (((List.range n).map p ++ [z]).map Claims.units).sum * 2 ^ unitExp = ((List.range n).map t).sum + c * 2 ^ unitExp := by
  have terms : ((List.range n).map fun i => Claims.units (p i) * 2 ^ unitExp) = (List.range n).map t :=
    List.map_congr_left fun i mem => exact i (List.mem_range.mp mem)
  rw [← terms, List.sum_map_mul_right, List.map_append, List.sum_append, Int.add_mul, List.map_map]
  simp [addend, Function.comp_def]

theorem foldl_or_zero {α : Type} {xs : List α} {g : α → FFlags} (zero : ∀ x ∈ xs, g x = 0) (f : FFlags) :
    xs.foldl (fun f x => f ||| g x) f = f := by
  induction xs with
  | nil => rfl
  | cons x xs ih =>
    have stays : f ||| g x = f := by rw [zero x List.mem_cons_self]; exact BitVec.or_zero
    rw [List.foldl_cons, stays]
    exact ih fun y mem => zero y (List.mem_cons_of_mem x mem)

/-- Each product of two finite sub-elements is finite and exact. -/
theorem exactProd_units {f g : FFmt} {a b : Nat} (left : ∃ s m, valueOf f a = .fin s m) (right : ∃ s m, valueOf g b = .fin s m) :
    (∃ s m, (exactProd (valueOf f a) (valueOf g b)).1 = .fin s m) ∧ (exactProd (valueOf f a) (valueOf g b)).2 = 0 ∧
      Claims.units (exactProd (valueOf f a) (valueOf g b)).1 * 2 ^ unitExp =
        Claims.units (valueOf f a) * Claims.units (valueOf g b) := by
  obtain ⟨s, m, va⟩ := left
  obtain ⟨u, n, vb⟩ := right
  obtain ⟨p, prod, exact⟩ := exactProd_finite va vb
  rw [va, vb, prod]
  refine ⟨⟨_, _, rfl⟩, rfl, ?_⟩
  have general (unit : Nat) (exact : p * unit = m * n) :
      Claims.units (.fin (s != u) p) * (unit : Int) = Claims.units (.fin s m) * Claims.units (.fin u n) := by
    have exact : (p : Int) * unit = m * n := by exact_mod_cast exact
    cases s <;> cases u <;> simp [Claims.units, exact]
  exact_mod_cast general (2 ^ unitExp) exact

theorem dotSum_float_rounds {n w : Nat} {fa fb : FFmt} (rm : Rm) {a b c : Word}
    (finite : ∀ i < n, (∃ s m, valueOf fa (subElem a w i) = .fin s m) ∧ ∃ s m, valueOf fb (subElem b w i) = .fin s m)
    (addend : ∃ s m, val32 c = .fin s m) {t : Int}
    (total : ((List.range n).map fun i => Claims.units (valueOf fa (subElem a w i)) * Claims.units (valueOf fb (subElem b w i))).sum +
      Claims.units (val32 c) * 2 ^ unitExp = t) (nonzero : t ≠ 0) (neg : Bool) :
    Rounds32 rm ((t : ℝ) / (2 ^ 298 * 2 ^ 298)) neg (dotSum (.float n w fa fb) rm a b c) := by
  let prod := fun i => exactProd (valueOf fa (subElem a w i)) (valueOf fb (subElem b w i))
  let xs := (List.range n).map (fun i => (prod i).1) ++ [val32 c]
  have products (i : Nat) (lt : i < n) := exactProd_units (finite i lt).1 (finite i lt).2
  have all : ∀ x ∈ xs, ∃ s m, x = XVal.fin s m := by
    intro x mem
    rcases List.mem_append.mp mem with mem | mem
    · obtain ⟨i, lt, rfl⟩ := List.mem_map.mp mem
      exact (products i (List.mem_range.mp lt)).1
    · rwa [List.mem_singleton.mp mem]
  have sum : (xs.map Claims.units).sum * 2 ^ unitExp = t :=
    (units_sum_products (fun i lt => (products i lt).2.2) rfl).trans total
  have some : (xs.map Claims.units).sum ≠ 0 := by
    intro zero
    rw [zero, Int.zero_mul] at sum
    exact nonzero sum.symm
  have value : (t : ℝ) / (2 ^ 298 * 2 ^ 298) = ((xs.map Claims.units).sum : ℝ) / 2 ^ 298 := by
    rw [← sum, Int.cast_mul, Int.cast_pow, Int.cast_ofNat]
    exact mul_div_mul_right _ _ (by positivity)
  have result : dotSum (.float n w fa fb) rm a b c =
      round32 rm (.fin (decide ((xs.map Claims.units).sum < 0)) (xs.map Claims.units).sum.natAbs) := by
    have exact := exactSum_of_finite_ne_zero (rm := rm) all some
    have flags (fl : FFlags) : ((List.range n).map prod).foldl (fun f x => f ||| x.2) fl = fl :=
      foldl_or_zero (fun x mem => by
        obtain ⟨i, lt, rfl⟩ := List.mem_map.mp mem
        exact (products i (List.mem_range.mp lt)).2.1) fl
    have terms : ((List.range n).map prod).map (·.1) ++ [val32 c] = xs := by rw [List.map_map]; rfl
    show ((round32 rm (exactSum rm (((List.range n).map prod).map (·.1) ++ [val32 c])).1).1, _) = _
    rw [flags, terms, exact]
    simp
  rw [value, result]
  exact round32_int rm some neg

theorem dotSum_int_eq (n w : Nat) (fa fb : IFmt) (rm : Rm) (a b c : Word) : dotSum (.int n w fa fb) rm a b c =
    (Spec.int (c.toInt + ((List.range n).map fun i => intVal fa (subElem a w i) * intVal fb (subElem b w i)).sum), 0) := by
  have sum (xs : List Nat) (g : Nat → Int) (t : Int) : xs.foldl (fun t i => t + g i) t = t + (xs.map g).sum := by
    induction xs generalizing t with
    | nil => simp
    | cons x xs ih => rw [List.foldl_cons, ih, List.map_cons, List.sum_cons, Int.add_assoc]
  show (BitVec.ofInt 32 _, _) = _
  rw [sum]
  rfl

theorem claims_conversionsRound : Claims.ConversionsRound := by
  unfold Claims.ConversionsRound
  intro canon real
  refine ⟨?_, ?_, dotSum_int_eq, ?_, ?_, convIF_rounds, ?_⟩
  · intro f rm op a b c half h x y p
    obtain ⟨low, high⟩ := packed2_halves half rm op a b c
    exact ⟨low, high, rfl⟩
  · intro n w fa fb rm a b c xa xb finite addend t p nonzero
    rw [show (596 : Nat) = 298 + 298 from rfl, pow_add]
    exact dotSum_float_rounds rm finite addend rfl nonzero false
  · intro rm w
    refine ⟨fun s m value => ⟨_, frint32_spec value rm⟩, fun s inf => ?_, fun nan => ?_⟩
    · rw [frint32, inf]
    · rw [frint32, nan]
  · exact fun d rm => ⟨rfl, fun s => rfl, fun s m => ⟨_, (roundInt_spec rm s m).1, toIntX_fin d rm s m⟩⟩
  · intro d f rm sat b fits v high
    have canonical (d : FFmt) : canonNaN d = canon d := by cases d <;> rfl
    have top (s : Bool) : high s = maxEnc d + signBit d s := by simp only [high, claims_format_eq, signBit_eq]
    refine ⟨?_, fun ne nan => ?_, fun ne s inf => ?_, fun ne s m value => convFF_rounds rm sat ne value⟩
    · rintro rfl
      rw [← canonical]
      exact convFF_same d rm sat fits
    · rw [← canonical]
      exact convFF_nan rm sat ne nan
    · rw [top, convFF_inf rm sat ne inf]
      simp only [claims_format_eq, signBit_eq]

theorem claims_floatArithmetic : Claims.FloatArithmetic :=
  ⟨claims_valuesRead, claims_roundsRight, claims_sumsAndProducts, claims_arithmeticRounds, claims_conversionsRound⟩

end Sys2Proof.Machine

/-!
The lanes that the floating-point instructions write (06 R136-R153, R161, R162).
-/

namespace Sys2Proof.Machine

/-- The flags of a mask's lanes together. -/
theorem getLsbD_foldl_or (ls : List Nat) (f : Nat → FFlags) (x : FFlags) (b : Nat) :
    (ls.foldl (fun x l => x ||| f l) x).getLsbD b = true ↔ x.getLsbD b = true ∨ ∃ l ∈ ls, (f l).getLsbD b = true := by
  induction ls generalizing x with
  | nil => simp
  | cons l ls ih => simp [ih, or_assoc]

theorem field_zero (x w : Nat) : Spec.field x 0 w = x % 2 ^ w := by simp [Spec.field]

/-- Each instruction that raises sticky flags is a group that writes its lanes and their flags, and waits for nothing of its own. -/
theorem exec_of_floats {s : State} {g : Issue} {r : Crew} {i : Instr} {d : VReg} {m : LaneMask} {f : Nat → Word × FFlags}
    (row : Spec.floats s r g.hints i = some (d, m, f)) :
    ∃ body : BodyFn, (∀ t, exec i t = runGroup i t noWait body) ∧ body s g r = flagLanes d m f s g r ∧ (i == .rett) = false := by
  cases i
  case cvtf | cvtfi | cvtif | reduce =>
    simp only [Spec.floats, Spec.parts, field_zero, List.filter_true, Option.some.injEq, Prod.mk.injEq] at row
    obtain ⟨rfl, rfl, rfl⟩ := row
    refine ⟨_, fun _ => rfl, ?_, rfl⟩
    rfl
  all_goals cases row
  all_goals exact ⟨_, fun _ => rfl, rfl, rfl⟩

theorem claims_floatLanes : Claims.FloatLanes := by
  intro s g r i d m f row runs seated
  obtain ⟨body, group, writes, notRett⟩ := exec_of_floats row
  refine ⟨s.mapLanes r d m fun l => (f l).1, r.flags ||| (lanesOf m).foldl (fun x l => x ||| (f l).2) 0,
    State.mapLanes_writes s r d m _ seated, fun b _ => ?_, (group s).trans (runs.issues.finish notRett rfl writes)⟩
  simp only [BitVec.getLsbD_or, Bool.or_eq_true, getLsbD_foldl_or, mem_lanesOf, and_assoc]
  simp

/-- Settles O19: each instruction is one write of its lanes, and each rounding is the integer rounding of a magnitude in units of 2^-298
that stands for the real value. -/
theorem floatLanes : Obligations.FloatLanes := ⟨claims_floatLanes, claims_floatArithmetic⟩

end Sys2Proof.Machine

/-!
A special function's result from an enclosure of the exact one (04 R104).
-/

namespace Sys2Proof.Machine

/-! ## Words and the reals they stand for -/

theorem encodes_of_val32 {w : Word} {s : Bool} {m : Nat} (value : val32 w = .fin s m) :
    Claims.Encodes .fp32 w.toNat s (signed s ((m : ℝ) / 2 ^ 298)) := by
  obtain ⟨finite, sign, mag⟩ := finite_of_valueOf value
  exact encodes_iff.mpr ⟨w.isLt, finite, sign, by rw [mag]⟩

theorem val32_of_encodes {w : Word} {s : Bool} {x : ℝ} (encodes : Claims.Encodes .fp32 w.toNat s x) :
    ∃ m, val32 w = .fin s m ∧ x = signed s ((m : ℝ) / 2 ^ 298) := by
  obtain ⟨-, finite, rfl, rfl⟩ := encodes_iff.mp encodes
  exact ⟨_, valueOf_finite finite, rfl⟩

/-! ## Rounding to nearest -/

theorem abs_sub_le_of_nearest {x : ℝ} {k : Int} (nearest : Claims.Nearest .rne x k) : |(k : ℝ) - x| ≤ 1 / 2 := by
  obtain rfl : k = _ := nearest
  have floor := Int.floor_le x
  have above := Int.lt_floor_add_one x
  split
  next low =>
    rw [abs_sub_comm, abs_of_nonneg (by linarith)]
    exact low.elim le_of_lt fun tie => tie.1.le
  next high =>
    have far : 1 / 2 ≤ x - ⌊x⌋ := not_lt.mp fun lt => high (.inl lt)
    have ceil : ((⌈x⌉ : Int) : ℝ) ≤ ⌊x⌋ + 1 := by exact_mod_cast Int.ceil_le_floor_add_one x
    rw [abs_of_nonneg (by linarith [Int.le_ceil x])]
    linarith

/-- A magnitude with something below its last unit. -/
theorem stands_half (m : Nat) : Stands m true (m + 1 / 2) := ⟨by linarith, by linarith, by simp⟩

theorem signed_sub (neg : Bool) (t u : ℝ) : signed neg (t - u) = signed neg t - signed neg u := mul_sub _ t u

theorem signed_add (neg : Bool) (t u : ℝ) : signed neg (t + u) = signed neg t + signed neg u := mul_add _ t u

/-- Rounding a magnitude, and a part below its unit, to the nearest FP32 value. -/
theorem roundFin_near {m : Nat} (neg : Bool) (below : m < (2 ^ 24 - 1) * 2 ^ 402) :
    ∃ v : ℝ, Claims.Encodes .fp32 (BitVec.ofNat 32 (roundFin .fp32 .rne neg m true).1).toNat neg (signed neg (v / 2 ^ 298)) ∧
      |v - (m + 1 / 2)| ≤ 2 ^ roundExp .fp32 m / 2 := by
  obtain ⟨k, nearest, mag, -, -⟩ := roundUnbounded_spec .fp32 .rne neg (stands_half m)
  have near := abs_sub_le_of_nearest nearest
  rw [units_fin, ← signed_sub, abs_signed] at near
  have spacing : roundExp .fp32 m ≤ 402 := by
    have log : Nat.log2 m < 426 := by
      rcases Nat.eq_zero_or_pos m with rfl | pos
      · simp
      · rw [Nat.log2_lt pos.ne']
        refine below.trans_le ?_
        rw [show 426 = 24 + 402 from rfl, Nat.pow_add]
        exact Nat.mul_le_mul_right _ (Nat.sub_le _ _)
    unfold roundExp
    rw [fracBits_fp32, subExp_fp32]
    omega
  obtain ⟨j, total⟩ := Nat.exists_eq_add_of_le spacing
  have most : k ≤ (2 ^ 24 - 1) * 2 ^ j := by
    have below : m < (2 ^ 24 - 1) * 2 ^ j * 2 ^ roundExp .fp32 m := by
      rw [Nat.mul_assoc, ← Nat.pow_add, Nat.add_comm, ← total]
      exact below
    generalize (2 ^ 24 - 1) * 2 ^ j = n at below ⊢
    have room : (m : ℝ) + 1 ≤ n * 2 ^ roundExp .fp32 m := by exact_mod_cast below
    have half : ((m : ℝ) + 1 / 2) / 2 ^ roundExp .fp32 m < n := by
      rw [div_lt_iff₀ (by positivity)]
      linarith
    have close : (k : ℝ) < n + 1 := by linarith [(abs_le.mp near).2]
    exact Nat.le_of_lt_succ (by exact_mod_cast close)
  have finite : (roundUnbounded .fp32 .rne neg m true).1 ≤ maxEnc .fp32 := by
    rw [← (magUnits_strictMono .fp32).le_iff_le, mag, magUnits_maxEnc_fp32, total, Nat.add_comm, Nat.pow_add, ← Nat.mul_assoc]
    exact Nat.mul_le_mul_right _ most
  refine ⟨magUnits .fp32 (roundUnbounded .fp32 .rne neg m true).1, ?_, ?_⟩
  · have result : (roundFin .fp32 .rne neg m true).1 = (roundUnbounded .fp32 .rne neg m true).1 + signBit .fp32 neg := by
      simp [roundFin, not_lt.mpr finite]
    have fits : (roundFin .fp32 .rne neg m true).1 < 2 ^ 32 := roundFin_lt .fp32 .rne neg m true
    rw [BitVec.toNat_ofNat, Nat.mod_eq_of_lt fits, result]
    exact encodes_signed finite neg
  · have value : ((magUnits .fp32 (roundUnbounded .fp32 .rne neg m true).1 : Nat) : ℝ) = k * 2 ^ roundExp .fp32 m := by exact_mod_cast mag
    have split : (k : ℝ) * 2 ^ roundExp .fp32 m - (m + 1 / 2) = (k - (m + 1 / 2) / 2 ^ roundExp .fp32 m) * 2 ^ roundExp .fp32 m := by
      rw [sub_mul, div_mul_cancel₀ _ (by positivity)]
    rw [value, split, abs_mul, abs_of_pos (show (0 : ℝ) < 2 ^ roundExp .fp32 m by positivity)]
    have := mul_le_mul_of_nonneg_right near (show (0 : ℝ) ≤ 2 ^ roundExp .fp32 m by positivity)
    linarith

/-! ## Results from an enclosure (04 R104) -/

/-- Whether the device's result is finite and within a tolerance of all of an enclosure. -/
def deviceWithin (fn : SpecialFn) (w : Word) (lo hi : Int) (tol : Nat) : Bool :=
  match val32 (Config.special fn w) with
  | .nan => false
  | .inf _ => false
  | .fin s m => decide (hi - tol ≤ (XVal.fin s m).toInt * 2 ^ (wp - unitExp) ∧ (XVal.fin s m).toInt * 2 ^ (wp - unitExp) ≤ lo + tol)

/-- A result from an enclosure by magnitudes of a value that is not zero. -/
theorem signedResult_eq {fn : SpecialFn} {w : Word} (neg : Bool) (lo : Nat) {hi : Nat} (tol : Nat) (pos : 0 < hi) :
    signedResult fn w neg lo hi tol =
      if (2 ^ 24 - 1) * 2 ^ (wp + 104) ≤ lo then (BitVec.ofNat 32 (infEnc .fp32 + signBit .fp32 neg), fOF ||| fNX)
      else (if deviceWithin fn w (if neg then -hi else lo) (if neg then -lo else hi) tol then Config.special fn w
          else BitVec.ofNat 32 (roundFin .fp32 .rne neg (lo / 2 ^ (wp - unitExp)) true).1,
        if lo < 2 ^ (wp - 126) then fUF ||| fNX else fNX) := by
  cases neg
  · have sign : decide ((hi : Int) ≤ 0) = false := decide_eq_false (by omega)
    simp only [signedResult, boundedResult, sign, Bool.false_eq_true, if_false, Int.natAbs_natCast]
    rfl
  · have sign : decide (-(lo : Int) ≤ 0) = true := decide_eq_true (by omega)
    simp only [signedResult, boundedResult, sign, if_true, Int.natAbs_neg, Int.natAbs_natCast]
    rfl

/-- Whole numbers of units of 2^-320 that enclose a positive real number narrowly, and tell on which side of the largest finite FP32 value
and of the least normal one it is. -/
structure Pins (lo hi : Nat) (a : ℝ) : Prop where
  pos : 0 < a
  low : lo ≤ a * 2 ^ 320
  high : a * 2 ^ 320 ≤ hi
  narrow : hi ≤ lo + 2 ^ 169
  top : (2 - (2 : ℝ) ^ (-23 : Int)) * 2 ^ 127 < a ↔ (2 ^ 24 - 1) * 2 ^ 424 ≤ lo
  tiny : a < (2 : ℝ) ^ (-126 : Int) ↔ lo < 2 ^ 194

section
variable {lo hi : Nat} {a : ℝ}

theorem Pins.hi_pos (h : Pins lo hi a) : 0 < hi := by
  have : (0 : ℝ) < hi := (mul_pos h.pos (by positivity)).trans_le h.high
  exact_mod_cast this

/-- A value of the device that passes the check is within the tolerance. -/
theorem deviceWithin_spec (h : Pins lo hi a) {fn : SpecialFn} {w : Word} {neg : Bool} {tol : Nat}
    (within : deviceWithin fn w (if neg then -hi else lo) (if neg then -lo else hi) tol = true) :
    ∃ s v, Claims.Encodes .fp32 (Config.special fn w).toNat s v ∧ |v - signed neg a| * 2 ^ 320 ≤ tol := by
  unfold deviceWithin at within
  split at within
  · cases within
  · cases within
  next s m value =>
    refine ⟨s, _, encodes_of_val32 value, ?_⟩
    obtain ⟨above, below⟩ := of_decide_eq_true within
    have scale : signed s ((m : ℝ) / 2 ^ 298) * 2 ^ 320 = ((XVal.fin s m).toInt * 2 ^ (wp - unitExp) : Int) := by
      rw [XVal.toInt_eq_units, Int.cast_mul, units_fin, signed_div, show wp - unitExp = 22 from rfl, show 320 = 22 + 298 from rfl, pow_add]
      field_simp
      norm_num
    rw [← abs_of_pos (show (0 : ℝ) < 2 ^ 320 by positivity), ← abs_mul, sub_mul, scale]
    generalize (XVal.fin s m).toInt * 2 ^ (wp - unitExp) = v at above below
    have low := h.low
    have high := h.high
    have above := Int.cast_le (R := ℝ) |>.mpr above
    have below := Int.cast_le (R := ℝ) |>.mpr below
    cases neg
    · simp only [Bool.false_eq_true, if_false, Int.cast_sub, Int.cast_add, Int.cast_natCast] at above below
      rw [abs_le, signed, if_neg Bool.false_ne_true, one_mul]
      constructor <;> linarith
    · simp only [if_true, Int.cast_sub, Int.cast_add, Int.cast_neg, Int.cast_natCast] at above below
      rw [abs_le, signed, if_pos rfl, neg_one_mul, neg_mul]
      constructor <;> linarith

/-- The FP32 value nearest the lower bound is near the exact one. -/
theorem nearest_spec (h : Pins lo hi a) (neg : Bool) (finite : lo < (2 ^ 24 - 1) * 2 ^ 424) {tol : ℝ}
    (spacing : 2 ^ roundExp .fp32 (lo / 2 ^ 22) ≤ tol * 2 ^ 298) :
    ∃ s v, Claims.Encodes .fp32 (BitVec.ofNat 32 (roundFin .fp32 .rne neg (lo / 2 ^ 22) true).1).toNat s v ∧ |v - signed neg a| ≤ tol := by
  have below : lo / 2 ^ 22 < (2 ^ 24 - 1) * 2 ^ 402 := by
    rw [Nat.div_lt_iff_lt_mul (Nat.two_pow_pos _), Nat.mul_assoc, ← Nat.pow_add]
    exact finite
  obtain ⟨v, encodes, near⟩ := roundFin_near neg below
  refine ⟨neg, _, encodes, ?_⟩
  rw [← signed_sub, abs_signed]
  have wide : (2 : ℝ) ^ 149 ≤ 2 ^ roundExp .fp32 (lo / 2 ^ 22) := pow_le_pow_right₀ one_le_two (le_max_right _ _)
  have floor : (lo : ℝ) - 2 ^ 22 ≤ 2 ^ 22 * (lo / 2 ^ 22 : Nat) ∧ 2 ^ 22 * ((lo / 2 ^ 22 : Nat) : ℝ) ≤ lo := by
    have parts := Nat.div_add_mod lo (2 ^ 22)
    have rest := Nat.mod_lt lo (Nat.two_pow_pos 22)
    constructor
    · rw [sub_le_iff_le_add]
      exact_mod_cast (show lo ≤ 2 ^ 22 * (lo / 2 ^ 22) + 2 ^ 22 by omega)
    · exact_mod_cast (show 2 ^ 22 * (lo / 2 ^ 22) ≤ lo by omega)
  generalize ((lo / 2 ^ 22 : Nat) : ℝ) = m at near floor
  generalize (2 : ℝ) ^ roundExp .fp32 (lo / 2 ^ 22) = q at *
  have narrow : (hi : ℝ) ≤ lo + 2 ^ 169 := by exact_mod_cast h.narrow
  have low := h.low
  have high := h.high
  rw [show 320 = 22 + 298 from rfl, pow_add, ← mul_assoc] at low high
  have unit : (0 : ℝ) < 2 ^ 298 := by positivity
  rw [← mul_le_mul_iff_of_pos_right unit]
  refine le_trans ?_ spacing
  have scale : |v / 2 ^ 298 - a| * 2 ^ 298 = |v - a * 2 ^ 298| := by
    rw [← abs_of_pos unit, ← abs_mul, abs_of_pos unit, sub_mul, div_mul_cancel₀ _ unit.ne']
  rw [scale]
  generalize (2 : ℝ) ^ 298 = unit at *
  obtain ⟨near₁, near₂⟩ := abs_le.mp near
  rw [abs_le]
  constructor <;> nlinarith

/-- A result from a narrow enclosure is within a bound. -/
theorem within_of_pins (h : Pins lo hi a) {fn : SpecialFn} {w : Word} (neg : Bool) {tol : Nat} {bound : ℝ} (tight : tol ≤ bound * 2 ^ 320)
    (spacing : 2 ^ roundExp .fp32 (lo / 2 ^ 22) ≤ bound * 2 ^ 298) :
    Claims.Within (signedResult fn w neg lo hi tol) (signed neg a) bound := by
  have positive := h.pos
  have sign : signed neg a < 0 ↔ neg = true := signed_lt_zero_iff positive
  rw [signedResult_eq neg lo tol h.hi_pos]
  rw [show wp + 104 = 424 from rfl, show wp - unitExp = 22 from rfl, show wp - 126 = 194 from rfl]
  simp only [Claims.Within, abs_signed, abs_of_pos positive, h.top, sign, h.tiny]
  refine ⟨fun above => ?_, fun finite => ?_⟩
  · rw [if_pos above]
    cases neg <;> rfl
  · have finite : ¬ (2 ^ 24 - 1) * 2 ^ 424 ≤ lo := mt h.top.mpr (not_lt.mpr finite)
    rw [if_neg finite]
    refine ⟨?_, if_congr (by simp [signed_eq_zero_iff, positive.ne']) rfl rfl⟩
    by_cases within : deviceWithin fn w (if neg then -hi else lo) (if neg then -lo else hi) tol = true
    · obtain ⟨s, v, encodes, close⟩ := deviceWithin_spec h within
      rw [if_pos within]
      exact ⟨s, v, encodes, le_of_mul_le_mul_right (close.trans tight) (by positivity)⟩
    · rw [if_neg within]
      exact nearest_spec h neg (Nat.lt_of_not_le finite) spacing

end

/-! ## Ulps (04 R104) -/

/-- The ulp of an FP32 value. -/
noncomputable def ulp (y : ℝ) : ℝ := (2 : ℝ) ^ (max (Int.log 2 |y|) (-126) - 23)

theorem ulp_pos (y : ℝ) : 0 < ulp y := zpow_pos two_pos _

theorem ulp_signed (neg : Bool) (a : ℝ) : ulp (signed neg a) = ulp a := by rw [ulp, abs_signed, ulp]

section
variable {lo : Nat} {a : ℝ}

theorem log2_le_log (pos : 0 < a) (low : lo ≤ a * 2 ^ 320) (nonzero : lo ≠ 0) : (Nat.log2 lo : Int) - 320 ≤ Int.log 2 a := by
  rw [← Int.zpow_le_iff_le_log one_lt_two pos, Nat.cast_ofNat,
    show (Nat.log2 lo : Int) - 320 = (Nat.log2 lo : Int) - (320 : Nat) from rfl, two_zpow_sub, div_le_iff₀ (by positivity)]
  refine le_trans ?_ low
  exact_mod_cast Nat.log2_self_le nonzero

/-- The ulp that is found from a lower bound is no greater than the value's. -/
theorem ulpExp_le_ulp (pos : 0 < a) (low : lo ≤ a * 2 ^ 320) : (2 : ℝ) ^ ulpExp lo ≤ ulp a * 2 ^ 320 := by
  have exponent : (ulpExp lo : Int) ≤ max (Int.log 2 a) (-126) - 23 + 320 := by
    unfold ulpExp wp
    rcases Nat.eq_zero_or_pos lo with rfl | positive
    · rw [show Nat.log2 0 = 0 from rfl]
      omega
    · have := log2_le_log pos low positive.ne'
      omega
  rw [ulp, abs_of_pos pos, ← zpow_natCast, ← zpow_natCast (2 : ℝ) 320, ← zpow_add₀ two_ne_zero]
  exact zpow_le_zpow_right₀ one_le_two exponent

theorem roundExp_div_le (lo : Nat) : roundExp .fp32 (lo / 2 ^ 22) + 22 ≤ ulpExp lo := by
  have log : Nat.log2 (lo / 2 ^ 22) = 0 ∨ Nat.log2 (lo / 2 ^ 22) + 22 ≤ Nat.log2 lo := by
    rcases Nat.eq_zero_or_pos (lo / 2 ^ 22) with zero | pos
    · left
      rw [zero]
      rfl
    · right
      have large : 2 ^ (Nat.log2 (lo / 2 ^ 22) + 22) ≤ lo := by
        rw [Nat.pow_add]
        exact (Nat.mul_le_mul_right _ (Nat.log2_self_le pos.ne')).trans (Nat.div_mul_le_self lo _)
      exact (Nat.le_log2 (Nat.pos_iff_ne_zero.mp ((Nat.two_pow_pos _).trans_le large))).mpr large
  unfold roundExp ulpExp wp
  rw [fracBits_fp32, subExp_fp32]
  omega

theorem roundExp_le_ulp (pos : 0 < a) (low : lo ≤ a * 2 ^ 320) : (2 : ℝ) ^ roundExp .fp32 (lo / 2 ^ 22) ≤ ulp a * 2 ^ 298 := by
  have scaled : (2 : ℝ) ^ roundExp .fp32 (lo / 2 ^ 22) * 2 ^ 22 ≤ ulp a * 2 ^ 298 * 2 ^ 22 := by
    rw [← pow_add, mul_assoc, ← pow_add]
    exact (pow_le_pow_right₀ one_le_two (roundExp_div_le lo)).trans (ulpExp_le_ulp pos low)
  exact le_of_mul_le_mul_right scaled (by positivity)

end

/-- The largest finite FP32 value in units of 2^-320. -/
theorem high_units : (2 - (2 : ℝ) ^ (-23 : Int)) * 2 ^ 127 * 2 ^ 320 = ((2 ^ 24 - 1) * 2 ^ 424 : Nat) := by
  have split : (2 : ℝ) ^ 127 * 2 ^ 320 = 2 ^ 23 * 2 ^ 424 := by rw [← pow_add, ← pow_add]
  have whole : (2 - (2 : ℝ) ^ (-23 : Int)) * 2 ^ 23 = (2 ^ 24 - 1 : Nat) := by norm_num
  rw [mul_assoc, split, ← mul_assoc, whole, Nat.cast_mul, Nat.cast_pow, Nat.cast_ofNat]

/-- The least normal FP32 value in units of 2^-320. -/
theorem least_units : (2 : ℝ) ^ (-126 : Int) * 2 ^ 320 = (2 ^ 194 : Nat) := by
  rw [Nat.cast_pow, Nat.cast_ofNat, ← zpow_natCast, ← zpow_natCast (2 : ℝ) 194, ← zpow_add₀ two_ne_zero]
  rfl

section
variable {lo hi : Nat} {a : ℝ}

/-- An enclosure of a normal value that does not reach the largest finite one. -/
theorem Pins.of_normal (low : lo ≤ a * 2 ^ 320) (high : a * 2 ^ 320 ≤ hi) (narrow : hi ≤ lo + 2 ^ 169) (normal : 2 ^ 194 ≤ lo)
    (below : a < (2 - (2 : ℝ) ^ (-23 : Int)) * 2 ^ 127) : Pins lo hi a where
  pos := by
    have : (0 : ℝ) < lo := by exact_mod_cast (Nat.two_pow_pos 194).trans_le normal
    exact pos_of_mul_pos_left (this.trans_le low) (by positivity)
  low := low
  high := high
  narrow := narrow
  top := by
    refine iff_of_false (not_lt.mpr below.le) fun le => ?_
    have scaled := mul_lt_mul_of_pos_right below (show (0 : ℝ) < 2 ^ 320 by positivity)
    rw [high_units] at scaled
    exact absurd (Nat.cast_lt.mp (low.trans_lt scaled)) (Nat.not_lt.mpr le)
  tiny := by
    refine iff_of_false (not_lt.mpr ?_) (Nat.not_lt.mpr normal)
    rw [← mul_le_mul_iff_of_pos_right (show (0 : ℝ) < 2 ^ 320 by positivity), least_units]
    exact (Nat.cast_le.mpr normal).trans low

theorem two_pow_lt_high : (2 : ℝ) ^ 127 < (2 - (2 : ℝ) ^ (-23 : Int)) * 2 ^ 127 := by norm_num

/-- An enclosure of a value that is clear of the least normal one and of the largest finite one. -/
theorem Pins.of_clear (low : lo ≤ a * 2 ^ 320) (high : a * 2 ^ 320 ≤ hi) (narrow : hi ≤ lo + 2 ^ 169)
    (clear : (2 : ℝ) ^ (-125 : Int) ≤ a) (below : a ≤ 2 ^ 127) : Pins lo hi a := by
  refine .of_normal low high narrow ?_ (below.trans_lt two_pow_lt_high)
  have scaled : ((2 ^ 195 : Nat) : ℝ) ≤ hi := by
    refine le_trans ?_ ((mul_le_mul_of_nonneg_right clear (by positivity)).trans high)
    rw [Nat.cast_pow, Nat.cast_ofNat, ← zpow_natCast, ← zpow_natCast (2 : ℝ) 320, ← zpow_add₀ two_ne_zero]
    exact le_of_eq rfl
  have large : 2 ^ 195 ≤ hi := by exact_mod_cast scaled
  omega

/-- A result within some ulps. -/
theorem within_ulps (h : Pins lo hi a) {fn : SpecialFn} {w : Word} (neg : Bool) (c : Nat) :
    Claims.Within (signedResult fn w neg lo hi (2 ^ (ulpExp lo + c))) (signed neg a) (2 ^ c * ulp (signed neg a)) := by
  have tight := ulpExp_le_ulp h.pos h.low
  have spacing := roundExp_le_ulp h.pos h.low
  rw [ulp_signed]
  refine within_of_pins h neg ?_ ?_
  · rw [Nat.cast_pow, Nat.cast_ofNat, pow_add, mul_comm, mul_assoc]
    exact mul_le_mul_of_nonneg_left tight (by positivity)
  · rw [mul_assoc]
    exact spacing.trans (le_mul_of_one_le_left (mul_nonneg (ulp_pos a).le (by positivity)) (one_le_pow₀ one_le_two))

end

/-! ## Exact results -/

/-- Few significant bits within the range make an FP32 value. -/
theorem exists_fp32 {c q : Nat} (low : c < 2 ^ 24) (least : 149 ≤ q) (most : q ≤ 402) :
    ∃ e, e ≤ maxEnc .fp32 ∧ magUnits .fp32 e = c * 2 ^ q := by
  obtain ⟨e, value⟩ := exists_magUnits (f := .fp32) (c := c) (q := q) low.le least
  refine ⟨e, (magUnits_strictMono .fp32).le_iff_le.mp ?_, value⟩
  rw [value, magUnits_maxEnc_fp32]
  exact Nat.mul_le_mul (Nat.le_sub_one_of_lt low) (Nat.pow_le_pow_right two_pos most)

theorem exists_fp32_two_pow {q : Nat} (least : 149 ≤ q) (most : q ≤ 425) : ∃ e, e ≤ maxEnc .fp32 ∧ magUnits .fp32 e = 2 ^ q := by
  rcases Nat.le_total q 402 with low | high
  · simpa using exists_fp32 (c := 1) (by decide) least low
  · obtain ⟨e, finite, value⟩ := exists_fp32 (c := 2 ^ (q - 402)) (q := 402) (Nat.pow_lt_pow_right one_lt_two (by omega)) (by decide) le_rfl
    exact ⟨e, finite, by rw [value, ← Nat.pow_add, Nat.sub_add_cancel high]⟩

/-- Rounding what is an FP32 value. -/
theorem round32_exact {m : Nat} (value : ∃ e, e ≤ maxEnc .fp32 ∧ magUnits .fp32 e = m) (rm : Rm) (neg : Bool) :
    Claims.Encodes .fp32 (round32 rm (.fin neg m)).1.toNat neg (signed neg ((m : ℝ) / 2 ^ 298)) ∧ (round32 rm (.fin neg m)).2 = 0 := by
  obtain ⟨e, finite, rfl⟩ := value
  have exact := roundTo_magUnits finite rm neg
  refine ⟨?_, congrArg Prod.snd exact⟩
  rw [toNat_round32, exact]
  exact encodes_signed finite neg

/-- The magnitudes of the nonzero FP32 values. -/
theorem fp32_range {w : Word} {s : Bool} {m : Nat} (value : val32 w = .fin s m) :
    ∃ c j, m = c * 2 ^ (149 + j) ∧ c < 2 ^ 24 ∧ j ≤ 253 := by
  obtain ⟨finite, -, rfl⟩ := finite_of_valueOf value
  obtain ⟨j, k, split, low, normal⟩ := exists_binade .fp32 (w.toNat % 2 ^ (FFmt.fp32.width - 1))
  rw [split] at finite ⊢
  refine ⟨k, j, magUnits_add low.le normal, low, ?_⟩
  rw [fracBits_fp32] at finite normal
  have finite : j * 2 ^ 23 + k ≤ 2139095039 := finite
  omega

theorem isPow2_iff {m : Nat} : isPow2 m = true ↔ ∃ e, m = 2 ^ e := by
  simp only [isPow2, Bool.and_eq_true, bne_iff_ne, beq_iff_eq]
  constructor
  · rintro ⟨-, eq⟩
    exact ⟨_, eq⟩
  · rintro ⟨e, rfl⟩
    exact ⟨(Nat.two_pow_pos e).ne', by rw [Nat.log2_two_pow]⟩

end Sys2Proof.Machine

/-!
FRCP and FRSQ (04 R104, Table 4.11).
-/

namespace Sys2Proof.Machine

/-- A result that is exact raises no flag. -/
def ExactResult (p : Word × FFlags) (y : ℝ) : Prop := (∃ s, Claims.Encodes .fp32 p.1.toNat s y) ∧ p.2 = 0

theorem exactResult_round32 {m : Nat} {y : ℝ} (rm : Rm) (neg : Bool) (value : ∃ e, e ≤ maxEnc .fp32 ∧ magUnits .fp32 e = m)
    (eq : y = signed neg ((m : ℝ) / 2 ^ 298)) : ExactResult (round32 rm (.fin neg m)) y := by
  obtain ⟨encodes, flags⟩ := round32_exact value rm neg
  exact ⟨⟨neg, eq ▸ encodes⟩, flags⟩

/-- A quotient by a positive number, cut and raised to whole units. -/
theorem quo_spec (n : Nat) {d : Nat} (pos : 0 < d) : ((quo false n d : Nat) : ℝ) ≤ n / d ∧ (n : ℝ) / d ≤ (quo true n d : Nat) ∧
    quo true n d ≤ quo false n d + 1 := by
  have down : quo false n d = n / d := rfl
  have up : quo true n d = (n + d - 1) / d := rfl
  have parts := Nat.div_add_mod n d
  have rest := Nat.mod_lt n pos
  have raised : (n + d - 1) / d = n / d + (n % d + d - 1) / d := by
    rw [← Nat.mul_add_div pos, ← Nat.add_sub_assoc (by omega), ← Nat.add_assoc, parts]
  have carry : (n % d + d - 1) / d ≤ 1 := Nat.le_of_lt_succ ((Nat.div_lt_iff_lt_mul pos).mpr (by omega))
  have enough : n ≤ d * ((n + d - 1) / d) := by
    have := Nat.div_add_mod (n + d - 1) d
    have := Nat.mod_lt (n + d - 1) pos
    omega
  have positive : (0 : ℝ) < d := by exact_mod_cast pos
  rw [down, up]
  refine ⟨Nat.cast_div_le, ?_, by omega⟩
  rw [div_le_iff₀ positive, mul_comm]
  exact_mod_cast enough

/-! ## FRCP -/

/-- The reciprocal of a magnitude in units of 2^-298. -/
theorem inv_units {m : Nat} (s : Bool) : 1 / signed s ((m : ℝ) / 2 ^ 298) = signed s (2 ^ 298 / m) := by
  rw [← one_div_div]
  cases s <;> simp [signed, div_neg]

theorem two_pow_sub_div {a b c : Nat} (total : a + c = b) : (2 : ℝ) ^ b / 2 ^ c = 2 ^ a := by
  rw [← total, pow_add, mul_div_assoc, div_self (by positivity), mul_one]

/-- The reciprocal of m units, enclosed. -/
theorem pins_rcp {m : Nat} (pos : 0 < m) :
    Pins (quo false (2 ^ (unitExp + wp)) m) (quo true (2 ^ (unitExp + wp)) m) ((2 : ℝ) ^ 298 / m) := by
  have positive : (0 : ℝ) < m := by exact_mod_cast pos
  obtain ⟨down, up, narrow⟩ := quo_spec (2 ^ (unitExp + wp)) pos
  have units : (2 : ℝ) ^ 298 / m * 2 ^ 320 = ((2 ^ (unitExp + wp) : Nat) : ℝ) / m := by
    rw [Nat.cast_pow, Nat.cast_ofNat, show unitExp + wp = 298 + 320 from rfl, pow_add, div_mul_eq_mul_div]
  have floor (k : Nat) : k ≤ quo false (2 ^ (unitExp + wp)) m ↔ (k : ℝ) ≤ 2 ^ 298 / m * 2 ^ 320 := by
    rw [units, le_div_iff₀ positive]
    refine (Nat.le_div_iff_mul_le pos).trans ?_
    exact_mod_cast Iff.rfl
  refine ⟨by positivity, units ▸ down, units ▸ up, narrow.trans (Nat.add_le_add_left Nat.one_le_two_pow _), ?_, ?_⟩
  · have odd : (((2 ^ 24 - 1) * 2 ^ 424 : Nat) : ℝ) ≠ 2 ^ 298 / m * 2 ^ 320 := by
      rw [units, Ne, eq_div_iff positive.ne']
      norm_cast
      intro eq
      have divides : 2 ^ 24 - 1 ∣ 2 ^ (unitExp + wp) := ⟨2 ^ 424 * m, by rw [← eq, Nat.mul_assoc]⟩
      have coprime : Nat.Coprime (2 ^ 24 - 1) (2 ^ (unitExp + wp)) := Nat.Coprime.pow_right _ (by decide)
      exact absurd (Nat.eq_one_of_dvd_coprimes coprime dvd_rfl divides) (by decide)
    rw [floor, ← mul_lt_mul_iff_of_pos_right (show (0 : ℝ) < 2 ^ 320 by positivity), high_units]
    exact ⟨le_of_lt, fun le => lt_of_le_of_ne le odd⟩
  · rw [← not_le, ← not_le, floor, not_iff_not, ← mul_le_mul_iff_of_pos_right (show (0 : ℝ) < 2 ^ 320 by positivity), least_units]

/-- The powers of two that FRCP inverts exactly. -/
theorem rcp_power_iff {m : Nat} (s : Bool) (below : m < 2 ^ 426) :
    (isPow2 m && 2 ^ (2 * unitExp) / m ≥ 2 ^ 149 && decide (2 ^ (2 * unitExp) / m < 2 ^ (unitExp + 128))) = true ↔
      ∃ k : Int, |signed s ((m : ℝ) / 2 ^ 298)| = (2 : ℝ) ^ k ∧ -149 ≤ -k ∧ -k ≤ 127 := by
  simp only [Bool.and_eq_true, isPow2_iff, decide_eq_true_eq, abs_signed, abs_of_nonneg (show (0 : ℝ) ≤ m / 2 ^ 298 by positivity)]
  have quotient {e : Nat} (low : e ≤ 596) : 2 ^ (2 * unitExp) / 2 ^ e = 2 ^ (596 - e) := Nat.pow_div low two_pos
  constructor
  · rintro ⟨⟨⟨e, rfl⟩, least⟩, most⟩
    have room : e < 426 := (Nat.pow_lt_pow_iff_right one_lt_two).mp below
    rw [quotient (by omega), ge_iff_le, Nat.pow_le_pow_iff_right one_lt_two] at least
    rw [quotient (by omega), Nat.pow_lt_pow_iff_right one_lt_two] at most
    unfold unitExp at most
    refine ⟨(e : Int) - (298 : Nat), ?_, by omega, by omega⟩
    rw [two_zpow_sub, Nat.cast_pow, Nat.cast_ofNat]
  · rintro ⟨k, value, least, most⟩
    obtain ⟨e, exponent⟩ := Int.eq_ofNat_of_zero_le (show 0 ≤ k + 298 by omega)
    obtain rfl : k = (e : Int) - (298 : Nat) := by push_cast; omega
    rw [two_zpow_sub, div_left_inj' (by positivity)] at value
    obtain rfl : m = 2 ^ e := by exact_mod_cast value
    rw [quotient (by omega), ge_iff_le, Nat.pow_le_pow_iff_right one_lt_two, Nat.pow_lt_pow_iff_right one_lt_two]
    exact ⟨⟨⟨e, rfl⟩, by omega⟩, by unfold unitExp; omega⟩

theorem fp32_lt {w : Word} {s : Bool} {m : Nat} (value : val32 w = .fin s m) : m < 2 ^ 426 := by
  obtain ⟨c, j, rfl, low, most⟩ := fp32_range value
  calc c * 2 ^ (149 + j) < 2 ^ 24 * 2 ^ (149 + j) := Nat.mul_lt_mul_of_pos_right low (Nat.two_pow_pos _)
    _ = 2 ^ (24 + (149 + j)) := (Nat.pow_add ..).symm
    _ ≤ 2 ^ 426 := Nat.pow_le_pow_right two_pos (by omega)

theorem fp32_ge {w : Word} {s : Bool} {m : Nat} (value : val32 w = .fin s m) (pos : 0 < m) : 2 ^ 149 ≤ m := by
  obtain ⟨finite, -, rfl⟩ := finite_of_valueOf value
  exact Nat.le_of_dvd pos (dvd_magUnits .fp32 _)

theorem special32_rcp {w : Word} {s : Bool} {m : Nat} (value : val32 w = .fin s m) (pos : 0 < m) :
    special32 .rcp w = rcpFin w s m := by
  unfold special32
  simp only [value]
  generalize rcpFin w s m = result
  exact if_neg pos.ne'

theorem rcp_bounds {w : Word} {s : Bool} {m : Nat} (value : val32 w = .fin s m) (pos : 0 < m) :
    let x := signed s ((m : ℝ) / 2 ^ 298)
    let power := ∃ k : Int, |x| = (2 : ℝ) ^ k ∧ -149 ≤ -k ∧ -k ≤ 127
    (power → ExactResult (special32 .rcp w) (1 / x)) ∧ (¬ power → Claims.Within (special32 .rcp w) (1 / x) (ulp (1 / x))) := by
  intro x power
  have test := rcp_power_iff s (fp32_lt value)
  have inv : 1 / x = signed s (2 ^ 298 / m) := inv_units s
  rw [special32_rcp value pos, rcpFin, inv]
  refine ⟨fun exact => ?_, fun inexact => ?_⟩
  · rw [if_pos (test.mpr exact)]
    obtain ⟨⟨pow2, least⟩, most⟩ : (isPow2 m = true ∧ 2 ^ 149 ≤ 2 ^ (2 * unitExp) / m) ∧ 2 ^ (2 * unitExp) / m < 2 ^ (unitExp + 128) := by
      simpa only [Bool.and_eq_true, decide_eq_true_eq] using test.mpr exact
    obtain ⟨e, rfl⟩ := isPow2_iff.mp pow2
    have low : e < 426 := (Nat.pow_lt_pow_iff_right one_lt_two).mp (fp32_lt value)
    have quotient : 2 ^ (2 * unitExp) / 2 ^ e = 2 ^ (596 - e) := Nat.pow_div (by unfold unitExp; omega) two_pos
    rw [quotient] at least most ⊢
    have least := (Nat.pow_le_pow_iff_right one_lt_two).mp least
    have most := (Nat.pow_lt_pow_iff_right one_lt_two).mp most
    refine exactResult_round32 .rne s (exists_fp32_two_pow least (Nat.le_of_lt_succ most)) (congrArg _ ?_)
    rw [Nat.cast_pow, Nat.cast_pow, Nat.cast_ofNat, div_eq_div_iff (by positivity) (by positivity), ← pow_add, ← pow_add]
    congr 1
    omega
  · rw [if_neg (mt test.mp inexact)]
    simpa using within_ulps (pins_rcp pos) s 0

/-! ## FRSQ -/

/-- The reciprocal square root of m units. -/
theorem inv_sqrt_units (m : Nat) : 1 / Real.sqrt ((m : ℝ) / 2 ^ 298) = Real.sqrt (2 ^ 298 / m) := by
  rw [one_div, ← Real.sqrt_inv, inv_div]

theorem pins_rsq {m : Nat} (least : 2 ^ 149 ≤ m) (most : m < 2 ^ 426) :
    Pins (isqrt (2 ^ (unitExp + 2 * wp) / m)) (isqrt (2 ^ (unitExp + 2 * wp) / m) + 1) (Real.sqrt (2 ^ 298 / m)) := by
  have pos : 0 < m := (Nat.two_pow_pos _).trans_le least
  have positive : (0 : ℝ) < m := by exact_mod_cast pos
  rw [isqrt_eq_sqrt]
  obtain ⟨down, below⟩ : ((2 ^ (unitExp + 2 * wp) / m : Nat) : ℝ) ≤ 2 ^ (298 + 640) / m ∧
      (2 : ℝ) ^ (298 + 640) / m ≤ (2 ^ (unitExp + 2 * wp) / m + 1 : Nat) := by
    rw [le_div_iff₀ positive, div_le_iff₀ positive]
    constructor
    · exact_mod_cast Nat.div_mul_le_self (2 ^ (unitExp + 2 * wp)) m
    · rw [mul_comm]
      exact_mod_cast (Nat.lt_mul_div_succ (2 ^ (unitExp + 2 * wp)) pos).le
  have units : Real.sqrt (2 ^ 298 / m) * 2 ^ 320 = Real.sqrt (2 ^ (298 + 640) / m) := by
    rw [pow_add, mul_div_right_comm, Real.sqrt_mul (by positivity), show 640 = 320 * 2 from rfl, pow_mul, Real.sqrt_sq (by positivity)]
  generalize 2 ^ (unitExp + 2 * wp) / m = n at *
  have low : (n.sqrt : ℝ) ≤ Real.sqrt (2 ^ 298 / m) * 2 ^ 320 := by
    rw [units]
    exact Real.nat_sqrt_le_real_sqrt.trans (Real.sqrt_le_sqrt down)
  have high : Real.sqrt (2 ^ 298 / m) * 2 ^ 320 ≤ (n.sqrt + 1 : Nat) := by
    rw [units]
    refine Real.sqrt_le_iff.mpr ⟨Nat.cast_nonneg _, below.trans ?_⟩
    exact_mod_cast (Nat.lt_succ_sqrt' n)
  refine Pins.of_clear low high (Nat.add_le_add_left Nat.one_le_two_pow _) ?_ ?_
  · refine Real.le_sqrt_of_sq_le ?_
    rw [le_div_iff₀ positive, ← zpow_natCast, ← zpow_mul]
    calc (2 : ℝ) ^ (-125 * (2 : Nat) : Int) * m ≤ (2 : ℝ) ^ (-125 * (2 : Nat) : Int) * 2 ^ 426 :=
          mul_le_mul_of_nonneg_left (by exact_mod_cast most.le) (by positivity)
      _ = (2 : ℝ) ^ (176 : Int) := by rw [← zpow_natCast (2 : ℝ) 426, ← zpow_add₀ two_ne_zero]; rfl
      _ ≤ 2 ^ 298 := by rw [← zpow_natCast]; exact zpow_le_zpow_right₀ one_le_two (by decide)
  · refine Real.sqrt_le_iff.mpr ⟨by positivity, ?_⟩
    rw [div_le_iff₀ positive, ← pow_mul]
    calc (2 : ℝ) ^ 298 ≤ 2 ^ (127 * 2 + 149) := pow_le_pow_right₀ one_le_two (by decide)
      _ = 2 ^ (127 * 2) * 2 ^ 149 := pow_add ..
      _ ≤ 2 ^ (127 * 2) * m := mul_le_mul_of_nonneg_left (by exact_mod_cast least) (by positivity)

theorem rsq_power_iff (m : Nat) : (isPow2 m && Nat.log2 m % 2 == 0) = true ↔ ∃ k : Int, (m : ℝ) / 2 ^ 298 = (4 : ℝ) ^ k := by
  have four (k : Int) : (4 : ℝ) ^ k = (2 : ℝ) ^ (2 * k) := by rw [zpow_mul]; norm_num
  simp only [Bool.and_eq_true, isPow2_iff, beq_iff_eq, four]
  constructor
  · rintro ⟨⟨e, rfl⟩, even⟩
    rw [Nat.log2_two_pow] at even
    refine ⟨((e / 2 : Nat) : Int) - 149, ?_⟩
    rw [show (2 * (((e / 2 : Nat) : Int) - 149)) = (e : Int) - (298 : Nat) by push_cast; omega, two_zpow_sub, Nat.cast_pow, Nat.cast_ofNat]
  · rintro ⟨k, value⟩
    have nonneg : 0 ≤ 2 * k + 298 := by
      by_contra neg
      have small : (m : ℝ) < 1 := by
        rw [(div_eq_iff (by positivity)).mp value, ← zpow_natCast, ← zpow_add₀ two_ne_zero]
        exact zpow_lt_one_of_neg₀ one_lt_two (by push_cast; omega)
      obtain rfl : m = 0 := Nat.lt_one_iff.mp (by exact_mod_cast small)
      rw [Nat.cast_zero, zero_div] at value
      exact (zpow_pos two_pos _).ne value
    obtain ⟨e, exponent⟩ := Int.eq_ofNat_of_zero_le nonneg
    rw [show 2 * k = (e : Int) - (298 : Nat) by push_cast; omega, two_zpow_sub, div_left_inj' (by positivity)] at value
    obtain rfl : m = 2 ^ e := by exact_mod_cast value
    exact ⟨⟨e, rfl⟩, by rw [Nat.log2_two_pow]; omega⟩

theorem special32_rsq {w : Word} {m : Nat} (value : val32 w = .fin false m) (pos : 0 < m) : special32 .rsq w = rsqFin w m := by
  unfold special32
  simp only [value]
  generalize rsqFin w m = result
  exact if_neg pos.ne'

theorem rsq_bounds {w : Word} {m : Nat} (value : val32 w = .fin false m) (pos : 0 < m) :
    let x := (m : ℝ) / 2 ^ 298
    let power := ∃ k : Int, x = (4 : ℝ) ^ k
    (power → ExactResult (special32 .rsq w) (1 / Real.sqrt x)) ∧
      (¬ power → Claims.Within (special32 .rsq w) (1 / Real.sqrt x) (ulp (1 / Real.sqrt x))) := by
  intro x power
  have test := rsq_power_iff m
  have inv : 1 / Real.sqrt x = signed false (Real.sqrt (2 ^ 298 / m)) := (inv_sqrt_units m).trans (one_mul _).symm
  have least := fp32_ge value pos
  have most := fp32_lt value
  rw [special32_rsq value pos, rsqFin, inv]
  refine ⟨fun exact => ?_, fun inexact => ?_⟩
  · rw [if_pos (test.mpr exact)]
    obtain ⟨pow2, even⟩ : isPow2 m = true ∧ Nat.log2 m % 2 = 0 := by simpa using test.mpr exact
    obtain ⟨e, rfl⟩ := isPow2_iff.mp pow2
    rw [Nat.log2_two_pow] at even
    have low := (Nat.pow_le_pow_iff_right one_lt_two).mp least
    have high := (Nat.pow_lt_pow_iff_right one_lt_two).mp most
    obtain ⟨h, rfl⟩ : ∃ h, e = 2 * h := ⟨e / 2, by omega⟩
    have root : isqrt (2 ^ (3 * unitExp) / 2 ^ (2 * h)) = 2 ^ (447 - h) := by
      rw [Nat.pow_div (by unfold unitExp; omega) two_pos, isqrt_eq_sqrt,
        show 3 * unitExp - 2 * h = (447 - h) + (447 - h) by unfold unitExp; omega, Nat.pow_add, Nat.sqrt_eq]
    rw [root]
    refine exactResult_round32 .rne false (exists_fp32_two_pow (by omega) (by omega)) (congrArg _ ?_)
    rw [Real.sqrt_eq_iff_mul_self_eq (by positivity) (by positivity), Nat.cast_pow, Nat.cast_pow, Nat.cast_ofNat, div_mul_div_comm,
      div_eq_div_iff (by positivity) (by positivity), ← pow_add, ← pow_add, ← pow_add, ← pow_add]
    congr 1
    omega
  · rw [if_neg (mt test.mp inexact)]
    simpa using within_ulps (pins_rsq least most) false 0

end Sys2Proof.Machine

/-!
The series of the special functions: each sum of rounded terms encloses the exact one (04 R104).
-/

namespace Sys2Proof.Machine

/-! ## Chains of rounded terms -/

/-- Terms, each found from the one before. -/
def chain (next : Nat → Nat → Nat) (first : Nat) : Nat → Nat
  | 0 => first
  | k + 1 => next k (chain next first k)

theorem foldl_chain (next : Nat → Nat → Nat) (first sum n : Nat) :
    (List.range n).foldl (fun (acc : Nat × Nat) k => (acc.1 + next k acc.2, next k acc.2)) (sum, first) =
      (sum + ∑ k ∈ Finset.range n, chain next first (k + 1), chain next first n) := by
  induction n with
  | zero => simp [chain]
  | succ n ih => simp [List.range_succ, ih, Finset.sum_range_succ, chain, Nat.add_assoc]

theorem foldl_chain_terms (next term : Nat → Nat → Nat) (first sum n : Nat) :
    (List.range n).foldl (fun (acc : Nat × Nat) k => (acc.1 + term k acc.2, next k acc.2)) (sum, first) =
      (sum + ∑ k ∈ Finset.range n, term k (chain next first k), chain next first n) := by
  induction n with
  | zero => simp [chain]
  | succ n ih => simp [List.range_succ, ih, Finset.sum_range_succ, chain, Nat.add_assoc]

section
variable {p q : Nat → Nat} {T ratio : Nat → ℝ} {first : Nat} {e c : ℝ}

/-- Terms that are rounded down are below the exact ones, and stray from them by no more than c a step. -/
theorem chain_down (start : (first : ℝ) ≤ T 0 ∧ T 0 ≤ first + e) (e_nonneg : 0 ≤ e) (pos : ∀ k, 0 < q k) (shrinks : ∀ k, p k ≤ q k)
    (nonneg : ∀ k, 0 ≤ T k) (step : ∀ k, T (k + 1) = T k * ratio k) (below : ∀ k, (p k : ℝ) / q k ≤ ratio k)
    (gap : ∀ k, T k * (ratio k - p k / q k) + 1 ≤ c) (k : Nat) :
    let t := chain (fun k t => quo false (t * p k) (q k)) first k
    (t : ℝ) ≤ T k ∧ T k ≤ t + (e + k * c) := by
  induction k with
  | zero => simpa [chain] using start
  | succ k ih =>
    obtain ⟨low, high⟩ := ih
    simp only [chain]
    generalize chain (fun k t => quo false (t * p k) (q k)) first k = t at low high ⊢
    obtain ⟨down, up, narrow⟩ := quo_spec (t * p k) (pos k)
    have narrow : ((quo true (t * p k) (q k) : Nat) : ℝ) ≤ quo false (t * p k) (q k) + 1 := by exact_mod_cast narrow
    have positive : (0 : ℝ) < q k := by exact_mod_cast pos k
    have fraction : (p k : ℝ) / q k ≤ 1 := (div_le_one positive).mpr (by exact_mod_cast shrinks k)
    have fraction_nonneg : (0 : ℝ) ≤ p k / q k := by positivity
    rw [Nat.cast_mul, mul_div_assoc] at down up
    rw [step k, Nat.cast_add, Nat.cast_one, show e + ((k : ℝ) + 1) * c = e + k * c + c by ring]
    have gap := gap k
    have below := below k
    have nonneg := nonneg k
    have c_nonneg : 0 ≤ c := by nlinarith [mul_nonneg nonneg (sub_nonneg.mpr below)]
    have slack : 0 ≤ e + k * c := by positivity
    generalize (p k : ℝ) / q k = r at *
    generalize e + k * c = d at *
    constructor
    · calc ((quo false (t * p k) (q k) : Nat) : ℝ) ≤ t * r := down
        _ ≤ T k * r := mul_le_mul_of_nonneg_right low fraction_nonneg
        _ ≤ T k * ratio k := mul_le_mul_of_nonneg_left below nonneg
    · have strayed : T k * r ≤ t * r + d := by nlinarith
      rw [mul_sub] at gap
      linarith

/-- Terms that are rounded up are above the exact ones, and stray from them by no more than c a step. -/
theorem chain_up (start : T 0 ≤ first ∧ (first : ℝ) ≤ T 0 + e) (e_nonneg : 0 ≤ e) (pos : ∀ k, 0 < q k) (shrinks : ∀ k, p k ≤ q k)
    (nonneg : ∀ k, 0 ≤ T k) (step : ∀ k, T (k + 1) = T k * ratio k) (above : ∀ k, ratio k ≤ (p k : ℝ) / q k)
    (gap : ∀ k, T k * (p k / q k - ratio k) + 1 ≤ c) (k : Nat) :
    let t := chain (fun k t => quo true (t * p k) (q k)) first k
    T k ≤ t ∧ (t : ℝ) ≤ T k + (e + k * c) := by
  induction k with
  | zero => simpa [chain] using start
  | succ k ih =>
    obtain ⟨low, high⟩ := ih
    simp only [chain]
    generalize chain (fun k t => quo true (t * p k) (q k)) first k = t at low high ⊢
    obtain ⟨down, up, narrow⟩ := quo_spec (t * p k) (pos k)
    have narrow : ((quo true (t * p k) (q k) : Nat) : ℝ) ≤ quo false (t * p k) (q k) + 1 := by exact_mod_cast narrow
    have positive : (0 : ℝ) < q k := by exact_mod_cast pos k
    have fraction : (p k : ℝ) / q k ≤ 1 := (div_le_one positive).mpr (by exact_mod_cast shrinks k)
    have fraction_nonneg : (0 : ℝ) ≤ p k / q k := by positivity
    rw [Nat.cast_mul, mul_div_assoc] at down up
    rw [step k, Nat.cast_add, Nat.cast_one, show e + ((k : ℝ) + 1) * c = e + k * c + c by ring]
    have gap := gap k
    have above := above k
    have nonneg := nonneg k
    have c_nonneg : 0 ≤ c := by nlinarith [mul_nonneg nonneg (sub_nonneg.mpr above)]
    have slack : 0 ≤ e + k * c := by positivity
    generalize (p k : ℝ) / q k = r at *
    generalize e + k * c = d at *
    constructor
    · calc T k * ratio k ≤ T k * r := mul_le_mul_of_nonneg_left above nonneg
        _ ≤ t * r := mul_le_mul_of_nonneg_right low fraction_nonneg
        _ ≤ _ := up
    · have strayed : (t : ℝ) * r ≤ T k * r + d := by nlinarith
      rw [mul_sub] at gap
      linarith

end

/-! ## The exponential -/

/-- A real number in units of 2^-320, and back. -/
noncomputable def inUnits (x : Nat) : ℝ := (x : ℝ) / 2 ^ 320

theorem inUnits_mul (x : Nat) : inUnits x * 2 ^ 320 = x := div_mul_cancel₀ _ (by positivity)

theorem inUnits_nonneg (x : Nat) : 0 ≤ inUnits x := by unfold inUnits; positivity

theorem inUnits_le_one {x : Nat} (le : x ≤ 2 ^ 320) : inUnits x ≤ 1 := (div_le_one (by positivity)).mpr (by exact_mod_cast le)

/-- The exact terms of the exponential's series, in units. -/
noncomputable def expTerm (x k : Nat) : ℝ := inUnits x ^ k / k.factorial * 2 ^ 320

theorem expTerm_nonneg (x k : Nat) : 0 ≤ expTerm x k := by
  have := inUnits_nonneg x
  unfold expTerm
  positivity

theorem expTerm_zero (x : Nat) : expTerm x 0 = (2 ^ wp : Nat) := by
  rw [Nat.cast_pow, Nat.cast_ofNat, show wp = 320 from rfl]
  simp [expTerm]

theorem expTerm_succ (x k : Nat) : expTerm x (k + 1) = expTerm x k * ((x : ℝ) / (2 ^ wp * (k + 1) : Nat)) := by
  unfold expTerm inUnits
  rw [Nat.factorial_succ, show wp = 320 from rfl]
  push_cast
  rw [pow_succ]
  field_simp

/-- The rounded terms. -/
def expChain (up : Bool) (x : Nat) : Nat → Nat := chain (fun k t => quo up (t * x) (2 ^ wp * (k + 1))) (2 ^ wp)

theorem expChain_spec {x : Nat} (le : x ≤ 2 ^ 320) (k : Nat) :
    (expChain false x k : ℝ) ≤ expTerm x k ∧ expTerm x k ≤ expChain false x k + k ∧
      expTerm x k ≤ expChain true x k ∧ (expChain true x k : ℝ) ≤ expTerm x k + k := by
  have pos (k : Nat) : 0 < 2 ^ wp * (k + 1) := Nat.mul_pos (Nat.two_pow_pos _) k.succ_pos
  have shrinks (k : Nat) : x ≤ 2 ^ wp * (k + 1) := le.trans (Nat.le_mul_of_pos_right _ k.succ_pos)
  have start := expTerm_zero x
  have down := chain_down (p := fun _ => x) (T := expTerm x) (e := 0) (c := 1) ⟨start.ge, by rw [start, add_zero]⟩ le_rfl pos shrinks
    (expTerm_nonneg x) (expTerm_succ x) (fun _ => le_rfl) (fun _ => by simp) k
  have up := chain_up (p := fun _ => x) (T := expTerm x) (e := 0) (c := 1) ⟨start.le, by rw [start, add_zero]⟩ le_rfl pos shrinks
    (expTerm_nonneg x) (expTerm_succ x) (fun _ => le_rfl) (fun _ => by simp) k
  rw [mul_one, zero_add] at down up
  exact ⟨down.1, down.2, up.1, up.2⟩

theorem expTerm_last_le {x : Nat} (le : x ≤ 2 ^ 320) : expTerm x 80 ≤ 1 := by
  have large : (2 : ℝ) ^ 320 ≤ (80).factorial := by
    have : 2 ^ 320 ≤ (80).factorial := Nat.le_of_ble_eq_true rfl
    exact_mod_cast this
  have power : inUnits x ^ 80 ≤ 1 := pow_le_one₀ (inUnits_nonneg x) (inUnits_le_one le)
  rw [expTerm, div_mul_eq_mul_div, div_le_one (by positivity)]
  exact (mul_le_of_le_one_left (by positivity) power).trans large

/-- The exact series: the terms that are left out are less than the last one. -/
theorem exp_series {x : Nat} (le : x ≤ 2 ^ 320) : ∑ k ∈ Finset.range 81, expTerm x k ≤ Real.exp (inUnits x) * 2 ^ 320 ∧
    Real.exp (inUnits x) * 2 ^ 320 ≤ ∑ k ∈ Finset.range 81, expTerm x k + expTerm x 80 := by
  have nonneg := inUnits_nonneg x
  have one := inUnits_le_one le
  have sum : ∑ k ∈ Finset.range 81, expTerm x k = (∑ k ∈ Finset.range 81, inUnits x ^ k / k.factorial) * 2 ^ 320 :=
    (Finset.sum_mul ..).symm
  have rest : inUnits x ^ 81 * ((81 : Nat) + 1) / ((81).factorial * (81 : Nat)) ≤ inUnits x ^ 80 / (80).factorial := by
    rw [Nat.factorial_succ 80, pow_succ, div_le_div_iff₀ (by positivity) (by positivity)]
    generalize (80).factorial = f
    have power : 0 ≤ inUnits x ^ 80 * f := by positivity
    push_cast
    nlinarith
  rw [sum, expTerm, ← add_mul]
  exact ⟨mul_le_mul_of_nonneg_right (Real.sum_le_exp_of_nonneg nonneg 81) (by positivity),
    mul_le_mul_of_nonneg_right ((Real.exp_bound' nonneg one (by decide)).trans (add_le_add_right rest _)) (by positivity)⟩

theorem sum_range_81 : ∑ k ∈ Finset.range 81, (k : ℝ) = 3240 := by
  rw [← Nat.cast_sum, Finset.sum_range_id]
  norm_num

theorem ite_add (up : Bool) (a b : Nat) : (if up then a + b else a) = a + if up then b else 0 := by cases up <;> rfl

theorem expBound_eq (up : Bool) (x : Nat) :
    expBound up x = ∑ k ∈ Finset.range 81, expChain up x k + if up then expChain up x 80 else 0 := by
  have sum : ∑ k ∈ Finset.range 81, expChain up x k = 2 ^ wp + ∑ k ∈ Finset.range 80, expChain up x (k + 1) := by
    rw [Finset.sum_range_succ', Nat.add_comm]
    rfl
  have fold := foldl_chain (fun k t => quo up (t * x) (2 ^ wp * (k + 1))) (2 ^ wp) (2 ^ wp) 80
  rw [sum]
  simp only [expBound, fold, ite_add, expChain]

theorem cast_expBound_false (x : Nat) : (expBound false x : ℝ) = ∑ k ∈ Finset.range 81, (expChain false x k : ℝ) := by
  rw [expBound_eq, if_neg Bool.false_ne_true, Nat.add_zero, Nat.cast_sum]

theorem cast_expBound_true (x : Nat) :
    (expBound true x : ℝ) = ∑ k ∈ Finset.range 81, (expChain true x k : ℝ) + expChain true x 80 := by
  rw [expBound_eq, if_pos rfl, Nat.cast_add, Nat.cast_sum]

/-- A value between an exact sum and what the last term adds, against sums of terms rounded down and up. -/
theorem enclosed_of_sums {value sum last down up top c e w : ℝ} (above : sum ≤ value) (below : value ≤ sum + last)
    (downs : down ≤ sum ∧ sum ≤ down + c) (ups : sum ≤ up ∧ up ≤ sum + c) (small : last ≤ 1) (tops : last ≤ top ∧ top ≤ last + e)
    (narrow : c + e + 1 ≤ w) : down ≤ value ∧ value ≤ down + w ∧ value ≤ up + top ∧ up + top ≤ value + w := by
  obtain ⟨down₁, down₂⟩ := downs
  obtain ⟨up₁, up₂⟩ := ups
  obtain ⟨top₁, top₂⟩ := tops
  refine ⟨?_, ?_, ?_, ?_⟩ <;> linarith

/-- The bounds of the exponential enclose it narrowly. -/
theorem expBound_spec {x : Nat} (le : x ≤ 2 ^ 320) :
    (expBound false x : ℝ) ≤ Real.exp (inUnits x) * 2 ^ 320 ∧ Real.exp (inUnits x) * 2 ^ 320 ≤ expBound false x + 2 ^ 12 ∧
      Real.exp (inUnits x) * 2 ^ 320 ≤ expBound true x ∧ (expBound true x : ℝ) ≤ Real.exp (inUnits x) * 2 ^ 320 + 2 ^ 12 := by
  obtain ⟨above, below⟩ := exp_series le
  have last := expTerm_last_le le
  have terms := expChain_spec le
  rw [cast_expBound_false, cast_expBound_true]
  have down₁ := Finset.sum_le_sum fun k (_ : k ∈ Finset.range 81) => (terms k).1
  have down₂ := Finset.sum_le_sum fun k (_ : k ∈ Finset.range 81) => (terms k).2.1
  have up₁ := Finset.sum_le_sum fun k (_ : k ∈ Finset.range 81) => (terms k).2.2.1
  have up₂ := Finset.sum_le_sum fun k (_ : k ∈ Finset.range 81) => (terms k).2.2.2
  rw [Finset.sum_add_distrib, sum_range_81] at down₂ up₂
  obtain ⟨-, -, last₁, last₂⟩ := terms 80
  exact enclosed_of_sums above below ⟨down₁, down₂⟩ ⟨up₁, up₂⟩ last ⟨last₁, last₂⟩ (by norm_num)

/-! ## The logarithm -/

/-- The exact powers of the series of atanh(n / d), in units. -/
noncomputable def atanhPower (n d k : Nat) : ℝ := ((n : ℝ) / d) ^ (2 * k + 1) * 2 ^ 320

/-- The rounded powers. -/
def atanhChain (up : Bool) (n d : Nat) : Nat → Nat := chain (fun _ t => quo up (t * (n * n)) (d * d)) (quo up (n * 2 ^ wp) d)

theorem atanhPower_nonneg (n d k : Nat) : 0 ≤ atanhPower n d k := by unfold atanhPower; positivity

theorem atanhPower_zero (n d : Nat) : atanhPower n d 0 = ((n * 2 ^ wp : Nat) : ℝ) / d := by
  rw [Nat.cast_mul, Nat.cast_pow, Nat.cast_ofNat, show wp = 320 from rfl, mul_div_right_comm]
  simp [atanhPower]

theorem atanhPower_succ (n d k : Nat) : atanhPower n d (k + 1) = atanhPower n d k * (((n * n : Nat) : ℝ) / (d * d : Nat)) := by
  unfold atanhPower
  rw [show 2 * (k + 1) + 1 = 2 * k + 1 + 2 from rfl, pow_add _ _ 2, div_pow _ _ 2]
  push_cast
  ring

section
variable {n d : Nat}

theorem atanhChain_spec (pos : 0 < d) (third : 3 * n ≤ d) (k : Nat) :
    (atanhChain false n d k : ℝ) ≤ atanhPower n d k ∧ atanhPower n d k ≤ atanhChain false n d k + (k + 1) ∧
      atanhPower n d k ≤ atanhChain true n d k ∧ (atanhChain true n d k : ℝ) ≤ atanhPower n d k + (k + 1) := by
  have squares : n * n ≤ d * d := Nat.mul_le_mul (by omega) (by omega)
  obtain ⟨low, high, narrow⟩ := quo_spec (n * 2 ^ wp) pos
  rw [← atanhPower_zero] at low high
  have narrow : ((quo true (n * 2 ^ wp) d : Nat) : ℝ) ≤ quo false (n * 2 ^ wp) d + 1 := by exact_mod_cast narrow
  have down := chain_down (p := fun _ => n * n) (q := fun _ => d * d) (T := atanhPower n d) (c := 1) ⟨low, by linarith⟩ zero_le_one
    (fun _ => Nat.mul_pos pos pos) (fun _ => squares) (atanhPower_nonneg n d) (atanhPower_succ n d) (fun _ => le_rfl) (fun _ => by simp) k
  have up := chain_up (p := fun _ => n * n) (q := fun _ => d * d) (T := atanhPower n d) (c := 1) ⟨high, by linarith⟩ zero_le_one
    (fun _ => Nat.mul_pos pos pos) (fun _ => squares) (atanhPower_nonneg n d) (atanhPower_succ n d) (fun _ => le_rfl) (fun _ => by simp) k
  rw [mul_one, add_comm 1 (k : ℝ)] at down up
  exact ⟨down.1, down.2, up.1, up.2⟩

/-- A rounded quotient by an odd number strays by one more than what it divides. -/
theorem atanhTerm_spec (pos : 0 < d) (third : 3 * n ≤ d) (k : Nat) :
    (quo false (atanhChain false n d k) (2 * k + 1) : ℝ) ≤ atanhPower n d k / (2 * k + 1) ∧
      atanhPower n d k / (2 * k + 1) ≤ quo false (atanhChain false n d k) (2 * k + 1) + (k + 2) ∧
      atanhPower n d k / (2 * k + 1) ≤ quo true (atanhChain true n d k) (2 * k + 1) ∧
      (quo true (atanhChain true n d k) (2 * k + 1) : ℝ) ≤ atanhPower n d k / (2 * k + 1) + (k + 2) := by
  obtain ⟨down₁, down₂, up₁, up₂⟩ := atanhChain_spec pos third k
  have odd : (0 : ℝ) < 2 * k + 1 := by positivity
  have cast : ((2 * k + 1 : Nat) : ℝ) = 2 * k + 1 := by push_cast; ring
  have stray : ((k : ℝ) + 1) / (2 * k + 1) ≤ k + 1 := div_le_self (by positivity) (by linarith [Nat.cast_nonneg (α := ℝ) k])
  obtain ⟨a₁, a₂, a₃⟩ := quo_spec (atanhChain false n d k) (Nat.succ_pos (2 * k))
  obtain ⟨b₁, b₂, b₃⟩ := quo_spec (atanhChain true n d k) (Nat.succ_pos (2 * k))
  rw [cast] at a₁ a₂ b₁ b₂
  have a₃ : ((quo true (atanhChain false n d k) (2 * k + 1) : Nat) : ℝ) ≤ quo false (atanhChain false n d k) (2 * k + 1) + 1 := by
    exact_mod_cast a₃
  have b₃ : ((quo true (atanhChain true n d k) (2 * k + 1) : Nat) : ℝ) ≤ quo false (atanhChain true n d k) (2 * k + 1) + 1 := by
    exact_mod_cast b₃
  have down₁ := div_le_div_of_nonneg_right down₁ odd.le
  have down₂ := div_le_div_of_nonneg_right down₂ odd.le
  have up₁ := div_le_div_of_nonneg_right up₁ odd.le
  have up₂ := div_le_div_of_nonneg_right up₂ odd.le
  rw [add_div] at down₂ up₂
  refine ⟨?_, ?_, ?_, ?_⟩ <;> linarith

/-- Half the logarithm that atanh is. -/
noncomputable def halfLog (z : ℝ) : ℝ := 1 / 2 * Real.log ((1 + z) / (1 - z))

/-- The exact series: the terms that are left out are less than the power after the last one. -/
theorem atanh_series (pos : 0 < d) (third : 3 * n ≤ d) :
    ∑ k ∈ Finset.range 110, atanhPower n d k / (2 * k + 1) ≤ halfLog (n / d) * 2 ^ 320 ∧
      halfLog (n / d) * 2 ^ 320 ≤ ∑ k ∈ Finset.range 110, atanhPower n d k / (2 * k + 1) + atanhPower n d 110 := by
  have positive : (0 : ℝ) < d := by exact_mod_cast pos
  have nonneg : (0 : ℝ) ≤ n / d := by positivity
  have small : (n : ℝ) / d ≤ 1 / 3 := by
    rw [div_le_div_iff₀ positive three_pos, one_mul, mul_comm]
    exact_mod_cast third
  have sum (N : Nat) : ∑ k ∈ Finset.range N, atanhPower n d k / (2 * k + 1) =
      (∑ k ∈ Finset.range N, ((n : ℝ) / d) ^ (2 * k + 1) / (2 * k + 1)) * 2 ^ 320 := by
    rw [Finset.sum_mul]
    exact Finset.sum_congr rfl fun k _ => mul_div_right_comm ..
  rw [sum, atanhPower, ← add_mul]
  generalize (n : ℝ) / d = z at *
  refine ⟨mul_le_mul_of_nonneg_right (Real.sum_range_le_log_div nonneg (by linarith) 110) (by positivity),
    mul_le_mul_of_nonneg_right ((Real.log_div_le_sum_range_add nonneg (by linarith) 111).trans ?_) (by positivity)⟩
  rw [Finset.sum_range_succ, add_assoc]
  refine add_le_add_right ?_ _
  have square : z ^ 2 ≤ 1 / 9 := by nlinarith
  have power : 0 ≤ z ^ 221 := by positivity
  have rest : z ^ (2 * 111 + 1) / (1 - z ^ 2) ≤ z ^ 221 * (1 / 8) := by
    rw [show 2 * 111 + 1 = 221 + 2 from rfl, pow_add, mul_div_assoc]
    refine mul_le_mul_of_nonneg_left ?_ power
    rw [div_le_iff₀ (by linarith)]
    linarith
  norm_num at rest ⊢
  linarith

theorem atanhBound_eq (up : Bool) (n d : Nat) : atanhBound up n d =
    ∑ k ∈ Finset.range 110, quo up (atanhChain up n d k) (2 * k + 1) + if up then atanhChain up n d 110 else 0 := by
  have fold := foldl_chain_terms (fun _ t => quo up (t * (n * n)) (d * d)) (fun k t => quo up t (2 * k + 1)) (quo up (n * 2 ^ wp) d) 0 110
  simp only [atanhBound, fold, ite_add, atanhChain, Nat.zero_add]

theorem atanhPower_last_le (pos : 0 < d) (third : 3 * n ≤ d) : atanhPower n d 110 ≤ 1 := by
  have positive : (0 : ℝ) < d := by exact_mod_cast pos
  have small : (n : ℝ) / d ≤ 1 / 3 := by
    rw [div_le_div_iff₀ positive three_pos, one_mul, mul_comm]
    exact_mod_cast third
  have large : (2 : ℝ) ^ 320 ≤ 3 ^ 221 := by
    have : 2 ^ 320 ≤ 3 ^ 221 := Nat.le_of_ble_eq_true rfl
    exact_mod_cast this
  calc atanhPower n d 110 ≤ (1 / 3) ^ 221 * 2 ^ 320 :=
        mul_le_mul_of_nonneg_right (pow_le_pow_left₀ (by positivity) small 221) (by positivity)
    _ = 2 ^ 320 / 3 ^ 221 := by rw [one_div, inv_pow, mul_comm, div_eq_mul_inv]
    _ ≤ 1 := (div_le_one (by positivity)).mpr large

theorem sum_range_110 : ∑ k ∈ Finset.range 110, ((k : ℝ) + 2) = 6215 := by
  rw [Finset.sum_add_distrib, Finset.sum_const, ← Nat.cast_sum, Finset.sum_range_id]
  norm_num

theorem cast_atanhBound_false (n d : Nat) :
    (atanhBound false n d : ℝ) = ∑ k ∈ Finset.range 110, (quo false (atanhChain false n d k) (2 * k + 1) : ℝ) := by
  rw [atanhBound_eq, if_neg Bool.false_ne_true, Nat.add_zero, Nat.cast_sum]

theorem cast_atanhBound_true (n d : Nat) : (atanhBound true n d : ℝ) =
    ∑ k ∈ Finset.range 110, (quo true (atanhChain true n d k) (2 * k + 1) : ℝ) + atanhChain true n d 110 := by
  rw [atanhBound_eq, if_pos rfl, Nat.cast_add, Nat.cast_sum]

/-- The bounds of atanh enclose it narrowly. -/
theorem atanhBound_spec (pos : 0 < d) (third : 3 * n ≤ d) :
    (atanhBound false n d : ℝ) ≤ halfLog (n / d) * 2 ^ 320 ∧ halfLog (n / d) * 2 ^ 320 ≤ atanhBound false n d + 2 ^ 13 ∧
      halfLog (n / d) * 2 ^ 320 ≤ atanhBound true n d ∧ (atanhBound true n d : ℝ) ≤ halfLog (n / d) * 2 ^ 320 + 2 ^ 13 := by
  obtain ⟨above, below⟩ := atanh_series pos third
  have last := atanhPower_last_le pos third
  have terms := atanhTerm_spec pos third
  rw [cast_atanhBound_false, cast_atanhBound_true]
  have down₁ := Finset.sum_le_sum fun k (_ : k ∈ Finset.range 110) => (terms k).1
  have down₂ := Finset.sum_le_sum fun k (_ : k ∈ Finset.range 110) => (terms k).2.1
  have up₁ := Finset.sum_le_sum fun k (_ : k ∈ Finset.range 110) => (terms k).2.2.1
  have up₂ := Finset.sum_le_sum fun k (_ : k ∈ Finset.range 110) => (terms k).2.2.2
  rw [Finset.sum_add_distrib, sum_range_110] at down₂ up₂
  obtain ⟨-, -, last₁, last₂⟩ := atanhChain_spec pos third 110
  exact enclosed_of_sums above below ⟨down₁, down₂⟩ ⟨up₁, up₂⟩ last ⟨last₁, last₂⟩ (by norm_num)

end

/-! ## The logarithm of two, and powers and logarithms to the base two -/

/-- A bound and the value that it is below or above, in units of 2^-320. -/
structure Bounds (down up : Nat) (y width : ℝ) : Prop where
  low : (down : ℝ) ≤ y * 2 ^ 320
  low_near : y * 2 ^ 320 ≤ down + width
  high : y * 2 ^ 320 ≤ up
  high_near : (up : ℝ) ≤ y * 2 ^ 320 + width

theorem halfLog_of_eq {z y : ℝ} (eq : (1 + z) / (1 - z) = y) : 2 * halfLog z = Real.log y := by
  rw [halfLog, eq]
  ring

theorem ln2Bound_spec : Bounds (ln2Bound false) (ln2Bound true) (Real.log 2) (2 ^ 14) := by
  obtain ⟨low, low_near, high, high_near⟩ := atanhBound_spec (n := 1) (d := 3) three_pos le_rfl
  have two := halfLog_of_eq (z := (1 : Nat) / (3 : Nat)) (y := 2) (by norm_num)
  rw [← two]
  have down : (ln2Bound false : ℝ) = 2 * atanhBound false 1 3 := by exact_mod_cast rfl
  have up : (ln2Bound true : ℝ) = 2 * atanhBound true 1 3 := by exact_mod_cast rfl
  constructor <;> linarith

/-- The unit of the enclosures is small. -/
theorem exists_units : ∃ u : ℝ, 1 ≤ u ∧ (2 : ℝ) ^ 320 = 2 ^ 20 * u ∧ (2 : ℝ) ^ 319 = 2 ^ 19 * u :=
  ⟨2 ^ 300, one_le_pow₀ one_le_two, by rw [← pow_add], by rw [← pow_add]⟩

theorem ln2Bound_le : (ln2Bound true : ℝ) ≤ 2 ^ 320 - 2 := by
  have near := ln2Bound_spec.high_near
  have value := Real.log_two_lt_d9
  obtain ⟨u, one, units, -⟩ := exists_units
  have product := mul_le_mul_of_nonneg_right value.le (zero_le_one.trans one)
  rw [units] at near ⊢
  linarith only [near, one, product]

theorem two_pow_le_ln2Bound (up : Bool) : (2 : ℝ) ^ 319 ≤ ln2Bound up := by
  have near := ln2Bound_spec.low_near
  have high := ln2Bound_spec.high
  have value := Real.log_two_gt_d9
  obtain ⟨u, one, units, half⟩ := exists_units
  have product := mul_le_mul_of_nonneg_right value.le (zero_le_one.trans one)
  rw [units] at near high
  rw [half]
  cases up <;> linarith only [near, high, one, product]

/-- A small change of the exponent changes a power by little. -/
theorem exp_sub_le {x y e : ℝ} (near : y - x ≤ e) (order : x ≤ y) (small : e ≤ 1) : Real.exp y - Real.exp x ≤ Real.exp x * (2 * e) := by
  have split : Real.exp y = Real.exp x * Real.exp (y - x) := by rw [← Real.exp_add, add_sub_cancel]
  have nonneg : 0 ≤ y - x := sub_nonneg.mpr order
  have bound := Real.abs_exp_sub_one_le (x := y - x) (by rw [abs_of_nonneg nonneg]; linarith)
  rw [abs_of_nonneg nonneg] at bound
  have bound := (abs_le.mp bound).2
  have := Real.exp_pos x
  rw [split]
  nlinarith

theorem exp_units_le {x y : ℝ} (order : x ≤ y) (near : y * 2 ^ 320 ≤ x * 2 ^ 320 + 2 ^ 15) (two : Real.exp x ≤ 2) :
    Real.exp y * 2 ^ 320 ≤ Real.exp x * 2 ^ 320 + 2 ^ 17 := by
  have unit : (0 : ℝ) < 2 ^ 320 := by positivity
  have close : y - x ≤ 2 ^ 15 / 2 ^ 320 := by
    rw [le_div_iff₀ unit]
    linarith
  have small : (2 : ℝ) ^ 15 / 2 ^ 320 ≤ 1 := (div_le_one unit).mpr (pow_le_pow_right₀ one_le_two (by decide))
  have change := mul_le_mul_of_nonneg_right (exp_sub_le close order small) unit.le
  rw [mul_assoc, mul_assoc, div_mul_cancel₀ _ unit.ne'] at change
  linarith

/-- A rounded quotient strays by less than one. -/
theorem quo_near (n : Nat) {d : Nat} (pos : 0 < d) : (quo false n d : ℝ) ≤ n / d ∧ (n : ℝ) / d ≤ quo false n d + 1 ∧
    (n : ℝ) / d ≤ quo true n d ∧ (quo true n d : ℝ) ≤ n / d + 1 := by
  obtain ⟨low, high, narrow⟩ := quo_spec n pos
  have narrow : (quo true n d : ℝ) ≤ quo false n d + 1 := by exact_mod_cast narrow
  exact ⟨low, by linarith, high, by linarith⟩

theorem quo_inUnits (n : Nat) : (quo false n (2 ^ wp) : ℝ) ≤ (n : ℝ) / 2 ^ 320 ∧ (n : ℝ) / 2 ^ 320 ≤ quo false n (2 ^ wp) + 1 ∧
    (n : ℝ) / 2 ^ 320 ≤ quo true n (2 ^ wp) ∧ (quo true n (2 ^ wp) : ℝ) ≤ (n : ℝ) / 2 ^ 320 + 1 := by
  have near := quo_near n (Nat.two_pow_pos wp)
  rwa [Nat.cast_pow, Nat.cast_ofNat] at near

theorem two_rpow_eq (y : ℝ) : (2 : ℝ) ^ y = Real.exp (Real.log 2 * y) := Real.rpow_def_of_pos two_pos y

theorem exp2Bound_spec {f : Nat} (le : f ≤ 2 ^ 320) :
    Bounds (exp2Bound false f) (exp2Bound true f) ((2 : ℝ) ^ inUnits f) (2 ^ 18) := by
  have fraction := inUnits_le_one le
  have nonneg := inUnits_nonneg f
  have ln2 := ln2Bound_spec
  have most := ln2Bound_le
  obtain ⟨low, low_near, -, -⟩ := quo_inUnits (f * ln2Bound false)
  obtain ⟨-, -, high, high_near⟩ := quo_inUnits (f * ln2Bound true)
  have scale (up : Bool) : ((f * ln2Bound up : Nat) : ℝ) / 2 ^ 320 = inUnits f * ln2Bound up := by
    rw [Nat.cast_mul, mul_div_right_comm, inUnits]
  rw [scale] at low low_near high high_near
  have value : (1 : ℝ) ≤ 2 ^ inUnits f := Real.one_le_rpow one_le_two nonneg
  have below : (2 : ℝ) ^ inUnits f ≤ 2 := by simpa using Real.rpow_le_rpow_of_exponent_le one_le_two fraction
  have room : quo true (f * ln2Bound true) (2 ^ wp) ≤ 2 ^ 320 := by
    have product := mul_le_of_le_one_left (Nat.cast_nonneg (α := ℝ) (ln2Bound true)) fraction
    have : ((quo true (f * ln2Bound true) (2 ^ wp) : Nat) : ℝ) ≤ (2 ^ 320 : Nat) := by
      rw [Nat.cast_pow, Nat.cast_ofNat]
      linarith
    exact_mod_cast this
  have less : quo false (f * ln2Bound false) (2 ^ wp) ≤ 2 ^ 320 := by
    have product := mul_le_mul_of_nonneg_left (ln2.low.trans ln2.high) nonneg
    have : ((quo false (f * ln2Bound false) (2 ^ wp) : Nat) : ℝ) ≤ (quo true (f * ln2Bound true) (2 ^ wp) : Nat) := by linarith
    exact (Nat.cast_le.mp this).trans room
  obtain ⟨down, down_near, -, -⟩ := expBound_spec less
  obtain ⟨-, -, up, up_near⟩ := expBound_spec room
  unfold exp2Bound
  generalize quo false (f * ln2Bound false) (2 ^ wp) = x at *
  generalize quo true (f * ln2Bound true) (2 ^ wp) = y at *
  have exponent₁ := mul_le_mul_of_nonneg_left ln2.low nonneg
  have exponent₂ := mul_le_mul_of_nonneg_left ln2.low_near nonneg
  have exponent₃ := mul_le_mul_of_nonneg_left ln2.high nonneg
  have exponent₄ := mul_le_mul_of_nonneg_left ln2.high_near nonneg
  have part := mul_le_of_le_one_left (show (0 : ℝ) ≤ 2 ^ 14 by positivity) fraction
  rw [mul_add] at exponent₂ exponent₄
  rw [← mul_assoc, mul_comm (inUnits f) (Real.log 2)] at exponent₁ exponent₂ exponent₃ exponent₄
  rw [two_rpow_eq] at below ⊢
  rw [← inUnits_mul x] at low low_near
  rw [← inUnits_mul y] at high high_near
  generalize Real.log 2 * inUnits f = z at *
  have unit : (0 : ℝ) < 2 ^ 320 := by positivity
  have order₁ : inUnits x ≤ z := le_of_mul_le_mul_right (low.trans exponent₁) unit
  have order₂ : z ≤ inUnits y := le_of_mul_le_mul_right (exponent₃.trans high) unit
  have near₁ := exp_units_le order₁ (by linarith) ((Real.exp_le_exp.mpr order₁).trans below)
  have near₂ := exp_units_le order₂ (by linarith) below
  have exp₁ := mul_le_mul_of_nonneg_right (Real.exp_le_exp.mpr order₁) unit.le
  have exp₂ := mul_le_mul_of_nonneg_right (Real.exp_le_exp.mpr order₂) unit.le
  constructor <;> linarith

/-- The logarithm of a ratio between one and two, by the series. -/
theorem halfLog_ratio {n d : Nat} (pos : 0 < d) (order : d ≤ n) :
    2 * halfLog (((n - d : Nat) : ℝ) / (n + d : Nat)) = Real.log (n / d) := by
  refine halfLog_of_eq ?_
  have positive : (0 : ℝ) < d := by exact_mod_cast pos
  have larger : (0 : ℝ) < n := by exact_mod_cast pos.trans_le order
  rw [Nat.cast_sub order, Nat.cast_add]
  have sum : (0 : ℝ) < n + d := by positivity
  have up : 1 + ((n : ℝ) - d) / (n + d) = 2 * n / (n + d) := by field_simp; ring
  have down : 1 - ((n : ℝ) - d) / (n + d) = 2 * d / (n + d) := by field_simp; ring
  rw [up, down, div_div_div_cancel_right₀ sum.ne', mul_div_mul_left _ _ two_ne_zero]

/-- A quotient changes little where its parts do. -/
theorem div_sub_div_le {a b l m e : ℝ} (pos : 0 < l) (below : a ≤ l) (nonneg : 0 ≤ a) (large : 0 < m) (num : b - a ≤ e) (den : l - m ≤ e)
    (e_nonneg : 0 ≤ e) : b / m - a / l ≤ 2 * e / m := by
  rw [div_sub_div _ _ large.ne' pos.ne', div_le_div_iff₀ (mul_pos large pos) large]
  have first : (b - a) * l ≤ e * l := mul_le_mul_of_nonneg_right num pos.le
  have second : a * (l - m) ≤ l * e := by
    calc a * (l - m) ≤ a * e := mul_le_mul_of_nonneg_left den nonneg
      _ ≤ l * e := mul_le_mul_of_nonneg_right below e_nonneg
  have total := mul_le_mul_of_nonneg_right (add_le_add first second) large.le
  linarith

theorem two_pow_15_le (x : ℝ) (large : (2 : ℝ) ^ 319 ≤ x) : 2 * 2 ^ 14 / x * 2 ^ 320 ≤ 2 ^ 16 := by
  have pos : 0 < x := lt_of_lt_of_le (by positivity) large
  rw [div_mul_eq_mul_div, div_le_iff₀ pos]
  calc (2 : ℝ) * 2 ^ 14 * 2 ^ 320 = 2 ^ 16 * 2 ^ 319 := by rw [← pow_succ', ← pow_add, ← pow_add]
    _ ≤ 2 ^ 16 * x := mul_le_mul_of_nonneg_left large (by positivity)

/-- A ratio of enclosed numbers is enclosed. -/
theorem ratio_near {a l down up least most : ℝ} (large : (2 : ℝ) ^ 319 ≤ least) (order : least ≤ l ∧ l ≤ most)
    (least_near : l ≤ least + 2 ^ 14) (most_near : most ≤ l + 2 ^ 14) (nonneg : 0 ≤ down) (low : down ≤ a) (low_near : a ≤ down + 2 ^ 14)
    (high : a ≤ up) (high_near : up ≤ a + 2 ^ 14) (below : a ≤ l) :
    down / most ≤ a / l ∧ a / l * 2 ^ 320 ≤ down / most * 2 ^ 320 + 2 ^ 16 ∧ a / l ≤ up / least ∧
      up / least * 2 ^ 320 ≤ a / l * 2 ^ 320 + 2 ^ 16 := by
  obtain ⟨below_l, above_l⟩ := order
  have pos : 0 < least := lt_of_lt_of_le (by positivity) large
  have pos_l := pos.trans_le below_l
  have unit : (0 : ℝ) ≤ 2 ^ 320 := by positivity
  have near₁ := div_sub_div_le (b := a) (e := 2 ^ 14) (pos_l.trans_le above_l) ((low.trans below).trans above_l) nonneg pos_l (by linarith)
    (by linarith) (by positivity)
  have near₂ := div_sub_div_le (b := up) (e := 2 ^ 14) pos_l below (nonneg.trans low) pos (by linarith) (by linarith) (by positivity)
  have near₁ := (mul_le_mul_of_nonneg_right near₁ unit).trans (two_pow_15_le l (large.trans below_l))
  have near₂ := (mul_le_mul_of_nonneg_right near₂ unit).trans (two_pow_15_le least large)
  rw [sub_mul] at near₁ near₂
  refine ⟨div_le_div₀ (nonneg.trans low) low pos_l above_l, by linarith, div_le_div₀ (nonneg.trans (low.trans high)) high pos below_l,
    by linarith⟩

theorem log2Bound_spec {n d : Nat} (pos : 0 < d) (order : d ≤ n) (twice : n ≤ 2 * d) :
    Bounds (log2Bound false n d) (log2Bound true n d) (Real.logb 2 (n / d)) (2 ^ 17) := by
  have third : 3 * (n - d) ≤ n + d := by omega
  obtain ⟨low, low_near, high, high_near⟩ := atanhBound_spec (n := n - d) (d := n + d) (by omega) third
  have log := halfLog_ratio pos order
  have ln2 := ln2Bound_spec
  have positive : (0 : ℝ) < d := by exact_mod_cast pos
  have one : (1 : ℝ) ≤ n / d := by rw [le_div_iff₀ positive, one_mul]; exact_mod_cast order
  have two : (n : ℝ) / d ≤ 2 := by rw [div_le_iff₀ positive]; exact_mod_cast twice
  have nonneg := Real.log_nonneg one
  have below := Real.log_le_log (by linarith) two
  have base := Real.log_pos one_lt_two
  have cast (up : Bool) : ((2 * atanhBound up (n - d) (n + d) * 2 ^ wp : Nat) : ℝ) / ln2Bound (!up) =
      2 * atanhBound up (n - d) (n + d) / ln2Bound (!up) * 2 ^ 320 := by
    rw [Nat.cast_mul, Nat.cast_mul, Nat.cast_pow, Nat.cast_ofNat, show wp = 320 from rfl, mul_div_right_comm]
  have large := two_pow_le_ln2Bound
  have some (up : Bool) : 0 < ln2Bound up := by
    have : (0 : ℝ) < ln2Bound up := lt_of_lt_of_le (by positivity) (large up)
    exact_mod_cast this
  obtain ⟨down, down_near, -, -⟩ := quo_near (2 * atanhBound false (n - d) (n + d) * 2 ^ wp) (some (!false))
  obtain ⟨-, -, up, up_near⟩ := quo_near (2 * atanhBound true (n - d) (n + d) * 2 ^ wp) (some (!true))
  rw [cast] at down down_near up up_near
  have unit : (0 : ℝ) < 2 ^ 320 := by positivity
  have value : Real.logb 2 (n / d) * 2 ^ 320 = Real.log (n / d) * 2 ^ 320 / (Real.log 2 * 2 ^ 320) * 2 ^ 320 := by
    rw [Real.logb, mul_div_mul_right _ _ unit.ne']
  have numerator := mul_le_mul_of_nonneg_right below unit.le
  have numerator_nonneg := mul_nonneg nonneg unit.le
  have denominator := mul_pos base unit
  rw [← log, mul_assoc 2 (halfLog _)] at numerator numerator_nonneg value
  have near₁ := ratio_near (a := 2 * (halfLog (((n - d : Nat) : ℝ) / (n + d : Nat)) * 2 ^ 320)) (l := Real.log 2 * 2 ^ 320)
    (large false) ⟨ln2.low, ln2.high⟩ ln2.low_near ln2.high_near
    (down := 2 * atanhBound false (n - d) (n + d)) (up := 2 * atanhBound true (n - d) (n + d)) (mul_nonneg two_pos.le (Nat.cast_nonneg _)) (by linarith) (by linarith)
    (by linarith) (by linarith) numerator
  obtain ⟨ratio₁, ratio₂, ratio₃, ratio₄⟩ := near₁
  have scaled₁ := mul_le_mul_of_nonneg_right ratio₁ unit.le
  have scaled₃ := mul_le_mul_of_nonneg_right ratio₃ unit.le
  simp only [Bool.not_false, Bool.not_true] at down down_near up up_near
  constructor <;> rw [value]
  · exact down.trans scaled₁
  · refine (ratio₂.trans (add_le_add_left down_near _)).trans ?_
    rw [add_assoc]
    exact add_le_add_right (by norm_num) _
  · exact scaled₃.trans up
  · refine (up_near.trans (add_le_add_left ratio₄ _)).trans ?_
    rw [add_assoc]
    exact add_le_add_right (by norm_num) _

end Sys2Proof.Machine

/-!
FEXP2 and FLOG2 (04 R104, Table 4.11).
-/

namespace Sys2Proof.Machine

/-! ## FEXP2 -/

theorem val32_one : val32 0x3F800000 = .fin false (2 ^ 298) := by
  have mag := magUnits_add (f := .fp32) (j := 126) (k := 2 ^ 23) (by decide) (.inr le_rfl)
  rw [val32, valueOf_finite (f := .fp32) (b := (0x3F800000 : Word).toNat) (by decide)]
  refine congrArg₂ XVal.fin rfl (mag.trans ?_)
  rw [subExp_fp32, ← Nat.pow_add]

theorem exactResult_one : ExactResult (0x3F800000, 0) 1 := by
  have encodes := encodes_of_val32 val32_one
  rw [Nat.cast_pow, Nat.cast_ofNat, div_self (by positivity)] at encodes
  exact ⟨⟨false, by simpa [signed] using encodes⟩, rfl⟩

theorem two_pow_le_exp2Bound (f : Nat) : 2 ^ 320 ≤ exp2Bound false f := by
  rw [exp2Bound, expBound_eq, if_neg Bool.false_ne_true, Nat.add_zero]
  exact Finset.single_le_sum (f := expChain false _) (fun _ _ => Nat.zero_le _) (Finset.mem_range.mpr (by decide : 0 < 81))

theorem high_ge_one : (1 : ℝ) < (2 - (2 : ℝ) ^ (-23 : Int)) * 2 ^ 127 := by norm_num

/-- An enclosure of a value below the least normal one. -/
theorem Pins.of_tiny {lo hi : Nat} {a : ℝ} (pos : 0 < a) (low : lo ≤ a * 2 ^ 320) (high : a * 2 ^ 320 ≤ hi) (narrow : hi ≤ lo + 2 ^ 169)
    (tiny : a < (2 : ℝ) ^ (-126 : Int)) : Pins lo hi a where
  pos := pos
  low := low
  high := high
  narrow := narrow
  top := by
    have scaled := mul_lt_mul_of_pos_right tiny (show (0 : ℝ) < 2 ^ 320 by positivity)
    rw [least_units] at scaled
    have small : lo < 2 ^ 194 := Nat.cast_lt.mp (low.trans_lt scaled)
    refine iff_of_false (not_lt.mpr ?_) fun le => absurd (small.trans_le ?_) (Nat.not_lt.mpr le)
    · exact (tiny.trans_le ((zpow_le_one_of_nonpos₀ one_le_two (by decide)).trans high_ge_one.le)).le
    · calc 2 ^ 194 ≤ 2 ^ 424 := Nat.pow_le_pow_right two_pos (by decide)
        _ ≤ (2 ^ 24 - 1) * 2 ^ 424 := Nat.le_mul_of_pos_left _ (by decide)
  tiny := by
    have scaled := mul_lt_mul_of_pos_right tiny (show (0 : ℝ) < 2 ^ 320 by positivity)
    rw [least_units] at scaled
    exact iff_of_true tiny (Nat.cast_lt.mp (low.trans_lt scaled))

theorem cast_div_mod (m : Nat) {u : Nat} (pos : 0 < u) : (m : ℝ) / u = (m / u : Nat) + ((m % u : Nat) : ℝ) / u := by
  have parts : (m : ℝ) = (m / u : Nat) * u + (m % u : Nat) := by exact_mod_cast (Nat.div_add_mod' m u).symm
  have positive : (0 : ℝ) < u := by exact_mod_cast pos
  rw [div_eq_iff positive.ne', add_mul, div_mul_cancel₀ _ positive.ne']
  exact parts

/-- The fraction of a magnitude in units of 2^-298, in units of 2^-320. -/
theorem inUnits_shift (r : Nat) : inUnits (r * 2 ^ (wp - unitExp)) = (r : ℝ) / 2 ^ 298 := by
  rw [inUnits, Nat.cast_mul, Nat.cast_pow, Nat.cast_ofNat, show (2 : ℝ) ^ 320 = 2 ^ 298 * 2 ^ (wp - unitExp) from pow_add 2 298 22,
    mul_div_mul_right _ _ (by positivity)]

/-- The whole part and the fraction of a magnitude. -/
theorem magnitude_split (m : Nat) : (m : ℝ) / 2 ^ 298 = (m / 2 ^ unitExp : Nat) + inUnits (m % 2 ^ unitExp * 2 ^ (wp - unitExp)) := by
  rw [inUnits_shift, ← cast_unit]
  exact cast_div_mod m (Nat.two_pow_pos unitExp)

/-- The fraction is below one. -/
theorem fraction_lt (m : Nat) : m % 2 ^ unitExp * 2 ^ (wp - unitExp) < 2 ^ 320 := by
  rw [show 2 ^ 320 = 2 ^ unitExp * 2 ^ (wp - unitExp) from Nat.pow_add 2 298 22]
  exact Nat.mul_lt_mul_of_pos_right (Nat.mod_lt _ (Nat.two_pow_pos unitExp)) (Nat.two_pow_pos _)

/-- A number with a fraction is no whole number. -/
theorem ne_int_of_fraction {x : ℝ} {n : Nat} {f : ℝ} (split : x = n + f) (above : 0 < f) (below : f < 1) (neg : Bool) (k : Int) :
    signed neg x ≠ k := by
  intro eq
  have whole : ∃ j : Int, x = j := by
    cases neg
    · exact ⟨k, by simpa [signed] using eq⟩
    · refine ⟨-k, ?_⟩
      rw [Int.cast_neg, ← eq]
      simp [signed]
  obtain ⟨j, eq⟩ := whole
  rw [split] at eq
  have low : ((n : Int) : ℝ) < j := by rw [Int.cast_natCast]; linarith
  have high : (j : ℝ) < ((n + 1 : Int) : ℝ) := by push_cast; linarith
  have low := Int.cast_lt.mp low
  have high := Int.cast_lt.mp high
  omega

section
variable {f ip : Nat}

/-- Two to a negative exponent with a fraction, enclosed. -/
theorem pins_exp2_neg (some : 0 < f) (below : f < 2 ^ 320) (low : ip < 200) :
    Pins (quo false (exp2Bound false (2 ^ wp - f)) (2 ^ (ip + 1))) (quo true (exp2Bound true (2 ^ wp - f)) (2 ^ (ip + 1)))
      ((2 : ℝ) ^ (-(ip + inUnits f))) := by
  have rest : inUnits (2 ^ wp - f) = 1 - inUnits f := by
    rw [show wp = 320 from rfl, inUnits, inUnits, Nat.cast_sub below.le, Nat.cast_pow, Nat.cast_ofNat, sub_div, div_self (by positivity)]
  have value : (2 : ℝ) ^ (-(ip + inUnits f)) = (2 : ℝ) ^ inUnits (2 ^ wp - f) / (2 ^ (ip + 1) : Nat) := by
    rw [rest, show -(ip + inUnits f) = (1 - inUnits f) - ((ip + 1 : Nat) : ℝ) by push_cast; ring, Real.rpow_sub two_pos,
      Real.rpow_natCast, Nat.cast_pow, Nat.cast_ofNat]
  have power := exp2Bound_spec (f := 2 ^ wp - f) (Nat.sub_le _ _)
  obtain ⟨down, down_near, -, -⟩ := quo_near (exp2Bound false (2 ^ wp - f)) (Nat.two_pow_pos (ip + 1))
  obtain ⟨-, -, up, up_near⟩ := quo_near (exp2Bound true (2 ^ wp - f)) (Nat.two_pow_pos (ip + 1))
  have least := two_pow_le_exp2Bound (2 ^ wp - f)
  have strict : (0 : ℝ) < inUnits f ∧ inUnits f < 1 := by
    rw [inUnits, div_lt_one (by positivity)]
    exact ⟨by positivity, by exact_mod_cast below⟩
  have fine : (1 : ℝ) ≤ (2 ^ (ip + 1) : Nat) := by exact_mod_cast Nat.one_le_two_pow
  have positive : (0 : ℝ) < (2 ^ (ip + 1) : Nat) := one_pos.trans_le fine
  have units : (2 : ℝ) ^ (-(ip + inUnits f)) * 2 ^ 320 = (2 : ℝ) ^ inUnits (2 ^ wp - f) * 2 ^ 320 / (2 ^ (ip + 1) : Nat) := by
    rw [value, div_mul_eq_mul_div]
  have low' : (quo false (exp2Bound false (2 ^ wp - f)) (2 ^ (ip + 1)) : ℝ) ≤ (2 : ℝ) ^ (-(ip + inUnits f)) * 2 ^ 320 := by
    rw [units]
    exact down.trans (div_le_div_of_nonneg_right power.low positive.le)
  have high' : (2 : ℝ) ^ (-(ip + inUnits f)) * 2 ^ 320 ≤ quo true (exp2Bound true (2 ^ wp - f)) (2 ^ (ip + 1)) := by
    rw [units]
    exact (div_le_div_of_nonneg_right power.high positive.le).trans up
  have narrow : quo true (exp2Bound true (2 ^ wp - f)) (2 ^ (ip + 1)) ≤ quo false (exp2Bound false (2 ^ wp - f)) (2 ^ (ip + 1)) + 2 ^ 169 := by
    have wide : (exp2Bound true (2 ^ wp - f) : ℝ) ≤ exp2Bound false (2 ^ wp - f) + 2 ^ 19 := by
      linarith [power.high_near, power.low_near]
    have scaled := div_le_div_of_nonneg_right wide positive.le
    rw [add_div] at scaled
    have part : (2 : ℝ) ^ 19 / (2 ^ (ip + 1) : Nat) ≤ 2 ^ 19 := div_le_self (by positivity) fine
    have total : (quo true (exp2Bound true (2 ^ wp - f)) (2 ^ (ip + 1)) : ℝ) ≤
        (quo false (exp2Bound false (2 ^ wp - f)) (2 ^ (ip + 1)) + 2 ^ 169 : Nat) := by
      rw [Nat.cast_add, Nat.cast_pow, Nat.cast_ofNat]
      linarith
    exact_mod_cast total
  rcases Nat.lt_or_ge ip 126 with small | large
  · refine .of_normal low' high' narrow ?_ (lt_of_le_of_lt ?_ high_ge_one)
    · refine (Nat.le_div_iff_mul_le (Nat.two_pow_pos _)).mpr (le_trans ?_ least)
      rw [← Nat.pow_add]
      exact Nat.pow_le_pow_right two_pos (by omega)
    · exact Real.rpow_le_one_of_one_le_of_nonpos one_le_two (by linarith [Nat.cast_nonneg (α := ℝ) ip])
  · refine .of_tiny (Real.rpow_pos_of_pos two_pos _) low' high' narrow ?_
    rw [← Real.rpow_intCast]
    refine Real.rpow_lt_rpow_of_exponent_lt one_lt_two ?_
    have : (126 : ℝ) ≤ ip := by exact_mod_cast large
    push_cast
    linarith

/-- Two to a positive exponent with a fraction, enclosed. -/
theorem pins_exp2_pos (below : f < 2 ^ 320) (low : ip < 128)
    (high : (2 : ℝ) ^ (ip + inUnits f) < (2 - (2 : ℝ) ^ (-23 : Int)) * 2 ^ 127) :
    Pins (exp2Bound false f * 2 ^ ip) (exp2Bound true f * 2 ^ ip) ((2 : ℝ) ^ (ip + inUnits f)) := by
  have value : (2 : ℝ) ^ (ip + inUnits f) * 2 ^ 320 = (2 : ℝ) ^ inUnits f * 2 ^ 320 * 2 ^ ip := by
    rw [Real.rpow_add two_pos, Real.rpow_natCast]
    ring
  have power := exp2Bound_spec below.le
  have positive : (0 : ℝ) < 2 ^ ip := by positivity
  refine .of_normal ?_ ?_ ?_ ?_ high
  · rw [value, Nat.cast_mul, Nat.cast_pow, Nat.cast_ofNat]
    exact mul_le_mul_of_nonneg_right power.low positive.le
  · rw [value, Nat.cast_mul, Nat.cast_pow, Nat.cast_ofNat]
    exact mul_le_mul_of_nonneg_right power.high positive.le
  · have wide : exp2Bound true f ≤ exp2Bound false f + 2 ^ 19 := by
      have : (exp2Bound true f : ℝ) ≤ (exp2Bound false f + 2 ^ 19 : Nat) := by
        rw [Nat.cast_add, Nat.cast_pow, Nat.cast_ofNat]
        linarith [power.high_near, power.low_near]
      exact_mod_cast this
    calc exp2Bound true f * 2 ^ ip ≤ (exp2Bound false f + 2 ^ 19) * 2 ^ ip := Nat.mul_le_mul_right _ wide
      _ = exp2Bound false f * 2 ^ ip + 2 ^ (19 + ip) := by rw [Nat.add_mul, ← Nat.pow_add]
      _ ≤ exp2Bound false f * 2 ^ ip + 2 ^ 169 := Nat.add_le_add_left (Nat.pow_le_pow_right two_pos (by omega)) _
  · calc 2 ^ 194 ≤ 2 ^ 320 := Nat.pow_le_pow_right two_pos (by decide)
      _ ≤ exp2Bound false f := two_pow_le_exp2Bound f
      _ ≤ exp2Bound false f * 2 ^ ip := Nat.le_mul_of_pos_right _ (Nat.two_pow_pos ip)

end

/-- An FP32 value below 128 is below it by its spacing there. -/
theorem fp32_below_128 {w : Word} {s : Bool} {m : Nat} (value : val32 w = .fin s m) (below : m < 2 ^ 305) :
    (m : ℝ) / 2 ^ 298 ≤ 128 - (1 / 2) ^ 17 := by
  have most : m + 2 ^ 281 ≤ 2 ^ 305 := by
    obtain ⟨c, j, rfl, low, -⟩ := fp32_range value
    rcases Nat.lt_or_ge j 132 with small | large
    · have room : c * 2 ^ (149 + j) < 2 ^ 304 := by
        calc c * 2 ^ (149 + j) < 2 ^ 24 * 2 ^ (149 + j) := Nat.mul_lt_mul_of_pos_right low (Nat.two_pow_pos _)
          _ = 2 ^ (24 + (149 + j)) := (Nat.pow_add ..).symm
          _ ≤ 2 ^ 304 := Nat.pow_le_pow_right two_pos (by omega)
      calc c * 2 ^ (149 + j) + 2 ^ 281 ≤ 2 ^ 304 + 2 ^ 304 := Nat.add_le_add room.le (Nat.pow_le_pow_right two_pos (by decide))
        _ = 2 ^ 305 := by rw [← Nat.two_mul, ← Nat.pow_succ']
    · obtain ⟨i, rfl⟩ := Nat.exists_eq_add_of_le large
      rw [show 149 + (132 + i) = i + 281 by omega, Nat.pow_add, ← Nat.mul_assoc] at below ⊢
      rw [show 305 = 24 + 281 from rfl, Nat.pow_add] at below ⊢
      rw [← Nat.succ_mul]
      exact Nat.mul_le_mul_right _ (Nat.lt_of_mul_lt_mul_right below)
  have real : (m : ℝ) + 2 ^ 281 ≤ 2 ^ 305 := by exact_mod_cast most
  rw [div_le_iff₀ (by positivity)]
  have top : (128 : ℝ) * 2 ^ 298 = 2 ^ 305 := by rw [show (128 : ℝ) = 2 ^ 7 by norm_num, ← pow_add]
  have spacing : (1 / 2 : ℝ) ^ 17 * 2 ^ 298 = 2 ^ 281 := by
    rw [show 298 = 17 + 281 from rfl, pow_add, ← mul_assoc, ← mul_pow]
    norm_num
  rw [sub_mul, top, spacing]
  linarith

/-- Two to an exponent that is below 128 by a spacing does not reach the largest finite value. -/
theorem two_rpow_lt_high {x : ℝ} (below : x ≤ 128 - (1 / 2) ^ 17) : (2 : ℝ) ^ x < (2 - (2 : ℝ) ^ (-23 : Int)) * 2 ^ 127 := by
  have root : (2 : ℝ) ^ (-(1 / 2 : ℝ) ^ 17) < 1 - (1 / 2) ^ 24 := by
    by_contra above
    have bernoulli := one_add_mul_le_pow (a := -(1 / 2 : ℝ) ^ 24) (by norm_num) (2 ^ 17)
    have power := pow_le_pow_left₀ (by norm_num) (not_lt.mp above) (2 ^ 17)
    rw [← Real.rpow_mul_natCast two_pos.le] at power
    norm_num at bernoulli power
    exact absurd (bernoulli.trans power) (by norm_num)
  calc (2 : ℝ) ^ x ≤ 2 ^ ((128 : Nat) + -(1 / 2 : ℝ) ^ 17) := Real.rpow_le_rpow_of_exponent_le one_le_two (by push_cast; linarith)
    _ = 2 ^ 128 * 2 ^ (-(1 / 2 : ℝ) ^ 17) := by rw [Real.rpow_add two_pos, Real.rpow_natCast]
    _ < 2 ^ 128 * (1 - (1 / 2) ^ 24) := mul_lt_mul_of_pos_left root (by positivity)
    _ = _ := by norm_num

theorem special32_exp2 {w : Word} {s : Bool} {m : Nat} (value : val32 w = .fin s m) (pos : 0 < m) :
    special32 .exp2 w = exp2Fin w s m := by
  unfold special32
  simp only [value]
  generalize exp2Fin w s m = result
  exact if_neg pos.ne'

/-- The exponents whose powers of two are FP32 values. -/
def ExactExponent (x : ℝ) : Prop := ∃ k : Int, x = k ∧ -149 ≤ k ∧ k ≤ 127

/-- What FEXP2 claims of its result. -/
def Exp2Result (p : Word × FFlags) (x : ℝ) : Prop :=
  (ExactExponent x → ExactResult p ((2 : ℝ) ^ x)) ∧ (¬ ExactExponent x → Claims.Within p ((2 : ℝ) ^ x) (2 * ulp ((2 : ℝ) ^ x)))

theorem exp2Result_of_pins {lo hi : Nat} {x : ℝ} (h : Pins lo hi ((2 : ℝ) ^ x)) (inexact : ¬ ExactExponent x) (w : Word) :
    Exp2Result (signedResult .exp2 w false lo hi (2 ^ (ulpExp lo + 1))) x := by
  refine ⟨fun exact => absurd exact inexact, fun _ => ?_⟩
  simpa [signed] using within_ulps h (fn := .exp2) (w := w) false 1

/-- A power of two whose exponent is a whole number within the range. -/
theorem exp2Result_of_exact {e : Nat} {x : ℝ} (least : 149 ≤ e) (most : e ≤ 425) (eq : x = (e : ℝ) - 298) :
    Exp2Result (round32 .rne (.fin false (2 ^ e))) x := by
  have exponent : ExactExponent x := ⟨(e : Int) - 298, by rw [eq]; push_cast; rfl, by omega, by omega⟩
  refine ⟨fun _ => exactResult_round32 .rne false (exists_fp32_two_pow least most) ?_, fun inexact => absurd exponent inexact⟩
  rw [eq, Real.rpow_sub two_pos, Real.rpow_natCast, Nat.cast_pow, Nat.cast_ofNat, ← Real.rpow_natCast 2 298, Nat.cast_ofNat]
  exact (one_mul _).symm

theorem two_rpow_neg_units {k : Nat} (le : k ≤ wp) : (2 : ℝ) ^ (-(k : ℝ)) * 2 ^ 320 = (2 ^ (wp - k) : Nat) := by
  rw [Real.rpow_neg two_pos.le, Real.rpow_natCast, Nat.cast_pow, Nat.cast_ofNat, inv_mul_eq_iff_eq_mul₀ (by positivity), ← pow_add]
  congr 1
  exact (Nat.add_sub_cancel' le).symm

theorem two_rpow_neg_lt {x : ℝ} (above : 126 < x) : (2 : ℝ) ^ (-x) < (2 : ℝ) ^ (-126 : Int) := by
  rw [← Real.rpow_intCast]
  exact Real.rpow_lt_rpow_of_exponent_lt one_lt_two (by push_cast; linarith)

theorem inUnits_zero : inUnits 0 = 0 := by simp [inUnits]

theorem inUnits_pos {f : Nat} (nonzero : f ≠ 0) : 0 < inUnits f := by
  have : 0 < f := Nat.pos_of_ne_zero nonzero
  unfold inUnits
  positivity

theorem inUnits_lt_one {f : Nat} (below : f < 2 ^ 320) : inUnits f < 1 := (div_lt_one (by positivity)).mpr (by exact_mod_cast below)

/-- A number with a fraction is no exponent of an FP32 power of two. -/
theorem not_exactExponent {x : ℝ} {n f : Nat} (split : x = n + inUnits f) (nonzero : f ≠ 0) (below : f < 2 ^ 320) (neg : Bool) :
    ¬ ExactExponent (signed neg x) := fun ⟨k, eq, _⟩ =>
  ne_int_of_fraction split (inUnits_pos nonzero) (inUnits_lt_one below) neg k eq

theorem exp2Fin_neg (w : Word) (m : Nat) : Exp2Result (exp2Fin w true m) (-((m : ℝ) / 2 ^ 298)) := by
  have split := magnitude_split m
  have below := fraction_lt m
  unfold exp2Fin
  simp only [if_true]
  generalize m % 2 ^ unitExp * 2 ^ (wp - unitExp) = f at split below ⊢
  generalize m / 2 ^ unitExp = ip at split ⊢
  have inexact := not_exactExponent split (f := f)
  rw [split] at inexact ⊢
  have nonneg := inUnits_nonneg f
  have positive := Real.rpow_pos_of_pos two_pos (-(ip + inUnits f))
  by_cases vanishing : 200 ≤ ip
  · have far : (200 : ℝ) ≤ ip := by exact_mod_cast vanishing
    rw [if_pos vanishing]
    refine exp2Result_of_pins (.of_tiny positive ?_ ?_ ?_ (two_rpow_neg_lt (by linarith))) ?_ w
    · rw [Nat.cast_zero]
      positivity
    · rw [← two_rpow_neg_units (by decide)]
      exact mul_le_mul_of_nonneg_right (Real.rpow_le_rpow_of_exponent_le one_le_two (by push_cast; linarith)) (by positivity)
    · rw [Nat.zero_add]
      exact Nat.pow_le_pow_right two_pos (by decide)
    · rintro ⟨k, eq, least, -⟩
      have : (-149 : ℝ) ≤ k := by exact_mod_cast least
      linarith
  rw [if_neg vanishing]
  by_cases fraction : f = 0
  · subst fraction
    rw [if_pos rfl, inUnits_zero, add_zero] at *
    by_cases normal : ip ≤ 149
    · rw [if_pos normal]
      refine exp2Result_of_exact (by unfold unitExp; omega) (by unfold unitExp; omega) ?_
      rw [Nat.cast_sub (by unfold unitExp; omega), show ((unitExp : Nat) : ℝ) = 298 from Nat.cast_ofNat]
      ring
    · have far : (150 : ℝ) ≤ ip := by exact_mod_cast Nat.lt_of_not_le normal
      have units := two_rpow_neg_units (k := ip) (by unfold wp; omega)
      rw [if_neg normal]
      refine exp2Result_of_pins (.of_tiny positive units.ge units.le (Nat.le_add_right _ _) (two_rpow_neg_lt (by linarith))) ?_ w
      rintro ⟨k, eq, least, -⟩
      have : (-149 : ℝ) ≤ k := by exact_mod_cast least
      linarith
  · rw [if_neg fraction]
    refine exp2Result_of_pins (pins_exp2_neg (Nat.pos_of_ne_zero fraction) below (Nat.lt_of_not_le vanishing)) ?_ w
    simpa [signed] using inexact fraction below true

theorem exp2Fin_pos {w : Word} {s : Bool} {m : Nat} (value : val32 w = .fin s m) : Exp2Result (exp2Fin w false m) ((m : ℝ) / 2 ^ 298) := by
  have split := magnitude_split m
  have below := fraction_lt m
  have largest : m / 2 ^ unitExp < 128 → (m : ℝ) / 2 ^ 298 ≤ 128 - (1 / 2) ^ 17 := fun small => by
    refine fp32_below_128 value ?_
    have := (Nat.div_lt_iff_lt_mul (Nat.two_pow_pos unitExp)).mp small
    rwa [show 128 = 2 ^ 7 from rfl, ← Nat.pow_add] at this
  unfold exp2Fin
  simp only [Bool.false_eq_true, if_false]
  generalize m % 2 ^ unitExp * 2 ^ (wp - unitExp) = f at split below ⊢
  generalize m / 2 ^ unitExp = ip at split largest ⊢
  have inexact := not_exactExponent split (f := f)
  rw [split] at inexact largest ⊢
  have nonneg := inUnits_nonneg f
  by_cases beyond : 128 ≤ ip
  · have far : (128 : ℝ) ≤ ip := by exact_mod_cast beyond
    rw [if_pos beyond]
    have large : (2 - (2 : ℝ) ^ (-23 : Int)) * 2 ^ 127 < 2 ^ (ip + inUnits f) := by
      calc (2 - (2 : ℝ) ^ (-23 : Int)) * 2 ^ 127 < 2 ^ 128 := by norm_num
        _ = 2 ^ ((128 : Nat) : ℝ) := (Real.rpow_natCast 2 128).symm
        _ ≤ 2 ^ (ip + inUnits f) := Real.rpow_le_rpow_of_exponent_le one_le_two (by push_cast; linarith)
    have positive := Real.rpow_pos_of_pos two_pos (ip + inUnits f)
    refine ⟨?_, fun _ => ?_⟩
    · rintro ⟨k, eq, -, most⟩
      have : (k : ℝ) ≤ 127 := by exact_mod_cast most
      linarith
    · simp only [Claims.Within, abs_of_pos positive, large, not_le.mpr large, if_neg (not_lt.mpr positive.le), true_imp_iff,
        false_imp_iff, and_true]
  rw [if_neg beyond]
  by_cases fraction : f = 0
  · subst fraction
    rw [if_pos rfl, inUnits_zero, add_zero] at *
    refine exp2Result_of_exact (by unfold unitExp; omega) (by unfold unitExp; omega) ?_
    rw [Nat.cast_add, show ((unitExp : Nat) : ℝ) = 298 from Nat.cast_ofNat]
    ring
  · rw [if_neg fraction]
    have low := Nat.lt_of_not_le beyond
    refine exp2Result_of_pins (pins_exp2_pos below low (two_rpow_lt_high (largest low))) ?_ w
    simpa [signed] using inexact fraction below false

theorem exp2_bounds {w : Word} {s : Bool} {m : Nat} (value : val32 w = .fin s m) :
    Exp2Result (special32 .exp2 w) (signed s ((m : ℝ) / 2 ^ 298)) := by
  rcases Nat.eq_zero_or_pos m with rfl | pos
  · have zero : signed s (((0 : Nat) : ℝ) / 2 ^ 298) = 0 := by simp
    have result : special32 .exp2 w = (0x3F800000, 0) := by
      unfold special32
      simp only [value]
      rfl
    rw [zero, result]
    refine ⟨fun _ => ?_, fun inexact => absurd ⟨0, by simp⟩ inexact⟩
    rw [Real.rpow_zero]
    exact exactResult_one
  · rw [special32_exp2 value pos]
    cases s
    · simpa [signed] using exp2Fin_pos value
    · simpa [signed] using exp2Fin_neg w m

/-! ## FLOG2 -/

/-- An FP32 value other than one is clear of it. -/
theorem fp32_clear_of_one {w : Word} {s : Bool} {m : Nat} (value : val32 w = .fin s m) (other : m ≠ 2 ^ 298) :
    (1 / 2 : ℝ) ^ 24 ≤ |(m : ℝ) / 2 ^ 298 - 1| := by
  have apart : m + 2 ^ 274 ≤ 2 ^ 298 ∨ 2 ^ 298 + 2 ^ 274 ≤ m := by
    obtain ⟨c, j, rfl, low, -⟩ := fp32_range value
    rcases Nat.lt_or_ge j 125 with small | large
    · left
      have room : c * 2 ^ (149 + j) < 2 ^ 297 := by
        calc c * 2 ^ (149 + j) < 2 ^ 24 * 2 ^ (149 + j) := Nat.mul_lt_mul_of_pos_right low (Nat.two_pow_pos _)
          _ = 2 ^ (24 + (149 + j)) := (Nat.pow_add ..).symm
          _ ≤ 2 ^ 297 := Nat.pow_le_pow_right two_pos (by omega)
      calc c * 2 ^ (149 + j) + 2 ^ 274 ≤ 2 ^ 297 + 2 ^ 297 := Nat.add_le_add room.le (Nat.pow_le_pow_right two_pos (by decide))
        _ = 2 ^ 298 := by rw [← Nat.two_mul, ← Nat.pow_succ']
    · obtain ⟨i, rfl⟩ := Nat.exists_eq_add_of_le large
      rw [show 149 + (125 + i) = i + 274 by omega, Nat.pow_add, ← Nat.mul_assoc] at other ⊢
      rw [show 298 = 24 + 274 from rfl, Nat.pow_add] at other ⊢
      rw [← Nat.succ_mul, ← Nat.succ_mul]
      rcases Nat.lt_or_gt_of_ne fun eq => other (congrArg (· * 2 ^ 274) eq) with less | more
      · exact .inl (Nat.mul_le_mul_right _ less)
      · exact .inr (Nat.mul_le_mul_right _ more)
  have unit : (0 : ℝ) < 2 ^ 298 := by positivity
  have spacing : (1 / 2 : ℝ) ^ 24 * 2 ^ 298 = 2 ^ 274 := by
    rw [show 298 = 24 + 274 from rfl, pow_add, ← mul_assoc, ← mul_pow]
    norm_num
  rw [← mul_le_mul_iff_of_pos_right unit, spacing, ← abs_of_pos unit, ← abs_mul, abs_of_pos unit, sub_mul, div_mul_cancel₀ _ unit.ne',
    one_mul]
  rcases apart with less | more
  · have less : (m : ℝ) + 2 ^ 274 ≤ 2 ^ 298 := by exact_mod_cast less
    rw [abs_sub_comm]
    exact (by linarith : (2 : ℝ) ^ 274 ≤ 2 ^ 298 - m).trans (le_abs_self _)
  · have more : (2 : ℝ) ^ 298 + 2 ^ 274 ≤ m := by exact_mod_cast more
    exact (by linarith : (2 : ℝ) ^ 274 ≤ m - 2 ^ 298).trans (le_abs_self _)

/-- The logarithm of a number clear of one is clear of zero. -/
theorem logb_clear {x : ℝ} (pos : 0 < x) (clear : (1 / 2 : ℝ) ^ 24 ≤ |x - 1|) : (1 / 2 : ℝ) ^ 25 ≤ |Real.logb 2 x| := by
  have ln2 := Real.log_two_lt_d9
  have ln2_pos := Real.log_pos one_lt_two
  have natural : (1 / 2 : ℝ) ^ 25 ≤ |Real.log x| := by
    rcases le_total x 1 with below | above
    · rw [abs_of_nonpos (by linarith)] at clear
      rw [abs_of_nonpos (Real.log_nonpos pos.le below)]
      have := Real.log_le_sub_one_of_pos pos
      norm_num at clear ⊢
      linarith
    · rw [abs_of_nonneg (by linarith)] at clear
      rw [abs_of_nonneg (Real.log_nonneg above)]
      refine le_trans ?_ (Real.one_sub_inv_le_log_of_pos pos)
      rw [le_sub_comm, inv_le_comm₀ pos (by norm_num)]
      refine le_trans ?_ (show 1 + (1 / 2 : ℝ) ^ 24 ≤ x by linarith)
      norm_num
  rw [Real.logb, abs_div, abs_of_pos ln2_pos, le_div_iff₀ ln2_pos]
  refine le_trans ?_ natural
  exact mul_le_of_le_one_right (by positivity) (by linarith)

theorem special32_log2 {w : Word} {m : Nat} (value : val32 w = .fin false m) (pos : 0 < m) : special32 .log2 w = log2Fin w m := by
  unfold special32
  simp only [value]
  generalize log2Fin w m = result
  exact if_neg pos.ne'

/-- An enclosure with a sign, by its ends. -/
theorem boundedResult_signed (fn : SpecialFn) (w : Word) (neg : Bool) (lo hi tol : Nat) :
    boundedResult fn w (if neg then -hi else lo) (if neg then -lo else hi) tol = signedResult fn w neg lo hi tol := by
  cases neg <;> rfl

theorem log2_power_iff (m : Nat) : isPow2 m = true ↔ ∃ k : Int, (m : ℝ) / 2 ^ 298 = (2 : ℝ) ^ k := by
  rw [isPow2_iff]
  constructor
  · rintro ⟨e, rfl⟩
    exact ⟨(e : Int) - (298 : Nat), by rw [two_zpow_sub, Nat.cast_pow, Nat.cast_ofNat]⟩
  · rintro ⟨k, value⟩
    have nonneg : 0 ≤ k + 298 := by
      by_contra neg
      have small : (m : ℝ) < 1 := by
        rw [(div_eq_iff (by positivity)).mp value, ← zpow_natCast, ← zpow_add₀ two_ne_zero]
        exact zpow_lt_one_of_neg₀ one_lt_two (by push_cast; omega)
      obtain rfl : m = 0 := Nat.lt_one_iff.mp (by exact_mod_cast small)
      rw [Nat.cast_zero, zero_div] at value
      exact (zpow_pos two_pos _).ne value
    obtain ⟨e, exponent⟩ := Int.eq_ofNat_of_zero_le nonneg
    rw [show k = (e : Int) - (298 : Nat) by push_cast; omega, two_zpow_sub, div_left_inj' (by positivity)] at value
    exact ⟨e, by exact_mod_cast value⟩

/-- The enclosure of the logarithm of m units: the whole part and that of the ratio to the power of two below. -/
theorem log2_enclosed {m : Nat} (pos : 0 < m) :
    let k : Int := (Nat.log2 m : Int) - unitExp
    let lo : Int := k * (2 ^ wp : Nat) + (log2Bound false m (2 ^ Nat.log2 m) : Nat)
    let hi : Int := k * (2 ^ wp : Nat) + (log2Bound true m (2 ^ Nat.log2 m) : Nat)
    let y := Real.logb 2 ((m : ℝ) / 2 ^ 298)
    (lo : ℝ) ≤ y * 2 ^ 320 ∧ y * 2 ^ 320 ≤ hi ∧ (hi : ℝ) ≤ lo + 2 ^ 18 ∧ (k : ℝ) ≤ y ∧ y ≤ k + 1 := by
  intro k lo hi y
  have down := Nat.log2_self_le pos.ne'
  have up : m ≤ 2 * 2 ^ Nat.log2 m := by
    rw [← Nat.pow_succ']
    exact Nat.lt_log2_self.le
  obtain ⟨low, low_near, high, high_near⟩ := log2Bound_spec (Nat.two_pow_pos (Nat.log2 m)) down up
  have positive : (0 : ℝ) < m := by exact_mod_cast pos
  have whole : (k : ℝ) = Nat.log2 m - 298 := by
    simp only [k, Int.cast_sub, Int.cast_natCast]
    exact congrArg _ (Nat.cast_ofNat (n := 298))
  have power (e : Nat) : Real.logb 2 ((2 : ℝ) ^ e) = e := by rw [Real.logb_pow, Real.logb_self_eq_one one_lt_two, mul_one]
  have split : y = k + Real.logb 2 ((m : ℝ) / (2 ^ Nat.log2 m : Nat)) := by
    rw [Nat.cast_pow, Nat.cast_ofNat, Real.logb_div positive.ne' (by positivity), power, whole]
    simp only [y]
    rw [Real.logb_div positive.ne' (by positivity), power, Nat.cast_ofNat]
    ring
  obtain ⟨nonneg, one⟩ : 0 ≤ Real.logb 2 ((m : ℝ) / (2 ^ Nat.log2 m : Nat)) ∧ Real.logb 2 ((m : ℝ) / (2 ^ Nat.log2 m : Nat)) ≤ 1 := by
    have scale : (0 : ℝ) < (2 ^ Nat.log2 m : Nat) := by exact_mod_cast Nat.two_pow_pos _
    rw [Real.logb_le_iff_le_rpow one_lt_two (by positivity), Real.rpow_one, div_le_iff₀ scale]
    exact ⟨Real.logb_nonneg one_lt_two ((le_div_iff₀ scale).mpr (by rw [one_mul]; exact_mod_cast down)), by exact_mod_cast up⟩
  generalize Real.logb 2 ((m : ℝ) / (2 ^ Nat.log2 m : Nat)) = r at *
  have cast (n : Nat) : ((k * (2 ^ wp : Nat) + n : Int) : ℝ) = k * 2 ^ 320 + n := by
    rw [Int.cast_add, Int.cast_mul, Int.cast_natCast, Int.cast_natCast, Nat.cast_pow, Nat.cast_ofNat, show wp = 320 from rfl]
  have lo_eq := cast (log2Bound false m (2 ^ Nat.log2 m))
  have hi_eq := cast (log2Bound true m (2 ^ Nat.log2 m))
  simp only [lo, hi]
  rw [lo_eq, hi_eq, split]
  refine ⟨by linarith only [low], by linarith only [high], by linarith only [high_near, low_near], by linarith only [nonneg],
    by linarith only [one]⟩


/-- Signed ends and the magnitudes that they are. -/
theorem pins_of_ends {lo hi : Int} {y : ℝ} (low : lo ≤ y * 2 ^ 320) (high : y * 2 ^ 320 ≤ hi) (narrow : (hi : ℝ) ≤ lo + 2 ^ 18)
    (clear : (1 / 2 : ℝ) ^ 25 ≤ |y|) (below : |y| ≤ 2 ^ 127) : ∃ (neg : Bool) (a b : Nat), lo = (if neg then -(b : Int) else a) ∧
      hi = (if neg then -(a : Int) else b) ∧ y = signed neg |y| ∧ Pins a b |y| ∧ min lo.natAbs hi.natAbs = a := by
  have unit : (2 : ℝ) ^ 320 = 2 ^ 25 * 2 ^ 295 := by rw [← pow_add]
  have wide : (2 : ℝ) ^ 18 ≤ 2 ^ 295 := pow_le_pow_right₀ one_le_two (by decide)
  have scaled : (2 : ℝ) ^ 295 ≤ |y| * 2 ^ 320 := by
    rw [unit, ← mul_assoc]
    refine le_mul_of_one_le_left (by positivity) ?_
    calc (1 : ℝ) = (1 / 2) ^ 25 * 2 ^ 25 := by norm_num
      _ ≤ |y| * 2 ^ 25 := mul_le_mul_of_nonneg_right clear (by positivity)
  have far : (2 : ℝ) ^ (-125 : Int) ≤ |y| := le_trans (by norm_num) clear
  have narrow' : hi ≤ lo + 2 ^ 18 := by exact_mod_cast narrow
  rcases le_total 0 y with nonneg | nonpos
  · rw [abs_of_nonneg nonneg] at scaled far below ⊢
    have lo_nonneg : 0 ≤ lo := by
      have : (0 : ℝ) + 2 ^ 18 ≤ lo + 2 ^ 18 := (zero_add _).trans_le (wide.trans (scaled.trans (high.trans narrow)))
      have := le_of_add_le_add_right this
      exact_mod_cast this
    obtain ⟨a, rfl⟩ := Int.eq_ofNat_of_zero_le lo_nonneg
    have order : (a : Int) ≤ hi := by
      have : ((a : Int) : ℝ) ≤ hi := low.trans high
      exact_mod_cast this
    obtain ⟨b, rfl⟩ := Int.eq_ofNat_of_zero_le (lo_nonneg.trans order)
    refine ⟨false, a, b, rfl, rfl, (one_mul y).symm, .of_clear (by exact_mod_cast low) (by exact_mod_cast high) (by omega) far below, ?_⟩
    simp only [Int.natAbs_natCast]
    omega
  · rw [abs_of_nonpos nonpos] at scaled far below ⊢
    have hi_nonpos : 0 ≤ -hi := by
      have far : (2 : ℝ) ^ 18 ≤ -lo := wide.trans (scaled.trans (by rw [neg_mul]; exact neg_le_neg low))
      have : (0 : ℝ) ≤ -hi := by linarith only [far, narrow]
      exact_mod_cast this
    obtain ⟨a, eq⟩ := Int.eq_ofNat_of_zero_le hi_nonpos
    have order : -hi ≤ -lo := by
      have : ((lo : Int) : ℝ) ≤ hi := low.trans high
      have : lo ≤ hi := by exact_mod_cast this
      omega
    obtain ⟨b, eq'⟩ := Int.eq_ofNat_of_zero_le (hi_nonpos.trans order)
    obtain rfl : hi = -(a : Int) := by omega
    obtain rfl : lo = -(b : Int) := by omega
    push_cast at low high
    refine ⟨true, a, b, rfl, rfl, by simp [signed], .of_clear (by linarith) (by linarith) (by omega) far below, ?_⟩
    simp only [Int.natAbs_neg, Int.natAbs_natCast]
    omega

/-- The logarithms of powers of two are small whole numbers, which FP32 has. -/
theorem log2_exact {m : Nat} {k : Int} (least : 2 ^ 149 ≤ m) (most : m < 2 ^ 426) (power : (m : ℝ) / 2 ^ 298 = (2 : ℝ) ^ k) :
    ((Nat.log2 m : Int) - unitExp = k) ∧ ExactResult (round32 .rne (XVal.ofInt k)) k := by
  obtain ⟨e, rfl⟩ := isPow2_iff.mp ((log2_power_iff m).mpr ⟨k, power⟩)
  have least := (Nat.pow_le_pow_iff_right one_lt_two).mp least
  have most := (Nat.pow_lt_pow_iff_right one_lt_two).mp most
  have exponent : (e : Int) - (298 : Nat) = k := by
    rw [Nat.cast_pow, Nat.cast_ofNat, ← two_zpow_sub] at power
    exact zpow_right_injective₀ two_pos (by norm_num) power
  refine ⟨by rw [Nat.log2_two_pow]; exact exponent, ?_⟩
  refine exactResult_round32 .rne (decide (k < 0)) (exists_fp32 (c := k.natAbs) (q := unitExp) (by omega) (by decide) (by decide)) ?_
  rw [Nat.cast_mul, cast_unit, mul_div_assoc, div_self (by positivity), mul_one, signed_natAbs]

theorem roundExp_of_le_one {lo : Nat} {a : ℝ} (low : lo ≤ a * 2 ^ 320) (below : a ≤ 1) : roundExp .fp32 (lo / 2 ^ 22) ≤ 275 := by
  have small : lo ≤ 2 ^ 320 := by
    have : (lo : ℝ) ≤ 2 ^ 320 := low.trans (mul_le_of_le_one_left (by positivity) below)
    exact_mod_cast this
  have log : Nat.log2 (lo / 2 ^ 22) < 299 := by
    have part : lo / 2 ^ 22 < 2 ^ 299 := by
      rw [Nat.div_lt_iff_lt_mul (Nat.two_pow_pos _), ← Nat.pow_add]
      exact small.trans_lt (Nat.pow_lt_pow_right one_lt_two (by decide))
    rcases Nat.eq_zero_or_pos (lo / 2 ^ 22) with zero | pos
    · rw [zero]
      decide
    · exact (Nat.log2_lt pos.ne').mpr part
  unfold roundExp
  rw [fracBits_fp32, subExp_fp32]
  omega

/-- A result within 2^-22 of a value up to one. -/
theorem within_absolute {lo hi : Nat} {a : ℝ} (h : Pins lo hi a) (below : a ≤ 1) (fn : SpecialFn) (w : Word) (neg : Bool) :
    Claims.Within (signedResult fn w neg lo hi (2 ^ (wp - 22))) (signed neg a) ((2 : ℝ) ^ (-22 : Int)) := by
  refine within_of_pins h neg (le_of_eq ?_) ?_
  · rw [Nat.cast_pow, Nat.cast_ofNat, ← zpow_natCast, ← zpow_natCast (2 : ℝ) 320, ← zpow_add₀ two_ne_zero]
    rfl
  · calc (2 : ℝ) ^ roundExp .fp32 (lo / 2 ^ 22) ≤ 2 ^ 276 :=
          pow_le_pow_right₀ one_le_two ((roundExp_of_le_one h.low below).trans (by decide))
      _ = (2 : ℝ) ^ (-22 : Int) * 2 ^ 298 := by
          rw [← zpow_natCast, ← zpow_natCast (2 : ℝ) 298, ← zpow_add₀ two_ne_zero]
          rfl

/-- The range in which FLOG2's bound is absolute. -/
theorem log2_inside_iff (m : Nat) :
    (2 ^ (unitExp - 1) ≤ m ∧ m ≤ 2 ^ (unitExp + 1)) ↔ (1 / 2 ≤ (m : ℝ) / 2 ^ 298 ∧ (m : ℝ) / 2 ^ 298 ≤ 2) := by
  have half : (1 / 2 : ℝ) = (2 ^ (unitExp - 1) : Nat) / 2 ^ 298 := by
    rw [Nat.cast_pow, Nat.cast_ofNat, show 298 = 1 + (unitExp - 1) from rfl, pow_add, ← div_div, pow_one, div_right_comm,
      div_self (by positivity)]
  have two : (2 : ℝ) = (2 ^ (unitExp + 1) : Nat) / 2 ^ 298 := by
    rw [Nat.cast_pow, Nat.cast_ofNat, show unitExp = 298 from rfl, pow_succ, mul_div_right_comm, div_self (by positivity), one_mul]
  have unit : (0 : ℝ) < 2 ^ 298 := by positivity
  refine and_congr ?_ ?_
  · rw [half, div_le_div_iff_of_pos_right unit, Nat.cast_le]
  · rw [← Nat.cast_le (α := ℝ), ← div_le_div_iff_of_pos_right unit, ← two]

theorem log2_inside_abs {x : ℝ} (inside : 1 / 2 ≤ x ∧ x ≤ 2) : |Real.logb 2 x| ≤ 1 := by
  obtain ⟨low, high⟩ := inside
  have pos : 0 < x := by linarith
  rw [abs_le, Real.le_logb_iff_rpow_le one_lt_two pos, Real.logb_le_iff_le_rpow one_lt_two pos, Real.rpow_neg_one, Real.rpow_one]
  exact ⟨by linarith, high⟩

theorem log2_bounds {w : Word} {m : Nat} (value : val32 w = .fin false m) (pos : 0 < m) :
    let x := (m : ℝ) / 2 ^ 298
    let power := ∃ k : Int, x = (2 : ℝ) ^ k
    (power → ExactResult (special32 .log2 w) (Real.logb 2 x) ∧ (x = 1 → (special32 .log2 w).1 = 0)) ∧
      (¬ power → Claims.Within (special32 .log2 w) (Real.logb 2 x)
        (if 1 / 2 ≤ x ∧ x ≤ 2 then (2 : ℝ) ^ (-22 : Int) else 2 * ulp (Real.logb 2 x))) := by
  intro x power
  have test := log2_power_iff m
  rw [special32_log2 value pos, log2Fin]
  refine ⟨?_, fun inexact => ?_⟩
  · rintro ⟨k, eq⟩
    obtain ⟨exponent, exact⟩ := log2_exact (fp32_ge value pos) (fp32_lt value) eq
    have log : Real.logb 2 x = k := by
      rw [eq, Real.logb, Real.log_zpow, mul_div_assoc, div_self (Real.log_pos one_lt_two).ne', mul_one]
    simp only [if_pos (test.mpr ⟨k, eq⟩), exponent, log]
    refine ⟨exact, fun one => ?_⟩
    obtain rfl : k = 0 := zpow_right_injective₀ two_pos (by norm_num) (eq.symm.trans (one.trans (zpow_zero 2).symm))
    exact congrArg Prod.fst (round32_zero_eq .rne false)
  · rw [if_neg (mt test.mp inexact)]
    obtain ⟨low, high, narrow, above, below⟩ := log2_enclosed pos
    have least := fp32_ge value pos
    have most := fp32_lt value
    have other : m ≠ 2 ^ 298 := fun eq => inexact ⟨0, by simp only [x, eq]; rw [zpow_zero, Nat.cast_pow, Nat.cast_ofNat]; exact div_self (by positivity)⟩
    have clear := logb_clear (by positivity : 0 < x) (fp32_clear_of_one value other)
    have log : Nat.log2 m < 426 := (Nat.log2_lt pos.ne').mpr most
    have large : |Real.logb 2 x| ≤ 2 ^ 127 := by
      have exponent : (unitExp : Int) = 298 := rfl
      have lower : ((-298 : Int) : ℝ) ≤ ((Nat.log2 m : Int) - unitExp : Int) := Int.cast_le.mpr (by omega)
      have upper : (((Nat.log2 m : Int) - unitExp : Int) : ℝ) ≤ (127 : Int) := Int.cast_le.mpr (by omega)
      rw [Int.cast_neg, Int.cast_ofNat] at lower
      rw [Int.cast_ofNat (n := 127)] at upper
      refine (abs_le.mpr ⟨?_, ?_⟩).trans (by norm_num : (298 : ℝ) ≤ 2 ^ 127)
      · linarith only [lower, above]
      · linarith only [upper, below]
    obtain ⟨neg, a, b, eq_lo, eq_hi, sign, pins, smaller⟩ := pins_of_ends low high narrow clear large
    rw [eq_lo, eq_hi] at smaller
    simp only [eq_lo, eq_hi, boundedResult_signed, smaller]
    by_cases inside : 2 ^ (unitExp - 1) ≤ m ∧ m ≤ 2 ^ (unitExp + 1)
    · rw [if_pos (decide_eq_true inside), if_pos ((log2_inside_iff m).mp inside), sign]
      exact within_absolute pins ((log2_inside_abs ((log2_inside_iff m).mp inside))) .log2 w neg
    · rw [if_neg (by simpa using inside), if_neg (mt (log2_inside_iff m).mpr inside)]
      have within := within_ulps pins (fn := .log2) (w := w) neg 1
      rwa [← sign, pow_one] at within

end Sys2Proof.Machine

/-!
FSIN and FCOS (04 R104, Table 4.11): 2π to 320 bits by Machin's formula, and the series of the sine.
-/

namespace Sys2Proof.Machine

/-! ## 2π -/

/-- A finite sum of the series of arctan(1 / d). -/
noncomputable def arctanSum (d : ℝ) (n : Nat) : ℝ := ∑ i ∈ Finset.range n, (-1) ^ i * ((d⁻¹) ^ (2 * i + 1) / (2 * i + 1))

/-- After an even number of terms the series of arctan is below it, after an odd number above. -/
theorem arctanSum_spec {d : ℝ} (large : 1 < d) (k : Nat) : arctanSum d (2 * k) ≤ Real.arctan d⁻¹ ∧ Real.arctan d⁻¹ ≤ arctanSum d (2 * k + 1) := by
  have pos : 0 < d⁻¹ := inv_pos.mpr (one_pos.trans large)
  have small : d⁻¹ < 1 := inv_lt_one_of_one_lt₀ large
  have limit := (Real.hasSum_arctan (by rwa [Real.norm_of_nonneg pos.le])).tendsto_sum_nat
  have shape (n : Nat) : ∑ i ∈ Finset.range n, (-1) ^ i * d⁻¹ ^ (2 * i + 1) / ((2 * i + 1 : Nat) : ℝ) = arctanSum d n :=
    Finset.sum_congr rfl fun i _ => by push_cast; rw [mul_div_assoc]
  simp only [shape] at limit
  have decreasing : Antitone fun i : Nat => d⁻¹ ^ (2 * i + 1) / (2 * (i : ℝ) + 1) := fun i j le => by
    have exponent : 2 * i + 1 ≤ 2 * j + 1 := by omega
    have index : (i : ℝ) ≤ j := by exact_mod_cast le
    exact div_le_div₀ (by positivity) (pow_le_pow_of_le_one pos.le small.le exponent) (by positivity) (by linarith)
  exact ⟨decreasing.alternating_series_le_tendsto limit k, decreasing.tendsto_le_alternating_series limit k⟩

theorem two_pi_eq : 2 * Real.pi = 32 * Real.arctan 5⁻¹ - 8 * Real.arctan 239⁻¹ := by
  have machin := Real.four_mul_arctan_inv_5_sub_arctan_inv_239
  linarith

/-- Enough terms of Machin's formula for the lower bound, and for the upper one. -/
theorem twoPiBound_low : (twoPiBound false : ℝ) ≤ (32 * arctanSum 5 70 - 8 * arctanSum 239 21) * (2 ^ 160 * 2 ^ 160) := by
  simp only [arctanSum, Finset.sum_range_succ, Finset.sum_range_zero, twoPiBound]
  norm_num

theorem twoPiBound_high : (32 * arctanSum 5 71 - 8 * arctanSum 239 20) * (2 ^ 160 * 2 ^ 160) ≤ twoPiBound true := by
  simp only [arctanSum, Finset.sum_range_succ, Finset.sum_range_zero, twoPiBound]
  norm_num

theorem twoPiBound_spec : (twoPiBound false : ℝ) ≤ 2 * Real.pi * 2 ^ 320 ∧ 2 * Real.pi * 2 ^ 320 ≤ twoPiBound true ∧
    twoPiBound true = twoPiBound false + 1 := by
  obtain ⟨low₅, high₅⟩ := arctanSum_spec (d := 5) (by norm_num) 35
  obtain ⟨low₂₃₉, high₂₃₉⟩ := arctanSum_spec (d := 239) (by norm_num) 10
  have unit : (0 : ℝ) ≤ 2 ^ 160 * 2 ^ 160 := by positivity
  rw [two_pi_eq, show 320 = 160 + 160 from rfl, pow_add]
  refine ⟨twoPiBound_low.trans (mul_le_mul_of_nonneg_right (by linarith) unit),
    (mul_le_mul_of_nonneg_right (by linarith) unit).trans twoPiBound_high, rfl⟩

/-! ## The sine -/

/-- The angle of a fraction of a turn, rounded. -/
def sinAngle (up : Bool) (f : Nat) : Nat := quo up (f * twoPiBound up) (2 ^ wp)

/-- The rounded terms of the sine's series. -/
def sinChain (up : Bool) (f : Nat) : Nat → Nat :=
  chain (fun i t => quo up (t * sinAngle up f * sinAngle up f) (2 ^ (2 * wp) * ((2 * i + 2) * (2 * i + 3)))) (sinAngle up f)

/-- A term with its sign: those that add are rounded one way, those that take away the other. -/
def sinTerm (up : Bool) (f i : Nat) : Int := if i % 2 = 0 then sinChain up f i else -sinChain (!up) f i

theorem foldl_alternating (next next' : Nat → Nat → Nat) (first first' n : Nat) :
    (List.range n).foldl (fun (acc : Int × Nat × Nat) i =>
      let t := if i % 2 == 0 then acc.2.1 else acc.2.2
      (if i % 2 = 0 then acc.1 + t else acc.1 - t, next i acc.2.1, next' i acc.2.2)) (0, first, first') =
      (∑ i ∈ Finset.range n, (if i % 2 = 0 then (chain next first i : Int) else -chain next' first' i), chain next first n,
        chain next' first' n) := by
  induction n with
  | zero => simp [chain]
  | succ n ih =>
    rw [List.range_succ, List.foldl_append, ih, Finset.sum_range_succ]
    rcases Nat.mod_two_eq_zero_or_one n with even | odd
    · simp [even, chain]
    · simp [odd, chain, Int.sub_eq_add_neg]

theorem sinBound_eq (up : Bool) (f : Nat) :
    sinBound up f = (∑ i ∈ Finset.range (if up then 41 else 40), sinTerm up f i).toNat := by
  have fold := foldl_alternating
    (fun i t => quo up (t * sinAngle up f * sinAngle up f) (2 ^ (2 * wp) * ((2 * i + 2) * (2 * i + 3))))
    (fun i t => quo (!up) (t * sinAngle (!up) f * sinAngle (!up) f) (2 ^ (2 * wp) * ((2 * i + 2) * (2 * i + 3))))
    (sinAngle up f) (sinAngle (!up) f) (if up then 41 else 40)
  exact congrArg (fun s => s.1.toNat) fold

/-- The angle of a fraction of a turn. -/
noncomputable def angle (f : Nat) : ℝ := 2 * Real.pi * inUnits f

/-- The exact terms of the sine's series, in units. -/
noncomputable def sinPower (f i : Nat) : ℝ := angle f ^ (2 * i + 1) / (2 * i + 1).factorial * 2 ^ 320

theorem angle_nonneg (f : Nat) : 0 ≤ angle f := mul_nonneg Real.two_pi_pos.le (inUnits_nonneg f)

theorem sinPower_nonneg (f i : Nat) : 0 ≤ sinPower f i := by
  have := angle_nonneg f
  unfold sinPower
  positivity

theorem sinPower_succ (f i : Nat) :
    sinPower f (i + 1) = sinPower f i * (angle f ^ 2 / ((2 * i + 2) * (2 * i + 3))) := by
  unfold sinPower
  rw [show 2 * (i + 1) + 1 = 2 * i + 1 + 1 + 1 from rfl, Nat.factorial_succ, Nat.factorial_succ]
  generalize (2 * i + 1).factorial = n
  push_cast
  field_simp
  ring

section
variable {f : Nat} (quarter : f ≤ 2 ^ 318)
include quarter

theorem inUnits_le_quarter : inUnits f ≤ 1 / 4 := by
  rw [inUnits, div_le_iff₀ (by positivity), show (1 / 4 : ℝ) * 2 ^ 320 = 2 ^ 318 by rw [show 320 = 2 + 318 from rfl, pow_add]; ring]
  exact_mod_cast quarter

theorem angle_le : angle f ≤ 1.6 ∧ angle f ≤ Real.pi / 2 := by
  have fraction := inUnits_le_quarter quarter
  have pi := Real.pi_lt_d2
  have pos := Real.pi_pos
  unfold angle
  constructor <;> nlinarith

/-- The rounded angle is near the exact one. -/
theorem sinAngle_spec : (sinAngle false f : ℝ) ≤ angle f * 2 ^ 320 ∧ angle f * 2 ^ 320 ≤ sinAngle false f + 2 ∧
    angle f * 2 ^ 320 ≤ sinAngle true f ∧ (sinAngle true f : ℝ) ≤ angle f * 2 ^ 320 + 2 := by
  obtain ⟨low, high, next⟩ := twoPiBound_spec
  have nonneg := inUnits_nonneg f
  have fraction := inUnits_le_quarter quarter
  have scale (up : Bool) : ((f * twoPiBound up : Nat) : ℝ) / 2 ^ 320 = inUnits f * twoPiBound up := by
    rw [Nat.cast_mul, mul_div_right_comm, inUnits]
  obtain ⟨down₁, down₂, -, -⟩ := quo_inUnits (f * twoPiBound false)
  obtain ⟨-, -, up₁, up₂⟩ := quo_inUnits (f * twoPiBound true)
  rw [scale] at down₁ down₂ up₁ up₂
  have value : angle f * 2 ^ 320 = inUnits f * (2 * Real.pi * 2 ^ 320) := by unfold angle; ring
  have next : (twoPiBound true : ℝ) = twoPiBound false + 1 := by exact_mod_cast next
  have below := mul_le_mul_of_nonneg_left low nonneg
  have above := mul_le_mul_of_nonneg_left high nonneg
  rw [next, mul_add, mul_one] at above
  rw [next, mul_add, mul_one] at up₁ up₂
  rw [value]
  unfold sinAngle
  refine ⟨?_, ?_, ?_, ?_⟩ <;> linarith

end

theorem sinChain_eq (up : Bool) (f : Nat) : sinChain up f =
    chain (fun i t => quo up (t * (sinAngle up f * sinAngle up f)) (2 ^ (2 * wp) * ((2 * i + 2) * (2 * i + 3)))) (sinAngle up f) := by
  have step : (fun i t => quo up (t * sinAngle up f * sinAngle up f) (2 ^ (2 * wp) * ((2 * i + 2) * (2 * i + 3)))) =
      fun i t => quo up (t * (sinAngle up f * sinAngle up f)) (2 ^ (2 * wp) * ((2 * i + 2) * (2 * i + 3))) := by
    funext i t
    rw [Nat.mul_assoc t]
  rw [sinChain, step]

theorem cast_sinRatio (x i : Nat) : ((x * x : Nat) : ℝ) / (2 ^ (2 * wp) * ((2 * i + 2) * (2 * i + 3)) : Nat) =
    inUnits x ^ 2 / ((2 * i + 2) * (2 * i + 3)) := by
  have unit : ((2 ^ (2 * wp) : Nat) : ℝ) = 2 ^ 320 * 2 ^ 320 := by
    rw [Nat.cast_pow, Nat.cast_ofNat, show 2 * wp = 320 + 320 from rfl, pow_add]
  rw [Nat.cast_mul, Nat.cast_mul, unit, inUnits, div_pow, pow_two, pow_two, div_div]
  push_cast
  rfl

theorem six_le (i : Nat) : (6 : ℝ) ≤ (2 * i + 2) * (2 * i + 3) := by
  have := Nat.cast_nonneg (α := ℝ) i
  nlinarith

/-- The squares of near angles are near. -/
theorem gap_le {t x y d : ℝ} (small : 0 ≤ t ∧ t ≤ 1.6 * 2 ^ 320) (order : x * 2 ^ 320 ≤ y * 2 ^ 320) (near : y * 2 ^ 320 ≤ x * 2 ^ 320 + 2)
    (bounded : 0 ≤ x ∧ y ≤ 2) (large : 6 ≤ d) : t * (y ^ 2 / d - x ^ 2 / d) + 1 ≤ 4 := by
  obtain ⟨t_nonneg, t_le⟩ := small
  obtain ⟨x_nonneg, y_le⟩ := bounded
  have unit : (0 : ℝ) < 2 ^ 320 := by positivity
  generalize (2 : ℝ) ^ 320 = u at *
  have order : x ≤ y := le_of_mul_le_mul_right order unit
  have squares : (y ^ 2 - x ^ 2) * u ≤ 8 := by
    calc (y ^ 2 - x ^ 2) * u = (y + x) * (y * u - x * u) := by ring
      _ ≤ 4 * 2 := mul_le_mul (by linarith) (by linarith) (sub_nonneg.mpr (mul_le_mul_of_nonneg_right order unit.le)) (by norm_num)
      _ = 8 := by norm_num
  have nonneg : 0 ≤ y ^ 2 - x ^ 2 := by nlinarith
  have product : t * (y ^ 2 - x ^ 2) ≤ 12.8 := by
    calc t * (y ^ 2 - x ^ 2) ≤ 1.6 * u * (y ^ 2 - x ^ 2) := mul_le_mul_of_nonneg_right t_le nonneg
      _ = 1.6 * ((y ^ 2 - x ^ 2) * u) := by ring
      _ ≤ 12.8 := by linarith
  rw [← sub_div, ← mul_div_assoc]
  have quotient : t * (y ^ 2 - x ^ 2) / d ≤ 3 := by
    rw [div_le_iff₀ (by linarith)]
    linarith
  linarith

theorem sum_range_strays (n : Nat) : ∑ i ∈ Finset.range n, (2 + (i : ℝ) * 4) = 2 * n ^ 2 := by
  induction n with
  | zero => simp
  | succ n ih =>
    rw [Finset.sum_range_succ, ih]
    push_cast
    ring

theorem cast_sinBound (up : Bool) (f : Nat) :
    (sinBound up f : ℝ) = max (∑ i ∈ Finset.range (if up then 41 else 40), (sinTerm up f i : ℝ)) 0 := by
  rw [sinBound_eq, ← Int.cast_sum]
  generalize ∑ i ∈ Finset.range (if up then 41 else 40), sinTerm up f i = s
  rw [← Int.cast_natCast, Int.toNat_eq_max]
  exact_mod_cast rfl

section
variable {f : Nat} (quarter : f ≤ 2 ^ 318)
include quarter

theorem sinRatio_le (i : Nat) : angle f ^ 2 / ((2 * i + 2) * (2 * i + 3)) ≤ 1 := by
  have six := six_le i
  have angle_le := (angle_le quarter).1
  have nonneg := angle_nonneg f
  rw [div_le_one (by linarith)]
  nlinarith

theorem sinPower_le (i : Nat) : sinPower f i ≤ 1.6 * 2 ^ 320 := by
  induction i with
  | zero =>
    have first : sinPower f 0 = angle f * 2 ^ 320 := by simp [sinPower]
    rw [first]
    exact mul_le_mul_of_nonneg_right (angle_le quarter).1 (by positivity)
  | succ i ih =>
    rw [sinPower_succ]
    exact (mul_le_of_le_one_right (sinPower_nonneg f i) (sinRatio_le quarter i)).trans ih

theorem sinChain_spec (i : Nat) :
    (sinChain false f i : ℝ) ≤ sinPower f i ∧ sinPower f i ≤ sinChain false f i + (2 + i * 4) ∧
      sinPower f i ≤ sinChain true f i ∧ (sinChain true f i : ℝ) ≤ sinPower f i + (2 + i * 4) := by
  obtain ⟨down₁, down₂, up₁, up₂⟩ := sinAngle_spec quarter
  obtain ⟨bound, -⟩ := angle_le quarter
  have first : sinPower f 0 = angle f * 2 ^ 320 := by simp [sinPower]
  have unit : (0 : ℝ) < 2 ^ 320 := by positivity
  have large : (2 : ℝ) ^ 3 ≤ 2 ^ 320 := pow_le_pow_right₀ one_le_two (by decide)
  have above : inUnits (sinAngle true f) ≤ 2 := by
    rw [inUnits, div_le_iff₀ unit]
    have product := mul_le_mul_of_nonneg_right bound unit.le
    generalize (2 : ℝ) ^ 320 = u at product up₂ large ⊢
    linarith only [product, up₂, large]
  have order := down₁.trans up₁
  rw [← inUnits_mul (sinAngle false f)] at down₁ down₂ order
  rw [← inUnits_mul (sinAngle true f)] at up₁ up₂ order
  have order := le_of_mul_le_mul_right order unit
  have below₁ := le_of_mul_le_mul_right down₁ unit
  have above₁ := le_of_mul_le_mul_right up₁ unit
  have nonneg (up : Bool) := inUnits_nonneg (sinAngle up f)
  have pos (k : Nat) : 0 < 2 ^ (2 * wp) * ((2 * k + 2) * (2 * k + 3)) := Nat.mul_pos (Nat.two_pow_pos _) (by positivity)
  have shrinks (up : Bool) (k : Nat) : sinAngle up f * sinAngle up f ≤ 2 ^ (2 * wp) * ((2 * k + 2) * (2 * k + 3)) := by
    have small : inUnits (sinAngle up f) ≤ 2 := by
      cases up
      · exact order.trans above
      · exact above
    have ratio : inUnits (sinAngle up f) ^ 2 / ((2 * k + 2) * (2 * k + 3)) ≤ 1 := by
      have six := six_le k
      have nonneg := nonneg up
      rw [div_le_one (by linarith)]
      nlinarith
    rw [← cast_sinRatio, div_le_one (by exact_mod_cast pos k)] at ratio
    exact_mod_cast ratio
  have squares {x y : ℝ} (x_nonneg : 0 ≤ x) (le : x ≤ y) (k : Nat) : x ^ 2 / ((2 * k + 2) * (2 * k + 3)) ≤ y ^ 2 / ((2 * k + 2) * (2 * k + 3)) :=
    div_le_div_of_nonneg_right (pow_le_pow_left₀ x_nonneg le 2) (by linarith [six_le k])
  have terms (k : Nat) : 0 ≤ sinPower f k ∧ sinPower f k ≤ 1.6 * 2 ^ 320 := ⟨sinPower_nonneg f k, sinPower_le quarter k⟩
  rw [sinChain_eq, sinChain_eq]
  have down := chain_down (p := fun _ => sinAngle false f * sinAngle false f) (T := sinPower f) (first := sinAngle false f) (e := 2) (c := 4)
    ?_ two_pos.le pos (shrinks false) (sinPower_nonneg f) (sinPower_succ f) ?_ ?_ i
  have up := chain_up (p := fun _ => sinAngle true f * sinAngle true f) (T := sinPower f) (first := sinAngle true f) (e := 2) (c := 4)
    ?_ two_pos.le pos (shrinks true) (sinPower_nonneg f) (sinPower_succ f) ?_ ?_ i
  · exact ⟨down.1, down.2, up.1, up.2⟩
  · rw [first, ← inUnits_mul (sinAngle true f)]
    exact ⟨up₁, up₂⟩
  · intro k
    rw [cast_sinRatio]
    exact squares (angle_nonneg f) above₁ k
  · intro k
    rw [cast_sinRatio]
    exact gap_le (terms k) up₁ up₂ ⟨angle_nonneg f, above⟩ (six_le k)
  · rw [first, ← inUnits_mul (sinAngle false f)]
    exact ⟨down₁, down₂⟩
  · intro k
    rw [cast_sinRatio]
    exact squares (nonneg false) below₁ k
  · intro k
    rw [cast_sinRatio]
    exact gap_le (terms k) down₁ down₂ ⟨nonneg false, bound.trans (by norm_num)⟩ (six_le k)

/-- The exact series of the sine, with its signs. -/
theorem sin_series : ∑ i ∈ Finset.range 40, (-1) ^ i * sinPower f i ≤ Real.sin (angle f) * 2 ^ 320 ∧
    Real.sin (angle f) * 2 ^ 320 ≤ ∑ i ∈ Finset.range 41, (-1) ^ i * sinPower f i := by
  have nonneg := angle_nonneg f
  have limit := (Real.hasSum_sin (angle f)).tendsto_sum_nat
  simp only [mul_div_assoc] at limit
  have decreasing : Antitone fun i : Nat => angle f ^ (2 * i + 1) / (2 * i + 1).factorial := antitone_nat_of_succ_le fun i => by
    have step := sinPower_succ f i
    have ratio := sinRatio_le quarter i
    have shrinks : sinPower f (i + 1) ≤ sinPower f i := by
      rw [step]
      exact mul_le_of_le_one_right (sinPower_nonneg f i) ratio
    exact le_of_mul_le_mul_right shrinks (by positivity)
  have scale (n : Nat) : ∑ i ∈ Finset.range n, (-1) ^ i * sinPower f i =
      (∑ i ∈ Finset.range n, (-1) ^ i * (angle f ^ (2 * i + 1) / (2 * i + 1).factorial)) * 2 ^ 320 := by
    rw [Finset.sum_mul]
    exact Finset.sum_congr rfl fun i _ => (mul_assoc _ _ _).symm
  rw [scale, scale]
  exact ⟨mul_le_mul_of_nonneg_right (decreasing.alternating_series_le_tendsto limit 20) (by positivity),
    mul_le_mul_of_nonneg_right (decreasing.tendsto_le_alternating_series limit 20) (by positivity)⟩

theorem sinPower_last_le : sinPower f 40 ≤ 1 := by
  have power : angle f ^ (2 * 40 + 1) ≤ 2 ^ 81 := pow_le_pow_left₀ (angle_nonneg f) ((angle_le quarter).1.trans (by norm_num)) 81
  have large : (2 : ℝ) ^ 81 * 2 ^ 320 ≤ (2 * 40 + 1).factorial := by
    have : 2 ^ 81 * 2 ^ 320 ≤ (2 * 40 + 1).factorial := Nat.le_of_ble_eq_true rfl
    exact_mod_cast this
  rw [sinPower, div_mul_eq_mul_div, div_le_one (by positivity)]
  exact (mul_le_mul_of_nonneg_right power (by positivity)).trans large

/-- A rounded term with its sign is near the exact one, on the side that its bound is on. -/
theorem sinTerm_spec (i : Nat) : (sinTerm false f i : ℝ) ≤ (-1) ^ i * sinPower f i ∧
    (-1) ^ i * sinPower f i ≤ sinTerm false f i + (2 + i * 4) ∧ (-1) ^ i * sinPower f i ≤ sinTerm true f i ∧
      (sinTerm true f i : ℝ) ≤ (-1) ^ i * sinPower f i + (2 + i * 4) := by
  obtain ⟨down₁, down₂, up₁, up₂⟩ := sinChain_spec quarter i
  unfold sinTerm
  rcases Nat.even_or_odd i with even | odd
  · rw [if_pos (Nat.even_iff.mp even), if_pos (Nat.even_iff.mp even), even.neg_one_pow, one_mul, Int.cast_natCast, Int.cast_natCast]
    exact ⟨down₁, down₂, up₁, up₂⟩
  · have one : ¬ i % 2 = 0 := by rw [Nat.odd_iff.mp odd]; decide
    rw [if_neg one, if_neg one, odd.neg_one_pow, neg_one_mul, Int.cast_neg, Int.cast_neg, Int.cast_natCast, Int.cast_natCast]
    simp only [Bool.not_false, Bool.not_true]
    refine ⟨?_, ?_, ?_, ?_⟩ <;> linarith

theorem sinBound_spec : Bounds (sinBound false f) (sinBound true f) (Real.sin (angle f)) (2 ^ 12) := by
  obtain ⟨above, below⟩ := sin_series quarter
  have last := sinPower_last_le quarter
  have terms := sinTerm_spec quarter
  have nonneg : 0 ≤ Real.sin (angle f) * 2 ^ 320 :=
    mul_nonneg (Real.sin_nonneg_of_nonneg_of_le_pi (angle_nonneg f) ((angle_le quarter).2.trans (by linarith [Real.pi_pos]))) (by positivity)
  have down₁ := Finset.sum_le_sum fun i (_ : i ∈ Finset.range 40) => (terms i).1
  have down₂ := Finset.sum_le_sum fun i (_ : i ∈ Finset.range 40) => (terms i).2.1
  have up₁ := Finset.sum_le_sum fun i (_ : i ∈ Finset.range 41) => (terms i).2.2.1
  have up₂ := Finset.sum_le_sum fun i (_ : i ∈ Finset.range 41) => (terms i).2.2.2
  rw [Finset.sum_add_distrib, sum_range_strays] at down₂ up₂
  have next : ∑ i ∈ Finset.range 41, (-1) ^ i * sinPower f i = ∑ i ∈ Finset.range 40, (-1) ^ i * sinPower f i + sinPower f 40 := by
    rw [Finset.sum_range_succ, Even.neg_one_pow (by decide), one_mul]
  rw [next] at below up₂
  have low : (sinBound false f : ℝ) = max (∑ i ∈ Finset.range 40, (sinTerm false f i : ℝ)) 0 := cast_sinBound false f
  have high : (sinBound true f : ℝ) = max (∑ i ∈ Finset.range 41, (sinTerm true f i : ℝ)) 0 := cast_sinBound true f
  constructor
  · exact low.trans_le (max_le (down₁.trans above) nonneg)
  · have least := le_max_left (∑ i ∈ Finset.range 40, (sinTerm false f i : ℝ)) 0
    rw [low]
    norm_num at down₂
    linarith
  · rw [high]
    exact (below.trans (next.symm.trans_le up₁)).trans (le_max_left _ _)
  · rw [high]
    norm_num at up₂
    exact max_le (by linarith) (by linarith)

end

/-! ## The phase of an angle -/

/-- The phase that FSIN and FCOS reduce an operand to: the angle as a fraction of a turn in units, a quarter on for the cosine. -/
def phase (cos neg : Bool) (m : Nat) : Nat :=
  let one := 2 ^ unitExp
  let t := m % one
  let u := if neg then (one - t) % one else t
  if cos then (u + one / 4) % one else u

/-- The distance of a phase from the nearest multiple of a half turn. -/
def folded (v : Nat) : Nat :=
  let one := 2 ^ unitExp
  let g := v % (one / 2)
  if g ≤ one / 4 then g else one / 2 - g

theorem sinCosFin_eq (cos : Bool) (w : Word) (neg : Bool) (m : Nat) : sinCosFin cos w neg m =
    if phase cos neg m % (2 ^ unitExp / 4) = 0 then
      if phase cos neg m = 0 ∨ phase cos neg m = 2 ^ unitExp / 2 then
        (if cos = false ∧ m = 0 then (if neg then 0x80000000 else 0, 0) else (0, 0))
      else if phase cos neg m = 2 ^ unitExp / 4 then (0x3F800000, 0)
      else (0xBF800000, 0)
    else
      let f := folded (phase cos neg m) * 2 ^ (wp - unitExp)
      clampOne (signedResult (if cos then .cos else .sin) w (decide (2 ^ unitExp / 2 ≤ phase cos neg m)) (sinBound false f) (sinBound true f)
        (2 ^ (wp - 22))) := by
  unfold sinCosFin phase folded
  generalize 2 ^ unitExp = one, 2 ^ (wp - unitExp) = fine, 2 ^ (wp - 22) = bound
  rfl

/-- A quarter of a turn in units. -/
theorem quarter_units : 2 ^ unitExp = 4 * 2 ^ 296 := by
  rw [show 4 = 2 ^ 2 from rfl, ← Nat.pow_add]
  rfl

/-- The phase is the operand, with its sign and a quarter for the cosine, modulo a turn. -/
theorem phase_modEq (cos neg : Bool) (m : Nat) :
    (phase cos neg m : Int) = (Claims.units (.fin neg m) + if cos then 2 ^ 296 else 0) % (4 * 2 ^ 296) := by
  unfold phase
  rw [quarter_units]
  have cast : ((2 ^ 296 : Nat) : Int) = 2 ^ 296 := by push_cast; rfl
  have pos := Nat.two_pow_pos 296
  rw [← cast]
  generalize 2 ^ 296 = q at pos ⊢
  have turn : ((4 * q : Nat) : Int) = 4 * q := by push_cast; rfl
  have reduced : ((if neg then (4 * q - m % (4 * q)) % (4 * q) else m % (4 * q) : Nat) : Int) = Claims.units (.fin neg m) % (4 * q) := by
    have below := Nat.mod_lt m (show 0 < 4 * q by omega)
    cases neg
    · simp [Claims.units]
    · simp only [if_true, Claims.units]
      rw [Int.natCast_emod, Int.natCast_sub below.le, Int.natCast_emod, turn]
      have whole : (4 * q : Int) ≡ 0 [ZMOD 4 * q] := Int.modEq_zero_iff_dvd.mpr dvd_rfl
      exact (whole.sub (Int.mod_modEq (m : Int) (4 * q))).trans (by rw [zero_sub])
  cases cos
  · simpa using reduced
  · simp only [if_true, Nat.mul_div_cancel_left q four_pos]
    rw [Int.natCast_emod, Nat.cast_add, reduced, turn, Int.emod_add_emod]

/-- The phase of an FP32 value in real numbers: the value, and a quarter for the cosine, less whole turns. -/
theorem phase_real (cos neg : Bool) (m : Nat) : ∃ k : Int,
    (phase cos neg m : ℝ) / 2 ^ 298 = signed neg ((m : ℝ) / 2 ^ 298) + (if cos then 1 / 4 else 0) - k := by
  have eq := phase_modEq cos neg m
  have parts := Int.mul_ediv_add_emod (Claims.units (.fin neg m) + if cos then 2 ^ 296 else 0) (4 * 2 ^ 296)
  rw [← eq] at parts
  refine ⟨(Claims.units (.fin neg m) + if cos then 2 ^ 296 else 0) / (4 * 2 ^ 296), ?_⟩
  generalize (Claims.units (.fin neg m) + if cos then 2 ^ 296 else 0) / (4 * 2 ^ 296) = k at parts ⊢
  have parts := congrArg (Int.cast (R := ℝ)) parts
  have part : (((if cos then 2 ^ 296 else 0 : Int)) : ℝ) = (if cos then 1 / 4 else 0) * (4 * 2 ^ 296) := by
    cases cos
    · simp
    · rw [if_pos rfl, if_pos rfl, Int.cast_pow, Int.cast_ofNat, ← mul_assoc, one_div_mul_cancel four_ne_zero, one_mul]
  rw [Int.cast_add, Int.cast_add, part, Int.cast_mul, Int.cast_mul, Int.cast_pow, Int.cast_ofNat, Int.cast_ofNat, units_fin,
    Int.cast_natCast] at parts
  have unit : (2 : ℝ) ^ 298 = 4 * 2 ^ 296 := by rw [show 298 = 2 + 296 from rfl, pow_add]; norm_num
  have positive : (0 : ℝ) < 4 * 2 ^ 296 := by positivity
  rw [signed_div, unit, div_eq_iff positive.ne', sub_mul, add_mul, div_mul_cancel₀ _ positive.ne']
  linarith only [parts]

/-- The sine of the phase is the function of the operand. -/
theorem sin_phase (cos neg : Bool) (m : Nat) : Real.sin (2 * Real.pi * ((phase cos neg m : ℝ) / 2 ^ 298)) =
    if cos then Real.cos (2 * Real.pi * signed neg ((m : ℝ) / 2 ^ 298)) else Real.sin (2 * Real.pi * signed neg ((m : ℝ) / 2 ^ 298)) := by
  obtain ⟨k, eq⟩ := phase_real cos neg m
  generalize signed neg ((m : ℝ) / 2 ^ 298) = x at eq ⊢
  rw [eq]
  cases cos
  · have turns : 2 * Real.pi * (x + (if false then 1 / 4 else 0) - k) = 2 * Real.pi * x - k * (2 * Real.pi) := by
      rw [if_neg Bool.false_ne_true]; ring
    rw [turns, Real.sin_sub_int_mul_two_pi]
    rfl
  · have turns : 2 * Real.pi * (x + (if true then 1 / 4 else 0) - k) = 2 * Real.pi * x + Real.pi / 2 - k * (2 * Real.pi) := by
      rw [if_pos rfl]; ring
    rw [turns, Real.sin_sub_int_mul_two_pi, Real.sin_add_pi_div_two]
    rfl

theorem phase_lt (cos neg : Bool) (m : Nat) : phase cos neg m < 4 * 2 ^ 296 := by
  have eq := phase_modEq cos neg m
  have below := Int.emod_lt_of_pos (Claims.units (.fin neg m) + if cos then 2 ^ 296 else 0) (show (0 : Int) < 4 * 2 ^ 296 by positivity)
  rw [← eq] at below
  exact_mod_cast below

/-- A phase is a multiple of what its operand and a quarter of a turn are multiples of. -/
theorem dvd_phase {cos neg : Bool} {m d : Nat} (operand : d ∣ m) (quarter : d ∣ 2 ^ 296) : d ∣ phase cos neg m := by
  have eq := phase_modEq cos neg m
  have whole : ((2 ^ 296 : Nat) : Int) = 2 ^ 296 := by push_cast; rfl
  have quarter : (d : Int) ∣ 2 ^ 296 := by rw [← whole]; exact Int.natCast_dvd_natCast.mpr quarter
  have operand : (d : Int) ∣ Claims.units (.fin neg m) := by
    have := Int.natCast_dvd_natCast.mpr operand
    cases neg
    · exact this
    · exact (dvd_neg (α := Int)).mpr this
  have addend : (d : Int) ∣ if cos then 2 ^ 296 else 0 := by
    cases cos
    · exact dvd_zero _
    · exact quarter
  rw [← Int.natCast_dvd_natCast, eq, Int.emod_def]
  exact dvd_sub (dvd_add operand addend) ((quarter.mul_left 4).mul_right _)

theorem turn_real : (2 : ℝ) ^ 298 = 4 * 2 ^ 296 := by
  rw [show 298 = 2 + 296 from rfl, pow_add]
  norm_num

/-- The phase of a whole number of quarter turns. -/
theorem phase_quarters {neg : Bool} {m : Nat} {k : Int} (whole : 4 * signed neg ((m : ℝ) / 2 ^ 298) = k) (cos : Bool) :
    (phase cos neg m : Int) = 2 ^ 296 * ((k + if cos then 1 else 0) % 4) := by
  have units : Claims.units (.fin neg m) = 2 ^ 296 * k := by
    have positive : (0 : ℝ) < 2 ^ 296 := by positivity
    rw [signed_div, turn_real, ← units_fin, ← mul_div_assoc, mul_div_mul_left _ _ four_ne_zero, div_eq_iff positive.ne'] at whole
    have : ((Claims.units (.fin neg m) : Int) : ℝ) = ((2 ^ 296 * k : Int) : ℝ) := by
      rw [Int.cast_mul, Int.cast_pow, Int.cast_ofNat, mul_comm]
      exact whole
    exact_mod_cast this
  have addend : (if cos then 2 ^ 296 else 0 : Int) = 2 ^ 296 * if cos then 1 else 0 := by cases cos <;> simp
  rw [phase_modEq, units, addend, ← mul_add, mul_comm 4, Int.mul_emod_mul_of_pos _ _ (by positivity)]

theorem quarters_of_phase {cos neg : Bool} {m : Nat} (dvd : 2 ^ 296 ∣ phase cos neg m) : ∃ k : Int, 4 * signed neg ((m : ℝ) / 2 ^ 298) = k := by
  obtain ⟨k, eq⟩ := phase_real cos neg m
  obtain ⟨j, whole⟩ := dvd
  have quarters : (phase cos neg m : ℝ) / 2 ^ 298 = j / 4 := by
    rw [whole, turn_real, Nat.cast_mul, Nat.cast_pow, Nat.cast_ofNat, mul_comm (4 : ℝ), mul_div_mul_left _ _ (by positivity)]
  refine ⟨(j : Int) - (if cos then 1 else 0) + 4 * k, ?_⟩
  rw [quarters] at eq
  cases cos
  · simp only [Bool.false_eq_true, if_false] at eq ⊢
    push_cast
    linarith
  · simp only [if_true] at eq ⊢
    push_cast
    linarith

/-- The sine of a phase, by the one in the first quarter. -/
theorem sin_folded {v : Nat} (below : v < 4 * 2 ^ 296) : folded v ≤ 2 ^ 296 ∧ Real.sin (2 * Real.pi * ((v : ℝ) / 2 ^ 298)) =
    signed (decide (2 ^ unitExp / 2 ≤ v)) (Real.sin (angle (folded v * 2 ^ (wp - unitExp)))) := by
  rw [angle, inUnits_shift, folded, quarter_units, turn_real]
  have cast : ((2 ^ 296 : Nat) : ℝ) = 2 ^ 296 := by rw [Nat.cast_pow, Nat.cast_ofNat]
  have pos := Nat.two_pow_pos 296
  rw [← cast]
  generalize 2 ^ 296 = q at pos below ⊢
  have positive : (0 : ℝ) < q := by exact_mod_cast pos
  have half : 4 * q / 2 = 2 * q := by omega
  have quarter : 4 * q / 4 = q := by omega
  simp only [half, quarter]
  obtain ⟨g, upper, split, room⟩ : ∃ (g : Nat) (upper : Bool), v = g + (if upper then 2 * q else 0) ∧ g < 2 * q := by
    rcases Nat.lt_or_ge v (2 * q) with low | high
    · exact ⟨v, false, by simp, low⟩
    · exact ⟨v - 2 * q, true, by simp; omega, by omega⟩
  have rest : v % (2 * q) = g := by
    rw [split]
    cases upper
    · simpa using Nat.mod_eq_of_lt room
    · simpa using Nat.mod_eq_of_lt room
  have sign : decide (2 * q ≤ v) = upper := by
    rw [split]
    cases upper
    · simpa using room
    · simp
  rw [rest, sign]
  have turn : Real.sin (2 * Real.pi * ((v : ℝ) / (4 * q))) = signed upper (Real.sin (2 * Real.pi * ((g : ℝ) / (4 * q)))) := by
    rw [split]
    cases upper
    · simp [signed]
    · have turns : 2 * Real.pi * (((g + if true then 2 * q else 0 : Nat) : ℝ) / (4 * q)) = 2 * Real.pi * ((g : ℝ) / (4 * q)) + Real.pi := by
        rw [if_pos rfl]
        push_cast
        field_simp
        ring
      rw [turns, Real.sin_add_pi]
      simp [signed]
  rw [turn]
  by_cases low : g ≤ q
  · rw [if_pos low]
    exact ⟨low, rfl⟩
  · rw [if_neg low, Nat.cast_sub room.le]
    refine ⟨by omega, congrArg _ ?_⟩
    rw [← Real.sin_pi_sub]
    congr 1
    push_cast
    field_simp
    ring

/-! ## Enclosures of the sine -/

/-- A whole number of the least subnormals, as an angle. -/
theorem angle_steps (c : Nat) : angle (c * 2 ^ 171) = 2 * Real.pi * c / 2 ^ 149 := by
  rw [angle, inUnits, Nat.cast_mul, Nat.cast_pow, Nat.cast_ofNat, show (2 : ℝ) ^ 320 = 2 ^ 149 * 2 ^ 171 from pow_add 2 149 171,
    mul_div_mul_right _ _ (by positivity), mul_div_assoc]

/-- No sine of an FP32 angle straddles the least normal value: it is below, or clear above. -/
theorem sin_apart {c : Nat} (quarter : c * 2 ^ 171 ≤ 2 ^ 318) :
    Real.sin (angle (c * 2 ^ 171)) < (2 : ℝ) ^ (-126 : Int) ∨
      (2 : ℝ) ^ (-126 : Int) + (2 : ℝ) ^ (-150 : Int) ≤ Real.sin (angle (c * 2 ^ 171)) := by
  have nonneg := angle_nonneg (c * 2 ^ 171)
  have range := (angle_le quarter).2
  have pi₁ := Real.pi_gt_d6
  have pi₂ := Real.pi_lt_d6
  have least : (2 : ℝ) ^ (-126 : Int) = 2 ^ 23 / 2 ^ 149 := by rw [← two_zpow_sub]; rfl
  have step : (2 : ℝ) ^ (-150 : Int) = (1 / 2) / 2 ^ 149 := by
    rw [show (-150 : Int) = (0 : Nat) - (150 : Nat) from rfl, two_zpow_sub, pow_zero, show 150 = 1 + 149 from rfl, pow_add, pow_one, div_div]
  rw [least, step]
  rcases Nat.lt_or_ge c 1335089 with small | large
  · left
    refine (Real.sin_le nonneg).trans_lt ?_
    rw [angle_steps, div_lt_div_iff_of_pos_right (by positivity)]
    have most : (c : ℝ) ≤ 1335088 := by exact_mod_cast Nat.le_of_lt_succ small
    nlinarith
  · right
    have least : (1335089 : ℝ) ≤ c := by exact_mod_cast large
    let x : ℝ := (2 ^ 23 + 1) / 2 ^ 149
    have x_pos : 0 < x := by positivity
    have below : x ≤ angle (c * 2 ^ 171) := by
      rw [angle_steps]
      refine div_le_div_of_nonneg_right ?_ (by positivity)
      nlinarith
    refine le_trans ?_ (Real.sin_le_sin_of_le_of_le_pi_div_two (by linarith [Real.pi_pos]) range below)
    refine le_trans ?_ (Real.sin_gt_sub_cube x_pos).le
    norm_num [x]

theorem pins_sin {c : Nat} (pos : 0 < c) (quarter : c * 2 ^ 171 ≤ 2 ^ 318) :
    Pins (sinBound false (c * 2 ^ 171)) (sinBound true (c * 2 ^ 171)) (Real.sin (angle (c * 2 ^ 171))) := by
  obtain ⟨low, low_near, high, high_near⟩ := sinBound_spec quarter
  have range := (angle_le quarter).2
  have positive : 0 < angle (c * 2 ^ 171) := by
    rw [angle_steps]
    have : (0 : ℝ) < c := by exact_mod_cast pos
    have := Real.pi_pos
    positivity
  have sine := Real.sin_pos_of_pos_of_lt_pi positive (range.trans_lt (half_lt_self Real.pi_pos))
  have narrow : sinBound true (c * 2 ^ 171) ≤ sinBound false (c * 2 ^ 171) + 2 ^ 13 := by
    have : (sinBound true (c * 2 ^ 171) : ℝ) ≤ (sinBound false (c * 2 ^ 171) + 2 ^ 13 : Nat) := by
      rw [Nat.cast_add, Nat.cast_pow, Nat.cast_ofNat]
      linarith only [low_near, high_near]
    exact_mod_cast this
  have narrow := narrow.trans (Nat.add_le_add_left (Nat.pow_le_pow_right two_pos (by decide : 13 ≤ 169)) _)
  rcases sin_apart quarter with tiny | clear
  · exact .of_tiny sine low high narrow tiny
  · refine .of_normal low high narrow ?_ ((Real.sin_le_one _).trans_lt high_ge_one)
    have scaled := mul_le_mul_of_nonneg_right clear (show (0 : ℝ) ≤ 2 ^ 320 by positivity)
    have step : (2 : ℝ) ^ (-150 : Int) * 2 ^ 320 = 2 ^ 170 := by
      rw [← zpow_natCast, ← zpow_natCast (2 : ℝ) 170, ← zpow_add₀ two_ne_zero]
      rfl
    have wide : (2 : ℝ) ^ 12 ≤ 2 ^ 170 := pow_le_pow_right₀ one_le_two (by decide)
    rw [add_mul, least_units, step] at scaled
    have : ((2 ^ 194 : Nat) : ℝ) ≤ sinBound false (c * 2 ^ 171) := by
      linarith only [scaled.trans low_near, wide]
    exact_mod_cast this

/-! ## The clamp to one -/

theorem val32_minus_one : val32 0xBF800000 = .fin true (2 ^ 298) := by
  have mag := magUnits_add (f := .fp32) (j := 126) (k := 2 ^ 23) (by decide) (.inr le_rfl)
  rw [val32, valueOf_finite (f := .fp32) (b := (0xBF800000 : Word).toNat) (by decide)]
  refine congrArg₂ XVal.fin rfl (mag.trans ?_)
  rw [subExp_fp32, ← Nat.pow_add]

/-- One with a sign. -/
theorem encodes_one (s : Bool) : Claims.Encodes .fp32 (if s then 0xBF800000 else 0x3F800000 : Word).toNat s (signed s 1) := by
  have unit : ((2 ^ 298 : Nat) : ℝ) / 2 ^ 298 = 1 := by rw [Nat.cast_pow, Nat.cast_ofNat, div_self (by positivity)]
  rw [← unit]
  cases s
  · exact encodes_of_val32 val32_one
  · exact encodes_of_val32 val32_minus_one

/-- An encoding above one's has a value above one. -/
theorem one_lt_of_encodes {w : Word} {s : Bool} {v : ℝ} (encodes : Claims.Encodes .fp32 w.toNat s v) (above : 0x3F800000 < w.toNat % 2 ^ 31) :
    w.getLsbD 31 = s ∧ ∃ a, 1 < a ∧ v = signed s a := by
  obtain ⟨-, -, sign, value⟩ := encodes_iff.mp encodes
  have one : magUnits .fp32 0x3F800000 = 2 ^ 298 := by
    refine (magUnits_add (f := .fp32) (j := 126) (k := 2 ^ 23) (by decide) (.inr le_rfl)).trans ?_
    rw [subExp_fp32, ← Nat.pow_add]
  have more := magUnits_strictMono .fp32 above
  rw [one] at more
  refine ⟨sign.symm, _, ?_, value⟩
  rw [one_lt_div (by positivity)]
  exact_mod_cast more

theorem clampOne_within {p : Word × FFlags} {y bound : ℝ} (within : Claims.Within p y bound) (small : |y| ≤ 1) :
    Claims.Within (clampOne p) y bound ∧ (clampOne p).1.toNat % 2 ^ 31 ≤ 0x3F800000 := by
  unfold clampOne
  by_cases above : p.1.toNat % 2 ^ 31 > 0x3F800000
  · rw [if_pos above]
    obtain ⟨-, finite⟩ := within
    obtain ⟨⟨s, v, encodes, near⟩, flags⟩ := finite (small.trans high_ge_one.le)
    obtain ⟨sign, a, more, rfl⟩ := one_lt_of_encodes encodes above
    rw [sign]
    refine ⟨⟨fun high => absurd high (not_lt.mpr (small.trans high_ge_one.le)), fun _ => ⟨⟨s, _, encodes_one s, le_trans ?_ near⟩, flags⟩⟩, ?_⟩
    · obtain ⟨low, high⟩ := abs_le.mp small
      cases s
      · rw [signed, signed, if_neg Bool.false_ne_true, one_mul, one_mul, abs_of_nonneg (by linarith), abs_of_nonneg (by linarith)]
        linarith
      · rw [signed, signed, if_pos rfl, neg_one_mul, neg_one_mul, abs_of_nonpos (by linarith), abs_of_nonpos (by linarith)]
        linarith
    · show (if s then 0xBF800000 else 0x3F800000 : Word).toNat % 2 ^ 31 ≤ 0x3F800000
      cases s <;> decide
  · rw [if_neg above]
    exact ⟨within, Nat.le_of_not_lt above⟩

/-! ## FSIN and FCOS -/

/-- FSIN and FCOS of a whole number of quarter turns. -/
theorem sinCosFin_quarters {cos : Bool} {w : Word} {neg : Bool} {m : Nat} {j : Nat} (phase_eq : phase cos neg m = 2 ^ 296 * j) :
    sinCosFin cos w neg m = if j = 0 ∨ j = 2 then (if cos = false ∧ m = 0 then (if neg then 0x80000000 else 0, 0) else (0, 0))
      else if j = 1 then (0x3F800000, 0) else (0xBF800000, 0) := by
  have pos := Nat.two_pow_pos 296
  rw [sinCosFin_eq, phase_eq, quarter_units]
  generalize 2 ^ 296 = q at pos
  have half : 4 * q / 2 = q * 2 := by omega
  have quarter : 4 * q / 4 = q := by omega
  have first : q * j = 0 ↔ j = 0 := by simp [pos.ne']
  have second : q * j = q * 2 ↔ j = 2 := Nat.mul_right_inj pos.ne'
  have third : q * j = q ↔ j = 1 := by rw [Nat.mul_eq_left pos.ne']
  rw [half, quarter, if_pos (Nat.mul_mod_right q j)]
  simp only [first, second, third]

/-- The fold of a phase keeps what divides it, and is zero for whole numbers of half turns alone. -/
theorem folded_steps {v : Nat} (dvd : 2 ^ 149 ∣ v) (odd : ¬ 2 ^ 296 ∣ v) : ∃ c, 0 < c ∧ folded v = c * 2 ^ 149 := by
  have half : 2 ^ 149 ∣ 2 * 2 ^ 296 := (pow_dvd_pow 2 (by decide)).mul_left 2
  have rest : 2 ^ 149 ∣ v % (2 * 2 ^ 296) := (Nat.dvd_mod_iff half).mpr dvd
  have nonzero : folded v ≠ 0 ∧ 2 ^ 149 ∣ folded v := by
    unfold folded
    rw [quarter_units]
    have pos := Nat.two_pow_pos 296
    generalize 2 ^ 149 = d at *
    generalize 2 ^ 296 = q at *
    have half_eq : 4 * q / 2 = 2 * q := by omega
    have below := Nat.mod_lt v (show 0 < 2 * q by omega)
    simp only [half_eq]
    split
    · refine ⟨fun zero => odd ?_, rest⟩
      exact (Nat.dvd_mul_left q 2).trans (Nat.dvd_of_mod_eq_zero zero)
    · exact ⟨by omega, Nat.dvd_sub half rest⟩
  obtain ⟨some, c, eq⟩ := nonzero
  rw [mul_comm] at eq
  exact ⟨c, Nat.pos_of_ne_zero fun zero => some (by rw [eq, zero, Nat.zero_mul]), eq⟩

/-- FSIN and FCOS of an FP32 value that is no whole number of quarter turns. -/
theorem sinCosFin_within {w : Word} {neg : Bool} {m : Nat} (value : val32 w = .fin neg m)
    (inexact : ∀ k : Int, 4 * signed neg ((m : ℝ) / 2 ^ 298) ≠ k) (cos : Bool) :
    Claims.Within (sinCosFin cos w neg m) (Real.sin (2 * Real.pi * ((phase cos neg m : ℝ) / 2 ^ 298))) ((2 : ℝ) ^ (-22 : Int)) ∧
      (sinCosFin cos w neg m).1.toNat % 2 ^ 31 ≤ 0x3F800000 := by
  have odd : ¬ 2 ^ 296 ∣ phase cos neg m := fun dvd => by
    obtain ⟨k, eq⟩ := quarters_of_phase dvd
    exact inexact k eq
  have steps : 2 ^ 149 ∣ phase cos neg m := by
    obtain ⟨-, -, rfl⟩ := finite_of_valueOf value
    exact dvd_phase (dvd_magUnits .fp32 _) (pow_dvd_pow 2 (by decide))
  obtain ⟨c, pos, eq⟩ := folded_steps steps odd
  obtain ⟨quarter, sine⟩ := sin_folded (phase_lt cos neg m)
  have scaled : folded (phase cos neg m) * 2 ^ (wp - unitExp) = c * 2 ^ 171 := by
    rw [eq, Nat.mul_assoc, ← Nat.pow_add]
    rfl
  have bound : c * 2 ^ 171 ≤ 2 ^ 318 := by
    rw [← scaled, show 2 ^ 318 = 2 ^ 296 * 2 ^ (wp - unitExp) from Nat.pow_add 2 296 22]
    exact Nat.mul_le_mul_right _ quarter
  have quarters : ¬ phase cos neg m % (2 ^ unitExp / 4) = 0 := by
    rw [quarter_units, Nat.mul_div_cancel_left _ four_pos]
    exact mt Nat.dvd_of_mod_eq_zero odd
  rw [sine, scaled, sinCosFin_eq, if_neg quarters]
  simp only [scaled]
  refine clampOne_within (within_absolute (pins_sin pos bound) (Real.sin_le_one _) _ w _) ?_
  rw [abs_signed]
  exact Real.abs_sin_le_one _

theorem word_of_zero {w : Word} {s : Bool} (value : val32 w = .fin s 0) : w = if s then 0x80000000 else 0 := by
  obtain ⟨-, sign, zero⟩ := finite_of_valueOf value
  have parts := split_encoding (f := .fp32) w.isLt
  have none : magUnits .fp32 0 = 0 := by simp [magUnits]
  have mag := (magUnits_strictMono .fp32).injective (zero.symm.trans none.symm)
  rw [mag, ← sign] at parts
  apply BitVec.eq_of_toNat_eq
  rw [parts]
  cases s <;> rfl

/-- The phase of a whole number of quarter turns, by its place in the turn. -/
theorem exists_place {neg : Bool} {m : Nat} {k : Int} (whole : 4 * signed neg ((m : ℝ) / 2 ^ 298) = k) (cos : Bool) :
    ∃ j : Nat, (j : Int) = (k + if cos then 1 else 0) % 4 ∧ phase cos neg m = 2 ^ 296 * j := by
  have eq := phase_quarters whole cos
  obtain ⟨j, place⟩ := Int.eq_ofNat_of_zero_le (Int.emod_nonneg (k + if cos then 1 else 0) four_ne_zero)
  rw [place] at eq
  exact ⟨j, place.symm, by exact_mod_cast eq⟩

theorem sinCos_bounds {w : Word} {s : Bool} {m : Nat} (value : val32 w = .fin s m) :
    let x := signed s ((m : ℝ) / 2 ^ 298)
    (∀ k : Int, 4 * x = k →
      special32 .sin w = (if x = 0 then w else if k % 4 = 1 then 0x3F800000 else if k % 4 = 3 then 0xBF800000 else 0, 0) ∧
      special32 .cos w = (if k % 4 = 0 then 0x3F800000 else if k % 4 = 2 then 0xBF800000 else 0, 0)) ∧
    ((∀ k : Int, 4 * x ≠ k) →
      Claims.Within (special32 .sin w) (Real.sin (2 * Real.pi * x)) ((2 : ℝ) ^ (-22 : Int)) ∧
      Claims.Within (special32 .cos w) (Real.cos (2 * Real.pi * x)) ((2 : ℝ) ^ (-22 : Int)) ∧
      (special32 .sin w).1.toNat % 2 ^ 31 ≤ 0x3F800000 ∧ (special32 .cos w).1.toNat % 2 ^ 31 ≤ 0x3F800000) := by
  intro x
  have sin : special32 .sin w = sinCosFin false w s m := by
    unfold special32
    simp only [value]
  have cos : special32 .cos w = sinCosFin true w s m := by
    unfold special32
    simp only [value]
  rw [sin, cos]
  refine ⟨fun k whole => ⟨?_, ?_⟩, fun inexact => ?_⟩
  · obtain ⟨j, place, phase_eq⟩ := exists_place whole false
    rw [if_neg Bool.false_ne_true, add_zero] at place
    rw [sinCosFin_quarters phase_eq]
    have zero : x = 0 ↔ m = 0 := by simp [x, signed_eq_zero_iff]
    by_cases none : m = 0
    · subst none
      have start : k = 0 := by
        rw [zero.mpr rfl, mul_zero] at whole
        exact_mod_cast whole.symm
      have first : j = 0 := by
        rw [start] at place
        exact_mod_cast place
      rw [if_pos (zero.mpr rfl), first, if_pos (.inl rfl), if_pos ⟨rfl, rfl⟩, word_of_zero value]
    · have other : ¬ (false = false ∧ m = 0) := fun h => none h.2
      rw [if_neg (mt zero.mp none), if_neg other, ← place]
      have few : j < 4 := by omega
      interval_cases j <;> rfl
  · obtain ⟨j, place, phase_eq⟩ := exists_place whole true
    rw [if_pos rfl] at place
    have cosine : ¬ (true = false ∧ m = 0) := fun h => Bool.false_ne_true h.1.symm
    rw [sinCosFin_quarters phase_eq, if_neg cosine]
    have few : j < 4 := by omega
    have shift : k % 4 = ((j : Int) + 3) % 4 := by omega
    rw [shift]
    interval_cases j <;> rfl
  · obtain ⟨sin, sin_le⟩ := sinCosFin_within value inexact false
    obtain ⟨cos, cos_le⟩ := sinCosFin_within value inexact true
    rw [sin_phase] at sin cos
    exact ⟨sin, cos, sin_le, cos_le⟩

end Sys2Proof.Machine

/-!
The special functions of every operand (04 R89, R104, R105, Tables 4.11, 4.12).
-/

namespace Sys2Proof.Machine

theorem claims_specialBounds : Claims.SpecialBounds := by
  unfold Claims.SpecialBounds
  intro ulp' exact w neg x encodes
  obtain ⟨m, value, rfl⟩ := val32_of_encodes encodes
  have zero : signed neg ((m : ℝ) / 2 ^ 298) = 0 ↔ m = 0 := by simp [signed_eq_zero_iff]
  have positive (pos : 0 < signed neg ((m : ℝ) / 2 ^ 298)) : neg = false ∧ 0 < m := by
    have nonzero : m ≠ 0 := mt zero.mpr pos.ne'
    have some : 0 < m := Nat.pos_of_ne_zero nonzero
    cases neg
    · exact ⟨rfl, some⟩
    · exact absurd ((signed_lt_zero_iff (by positivity)).mpr rfl) (not_lt.mpr pos.le)
  have plain : signed false ((m : ℝ) / 2 ^ 298) = m / 2 ^ 298 := one_mul _
  refine ⟨fun nonzero => rcp_bounds value (Nat.pos_of_ne_zero (mt zero.mpr nonzero)), fun pos => ?_, exp2_bounds value, fun pos => ?_,
    sinCos_bounds value⟩
  · obtain ⟨rfl, some⟩ := positive pos
    rw [plain]
    exact rsq_bounds value some
  · obtain ⟨rfl, some⟩ := positive pos
    rw [plain]
    exact log2_bounds value some

theorem claims_specialOperands : Claims.SpecialOperands := by
  unfold Claims.SpecialOperands
  intro w canon inf minf
  have infinity (s : Bool) : val32 (if s then 0xFF800000 else 0x7F800000) = .inf s := by cases s <;> rfl
  have zero (s : Bool) : val32 (if s then 0x80000000 else 0) = .fin s 0 := by cases s <;> rfl
  refine ⟨fun nan fn => ?_, ?_, ?_, ?_, ?_, fun m value pos => ?_⟩
  · unfold special32
    rw [nan]
  · rintro rfl
    have value : val32 minf = .inf true := infinity true
    unfold special32
    simp only [value]
    exact ⟨rfl, rfl, rfl, rfl⟩
  · rintro rfl
    have value : val32 inf = .inf false := infinity false
    unfold special32
    simp only [value]
    exact ⟨rfl, rfl, rfl, rfl⟩
  · intro either
    obtain ⟨s, value⟩ : ∃ s, val32 w = .inf s := either.elim (fun eq => ⟨true, eq ▸ infinity true⟩) fun eq => ⟨false, eq ▸ infinity false⟩
    unfold special32
    simp only [value]
    exact ⟨rfl, rfl⟩
  · intro either
    obtain ⟨s, rfl⟩ : ∃ s, w = if s then 0x80000000 else 0 := either.elim (fun eq => ⟨true, eq⟩) fun eq => ⟨false, eq⟩
    obtain ⟨sin, cos⟩ := (sinCos_bounds (zero s)).1 0 (by simp)
    have none : signed s (((0 : Nat) : ℝ) / 2 ^ 298) = 0 := by simp
    rw [if_pos none] at sin
    refine ⟨?_, ?_, ?_, ?_, sin, cos⟩
    all_goals
      unfold special32
      simp only [zero s, if_true]
    all_goals cases s <;> rfl
  · unfold special32
    simp only [value, if_neg pos.ne', if_true]
    exact ⟨rfl, rfl⟩

/-- Settles O60: the exact value is enclosed by series whose terms are rounded outwards, and the enclosures are narrow, so that a result that
passes the check against both ends, or the FP32 value nearest the lower one, is within the bound. -/
theorem specialFunctions : Obligations.SpecialFunctions := ⟨claims_specialBounds, claims_specialOperands⟩

end Sys2Proof.Machine

/-!
No fault gives a gang's leader a latch: the latches lose arrivals at most, through every operation that a trap can reach (08 R222; 14
R360, R374).
-/

namespace Sys2Proof.Machine

theorem Tbl.find_eq_none_iff {α : Type} (t : Tbl α) (i : Nat) : t.find i = none ↔ ∀ e ∈ t, e.1 ≠ i := by
  induction t with
  | nil => simp [Tbl.find]
  | cons e t ih =>
    by_cases he : e.1 = i
    · simp [Tbl.find, he]
    · simpa [Tbl.find, he] using ih

/-- Leader k has no latch. -/
def NoLatch (k : Nat) (s : State) : Prop := s.latches.find k = none

namespace NoLatch

variable {k : Nat} {s u : State}

theorem moved (h : NoLatch k s) (m : MovesMemory s u) : NoLatch k u :=
  (congrArg (Tbl.find · k) (congrArg State.latches m.rest :)).trans h

theorem foldl {α : Type} (h : NoLatch k s) (f : State → α → State) (step : ∀ v x, NoLatch k v → NoLatch k (f v x)) (l : List α) :
    NoLatch k (l.foldl f s) := List.foldlRecOn l f h fun v hv x _ => step v x hv

/-! ## The caches and LPDDR6 -/

theorem slicePut (h : NoLatch k s) (t : MemTag) (how : Option L2Mark) (pa : Nat) (b : Byte) : NoLatch k (s.slicePut t how pa b) :=
  h.moved ((MovesMemory.refl s).slicePut t how pa b)

theorem cleanse (h : NoLatch k s) (pas : List Nat) : NoLatch k (s.cleanse pas) := by
  unfold State.cleanse
  split <;> exact h

theorem quantise (h : NoLatch k s) (t : MemTag) (line : Nat) : NoLatch k (s.quantise t line) :=
  h.foldl _ (fun _ _ hv => hv.slicePut _ _ _ _) _

theorem noteFlights (h : NoLatch k s) (before : State) (l : List (Nat × DWord)) (n : Nat) : NoLatch k (s.noteFlights before l n) := by
  unfold State.noteFlights
  split <;> exact h

theorem homeWrite (h : NoLatch k s) (t : MemTag) (how : Option L2Mark) (ws : List (Nat × Byte)) :
    NoLatch k (s.homeWrite t how ws) := by
  unfold State.homeWrite
  split
  · refine cleanse ?_ _
    have put := h.foldl (fun u (w : Nat × Byte) => u.slicePut t how w.1 w.2) (fun _ _ hv => hv.slicePut _ _ _ _) ws
    split
    · exact put.foldl _ (fun _ _ hv => hv.quantise _ _) _
    · exact put
  · exact h.foldl _ (fun v _ hv => hv.moved ((MovesMemory.refl v).sendPeer _ _)) _

theorem toL2 (h : NoLatch k s) (es : Sparse (Option CByte)) : NoLatch k (s.toL2 es) := by
  refine cleanse (h.foldl _ (fun u e hu => ?_) _) _
  split
  · split
    · exact hu.slicePut _ _ _ _
    · exact hu
  · exact hu

theorem poisonOut (h : NoLatch k s) (ps : List Nat) (es : Sparse (Option CByte)) : NoLatch k (s.poisonOut ps es) := by
  unfold State.poisonOut
  dsimp only
  split <;> exact h

theorem idle (h : NoLatch k s) : NoLatch k { s with issue := none } := h

theorem onCore (h : NoLatch k s) (core : Nat) (f : Core → Core) : NoLatch k (s.onCore core f) := h

theorem onAux (h : NoLatch k s) (c : Nat) (f : CrewAux → CrewAux) : NoLatch k (s.onAux c f) := h

theorem l1EvictKey (h : NoLatch k s) (core lk : Nat) : NoLatch k (s.l1EvictKey core lk) := by
  unfold State.l1EvictKey
  dsimp only
  split
  · exact h
  · exact ((h.toL2 _).poisonOut _ _).onCore _ _

theorem l1Evict (h : NoLatch k s) (core : Nat) (t : MemTag) (pa : Nat) : NoLatch k (s.l1Evict core t pa) := h.l1EvictKey _ _

theorem l1CleanKey (h : NoLatch k s) (core lk : Nat) : NoLatch k (s.l1CleanKey core lk) := by
  unfold State.l1CleanKey
  dsimp only
  split
  · exact h
  · exact ((h.toL2 _).poisonOut _ _).onCore _ _

theorem l1WriteBack (h : NoLatch k s) (core : Nat) : NoLatch k (s.l1WriteBack core) := ((h.toL2 _).poisonOut _ _).onCore _ _

theorem l1Room (h : NoLatch k s) (core lk : Nat) : NoLatch k (s.l1Room core lk) := by
  unfold State.l1Room
  dsimp only
  split
  · exact h
  · split
    · exact h
    · exact (h.moved ((MovesMemory.refl s).choose _)).l1EvictKey _ _

theorem l1Store (h : NoLatch k s) (core : Nat) (t : MemTag) (pa : Nat) (b : Byte) : NoLatch k (s.l1Store core t pa b) :=
  ((h.l1Room core (lineKey (t.ckey pa))).onCore _ _).onCore _ _

theorem l1Cleanse (h : NoLatch k s) (core : Nat) (t : MemTag) (pas : List Nat) : NoLatch k (s.l1Cleanse core t pas) := by
  unfold State.l1Cleanse
  split <;> exact h

/-! ## The write-combining buffer -/

theorem wcWrite (h : NoLatch k s) (core : Nat) (w : WcLine) : NoLatch k (s.wcWrite core w) :=
  ((h.l1Evict _ _ _).homeWrite _ _ _).noteFlights _ _ _

theorem wcFlush (h : NoLatch k s) (core : Nat) : NoLatch k (s.wcFlush core) :=
  (h.foldl _ (fun _ _ hv => hv.wcWrite _ _) _).onCore _ _

theorem wcYield (h : NoLatch k s) (core : Nat) (t : MemTag) (pa : Nat) : NoLatch k (s.wcYield core t pa) := by
  unfold State.wcYield
  dsimp only
  split
  · exact (h.foldl _ (fun _ _ hv => hv.wcWrite _ _) _).onCore _ _
  · exact h

theorem wcStore (h : NoLatch k s) (core : Nat) (e : StoreEvent) (t : MemTag) (pa : Nat) (b : Byte) :
    NoLatch k (s.wcStore core e t pa b) := by
  unfold State.wcStore
  dsimp only
  split
  · exact h
  · split
    · split
      · exact h
      · exact (h.wcWrite _ _).onCore _ _
    · exact h

/-! ## Store events -/

theorem mmioWrite (h : NoLatch k s) (ws : List (Nat × Byte)) : NoLatch k (s.mmioWrite ws) := by
  unfold State.mmioWrite
  extract_lets t
  have written : NoLatch k t := by
    refine h.foldl _ (fun _ _ hv => ?_) _
    split <;> exact hv
  split <;> exact written

theorem tagWrite (h : NoLatch k s) (t : MemTag) (how : Option L2Mark) (ws : List (Nat × Byte)) : NoLatch k (s.tagWrite t how ws) := by
  unfold State.tagWrite
  extract_lets dev mem u
  have devices : NoLatch k u := by
    unfold u
    split
    · exact h
    · exact h.mmioWrite _
  split
  · exact devices
  · exact devices.homeWrite _ _ _

theorem releaseAt (h : NoLatch k s) (core : Nat) (wide : Bool) : NoLatch k (s.releaseAt core wide) := by
  unfold State.releaseAt
  dsimp only
  split
  · exact (h.wcFlush _).l1WriteBack _
  · exact h.wcFlush _

theorem perform (h : NoLatch k s) (core : Nat) (e : StoreEvent) (t : MemTag) (ws : List (Nat × Byte)) :
    NoLatch k (s.perform core e t ws) := by
  unfold State.perform
  split
  · exact h.foldl _ (fun _ _ hv => (hv.l1Evict _ _ _).wcStore _ _ _ _ _) _
  · extract_lets u v
    have yielded : NoLatch k u := h.foldl _ (fun _ _ hv => hv.wcYield _ _ _) _
    have allocated : NoLatch k v := by
      unfold v
      split
      · exact yielded.foldl _ (fun w _ hw => hw.moved ((MovesMemory.refl w).l2Alloc _ _)) _
      · exact yielded
    split
    · exact (allocated.foldl _ (fun _ _ hv => hv.l1Store _ _ _ _) _).l1Cleanse _ _ _
    · exact (yielded.foldl _ (fun _ _ hv => hv.l1Evict _ _ _) _).homeWrite _ _ _

theorem cleanLine (h : NoLatch k s) (core : Nat) (t : MemTag) (pa : Nat) : NoLatch k (s.cleanLine core t pa) := by
  unfold State.cleanLine
  split
  · exact h
  · exact (h.l1CleanKey _ _).moved ((MovesMemory.refl _).l2WriteBack _)

theorem flushLine (h : NoLatch k s) (core : Nat) (t : MemTag) (pa : Nat) : NoLatch k (s.flushLine core t pa) := by
  unfold State.flushLine
  split
  · exact h
  · exact (h.l1EvictKey _ _).moved ((MovesMemory.refl _).l2Evict _)

theorem performEvent (h : NoLatch k s) (core : Nat) (wide : Scope → Bool) (e : StoreEvent) : NoLatch k (s.performEvent core wide e) := by
  unfold State.performEvent
  extract_lets s1
  have released : NoLatch k s1 := by
    unfold s1
    split
    · exact h.releaseAt _ _
    · exact h
  split
  · exact (released.foldl _ (fun _ _ hv => hv.mmioWrite _) _).foldl _ (fun _ _ hv => hv.perform _ _ _ _) _
  · exact released.foldl _ (fun _ _ hv => hv.cleanLine _ _ _) _
  · exact released.foldl _ (fun _ _ hv => hv.flushLine _ _ _) _

theorem drainAll (h : NoLatch k s) (c : Nat) (r : Crew) : NoLatch k (s.drainAll c r) :=
  (h.foldl _ (fun _ _ hv => (hv.performEvent _ _ _).noteFlights _ _ _) _).onAux _ _

theorem release (h : NoLatch k s) (c : Nat) (r : Crew) (sc : Scope) : NoLatch k (s.release c r sc) := (h.drainAll c r).releaseAt _ _

/-! ## Writes of a context's memory, and records to the host -/

theorem devPlaces (h : NoLatch k s) (ctx : Nat) (va : DWord) (n : Nat) : NoLatch k (s.devPlaces ctx va n).2 := by
  refine List.foldlRecOn (motive := fun acc : Option (List (MemTag × Nat)) × State => NoLatch k acc.2) _ _ h fun acc hv i _ => ?_
  split
  · exact hv
  · have translated := hv.moved ((MovesMemory.refl acc.2).xlate none ctx true .write (va + BitVec.ofNat 64 i))
    split
    next eq => rwa [eq] at translated
    next eq =>
      rw [eq] at translated
      split <;> exact translated

theorem placeWrite (h : NoLatch k s) (ps : List (MemTag × Nat)) (bs : List Byte) : NoLatch k (s.placeWrite ps bs) :=
  h.foldl _ (fun _ _ hv => hv.tagWrite _ _ _) _

theorem devWrite (h : NoLatch k s) (ctx : Nat) (va : DWord) (bs : List Byte) : NoLatch k (s.devWrite ctx va bs).2 := by
  have placed := h.devPlaces ctx va bs.length
  unfold State.devWrite
  split
  next eq => rwa [eq] at placed
  next eq =>
    rw [eq] at placed
    exact placed.placeWrite _ _

theorem postCompletion (h : NoLatch k s) (rec : List Byte) : NoLatch k (s.postCompletion rec) := by
  unfold State.postCompletion
  dsimp only
  split <;> exact h

theorem postFault (h : NoLatch k s) (ctx : Nat) (rec : List Byte) : NoLatch k (s.postFault ctx rec) := by
  unfold State.postFault
  dsimp only
  split <;> exact h

/-! ## The end of crews, blocks and launches -/

/-- Arrivals are withdrawn, and none is added. -/
theorem withdraw (h : NoLatch k s) (c : Nat) : NoLatch k (s.withdraw c) := by
  rw [NoLatch, Tbl.find_eq_none_iff] at h ⊢
  intro e he
  obtain ⟨l, hl, rfl⟩ := List.mem_map.mp (List.mem_of_mem_filter he)
  have same := h l hl
  dsimp only
  split <;> exact same

theorem vacate (h : NoLatch k s) (c : Nat) (r : Crew) : NoLatch k (s.vacate c r) := withdraw (s := s.onPn r.pkey _) h c

theorem freeFrame (h : NoLatch k s) (ctx : Nat) (a : CrewAux) : NoLatch k (s.freeFrame ctx a) := by
  unfold State.freeFrame
  split <;> exact h

theorem chargeChain (h : NoLatch k s) (ctx slot : Nat) (f : Region → Region) : NoLatch k (s.chargeChain ctx slot f) := by
  refine h.foldl _ (fun v i hv => ?_) _
  have charged : NoLatch k (v.onRegion ctx i f) := hv
  unfold State.writeUsed
  split
  · exact charged
  · split
    · exact charged.devWrite _ _ _
    · exact charged

theorem removeBlock (h : NoLatch k s) (b : Nat) : NoLatch k (s.removeBlock b) := by
  unfold State.removeBlock
  split
  · exact h
  · extract_lets cs l ctx slot crews s1 s2
    have freed : NoLatch k s1 := h.foldl _ (fun _ _ hv => hv.freeFrame _ _) _
    have removed : NoLatch k s2 := freed
    exact removed.chargeChain _ _ _

theorem retireLaunch (h : NoLatch k s) (l status : Nat) : NoLatch k (s.retireLaunch l status) := by
  unfold State.retireLaunch
  split
  · exact h
  next x _ => exact postCompletion (s := { s with launches := s.launches.del l }) h _

theorem drainLeft (h : NoLatch k s) (l : Nat) : NoLatch k (s.drainLeft l) := by
  unfold State.drainLeft
  extract_lets xs t u
  have drained : NoLatch k t := h.foldl _ (fun _ _ hv => (hv.performEvent _ _ _).noteFlights _ _ _) _
  exact drained.foldl _ (fun _ _ hv => hv.releaseAt _ _) _

theorem retireEnding (h : NoLatch k s) : NoLatch k s.retireEnding := by
  unfold State.retireEnding
  split
  · exact h
  · extract_lets ls t
    have drained : NoLatch k t := h.foldl _ (fun _ _ hv => hv.drainLeft _) _
    split
    · exact drained
    · exact drained.foldl _ (fun _ _ hv => hv.retireLaunch _ _) _

theorem leaveStores (h : NoLatch k s) (c : Nat) (r : Crew) : NoLatch k (s.leaveStores c r) := by
  unfold State.leaveStores
  split
  · exact h
  · exact h.drainAll c r

theorem endDomain (h : NoLatch k s) (ctx fdom : Nat) : NoLatch k (s.endDomain ctx fdom) := by
  unfold State.endDomain
  extract_lets ls cs s1 bs s2 s3
  have vacated : NoLatch k s1 := h.foldl _ (fun v e hv => by
    have left : NoLatch k ((v.leaveStores e.1 e.2).discardCopies e.1 e.2.core).2 := hv.leaveStores e.1 e.2
    exact left.vacate e.1 e.2) _
  have released : NoLatch k s2 := vacated.foldl _ (fun _ _ hv => hv.releaseAt _ _) _
  have removed : NoLatch k s3 := released.foldl _ (fun _ _ hv => hv.removeBlock _) _
  exact retireEnding (s := { s3 with launches := _ }) removed

/-! ## Faults of a crew -/

theorem writeRecord (h : NoLatch k s) (c : Nat) (r : Crew) (va : DWord) (bs : List Byte) :
    NoLatch k (s.writeRecord c r va bs).2 := by
  have placed := h.devPlaces (s.ctxOf r) va bs.length
  unfold State.writeRecord
  split
  next eq => rwa [eq] at placed
  next eq =>
    rw [eq] at placed
    split
    · exact placed
    · exact ((placed.release c r .device).foldl _ (fun _ _ hv => (hv.wcYield _ _ _).l1Evict _ _ _) _).placeWrite _ _

theorem terminate (h : NoLatch k s) (c : Nat) (r : Crew) (q : TrapReq) (place : DWord) : NoLatch k (s.terminate c r q place) := by
  unfold State.terminate
  extract_lets ctx w detail l t
  have recorded : NoLatch k w.2 := h.writeRecord c r place (s.trapRecord c r q)
  have posted : NoLatch k t := recorded.postCompletion _
  exact (posted.endDomain ctx _).idle

theorem trapEntry (h : NoLatch k s) (c : Nat) (q : TrapReq) (place : DWord) : NoLatch k (s.trapEntry c q place) := by
  unfold State.trapEntry
  split
  · exact h
  next r _ =>
    dsimp only
    split
    · exact h.terminate _ _ _ _
    · have entry : NoLatch k (s.trapEntryOf c r q.code.toNat).2 := h.moved ((MovesMemory.refl s).tableEntry _ _ _)
      split
      next eq =>
        rw [eq] at entry
        exact entry.terminate _ _ _ _
      next e t eq =>
        rw [eq] at entry
        have recorded := entry.writeRecord c r place (t.trapRecord c r q)
        split
        next eq' =>
          rw [eq'] at recorded
          exact recorded.terminate _ _ _ _
        next eq' =>
          rw [eq'] at recorded
          exact recorded.withdraw c

theorem suspend (h : NoLatch k s) (c : Nat) (r : Crew) (q : TrapReq) (replay : Bool) : NoLatch k (s.suspend c r q replay) := by
  unfold State.suspend
  extract_lets tok next q' u t
  have marked : NoLatch k t := h
  exact marked.postFault _ _

theorem raise (h : NoLatch k s) (c : Nat) (q : TrapReq) (replay : Bool) : NoLatch k (s.raise c q replay) := by
  unfold State.raise
  split
  · exact h
  · dsimp only
    split
    · exact h.suspend _ _ _ _
    · exact h.trapEntry _ _ _

end NoLatch

end Sys2Proof.Machine

/-!
What an MMA leaves in a partition: the elements of its accumulator tile, and what else of the partition it changes (04 R99; 08 R200,
R210-R212).
-/

namespace Sys2Proof

namespace Sparse

variable {α : Type} {d : α} {m m' : Sparse α} {i : Nat}

theorem get_of_free (h : Free m i) : Sparse.get d m i = d := by
  induction m with
  | nil => rfl
  | cons e t ih =>
    rw [Sparse.get, if_neg (h e (by simp))]
    exact ih fun x hx => h x (by simp [hx])

theorem get_append_of_free_left (h : Free m i) : Sparse.get d (m ++ m') i = Sparse.get d m' i := by
  induction m with
  | nil => rfl
  | cons e t ih =>
    rw [List.cons_append, Sparse.get, if_neg (h e (by simp))]
    exact ih fun x hx => h x (by simp [hx])

theorem get_append_of_free_right (h : Free m' i) : Sparse.get d (m ++ m') i = Sparse.get d m i := by
  induction m with
  | nil => exact get_of_free h
  | cons e t ih => rw [List.cons_append, Sparse.get, Sparse.get, ih]

/-- A filter on indices that keeps index i keeps what stands there. -/
theorem get_filter {p : Nat × α → Bool} (keeps : ∀ w, p (i, w) = true) : Sparse.get d (m.filter p) i = Sparse.get d m i := by
  induction m with
  | nil => rfl
  | cons e t ih =>
    obtain ⟨k, w⟩ := e
    by_cases hk : k = i
    · subst hk
      simp [keeps, Sparse.get]
    · by_cases hp : p (k, w) = true <;> simp [hp, Sparse.get, hk, ih]

/-- The entries of n consecutive indices, none of them the default. -/
theorem get_run [DecidableEq α] (lo n : Nat) (f : Nat → α) (hi : i < n) :
    Sparse.get d ((List.range n).filterMap fun i => if f i = d then none else some (lo + i, f i)) (lo + i) = f i := by
  induction n with
  | zero => omega
  | succ n ih =>
    rw [List.range_succ, List.filterMap_append]
    by_cases last : i = n
    · subst last
      have before : Free ((List.range i).filterMap fun j => if f j = d then none else some (lo + j, f j)) (lo + i) := by
        intro e he
        obtain ⟨j, hj, hje⟩ := List.mem_filterMap.mp he
        have hj : j < i := List.mem_range.mp hj
        split at hje
        · cases hje
        · cases hje
          dsimp only
          omega
      rw [get_append_of_free_left before]
      by_cases same : f i = d <;> simp [same, Sparse.get]
    · refine Eq.trans (get_append_of_free_right ?_) (ih (by omega))
      intro e he
      by_cases same : f n = d <;> simp [same] at he
      subst he
      dsimp only
      omega

end Sparse

namespace Machine

/-- What a sparse map holds once a range of it has been replaced. -/
theorem Sparse.get_setRange {α : Type} [DecidableEq α] (d : α) (m : Sparse α) (lo n : Nat) (f : Nat → α) (i : Nat) :
    Sparse.get d (Sparse.setRange d m lo n f) i = if lo ≤ i ∧ i < lo + n then f (i - lo) else Sparse.get d m i := by
  have freeBelow (h : lo ≤ i) : Sparse.Free (m.filter fun e => decide (e.1 < lo)) i := by
    intro e he
    have := of_decide_eq_true (List.mem_filter.mp he).2
    omega
  have freeAbove (h : i < lo + n) : Sparse.Free (m.filter fun e => decide (lo + n ≤ e.1)) i := by
    intro e he
    have := of_decide_eq_true (List.mem_filter.mp he).2
    omega
  have freeRun (h : i < lo ∨ lo + n ≤ i) :
      Sparse.Free ((List.range n).filterMap fun i => if f i = d then none else some (lo + i, f i)) i := by
    intro e he
    obtain ⟨j, hj, hje⟩ := List.mem_filterMap.mp he
    have hj : j < n := List.mem_range.mp hj
    split at hje
    · cases hje
    · cases hje
      dsimp only
      omega
  unfold Sparse.setRange
  by_cases below : i < lo
  · rw [if_neg (by omega), Sparse.get_append_of_free_right (freeAbove (by omega)), Sparse.get_append_of_free_right (freeRun (.inl below)),
      Sparse.get_filter fun _ => decide_eq_true below]
  · by_cases inside : i < lo + n
    · obtain ⟨j, rfl⟩ := Nat.exists_eq_add_of_le (Nat.not_lt.mp below)
      rw [if_pos ⟨by omega, inside⟩, Sparse.get_append_of_free_right (freeAbove inside),
        Sparse.get_append_of_free_left (freeBelow (by omega)), Sparse.get_run lo n f (by omega), Nat.add_sub_cancel_left]
    · rw [if_neg (by omega), List.append_assoc, Sparse.get_append_of_free_left (freeBelow (by omega)),
        Sparse.get_append_of_free_left (freeRun (.inr (by omega))), Sparse.get_filter fun _ => decide_eq_true (by omega)]

/-- Replacing an accumulator tile's elements, in row order, leaves the other tiles'. -/
theorem Partition.setTile_sets (p : Partition) (t : Nat) (f : Nat → Word) :
    SetsTile p (p.setTile t f) t fun m n => f (32 * m + n) := by
  refine ⟨fun m n hm hn => ?_, fun t' m n ht hm hn => ?_⟩
  · rw [Partition.elem, Partition.setTile, Sparse.get_setRange, if_pos (by omega)]
    congr 1
    omega
  · rw [Partition.elem, Partition.setTile, Sparse.get_setRange, if_neg (by omega), Partition.elem]

/-- The entry in row m and column j of rows of equal length. -/
theorem getElem?_flatMap_rows {α : Type} (k : Nat) (g : Nat → Nat → α) {rows m j : Nat} (hm : m < rows) (hj : j < k) :
    ((List.range rows).flatMap fun m => (List.range k).map (g m))[k * m + j]? = some (g m j) := by
  induction rows with
  | zero => omega
  | succ n ih =>
    have length : ((List.range n).flatMap fun m => (List.range k).map (g m)).length = k * n := by
      simp [List.length_flatMap, Nat.mul_comm]
    rw [List.range_succ, List.flatMap_append]
    by_cases last : m = n
    · subst last
      rw [List.getElem?_append_right (by omega), length]
      simp [hj]
    · have inside : k * m + j < k * n := by
        calc k * m + j < k * (m + 1) := by rw [Nat.mul_succ]; omega
          _ ≤ k * n := Nat.mul_le_mul_left k (by omega)
      rw [List.getElem?_append_left (by omega)]
      exact ih (by omega)

/-- One entry of what an MMA computes. -/
theorem StreamWork.getD_out (w : StreamWork) {m n : Nat} (hm : m < 32) (hn : n < 32) (d : Word × Byte) :
    w.out.getD (32 * m + n) d =
      mmaStep (matElem (matOfBits w.plane.fmt)) (matElem w.fmt)
        ((List.range (matK w.fmt)).map fun k => weightBits (matOfBits w.plane.fmt) (fun i => Sparse.get 0 w.plane.bytes i) k n)
        ((List.range (matK w.fmt)).map fun k => actBits w.fmt w.tr (fun i => w.read.bytes.getD i 0) m k)
        (w.before.getD (32 * m + n) 0) := by
  unfold StreamWork.out
  rw [List.getD_eq_getElem?_getD, getElem?_flatMap_rows 32 _ hm hn]
  simp [List.getD_eq_getElem?_getD, hm, hn]

/-- A step of an integer element is the sum modulo 2^32. -/
theorem mmaStep_fst_of_int {fw fa : ElemFmt} (ints : (matIsInt fw && matIsInt fa) = true) (ks : List Nat) (w a : Nat → Nat) (x : Word) :
    (mmaStep fw fa (ks.map w) (ks.map a) x).1 =
      Spec.int (x.toInt + (ks.map fun k => matInt fw (w k) * matInt fa (a k)).sum) := by
  have sum (y : Int) : ((ks.map w).zip (ks.map a)).foldl (fun s p => s + matInt fw p.1 * matInt fa p.2) y =
      y + (ks.map fun k => matInt fw (w k) * matInt fa (a k)).sum := by
    induction ks generalizing y with
    | nil => simp
    | cons k ks ih => simp [ih, add_assoc]
  rw [mmaStep, if_pos ints, sum]
  rfl

/-- The work of an MMA of a partition on a read: its front plane, and its accumulator tile t, or zeros with Z. -/
def Partition.work (p : Partition) (t : Nat) (f : MFmt) (tr z : Bool) (x : TileRead) : StreamWork :=
  { fmt := f, tr := tr, plane := p.front, events := Sparse.get 0 p.events t, read := x
    before := (List.range 1024).map fun i => if z then 0 else Sparse.get 0 p.acc (1024 * t + i) }

theorem Partition.getD_out_work (p : Partition) (t : Nat) (f : MFmt) (tr z : Bool) (x : TileRead) {m n : Nat} (hm : m < 32)
    (hn : n < 32) : ((p.work t f tr z x).out.getD (32 * m + n) (0, 0)).1 = Spec.mmaElement p t f tr z x.bytes m n := by
  have old : ((p.work t f tr z x).before.getD (32 * m + n) 0) = if z then 0 else p.elem t m n := by
    have inside : 32 * m + n < 1024 := by omega
    simp [Partition.work, Partition.elem, List.getD_eq_getElem?_getD, inside, Nat.add_assoc]
  rw [StreamWork.getD_out _ hm hn, old]
  unfold Spec.mmaElement
  dsimp only
  generalize (if z then 0 else p.elem t m n) = before
  split
  next ints => exact mmaStep_fst_of_int ints _ _ _ _
  next => rfl

/-- What an MMA leaves in a partition: its products, and the stream that reads the rows. -/
def Partition.streamed (p : Partition) (c : Nat) (t : Nat) (acc : Bool) (clk : Nat) (w : StreamWork) : Partition :=
  { (p.putWork t w) with streams := p.streams ++ [{ crew := c, acc := acc, start := clk, work := w }] }

/-- Every element of the tile, and of the others none. -/
theorem Partition.streamed_sets (p : Partition) (c t : Nat) (acc : Bool) (clk : Nat) (f : MFmt) (tr z : Bool) (x : TileRead) :
    SetsTile p (p.streamed c t acc clk (p.work t f tr z x)) t (Spec.mmaElement p t f tr z x.bytes) := by
  have sets := p.setTile_sets t fun i => ((p.work t f tr z x).out.getD i (0, 0)).1
  exact ⟨fun m n hm hn => (sets.new m n hm hn).trans (p.getD_out_work t f tr z x hm hn), sets.other⟩

/-- The rest of the partition stays. -/
theorem Partition.streamed_frame (p : Partition) (c t : Nat) (acc : Bool) (clk : Nat) (w : StreamWork) :
    { p.streamed c t acc clk w with acc := p.acc, events := p.events, streams := p.streams } = p := rfl

theorem Partition.events_streamed (p : Partition) (c t : Nat) (acc : Bool) (clk : Nat) (w : StreamWork) :
    (p.streamed c t acc clk w).events = Sparse.put 0 p.events t (w.events ||| w.out.foldl (fun e x => e ||| x.2) 0) := rfl

/-- The tile's event flags gain those of its elements. -/
theorem Partition.events_streamed_work (p : Partition) (c t : Nat) (acc : Bool) (clk : Nat) (f : MFmt) (tr z : Bool) (x : TileRead) :
    (p.streamed c t acc clk (p.work t f tr z x)).events =
      Sparse.put 0 p.events t (Sparse.get 0 p.events t ||| (p.work t f tr z x).out.foldl (fun e x => e ||| x.2) 0) :=
  p.events_streamed c t acc clk _

/-- An MMA's effect is on its partition, and on its cluster's lamps. -/
theorem State.stream_eq (s : State) (c : Nat) (r : Crew) (acc z tr : Bool) (f : MFmt) (x : TileRead) :
    s.stream c r acc z tr f x =
      (s.onPn r.pkey fun p => p.streamed c (r.accTile acc) acc s.clk (p.work (r.accTile acc) f tr z x)).noteMma r.core := by
  simp only [State.stream, State.onPn, Partition.streamed, Partition.work]

end Machine

end Sys2Proof

/-!
Where an MMA that nothing holds back stands, alone and in a gang (08 R212, R221).
-/

namespace Sys2Proof.Machine

variable {s : State} {g : Issue} {r : Crew} {n tr z : Bool} {sb : BitVec 2} {t : TReg} {f : MFmt}

/-- An MMA outside a gang, whose tile has no fault, issues alone. -/
theorem mmaStand_alone (goes : mmaWait n tr z false sb t f s g r = none) (clear : s.tileReadFault r t (1024 * (sb.toNat + 1)) = none) :
    mmaStand n tr z false sb t f s g r = .lamp [(g.crew, n)] := by
  by_cases busy : s.tileBusy r t = true
  · simp [mmaWait, mmaStand, readsTile, clear, busy] at goes
  · simp [mmaStand, readsTile, clear, busy]

/-- An MMA of a gang, whose tile has no fault, meets a rendezvous that is complete: it issues, or the gang disagrees. -/
theorem mmaStand_gang (goes : mmaWait n tr z true sb t f s g r = none)
    (clear : readsTile true g.crew r = true → s.arrivedIn g.crew r = true ∨ s.tileReadFault r t (1024 * (sb.toNat + 1)) = none) :
    mmaStand n tr z true sb t f s g r =
      if s.passes r (s.latchWith r (arrivalOf g r n tr z sb t f)) then
        .lamp ((s.latchWith r (arrivalOf g r n tr z sb t f)).arrivals.map fun a => (a.crew, a.acc))
      else .mismatch := by
  have sound : ¬ ((readsTile true g.crew r && !s.arrivedIn g.crew r) && (s.tileReadFault r t (1024 * (sb.toNat + 1))).isSome) = true := by
    intro faults
    simp only [Bool.and_eq_true, Bool.not_eq_true'] at faults
    obtain ⟨⟨reads, away⟩, fault⟩ := faults
    rcases clear reads with arrived | none
    · simp [away] at arrived
    · simp [none] at fault
  by_cases busy : (readsTile true g.crew r && !s.arrivedIn g.crew r && s.tileBusy r t) = true
  · simp [mmaWait, mmaStand, sound, busy] at goes
  · by_cases met : ((!(s.latchWith r (arrivalOf g r n tr z sb t f)).complete (leaderOf r) ||
        !(s.latchWith r (arrivalOf g r n tr z sb t f)).arrivals.any (fun a => a.crew == g.crew))) = true
    · simp [mmaWait, mmaStand, sound, busy, met] at goes
    · cases passes : s.passes r (s.latchWith r (arrivalOf g r n tr z sb t f)) <;> simp [mmaStand, sound, busy, met, passes]

/-- A rendezvous passes where it was compared before, or its arrivals agree. -/
theorem State.passes_iff (s : State) (r : Crew) (l : Latch) :
    s.passes r l = true ↔ (∃ x, s.latches.find (leaderOf r) = some x ∧ x.completed ≠ none) ∨ s.agree l = true := by
  unfold State.passes
  split
  next x found => simp [found, Option.isSome_iff_ne_none]
  next none => simp [none]

/-- A rendezvous that was compared takes no more arrivals. -/
theorem State.latchWith_of_completed {a : Arrival} {y : Latch} (found : s.latches.find (leaderOf r) = some y)
    (compared : y.completed ≠ none) : s.latchWith r a = y := by
  simp [State.latchWith, found, Option.isSome_iff_ne_none.mpr compared]

theorem State.leaderRead_of_arrived {leader : Nat} {l : Latch} {y : Crew} {a : Arrival} (found : s.crews.find leader = some y)
    (arrived : (l.arrivals.find? fun a => a.crew == leader) = some a) :
    s.leaderRead leader l = s.readTile leader y a.tile (1024 * a.sb.toNat) 1024 := by
  simp [State.leaderRead, found, arrived]

/-! ## What the acquire and the lamps leave -/

theorem State.acquire_eq (s : State) (r : Crew) (sc : Scope) : ∃ cores, s.acquire r sc = { s with cores := cores } := by
  unfold State.acquire State.acquireAt
  split
  · exact ⟨_, rfl⟩
  · exact ⟨s.cores, rfl⟩

theorem State.noteMma_eq (s : State) (core : Nat) : ∃ lamps, s.noteMma core = { s with lamps := lamps } := by
  unfold State.noteMma
  split
  · exact ⟨_, rfl⟩
  all_goals exact ⟨s.lamps, rfl⟩

/-! ## The three outcomes of an MMA -/

/-- An MMA outside a gang streams its own sub-block. -/
theorem execMma_alone (runs : Runs s g r (.mma n tr z false sb t f)) (clear : s.tileReadFault r t (1024 * (sb.toNat + 1)) = none) :
    exec (.mma n tr z false sb t f) s =
      .next (s.finish ((s.acquire r .device).stream g.crew r n z tr f (s.readTile g.crew r t (1024 * sb.toNat) 1024)) g r) := by
  have goes : mmaWait n tr z false sb t f s g r = none := runs.own
  change execMma n tr z false sb t f s = _
  exact runs.issues.finish rfl rfl (by simp only [goes, mmaStand_alone goes clear]; rfl)

/-- The state in which a rendezvous issues: the crew's next loads follow it, and its latch is empty. -/
def State.gathered (s : State) (r : Crew) : State :=
  { s.acquire r .device with latches := (s.acquire r .device).latches.del (leaderOf r) }

/-- A rendezvous that passes issues as one, on the leader's sub-block. -/
theorem execMma_of_passes (runs : Runs s g r (.mma n tr z true sb t f))
    (clear : readsTile true g.crew r = true → s.arrivedIn g.crew r = true ∨ s.tileReadFault r t (1024 * (sb.toNat + 1)) = none)
    (passes : s.passes r (s.latchWith r (arrivalOf g r n tr z sb t f)) = true) :
    exec (.mma n tr z true sb t f) s =
      .next (s.finish
        ((s.gathered r).issueGang g.crew (s.latchWith r (arrivalOf g r n tr z sb t f))
          (s.leaderRead (leaderOf r) (s.latchWith r (arrivalOf g r n tr z sb t f)))) g r) := by
  have goes : mmaWait n tr z true sb t f s g r = none := runs.own
  change execMma n tr z true sb t f s = _
  exact runs.issues.finish rfl rfl (by simp only [goes, mmaStand_gang goes clear, passes]; rfl)

/-- A gang that disagrees faults. -/
theorem execMma_of_fails (runs : Runs s g r (.mma n tr z true sb t f))
    (clear : readsTile true g.crew r = true → s.arrivedIn g.crew r = true ∨ s.tileReadFault r t (1024 * (sb.toNat + 1)) = none)
    (fails : s.passes r (s.latchWith r (arrivalOf g r n tr z sb t f)) = false) :
    exec (.mma n tr z true sb t f) s =
      .next (s.finishFault (s.gangFault (leaderOf r) (s.latchWith r (arrivalOf g r n tr z sb t f)) (some g.crew) 0x0D) g r
        (raised r 0x0D)) := by
  have goes : mmaWait n tr z true sb t f s g r = none := runs.own
  change execMma n tr z true sb t f s = _
  exact runs.issues.faults rfl rfl (by simp only [goes, mmaStand_gang goes clear, fails]; rfl)

end Sys2Proof.Machine

/-!
A gang's members: each streams the leader's sub-block, and the groups of the others end (02 R55; 08 R221; 13 R343).
-/

namespace Sys2Proof.Machine

@[simp] theorem State.noteMma_crews (s : State) (core : Nat) : (s.noteMma core).crews = s.crews := by
  obtain ⟨lamps, eq⟩ := s.noteMma_eq core
  rw [eq]

@[simp] theorem State.noteMma_clk (s : State) (core : Nat) : (s.noteMma core).clk = s.clk := by
  obtain ⟨lamps, eq⟩ := s.noteMma_eq core
  rw [eq]

@[simp] theorem State.noteMma_latches (s : State) (core : Nat) : (s.noteMma core).latches = s.latches := by
  obtain ⟨lamps, eq⟩ := s.noteMma_eq core
  rw [eq]

@[simp] theorem State.noteMma_pn (s : State) (core k : Nat) : (s.noteMma core).pn k = s.pn k := by
  obtain ⟨lamps, eq⟩ := s.noteMma_eq core
  rw [eq]
  rfl

@[simp] theorem State.acquire_crews (s : State) (r : Crew) (sc : Scope) : (s.acquire r sc).crews = s.crews := by
  obtain ⟨cores, eq⟩ := s.acquire_eq r sc
  rw [eq]

@[simp] theorem State.acquire_clk (s : State) (r : Crew) (sc : Scope) : (s.acquire r sc).clk = s.clk := by
  obtain ⟨cores, eq⟩ := s.acquire_eq r sc
  rw [eq]

@[simp] theorem State.acquire_pn (s : State) (r : Crew) (sc : Scope) (k : Nat) : (s.acquire r sc).pn k = s.pn k := by
  obtain ⟨cores, eq⟩ := s.acquire_eq r sc
  rw [eq]
  rfl

/-! ## The streams -/

/-- An arrival's crew streams the leader's sub-block. -/
def State.streamMember (s : State) (x : TileRead) (a : Arrival) : State :=
  match s.crews.find a.crew with
  | some r => s.stream a.crew r a.acc a.zero a.tr a.fmt x
  | none => s

/-- The other members' groups end after every member has begun to stream. -/
theorem State.issueGang_eq (s : State) (c : Nat) (l : Latch) (x : TileRead) : s.issueGang c l x =
    (l.arrivals.filter fun a => a.crew != c).foldl State.finishMember (l.arrivals.foldl (fun u a => u.streamMember x a) s) := rfl

theorem State.streamMember_of_found {s : State} {x : TileRead} {a : Arrival} {y : Crew} (found : s.crews.find a.crew = some y) :
    s.streamMember x a = s.stream a.crew y a.acc a.zero a.tr a.fmt x := by simp [State.streamMember, found]

/-- A member that streams leaves the crews, the clock and the latches. -/
theorem State.streamMember_frame (s : State) (x : TileRead) (a : Arrival) :
    (s.streamMember x a).crews = s.crews ∧ (s.streamMember x a).clk = s.clk ∧ (s.streamMember x a).latches = s.latches := by
  unfold State.streamMember
  split
  · simp [State.stream_eq]
  · exact ⟨rfl, rfl, rfl⟩

/-- A member streams on its own partition alone. -/
theorem State.pn_streamMember_of_ne {s : State} {x : TileRead} {a : Arrival} {k : Nat}
    (away : ∀ y, s.crews.find a.crew = some y → y.pkey ≠ k) : (s.streamMember x a).pn k = s.pn k := by
  unfold State.streamMember
  split
  next r found => simp [State.stream_eq, (away r found).symm]
  next => rfl

theorem State.pn_streamMember {s : State} {x : TileRead} {a : Arrival} {y : Crew} (found : s.crews.find a.crew = some y) :
    (s.streamMember x a).pn y.pkey = (s.pn y.pkey).streamed a.crew (y.accTile a.acc) a.acc s.clk
      ((s.pn y.pkey).work (y.accTile a.acc) a.fmt a.tr a.zero x) := by
  simp [State.streamMember_of_found found, State.stream_eq]

/-- A property that the elements of a list but one keep, and that the one turns into another that they keep too. -/
theorem foldl_once {σ α : Type} {f : σ → α → σ} {P Q : σ → Prop} {a : α} {before after : List α}
    (first : ∀ b ∈ before, ∀ u, P u → P (f u b)) (turn : ∀ u, P u → Q (f u a))
    (last : ∀ b ∈ after, ∀ u, Q u → Q (f u b)) {s : σ} (start : P s) : Q ((before ++ a :: after).foldl f s) := by
  rw [List.foldl_append, List.foldl_cons]
  exact List.foldlRecOn after f (turn _ (List.foldlRecOn before f start fun u hu b hb => first b hb u hu)) fun u hu b hb => last b hb u hu

/-- What stays while a gang's members stream: the crews, the clock, and the latches. -/
structure Streaming (s u : State) : Prop where
  crews : u.crews = s.crews
  clk : u.clk = s.clk
  latches : u.latches = s.latches

theorem Streaming.refl (s : State) : Streaming s s := ⟨rfl, rfl, rfl⟩

theorem Streaming.member {s u : State} (h : Streaming s u) (x : TileRead) (a : Arrival) : Streaming s (u.streamMember x a) := by
  obtain ⟨crews, clk, latches⟩ := u.streamMember_frame x a
  exact ⟨crews.trans h.crews, clk.trans h.clk, latches.trans h.latches⟩

theorem Streaming.members (s : State) (x : TileRead) (as : List Arrival) :
    Streaming s (as.foldl (fun u a => u.streamMember x a) s) :=
  List.foldlRecOn as _ (Streaming.refl s) fun _ hu a _ => hu.member x a

/-- Among arrivals in partitions of their own, each streams on its own partition as it was before. -/
theorem State.pn_streamMembers {s : State} {x : TileRead} {a : Arrival} {before after : List Arrival} {y : Crew}
    (found : s.crews.find a.crew = some y)
    (away : ∀ b ∈ before ++ after, ∀ yb, s.crews.find b.crew = some yb → yb.pkey ≠ y.pkey) :
    ((before ++ a :: after).foldl (fun u a => u.streamMember x a) s).pn y.pkey =
      (s.pn y.pkey).streamed a.crew (y.accTile a.acc) a.acc s.clk ((s.pn y.pkey).work (y.accTile a.acc) a.fmt a.tr a.zero x) := by
  have keeps {p : Partition} (b : Arrival) (hb : b ∈ before ++ after) (u : State) (hu : Streaming s u ∧ u.pn y.pkey = p) :
      Streaming s (u.streamMember x b) ∧ (u.streamMember x b).pn y.pkey = p := by
    refine ⟨hu.1.member x b, (State.pn_streamMember_of_ne fun yb hyb => ?_).trans hu.2⟩
    exact away b hb yb (hu.1.crews ▸ hyb)
  refine (foldl_once (P := fun u => Streaming s u ∧ u.pn y.pkey = s.pn y.pkey) (Q := fun u => Streaming s u ∧ u.pn y.pkey = _)
    (fun b hb => keeps b (List.mem_append_left _ hb)) (fun u hu => ?_) (fun b hb => keeps b (List.mem_append_right _ hb))
    ⟨Streaming.refl s, rfl⟩).2
  obtain ⟨streaming, same⟩ := hu
  refine ⟨streaming.member x a, ?_⟩
  rw [State.pn_streamMember (streaming.crews ▸ found), same, streaming.clk]

/-! ## The end of a group -/

/-- From u to v, crew c, which is r, may come to wait, and be the last of its partition. -/
structure Rests (c : Nat) (r : Crew) (u v : State) : Prop where
  clk : v.clk = u.clk
  others : ∀ x, x ≠ c → v.crews.find x = u.crews.find x
  partitions : ∀ k, k ≠ r.pkey → v.pn k = u.pn k
  crew : ∃ p e, v.crews.find c = some { r with phase := p, stallEnd := e }
  partition : ∃ l, v.pn r.pkey = { u.pn r.pkey with recency := l } ∧
    ((u.pn r.pkey).recency.getLast? = some c → l.getLast? = some c)

theorem Rests.refl {c : Nat} {r : Crew} {u : State} (found : u.crews.find c = some r) : Rests c r u u :=
  ⟨rfl, fun _ _ => rfl, fun _ _ => rfl, ⟨r.phase, r.stallEnd, found⟩, ⟨_, rfl, id⟩⟩

/-- A SCHED hint makes the crew the last of its partition, or stalls it. -/
theorem State.afterSched_rests {c : Nat} {r : Crew} {u : State} (found : u.crews.find c = some r) (hs : List Hint) :
    Rests c r u (u.afterSched c hs) := by
  unfold State.afterSched
  simp only [found]
  split
  · exact Rests.refl found
  · split
    · exact Rests.refl found
    · exact ⟨rfl, fun _ _ => rfl, fun k hk => by simp [State.moveRecent, hk], ⟨r.phase, r.stallEnd, found⟩,
        ⟨(u.pn r.pkey).recency.filter (· != c) ++ [c], by simp [State.moveRecent], fun _ => by simp⟩⟩
    · exact ⟨rfl, fun x hx => by simp [hx], fun _ _ => rfl, ⟨_, _, Tbl.find_put.trans (if_pos rfl)⟩, ⟨_, rfl, id⟩⟩

/-- A hold makes the crew wait. -/
theorem Rests.hold {c : Nat} {r : Crew} {u v : State} (h : Rests c r u v) : Rests c r u (v.holdCrew c) := by
  unfold State.holdCrew
  split
  · obtain ⟨p, e, found⟩ := h.crew
    exact ⟨h.clk, fun x hx => by simpa [hx] using h.others x hx, h.partitions, ⟨.waiting 5, e, by simp [found]⟩, h.partition⟩
  · exact h

/-- The group of an arrival's MMA. -/
def Arrival.group (a : Arrival) : Issue :=
  { crew := a.crew, addr := a.addr, next := a.next, words := []
    hints := match a.sched with
      | .none => []
      | p => [.sched p] }

/-- The state in which an arrival's group completes: its words have taken the partition's clocks, and its head run goes on. -/
def State.memberDone (s : State) (a : Arrival) (y : Crew) : State :=
  ((s.onPn y.pkey fun p => { p with issuer := some a.crew, issueEnd := s.clk + (a.next - a.addr).toNat / 4 }).moveRecent a.crew y).putCrew
    a.crew (({ y with phase := .ready } : Crew).setPcs y.head fun _ => a.next)

theorem State.pn_memberDone_of_ne (s : State) (a : Arrival) {y : Crew} {k : Nat} (away : k ≠ y.pkey) :
    (s.memberDone a y).pn k = s.pn k := by
  have same (u : State) (c : Nat) (r : Crew) : (u.putCrew c r).pn k = u.pn k := rfl
  simp [State.memberDone, State.moveRecent, same, away]

theorem State.pn_memberDone (s : State) (a : Arrival) (y : Crew) : (s.memberDone a y).pn y.pkey =
    { s.pn y.pkey with
      issuer := some a.crew, issueEnd := s.clk + (a.next - a.addr).toNat / 4
      recency := ((s.pn y.pkey).recency.filter (· != a.crew)) ++ [a.crew] } := by
  have same (u : State) (c : Nat) (r : Crew) : (u.putCrew c r).pn y.pkey = u.pn y.pkey := rfl
  simp [State.memberDone, State.moveRecent, same]

theorem State.getLast?_recency_memberDone (s : State) (a : Arrival) (y : Crew) :
    ((s.memberDone a y).pn y.pkey).recency.getLast? = some a.crew := by simp [State.pn_memberDone]

theorem State.finishMember_of_found {s : State} {a : Arrival} {y : Crew} (found : s.crews.find a.crew = some y) :
    s.finishMember a = s.finishMoved (s.memberDone a y) a.group { y with phase := .ready } := by
  simp only [State.finishMember, found]
  rfl

/-- What the end of a member's group leaves: its words take its partition's clocks, it counts, and its head run goes on. -/
structure MemberEnds (s u : State) (a : Arrival) (y : Crew) : Prop where
  clk : u.clk = s.clk
  others : ∀ x, x ≠ a.crew → u.crews.find x = s.crews.find x
  partitions : ∀ k, k ≠ y.pkey → u.pn k = s.pn k
  crew : ∃ y', u.crews.find a.crew = some y' ∧ y'.pkey = y.pkey ∧ y'.retStopEn = y.retStopEn ∧ y'.retired = y.retired + 1 ∧
    y'.mode = y.mode ∧ ∀ i, i < 32 → y'.pc i = if y.head.getLsbD i then a.next else y.pc i
  partition : ∃ l, u.pn y.pkey =
    { s.pn y.pkey with issuer := some a.crew, issueEnd := s.clk + (a.next - a.addr).toNat / 4, recency := l } ∧
      l.getLast? = some a.crew

theorem State.finishMember_of_none {s : State} {a : Arrival} (none : s.crews.find a.crew = none) : s.finishMember a = s := by
  simp [State.finishMember, none]

theorem State.finishMember_ends {s : State} {a : Arrival} {y : Crew} (found : s.crews.find a.crew = some y)
    (free : y.retStopEn = false) : MemberEnds s (s.finishMember a) a y := by
  let done : Crew := ({ y with phase := .ready } : Crew).setPcs y.head fun _ => a.next
  have crew : (s.memberDone a y).crews.find a.group.crew = some done := Tbl.find_put.trans (if_pos rfl)
  have goes : s.stops a.group done = false := by
    have free : done.retStopEn = false := free
    simp [State.stops, free]
  have ends := State.finishMoved_of_going (r := { y with phase := .ready }) crew rfl goes
  have counted : ((s.memberDone a y).counted a.crew done).crews.find a.crew = some done.retire := by simp
  have rests := (State.afterSched_rests counted a.group.hints).hold
  rw [State.finishMember_of_found found, ends]
  obtain ⟨p, e, stands⟩ := rests.crew
  obtain ⟨l, partition, last⟩ := rests.partition
  refine ⟨rests.clk, fun x hx => (rests.others x hx).trans ?_, fun k hk => (rests.partitions k hk).trans ?_,
    ⟨_, stands, rfl, rfl, rfl, rfl, fun i hi => ?_⟩, ⟨l, partition.trans ?_, last ?_⟩⟩
  · simp [State.memberDone, State.moveRecent, hx]
  · exact State.pn_memberDone_of_ne s a hk
  · exact (Crew.pc_setPcs { y with phase := .ready } y.head (fun _ => a.next) i hi :)
  · exact congrArg (fun p : Partition => { p with recency := l }) (State.pn_memberDone s a y)
  · exact State.getLast?_recency_memberDone s a y

end Sys2Proof.Machine

/-!
A gang as a whole: its members in partitions of their own, the latch that it leaves, and what its rendezvous comes to (08 R221).
-/

namespace Sys2Proof.Machine

/-! ## The latch -/

namespace NoLatch

variable {k : Nat} {s : State}

theorem afterSched (h : NoLatch k s) (c : Nat) (hs : List Hint) : NoLatch k (s.afterSched c hs) := by
  unfold State.afterSched
  split
  · exact h
  · split
    · exact h
    · split <;> exact h

theorem holdCrew (h : NoLatch k s) (c : Nat) : NoLatch k (s.holdCrew c) := by
  unfold State.holdCrew
  split <;> exact h

theorem complete (h : NoLatch k s) (g : Issue) (r : Crew) (nested rett : Bool) : NoLatch k (s.complete g r nested rett) := by
  unfold State.complete
  extract_lets c s1
  have idle : NoLatch k s1 := h
  split
  · exact idle
  · split
    · exact idle
    · extract_lets n stop r' s2
      have counted : NoLatch k s2 := h
      split
      · exact (counted.raise _ _ _).afterSched _ _
      · exact (counted.afterSched _ _).holdCrew _

theorem finishMember (h : NoLatch k s) (a : Arrival) : NoLatch k (s.finishMember a) := by
  cases found : s.crews.find a.crew with
  | none => rwa [State.finishMember_of_none found]
  | some y =>
    have done : NoLatch k (s.memberDone a y) := h
    rw [State.finishMember_of_found found]
    exact done.complete a.group _ _ _

end NoLatch

/-- A gang that issues has no latch after. -/
theorem State.latches_issueGang {s : State} {k : Nat} (empty : s.latches.find k = none) (c : Nat) (l : Latch) (x : TileRead) :
    (s.issueGang c l x).latches.find k = none := by
  have streamed : NoLatch k (l.arrivals.foldl (fun u a => u.streamMember x a) s) := by
    rw [NoLatch, (Streaming.members s x l.arrivals).latches]
    exact empty
  rw [State.issueGang_eq]
  exact streamed.foldl _ (fun _ _ hv => hv.finishMember _) _

/-! ## The ends of the groups -/

/-- Crew c and partition k stand as given, and the groups that are to end are of other crews, in other partitions, without a
retired-count stop. -/
structure Apart (as : List Arrival) (c k clk : Nat) (y : Crew) (p : Partition) (u : State) : Prop where
  clk : u.clk = clk
  crew : u.crews.find c = some y
  partition : u.pn k = p
  elsewhere : ∀ b ∈ as, ∀ yb, u.crews.find b.crew = some yb → yb.pkey ≠ k ∧ yb.retStopEn = false

/-- The end of another's group keeps both apart. -/
theorem Apart.finishMember {as : List Arrival} {c k clk : Nat} {y : Crew} {p : Partition} {u : State} (h : Apart as c k clk y p u)
    {b : Arrival} (hb : b ∈ as) (other : b.crew ≠ c) : Apart as c k clk y p (u.finishMember b) := by
  cases found : u.crews.find b.crew with
  | none => rwa [State.finishMember_of_none found]
  | some yb =>
    obtain ⟨away, free⟩ := h.elsewhere b hb yb found
    have ends := State.finishMember_ends found free
    refine ⟨ends.clk.trans h.clk, (ends.others c other.symm).trans h.crew, (ends.partitions k away.symm).trans h.partition,
      fun x hx yx hyx => ?_⟩
    by_cases same : x.crew = b.crew
    · obtain ⟨y', stands, key, stop, -⟩ := ends.crew
      rw [same, stands] at hyx
      cases hyx
      exact ⟨key ▸ away, stop.trans free⟩
    · exact h.elsewhere x hx yx ((ends.others x.crew same).symm.trans hyx)

theorem Apart.finishMembers {as : List Arrival} {c k clk : Nat} {y : Crew} {p : Partition} {u : State} (h : Apart as c k clk y p u)
    (others : ∀ b ∈ as, b.crew ≠ c) : Apart as c k clk y p (as.foldl State.finishMember u) :=
  List.foldlRecOn as _ h fun _ hv b hb => hv.finishMember hb (others b hb)

/-- How a member of a gang stands once its group has ended. -/
structure Ended (a : Arrival) (y y' : Crew) : Prop where
  retired : y'.retired = y.retired + 1
  mode : y'.mode = y.mode
  pcs : ∀ i, i < 32 → y'.pc i = if y.head.getLsbD i then a.next else y.pc i

/-- Among the ends of groups of other crews, an arrival's own group ends once. -/
theorem State.finishMembers_ends {u : State} {a : Arrival} {before after : List Arrival} {y : Crew} {clk : Nat} {p : Partition}
    (apart : Apart (before ++ after) a.crew y.pkey clk y p u) (free : y.retStopEn = false)
    (others : ∀ b ∈ before ++ after, b.crew ≠ a.crew) :
    ∃ y' l, Ended a y y' ∧ l.getLast? = some a.crew ∧
      Apart (before ++ after) a.crew y.pkey clk y'
        { p with issuer := some a.crew, issueEnd := clk + (a.next - a.addr).toNat / 4, recency := l }
        ((before ++ a :: after).foldl State.finishMember u) := by
  refine foldl_once (P := Apart (before ++ after) a.crew y.pkey clk y p)
    (Q := fun v => ∃ y' l, Ended a y y' ∧ l.getLast? = some a.crew ∧ Apart (before ++ after) a.crew y.pkey clk y'
      { p with issuer := some a.crew, issueEnd := clk + (a.next - a.addr).toNat / 4, recency := l } v)
    (fun b hb v hv => ?_) (fun v hv => ?_) (fun b hb v hv => ?_) apart
  · exact hv.finishMember (List.mem_append_left _ hb) (others b (List.mem_append_left _ hb))
  · have ends := State.finishMember_ends hv.crew free
    obtain ⟨y', stands, -, -, retired, mode, pcs⟩ := ends.crew
    obtain ⟨l, partition, last⟩ := ends.partition
    refine ⟨y', l, ⟨retired, mode, pcs⟩, last, ends.clk.trans hv.clk, stands, ?_, fun b hb yb hyb => ?_⟩
    · rw [partition, hv.partition, hv.clk]
    · exact hv.elsewhere b hb yb ((ends.others b.crew (others b hb)).symm.trans hyb)
  · obtain ⟨y', l, ended, last, h⟩ := hv
    exact ⟨y', l, ended, last, h.finishMember (List.mem_append_right _ hb) (others b (List.mem_append_right _ hb))⟩

/-! ## One member of a gang -/

/-- Members in partitions of their own are of different crews, and of the others none is in one's partition. -/
theorem away_of_nodup {crews : Tbl Crew} {a : Arrival} {before after : List Arrival} {y : Crew}
    (distinct : ((before ++ a :: after).filterMap fun a => (crews.find a.crew).map Crew.pkey).Nodup)
    (found : crews.find a.crew = some y) {b : Arrival} (hb : b ∈ before ++ after) :
    b.crew ≠ a.crew ∧ ∀ yb, crews.find b.crew = some yb → yb.pkey ≠ y.pkey := by
  have away (yb : Crew) (hyb : crews.find b.crew = some yb) : yb.pkey ≠ y.pkey := by
    intro same
    have among : yb.pkey ∈ (before ++ after).filterMap fun a => (crews.find a.crew).map Crew.pkey :=
      List.mem_filterMap.mpr ⟨b, hb, by simp [hyb]⟩
    rw [List.filterMap_append, List.filterMap_cons_some (b := y.pkey) (by simp [found])] at distinct
    rw [List.filterMap_append] at among
    exact (List.nodup_middle.mp distinct).notMem (same ▸ among)
  exact ⟨fun same => away y (same ▸ found) rfl, away⟩

/-- What becomes of an arrival's crew and its partition as the gang issues: its products and its stream, and where it is not the
crew that issues, the end of its group. -/
theorem State.issueGang_member {s : State} {c : Nat} {l : Latch} {x : TileRead} {a : Arrival} {y : Crew}
    (distinct : (l.arrivals.filterMap fun a => (s.crews.find a.crew).map Crew.pkey).Nodup)
    (free : ∀ a ∈ l.arrivals, ∀ y, a.crew ≠ c → s.crews.find a.crew = some y → y.retStopEn = false)
    (ha : a ∈ l.arrivals) (found : s.crews.find a.crew = some y) :
    let p := (s.pn y.pkey).streamed a.crew (y.accTile a.acc) a.acc s.clk ((s.pn y.pkey).work (y.accTile a.acc) a.fmt a.tr a.zero x)
    if a.crew = c then (s.issueGang c l x).pn y.pkey = p
    else ∃ y' r, Ended a y y' ∧ r.getLast? = some a.crew ∧ (s.issueGang c l x).crews.find a.crew = some y' ∧
      (s.issueGang c l x).pn y.pkey = { p with issuer := some a.crew, issueEnd := s.clk + (a.next - a.addr).toNat / 4, recency := r } := by
  intro p
  obtain ⟨before, after, split⟩ := List.append_of_mem ha
  rw [split] at distinct
  have away {b : Arrival} (hb : b ∈ before ++ after) := away_of_nodup distinct found hb
  have streaming := Streaming.members s x l.arrivals
  have streamed : (l.arrivals.foldl (fun u a => u.streamMember x a) s).pn y.pkey = p := by
    rw [split]
    exact State.pn_streamMembers found fun b hb => (away hb).2
  have among {b : Arrival} (hb : b ∈ (before.filter fun a => a.crew != c) ++ after.filter fun a => a.crew != c) :
      b ∈ before ++ after ∧ b.crew ≠ c := by
    rw [← List.filter_append] at hb
    obtain ⟨inside, other⟩ := List.mem_filter.mp hb
    exact ⟨inside, by simpa using other⟩
  have apart : Apart ((before.filter fun a => a.crew != c) ++ after.filter fun a => a.crew != c) a.crew y.pkey s.clk y p
      (l.arrivals.foldl (fun u a => u.streamMember x a) s) := by
    refine ⟨streaming.clk, by rw [streaming.crews, found], streamed, fun b hb yb hyb => ?_⟩
    obtain ⟨inside, other⟩ := among hb
    rw [streaming.crews] at hyb
    refine ⟨(away inside).2 yb hyb, free b ?_ yb other hyb⟩
    rw [split]
    simp only [List.mem_append, List.mem_cons] at inside ⊢
    tauto
  have others : ∀ b ∈ (before.filter fun a => a.crew != c) ++ after.filter fun a => a.crew != c, b.crew ≠ a.crew :=
    fun b hb => (away (among hb).1).1
  rw [State.issueGang_eq, split, List.filter_append, List.filter_cons, ← split]
  split
  next own =>
    rw [if_neg (by simp [own])]
    exact (apart.finishMembers others).partition
  next other =>
    rw [if_pos (by simpa using other)]
    obtain ⟨y', r, ended, last, h⟩ := State.finishMembers_ends apart (free a ha y other found) others
    exact ⟨y', r, ended, last, h.crew, h.partition⟩

/-! ## The products -/

/-- What the issue of a gang owes to an arrival of a crew: its products, its stream, and where it is not the crew that issues, the end
of its group. -/
structure MemberIssued (s u : State) (c : Nat) (x : TileRead) (a : Arrival) (y : Crew) : Prop where
  sets : SetsTile (s.pn y.pkey) (u.pn y.pkey) (y.accTile a.acc)
    (Spec.mmaElement (s.pn y.pkey) (y.accTile a.acc) a.fmt a.tr a.zero x.bytes)
  stream : ∃ w : StreamWork, w.read = x ∧
    (u.pn y.pkey).streams = (s.pn y.pkey).streams ++ [{ crew := a.crew, acc := a.acc, start := s.clk, work := w }]
  ends : a.crew ≠ c → (u.pn y.pkey).issuer = some a.crew ∧ (u.pn y.pkey).issueEnd = s.clk + (a.next - a.addr).toNat / 4 ∧
    (u.pn y.pkey).recency.getLast? = some a.crew ∧ ∃ y', u.crews.find a.crew = some y' ∧ Ended a y y'

theorem State.issueGang_issues {s : State} {c : Nat} {l : Latch} {x : TileRead} {a : Arrival} {y : Crew}
    (distinct : (l.arrivals.filterMap fun a => (s.crews.find a.crew).map Crew.pkey).Nodup)
    (free : ∀ a ∈ l.arrivals, ∀ y, a.crew ≠ c → s.crews.find a.crew = some y → y.retStopEn = false)
    (ha : a ∈ l.arrivals) (found : s.crews.find a.crew = some y) : MemberIssued s (s.issueGang c l x) c x a y := by
  have member := State.issueGang_member (x := x) distinct free ha found
  have sets := (s.pn y.pkey).streamed_sets a.crew (y.accTile a.acc) a.acc s.clk a.fmt a.tr a.zero x
  dsimp only at member
  split at member
  next own => exact ⟨by rwa [member], ⟨_, rfl, by rw [member]; rfl⟩, fun other => absurd own other⟩
  next =>
    obtain ⟨y', r, ended, last, stands, partition⟩ := member
    refine ⟨?_, ⟨_, rfl, by rw [partition]; rfl⟩, fun _ => ?_⟩
    · rw [partition]
      exact ⟨sets.new, sets.other⟩
    · rw [partition]
      exact ⟨rfl, rfl, last, y', stands, ended⟩

/-- Settles O38, from where an MMA that nothing holds back stands, and what its streams and the ends of the members' groups leave of each
partition. -/
theorem matrixProducts : Obligations.MatrixProducts := by
  intro s g r n tr z sb t f p
  refine ⟨fun runs clear => ?_, fun runs clear => ?_⟩
  · have block : (s.readTile g.crew r t (1024 * sb.toNat) 1024).bytes = s.subBlock r t sb := by
      simp only [State.readTile, State.subBlock]
    have issued := execMma_alone runs clear
    generalize s.readTile g.crew r t (1024 * sb.toNat) 1024 = x at block issued ⊢
    have sets := p.streamed_sets g.crew (r.accTile n) n s.clk f tr z x
    rw [block] at sets
    refine ⟨_, _, _, sets, p.events_streamed_work _ _ _ _ f tr z x, rfl, rfl, p.streamed_frame _ _ _ _ _, ?_⟩
    rw [issued, State.stream_eq]
    simp [State.onPn, p]
  · intro l compared x
    have passes := s.passes_iff r l
    refine ⟨fun y found done => State.latchWith_of_completed found done,
      fun y a found arrived => State.leaderRead_of_arrived found arrived,
      fun pass => ⟨(s.gathered r).issueGang g.crew l x, execMma_of_passes runs clear (passes.mpr pass), ?_, ?_⟩,
      fun fresh differ => ?_⟩
    · exact State.latches_issueGang Tbl.find_del_same _ _ _
    · intro distinct free a ha y found q q'
      have crews : (s.gathered r).crews = s.crews := s.acquire_crews r .device
      have pn (k : Nat) : (s.gathered r).pn k = s.pn k := s.acquire_pn r .device k
      have clk : (s.gathered r).clk = s.clk := s.acquire_clk r .device
      obtain ⟨sets, stream, ends⟩ := State.issueGang_issues (s := s.gathered r) (c := g.crew) (x := x)
        (by rwa [crews]) (by rwa [crews]) ha (by rwa [crews])
      rw [pn, clk] at *
      refine ⟨sets, stream, fun other => ?_⟩
      obtain ⟨issuer, issueEnd, last, y', stands, ended⟩ := ends other
      exact ⟨issuer, issueEnd, last, fun _ => ⟨y', stands, ended.retired, ended.mode, ended.pcs⟩⟩
    · refine execMma_of_fails runs clear (Bool.eq_false_iff.mpr fun pass => ?_)
      rcases passes.mp pass with before | same
      · exact fresh before
      · exact absurd same (by simp [differ])

end Sys2Proof.Machine

/-!
The integer and logic instructions: each writes one vector register in the lanes of a mask (05 R107-R117).
-/

namespace Sys2Proof.Machine

variable {s u : State} {g : Issue} {r : Crew} {i : Instr} {body : BodyFn}

/-- A group that runs, and waits for nothing of its own, closes with its effect. -/
theorem Runs.exec_eq (runs : Runs s g r i) (group : ∀ t, exec i t = runGroup i t noWait body) (notRett : (i == Instr.rett) = false)
    (effect : body s g r = .next u) : exec i s = .next (s.finish u g r) :=
  (group s).trans (runs.issues.finish notRett rfl effect)

theorem Crew.active_zero (r : Crew) : r.active 0 = r.head := BitVec.and_allOnes

theorem vecI_eq (d a : VReg) (f : Word → Word) (s : State) (g : Issue) (r : Crew) :
    vecI d a f s g r = .next (s.mapLanes r d r.head fun l => f (s.getV r a.toNat l)) := by
  rw [vecI, vec1, r.active_zero]

/-- Each integer or logic instruction writes the lanes' values of the spec's table. -/
theorem exec_of_integer {d : VReg} {m : LaneMask} {f : Nat → Word} (row : Spec.integer s r g.hints i = some (d, m, f))
    (runs : Runs s g r i) : exec i s = .next (s.finish (s.mapLanes r d m f) g r) := by
  have lanes {f' : Nat → Word} (h : ∀ l, f' l = f l) : Res.next (s.mapLanes r d m f') = .next (s.mapLanes r d m f) := by
    rw [funext h]
  cases i
  all_goals cases row
  all_goals refine runs.exec_eq (fun _ => rfl) rfl ?_
  any_goals rw [vecI_eq]
  all_goals refine lanes fun l => ?_
  case add => exact Spec.int_add _ _
  case sub => exact Spec.int_sub _ _
  case addi => exact (congrArg _ (Spec.imm10_word _ _)).trans (Spec.int_addi _ _)
  case mul => exact Spec.int_mul _ _
  case mulhi => exact Spec.mulHigh_signed _ _
  case mulhiu => exact Spec.mulHigh_unsigned _ _
  case mad => exact Spec.int_mad _ _ _
  case div_ => exact Spec.sdiv32_eq _ _
  case divu => exact Spec.divu_eq _ _
  case rem => exact Spec.srem32_eq _ _
  case remu => exact Spec.remu_eq _ _
  case min_ => exact Spec.min_eq _ _
  case max_ => exact Spec.max_eq _ _
  case minu => exact Spec.minu_eq _ _
  case maxu => exact Spec.maxu_eq _ _
  case and_ | or_ | xor_ | andn => rfl
  case andi | ori | xori => exact congrArg _ (Spec.imm10_word _ _)
  case shl | shli => exact Spec.shl_eq _ _
  case shr | shri => exact Spec.shr_eq _ _
  case sar | sari => exact Spec.sar_eq _ _
  case bfx => exact Spec.bfx_eq _ _ _
  case bfxs => exact Spec.bfxs_eq _ _ _
  case bfi => exact Spec.bfi_eq _ _ _ _
  case popc => exact congrArg (BitVec.ofNat 32) (Spec.popc_eq _)
  case clz => exact congrArg (BitVec.ofNat 32) (Spec.clz_eq _)
  case brev => exact Spec.brev_eq _

theorem claims_integerLanes : Claims.IntegerLanes := by
  intro s g r i d m f row runs seated
  exact ⟨_, s.mapLanes_writes r d m f seated, exec_of_integer row runs⟩

end Sys2Proof.Machine

/-!
ADD64 and LEA: a pair of registers takes the halves of a sum (05 R124).
-/

namespace Sys2Proof.Machine

/-- The words of a doubleword given as an integer. -/
theorem extract_ofInt_low (z : Int) : (BitVec.ofInt 64 z).extractLsb' 0 32 = Spec.int z := by
  rw [← BitVec.setWidth_eq_extractLsb' (by decide), Spec.setWidth_ofInt (by decide)]
  rfl

theorem extract_ofInt_high (z : Int) : (BitVec.ofInt 64 z).extractLsb' 32 32 = Spec.int (z / (2 ^ 32 : Nat)) := by
  apply BitVec.eq_of_toNat_eq
  rw [BitVec.extractLsb'_toNat, Spec.int, BitVec.toNat_ofInt, BitVec.toNat_ofInt, Nat.shiftRight_eq_div_pow]
  norm_num
  omega

/-- A register or the one after it takes a half of a doubleword. -/
def halfOf (n : Nat) (v : Nat → DWord) (x l : Nat) : Word := if x = n then (v l).extractLsb' 0 32 else (v l).extractLsb' 32 32

/-- Writing pairs of registers in a list of lanes. -/
theorem State.putPairs_writes {s u : State} {r : Crew} {n : Nat} {v : Nat → DWord} {w : Nat → Nat → Prop}
    (h : WritesV s u r w (halfOf n v)) (seated : s.seated r) (fits : n + 1 < 128) (ls : List Nat) (low : ∀ l ∈ ls, l < 32) :
    WritesV s (ls.foldl (fun u l => u.putV2 r n l (v l)) u) r (fun x l => w x l ∨ (x = n ∨ x = n + 1) ∧ l ∈ ls) (halfOf n v) := by
  induction ls generalizing u w with
  | nil => exact h.congr (by simp) fun _ _ _ _ _ => rfl
  | cons a ls ih =>
    have one := (h.put seated n a (by omega) (low a (by simp)) ((v a).extractLsb' 0 32)).put seated (n + 1) a fits (low a (by simp))
      ((v a).extractLsb' 32 32)
    have both : WritesV s (u.putV2 r n a (v a)) r (fun x l => w x l ∨ (x = n ∨ x = n + 1) ∧ l = a) (halfOf n v) := by
      refine one.congr (fun x l _ _ => by tauto) fun x l _ _ _ => ?_
      unfold halfOf
      split_ifs <;> simp_all
    exact (ih both fun l hl => low l (by simp [hl])).congr (fun x l _ _ => by simp only [List.mem_cons]; tauto) fun _ _ _ _ _ => rfl

/-- The pair of a lane's word and an integer's. -/
theorem State.getV2_eq_ofInt (s : State) (r : Crew) (n l : Nat) : s.getV2 r n l =
    BitVec.ofInt 64 ((s.getV r n l).toNat + 2 ^ 32 * (s.getV r (n + 1) l).toNat : Nat) := by
  rw [← s.getV2_toNat, BitVec.ofInt_natCast, BitVec.ofNat_toNat, BitVec.setWidth_eq]

/-- A pair of registers takes a doubleword in the lanes of a mask. -/
theorem State.pairs_write (s : State) {r : Crew} (d : VReg) (m : LaneMask) {v : Nat → DWord} {x : Nat → Int} (seated : s.seated r)
    (fits : d.toNat + 1 < 128) (value : ∀ l, v l = BitVec.ofInt 64 (x l)) :
    WritesV s ((lanesOf m).foldl (fun u l => u.putV2 r d.toNat l (v l)) s) r
      (fun n l => (n = d.toNat ∨ n = d.toNat + 1) ∧ m.getLsbD l = true)
      (fun n l => if n = d.toNat then Spec.int (x l) else Spec.int (x l / (2 ^ 32 : Nat))) := by
  have written := State.putPairs_writes (WritesV.none s r (halfOf d.toNat v)) seated fits (lanesOf m)
    fun l hl => (mem_lanesOf.mp hl).1
  refine written.congr (fun n l _ hl => by simp [mem_lanesOf, hl]) fun n l _ _ _ => ?_
  rw [halfOf, value, extract_ofInt_low, extract_ofInt_high]

/-- The checks at issue that a group passes (02 R53). -/
structure Sound (s : State) (c : Nat) (r : Crew) (hs : List Hint) (i : Instr) : Prop where
  barrier : badBarrier (s.packetOf r).barriers i = false
  kinds : distinctKinds hs = true
  hints : ∀ h ∈ hs, hintOk hs i h = true
  regs : ∀ u ∈ vecUses hs i, regOk (s.packetOf r).window u = true
  privilege : privileged i = true → r.priv = true
  mode : modeFault s c r i = false
  converged : crewLevel i = true → r.converged = true

theorem sound_of_issueFault {s : State} {c : Nat} {r : Crew} {hs : List Hint} {i : Instr} (none : issueFault s c r hs i = none) :
    Sound s c r hs i := by
  unfold issueFault at none
  split_ifs at none with barrier hints regs privilege mode converged
  simp only [Bool.or_eq_true, Bool.not_eq_true', not_or, Bool.not_eq_false, List.all_eq_true, Bool.and_eq_true, not_and, Bool.not_eq_true]
    at barrier hints regs privilege mode converged
  exact ⟨barrier, hints.1, hints.2, regs, privilege, mode, converged⟩

/-- A field's register and size stay with SRC3. -/
theorem exists_vecUse {hs : List Hint} {i : Instr} {u : VecUse} (field : u ∈ vecFields i) :
    ∃ u' ∈ vecUses hs i, u'.reg = u.reg ∧ u'.size = u.size := by
  unfold vecUses
  split
  · exact ⟨u, field, rfl, rfl⟩
  · refine ⟨_, List.mem_cons_of_mem _ (List.mem_map_of_mem field), ?_⟩
    split <;> exact ⟨rfl, rfl⟩

/-- A pair of registers that a group names lies among the registers (02 Table 2.3). -/
theorem pair_fits {s : State} {g : Issue} {r : Crew} {i : Instr} (issues : Issues s g r i) {u : VecUse}
    (field : u ∈ vecFields i) (pair : u.size = 2) : u.reg.toNat + 1 < 128 := by
  obtain ⟨u', mem, reg, size⟩ := exists_vecUse (hs := g.hints) field
  have ok := (sound_of_issueFault issues.passes).regs u' mem
  simp only [regOk, reg, size, pair, Bool.and_eq_true, beq_iff_eq] at ok
  have := u.reg.isLt
  omega

theorem claims_pairSums : Claims.PairSums := by
  intro s g r d a b seated half pair inD
  refine ⟨fun k runs => ⟨_, s.pairs_write d (r.active k) seated ?_ fun l => ?_, runs.exec_eq (fun _ => rfl) rfl rfl⟩,
    fun sh runs => ⟨_, s.pairs_write d r.head seated ?_ fun l => ?_, runs.exec_eq (fun _ => rfl) rfl rfl⟩⟩
  · exact pair_fits runs.issues (u := vw d 2) (.head _) rfl
  · rw [s.getV2_eq_ofInt, BitVec.ofInt_add]
    rfl
  · exact pair_fits runs.issues (u := vw d 2) (.head _) rfl
  · rw [s.getV2_eq_ofInt, BitVec.ofInt_add, Spec.shl_eq, BitVec.ofInt_natCast (n := (s.getV r b.toNat l).toNat * 2 ^ sh.toNat),
      BitVec.toNat_setWidth_of_le (by decide)]

/-- Settles O20: each instruction is one write of its lanes, and the machine's operation on words is the exact one modulo 2^32. -/
theorem integerLanes : Obligations.IntegerLanes := ⟨claims_integerLanes, claims_pairSums⟩

end Sys2Proof.Machine

/-!
The order of FP32 words: what FMIN, FMAX and FCMP compare is the order of the values (06 R141, R142, Table 6.4).
-/

namespace Sys2Proof.Machine

/-- A word's magnitude encoding with its sign: the place of its value, the zeros together. -/
def rank32 (w : Word) : Int := Claims.units (.fin (w.getLsbD 31) (w.toNat % 2 ^ 31))

theorem isNan32_iff {w : Word} : isNan32 w = true ↔ val32 w = .nan := by
  have nan : isNanMag .fp32 (w.toNat % 2 ^ (FFmt.fp32.width - 1)) = isNan32 w := rfl
  rw [val32, valueOf_eq, nan]
  split
  · simp [*]
  · split <;> simp [*]

theorem isNan32_eq_false {w : Word} (number : val32 w ≠ .nan) : isNan32 w = false :=
  Bool.eq_false_iff.mpr (mt isNan32_iff.mp number)

theorem rank32_of_inf {w : Word} {s : Bool} (value : val32 w = .inf s) : rank32 w = if s then -0x7F800000 else 0x7F800000 := by
  rw [val32_inf value]
  cases s <;> rfl

theorem rank32_of_fin {w : Word} {s : Bool} {m : Nat} (value : val32 w = .fin s m) : -0x7F7FFFFF ≤ rank32 w ∧ rank32 w ≤ 0x7F7FFFFF := by
  have finite : w.toNat % 2 ^ 31 ≤ 0x7F7FFFFF := (finite_of_valueOf value).1
  simp only [rank32, Claims.units]
  split <;> omega

/-- A number is no further out than the infinities. -/
theorem rank32_of_number {w : Word} (number : val32 w ≠ .nan) : -0x7F800000 ≤ rank32 w ∧ rank32 w ≤ 0x7F800000 := by
  cases value : val32 w with
  | nan => exact absurd value number
  | inf s => rw [rank32_of_inf value]; cases s <;> decide
  | fin s m => obtain ⟨low, high⟩ := rank32_of_fin value; omega

theorem units_magUnits_lt_iff (f : FFmt) {s t : Bool} {x y : Nat} :
    Claims.units (.fin s (magUnits f x)) < Claims.units (.fin t (magUnits f y)) ↔ Claims.units (.fin s x) < Claims.units (.fin t y) := by
  have zero : magUnits f 0 = 0 := by simp [magUnits]
  have up := (magUnits_strictMono f).lt_iff_lt (a := x) (b := y)
  have down := (magUnits_strictMono f).lt_iff_lt (a := y) (b := x)
  have left := (magUnits_strictMono f).lt_iff_lt (a := 0) (b := x)
  have right := (magUnits_strictMono f).lt_iff_lt (a := 0) (b := y)
  cases s <;> cases t <;> simp only [Claims.units] <;> simp <;> omega

/-- Finite words stand in the order of their values. -/
theorem units_lt_iff_rank32_lt {a b : Word} {s t : Bool} {m n : Nat} (left : val32 a = .fin s m) (right : val32 b = .fin t n) :
    Claims.units (val32 a) < Claims.units (val32 b) ↔ rank32 a < rank32 b := by
  obtain ⟨-, rfl, rfl⟩ := finite_of_valueOf left
  obtain ⟨-, rfl, rfl⟩ := finite_of_valueOf right
  rw [left, right]
  exact units_magUnits_lt_iff .fp32

/-! ## FCMP (06 R142) -/

/-- The conditions of 06 Table 6.4 on two places in an order. -/
def fpHolds (cc : FpCond) (x y : Int) : Bool :=
  match cc with
  | .eq => decide (x = y)
  | .ne => decide (x ≠ y)
  | .lt => decide (x < y)
  | .le => decide (x ≤ y)
  | .gt => decide (y < x)
  | .ge => decide (y ≤ x)
  | .un => false
  | .ord => true

/-- A condition depends on the order alone. -/
theorem fpHolds_congr {x y x' y' : Int} (below : x < y ↔ x' < y') (above : y < x ↔ y' < x') (cc : FpCond) :
    fpHolds cc x y = fpHolds cc x' y' := by
  cases cc <;> simp only [fpHolds, decide_eq_decide] <;> omega

theorem fcmpBit_of_numbers {a b : Word} (left : val32 a ≠ .nan) (right : val32 b ≠ .nan) (cc : FpCond) :
    fcmpBit cc a b = (fpHolds cc (rank32 a) (rank32 b), 0) := by
  have key (w : Word) : (if w.toNat % 2 ^ 31 = 0 then 0 else if w.getLsbD 31 then -((w.toNat % 2 ^ 31 : Nat) : Int) else w.toNat) =
      rank32 w := by
    have parts : w.toNat = w.toNat % 2 ^ 31 + signBit .fp32 (w.getLsbD 31) := split_encoding (f := .fp32) w.isLt
    unfold rank32 Claims.units
    cases neg : w.getLsbD 31
    · rw [neg] at parts
      simp [signBit] at parts ⊢
      omega
    · simp
      omega
  unfold fcmpBit
  simp only [isNan32_eq_false left, isNan32_eq_false right, key]
  cases cc <;> simp [fpHolds]

theorem fcmpBit_of_nan {a b : Word} (nan : val32 a = .nan ∨ val32 b = .nan) (cc : FpCond) :
    fcmpBit cc a b = (decide (cc = .ne ∨ cc = .un), if cc = .lt ∨ cc = .le ∨ cc = .gt ∨ cc = .ge then fNV else 0) := by
  have un : (isNan32 a || isNan32 b) = true := by
    rw [Bool.or_eq_true]
    exact nan.imp isNan32_iff.mpr isNan32_iff.mpr
  unfold fcmpBit
  simp only [un]
  cases cc <;> rfl

theorem claims_floatOrder : Claims.FloatOrder := by
  unfold Claims.FloatOrder
  intro cc a b holds u
  have table : holds = fpHolds cc := by cases cc <;> rfl
  rw [table]
  have infinite {w : Word} {s : Bool} (value : val32 w = .inf s) : val32 w ≠ .nan := by rw [value]; exact XVal.noConfusion
  have finite {w : Word} {s : Bool} {m : Nat} (value : val32 w = .fin s m) : val32 w ≠ .nan := by rw [value]; exact XVal.noConfusion
  refine ⟨fun s m t n left right => ?_, fun s t m left right => ?_, fun s t left right => ?_, fun nan => fcmpBit_of_nan nan cc⟩
  · rw [fcmpBit_of_numbers (finite left) (finite right),
      fpHolds_congr (units_lt_iff_rank32_lt left right) (units_lt_iff_rank32_lt right left)]
  · obtain ⟨low, high⟩ := rank32_of_fin right
    rw [fcmpBit_of_numbers (infinite left) (finite right), fcmpBit_of_numbers (finite right) (infinite left), rank32_of_inf left]
    constructor <;> rw [fpHolds_congr] <;> cases s <;> simp <;> omega
  · rw [fcmpBit_of_numbers (infinite left) (infinite right), rank32_of_inf left, rank32_of_inf right]
    rw [fpHolds_congr] <;> cases s <;> cases t <;> simp

/-! ## FMIN and FMAX (06 R141) -/

theorem orderKey_eq (w : Word) : orderKey w = rank32 w - if w.getLsbD 31 then 1 else 0 := by
  simp only [orderKey, rank32, Claims.units]
  split <;> simp

/-- A word is told by its place. -/
theorem orderKey_inj {a b : Word} (same : orderKey a = orderKey b) : a = b := by
  have left : a.toNat = a.toNat % 2 ^ 31 + signBit .fp32 (a.getLsbD 31) := split_encoding (f := .fp32) a.isLt
  have right : b.toNat = b.toNat % 2 ^ 31 + signBit .fp32 (b.getLsbD 31) := split_encoding (f := .fp32) b.isLt
  apply BitVec.eq_of_toNat_eq
  rw [left, right]
  simp only [orderKey] at same
  cases sa : a.getLsbD 31 <;> cases sb : b.getLsbD 31 <;> simp only [sa, sb, Bool.false_eq_true, if_true, if_false] at same <;> omega

theorem minMax32_of_nan {a b : Word} (nan : val32 a = .nan ∨ val32 b = .nan) (least : Bool) : minMax32 least a b = 0x7FC00000 :=
  if_pos (by rw [Bool.or_eq_true]; exact nan.imp isNan32_iff.mpr isNan32_iff.mpr)

theorem minMax32_of_numbers {a b : Word} (left : val32 a ≠ .nan) (right : val32 b ≠ .nan) (least : Bool) :
    minMax32 least a b = if (if least then orderKey a ≤ orderKey b else orderKey b ≤ orderKey a) then a else b := by
  unfold minMax32
  rw [isNan32_eq_false left, isNan32_eq_false right]
  cases least <;> simp

/-- Two words are compared in either order. -/
theorem minMax32_comm (least : Bool) (a b : Word) : minMax32 least a b = minMax32 least b a := by
  by_cases nan : val32 a = .nan ∨ val32 b = .nan
  · rw [minMax32_of_nan nan, minMax32_of_nan nan.symm]
  · obtain ⟨left, right⟩ := not_or.mp nan
    rw [minMax32_of_numbers left right, minMax32_of_numbers right left]
    rcases lt_trichotomy (orderKey a) (orderKey b) with below | same | above
    · cases least <;> simp [below.le, below]
    · rw [orderKey_inj same]
    · cases least <;> simp [above.le, above]

/-- An infinity is the least of all or the greatest. -/
theorem minMax32_of_inf {a b : Word} {s : Bool} (left : val32 a = .inf s) (right : val32 b ≠ .nan) (least : Bool) :
    minMax32 least a b = if s = least then a else b := by
  have number : val32 a ≠ .nan := by rw [left]; exact XVal.noConfusion
  have end_ : orderKey a = if s then -0x7F800001 else 0x7F800000 := by rw [val32_inf left]; cases s <;> rfl
  have within : -0x7F800001 ≤ orderKey b ∧ orderKey b ≤ 0x7F800000 := by
    have := rank32_of_number right
    rw [orderKey_eq]
    split <;> omega
  have first (h : if least then orderKey a ≤ orderKey b else orderKey b ≤ orderKey a) : minMax32 least a b = a := by
    rw [minMax32_of_numbers number right, if_pos h]
  have second (h : if least then orderKey b ≤ orderKey a else orderKey a ≤ orderKey b) : minMax32 least a b = b := by
    rw [minMax32_of_numbers number right, ite_eq_right_iff]
    intro tie
    exact orderKey_inj (by cases least <;> simp at h tie <;> omega)
  by_cases same : s = least
  · subst same
    rw [if_pos rfl]
    refine first ?_
    cases s <;> simp at end_ ⊢ <;> omega
  · rw [if_neg same]
    refine second ?_
    cases s <;> cases least <;> simp at same end_ ⊢ <;> omega

theorem units_le_of_orderKey_le {a b : Word} {s t : Bool} {m n : Nat} (left : val32 a = .fin s m) (right : val32 b = .fin t n)
    (le : orderKey a ≤ orderKey b) : Claims.units (val32 a) ≤ Claims.units (val32 b) := by
  refine not_lt.mp (mt (units_lt_iff_rank32_lt right left).mp fun below => ?_)
  simp only [orderKey, rank32, Claims.units] at le below
  cases sa : a.getLsbD 31 <;> cases sb : b.getLsbD 31 <;> simp only [sa, sb, Bool.false_eq_true, if_true, if_false] at le below <;> omega

/-- The zeros: -0 below +0. -/
theorem orderKey_of_zero {w : Word} {s : Bool} {m : Nat} (value : val32 w = .fin s m) (zero : Claims.units (val32 w) = 0) :
    orderKey w = if w.getLsbD 31 then -1 else 0 := by
  have low := units_lt_iff_rank32_lt value (b := 0) (t := false) (n := 0) rfl
  have high := units_lt_iff_rank32_lt (a := 0) (s := false) (m := 0) rfl value
  rw [zero] at low high
  change 0 < (0 : Int) ↔ rank32 w < 0 at low
  change (0 : Int) < 0 ↔ 0 < rank32 w at high
  have rank : rank32 w = 0 := by omega
  rw [orderKey_eq, rank]
  split <;> rfl

theorem minMax32_of_fin {a b : Word} {s t : Bool} {m n : Nat} (left : val32 a = .fin s m) (right : val32 b = .fin t n) (least : Bool) :
    (minMax32 least a b = a ∨ minMax32 least a b = b) ∧
    Claims.units (val32 (minMax32 least a b)) =
      (if least then min (Claims.units (val32 a)) (Claims.units (val32 b)) else max (Claims.units (val32 a)) (Claims.units (val32 b))) ∧
    (Claims.units (val32 a) = 0 → Claims.units (val32 b) = 0 → (minMax32 least a b).getLsbD 31 =
      if least then a.getLsbD 31 || b.getLsbD 31 else a.getLsbD 31 && b.getLsbD 31) := by
  have up := units_le_of_orderKey_le left right
  have down := units_le_of_orderKey_le right left
  have signs (za : Claims.units (val32 a) = 0) (zb : Claims.units (val32 b) = 0) :
      ((orderKey a ≤ orderKey b → a.getLsbD 31 = (a.getLsbD 31 || b.getLsbD 31)) ∧
        (¬ orderKey a ≤ orderKey b → b.getLsbD 31 = (a.getLsbD 31 || b.getLsbD 31))) ∧
      (orderKey b ≤ orderKey a → a.getLsbD 31 = (a.getLsbD 31 && b.getLsbD 31)) ∧
        (¬ orderKey b ≤ orderKey a → b.getLsbD 31 = (a.getLsbD 31 && b.getLsbD 31)) := by
    rw [orderKey_of_zero left za, orderKey_of_zero right zb]
    generalize a.getLsbD 31 = x
    generalize b.getLsbD 31 = y
    revert x y
    decide
  rw [minMax32_of_numbers (by rw [left]; exact XVal.noConfusion) (by rw [right]; exact XVal.noConfusion)]
  cases least <;> simp only [Bool.false_eq_true, if_true, if_false] <;> split
  next le => exact ⟨.inl rfl, (max_eq_left (down le)).symm, fun za zb => (signs za zb).2.1 le⟩
  next lt => exact ⟨.inr rfl, (max_eq_right (up (le_of_not_ge lt))).symm, fun za zb => (signs za zb).2.2 lt⟩
  next le => exact ⟨.inl rfl, (min_eq_left (up le)).symm, fun za zb => (signs za zb).1.1 le⟩
  next lt => exact ⟨.inr rfl, (min_eq_right (down (le_of_not_ge lt))).symm, fun za zb => (signs za zb).1.2 lt⟩

end Sys2Proof.Machine

/-!
COVER and TEXW as numbers (10 R258, R261, R263).
-/

namespace Sys2Proof.Machine

/-- The number whose bits below n are those of a test. -/
theorem foldl_bits (p : Nat → Prop) [DecidablePred p] (n : Nat) :
    (List.range n).foldl (fun m i => if p i then m + 2 ^ i else m) 0 < 2 ^ n ∧
    ∀ i, i < n → (((List.range n).foldl (fun m i => if p i then m + 2 ^ i else m) 0).testBit i = true ↔ p i) := by
  induction n with
  | zero => simp
  | succ n ih =>
    obtain ⟨small, bits⟩ := ih
    rw [List.range_succ, List.foldl_append]
    generalize (List.range n).foldl (fun m i => if p i then m + 2 ^ i else m) 0 = m at *
    have top : m.testBit n = false := Nat.testBit_lt_two_pow small
    have double : 2 ^ (n + 1) = 2 * 2 ^ n := Nat.pow_succ'
    simp only [List.foldl_cons, List.foldl_nil]
    by_cases here : p n
    · rw [if_pos here, Nat.add_comm]
      refine ⟨by omega, fun i hi => ?_⟩
      rcases Nat.lt_succ_iff_lt_or_eq.mp hi with below | rfl
      · rw [Nat.testBit_two_pow_add_gt below, bits i below]
      · simp [Nat.testBit_two_pow_add_eq, top, here]
    · rw [if_neg here]
      refine ⟨by omega, fun i hi => ?_⟩
      rcases Nat.lt_succ_iff_lt_or_eq.mp hi with below | rfl
      · exact bits i below
      · simp [top, here]

/-- COVER keeps a bit where the edge's value is above zero, or at zero by the tie rule. -/
theorem getLsbD_coverWord (d a b : Word) {i : Nat} (hi : i < 32) :
    let x := (a.setWidth 16).toInt
    let y := ((a >>> 16).setWidth 16).toInt
    let e := b.toInt + x * (i % 4 : Nat) + y * (i / 4 : Nat)
    (coverWord d a b).getLsbD i = true ↔ i < 16 ∧ d.getLsbD i = true ∧ (0 < e ∨ (e = 0 ∧ (0 < x ∨ (x = 0 ∧ 0 < y)))) := by
  intro x y e
  have low : a.extractLsb' 0 16 = a.setWidth 16 := (BitVec.setWidth_eq_extractLsb' (by decide)).symm
  have high : a.extractLsb' 16 16 = (a >>> 16).setWidth 16 := by
    ext j hj
    simp

  have inside : (0xFFFF : Word).getLsbD i = decide (i < 16) := by
    revert i
    decide
  have mask := (foldl_bits (fun i => let v := b.toInt + x * (i % 4 : Nat) + y * (i / 4 : Nat)
    v > 0 ∨ (v = 0 ∧ (x > 0 ∨ (x = 0 ∧ y > 0)))) 16).2 i
  rw [coverWord, low, high, BitVec.getLsbD_and, BitVec.getLsbD_and, inside, BitVec.getLsbD_ofNat, decide_eq_true hi, Bool.true_and]
  by_cases below : i < 16
  · have bit : (coverMask x y b.toInt).testBit i = true ↔ _ := mask below
    rw [Bool.and_eq_true, Bool.and_eq_true, decide_eq_true_eq]
    exact ⟨fun ⟨⟨set, old⟩, _⟩ => ⟨below, old, bit.mp set⟩, fun ⟨_, old, holds⟩ => ⟨⟨bit.mpr holds, old⟩, below⟩⟩
  · simp [below]

/-- TEXW gives the fractions of the footprint in units of 2^-8. -/
theorem texWeights_toNat (a b : Word) :
    let part := fun (u log : Nat) => (((u * 2 ^ log : Nat) : Int) - 2 ^ 15) % 2 ^ 16
    ((texWeights a b).toNat : Int) = (part (a.toNat % 2 ^ 16) (b.toNat % 16) + 128) / 256
      + 2 ^ 16 * ((part (a.toNat / 2 ^ 16) (b.toNat / 16 % 16) + 128) / 256) := by
  intro part
  have fraction (u log : Nat) : ((footprint u log).2 : Int) = part u log ∧ (footprint u log).2 < 2 ^ 16 := by
    have : (footprint u log).2 = (part u log).toNat := rfl
    rw [this]
    simp only [part]
    omega
  obtain ⟨fx, lx⟩ := fraction (a.toNat % 65536) (b.toNat % 16)
  obtain ⟨fy, ly⟩ := fraction (a.toNat / 65536) (b.toNat / 16 % 16)
  simp only [texWeights, BitVec.toNat_ofNat]
  norm_num at fx fy ⊢
  rw [← fx, ← fy]
  omega

theorem claims_laneArithmetic : Claims.LaneArithmetic := by
  refine ⟨fun least a b => ⟨fun nan => minMax32_of_nan nan least, fun s m t n left right => minMax32_of_fin left right least,
    fun s left right => minMax32_of_inf left right least, fun s right left => ?_⟩,
    fun d a b i hi => getLsbD_coverWord d a b hi, texWeights_toNat⟩
  rw [minMax32_comm]
  exact minMax32_of_inf right left least
end Sys2Proof.Machine

/-!
Moves between lanes, the values that raise no flag, and the instructions that write a mask register (05 R118-R126; 06 R141-R159).
-/

namespace Sys2Proof.Machine

variable {s : State} {g : Issue} {r : Crew} {i : Instr}

/-! ## Moves (05 R119-R123; 06 R141, R143, R145, R154, R158, R159) -/

/-- FABS clears the sign. -/
theorem and_eq_field (x : Word) : x &&& 0x7FFFFFFF = Spec.nat (Spec.field x.toNat 0 31) := by
  apply BitVec.eq_of_toNat_eq
  have fits : x.toNat % 2 ^ 31 < 2 ^ 31 := Nat.mod_lt _ (by decide)
  rw [field_zero, Spec.nat, BitVec.toNat_ofNat, Nat.mod_eq_of_lt (by omega), BitVec.toNat_and]
  exact Nat.and_two_pow_sub_one_eq_mod x.toNat 31

/-- FNEG turns the sign. -/
theorem xor_sign_eq_add (x : Word) : x ^^^ 0x80000000 = x + 0x80000000 := by
  have sign : (0x80000000 : Word) = BitVec.twoPow 32 31 := rfl
  have value : (x + BitVec.twoPow 32 31).toNat = (2 ^ 31 + x.toNat) % 2 ^ 32 := by
    rw [BitVec.toNat_add, BitVec.toNat_twoPow_of_lt (by decide), Nat.add_comm]
  rw [sign]
  apply BitVec.eq_of_getLsbD_eq
  intro i hi
  rw [BitVec.getLsbD_xor, BitVec.getLsbD_twoPow, BitVec.getLsbD, BitVec.getLsbD, value, Nat.testBit_mod_two_pow]
  rcases Nat.lt_or_eq_of_le (Nat.le_of_lt_succ hi) with below | rfl
  · simp [hi, below.ne', Nat.testBit_two_pow_add_gt below]
  · rw [Nat.testBit_two_pow_add_eq]
    simp

/-- Selections, moves, and the other lane values that raise no flag, as the spec's table gives them. -/
theorem exec_of_moves {d : VReg} {m : LaneMask} {f : Nat → Word} (row : Spec.moves s g.crew r g.hints i = some (d, m, f))
    (runs : Runs s g r i) : exec i s = .next (s.finish (s.mapLanes r d m f) g r) := by
  have lanes {f' : Nat → Word} (h : ∀ l, f' l = f l) : Res.next (s.mapLanes r d m f') = .next (s.mapLanes r d m f) := by
    rw [funext h]
  cases i
  case rdsv dest id =>
    cases dest
    all_goals cases row
    exact runs.exec_eq (fun _ => rfl) rfl (lanes fun l => (BitVec.ofNat_toNat 32 _).symm)
  all_goals cases row
  all_goals refine runs.exec_eq (fun _ => rfl) rfl (lanes fun l => ?_)
  case sel | ktov | mov | bcast | shfl | route | fmin | fmax | fclass | unpack | cover | texw => rfl
  case movi => exact Spec.imm17_word _ _
  case fabs => exact congrArg (ite _ _) (and_eq_field _)
  case fneg => exact congrArg (ite _ _) (xor_sign_eq_add _)

theorem claims_movedLanes : Claims.MovedLanes := by
  intro s g r i d m f row runs seated
  exact ⟨_, s.mapLanes_writes r d m f seated, exec_of_moves row runs⟩

/-- Settles O18: each instruction is one write of its lanes; FMIN and FMAX compare the places of the words in the order of values. -/
theorem movedLanes : Obligations.MovedLanes := ⟨claims_movedLanes, claims_laneArithmetic⟩

/-! ## Masks (05 R118, R120, R121, R126; 06 R142) -/

/-- Each comparison or mask instruction sets the bits of the spec's table. -/
theorem exec_of_masks {t : KReg} {f : Nat → Bool} (row : Spec.masks s r g.hints i = some (t, f)) (runs : Runs s g r i) :
    ∃ r', SetsK r r' t f ∧ exec i s = .next (s.finish (s.putCrew g.crew r') g r) := by
  have sets {r' : Crew} {f' : Nat → Bool} {body : BodyFn} (h : SetsK r r' t f') (bits : ∀ l, l < 32 → f' l = f l)
      (group : ∀ u, exec i u = runGroup i u noWait body) (notRett : (i == Instr.rett) = false)
      (effect : body s g r = .next (s.putCrew g.crew r')) :
      ∃ r', SetsK r r' t f ∧ exec i s = .next (s.finish (s.putCrew g.crew r') g r) :=
    ⟨r', h.congr bits, runs.exec_eq group notRett effect⟩
  cases i
  all_goals cases row
  case icmp =>
    exact sets (r.setsLanes _ _ _) (fun l _ => by rw [Spec.intCond_eq]) (fun _ => rfl) rfl rfl
  case icmpi =>
    exact sets (r.setsLanes _ _ _) (fun l _ => by rw [Spec.intCond_eq, Spec.imm10_word]) (fun _ => rfl) rfl rfl
  case vtok =>
    exact sets (r.setsLanes _ _ _) (fun l _ => by simp [bne, beq_eq_decide]) (fun _ => rfl) rfl rfl
  case kand => exact sets (r.setsK _ _) (fun l _ => BitVec.getLsbD_and) (fun _ => rfl) rfl rfl
  case kor => exact sets (r.setsK _ _) (fun l _ => BitVec.getLsbD_or) (fun _ => rfl) rfl rfl
  case kxor => exact sets (r.setsK _ _) (fun l _ => by simp) (fun _ => rfl) rfl rfl
  case kandn => exact sets (r.setsK _ _) (fun l hl => by simp [hl]) (fun _ => rfl) rfl rfl
  case scmp =>
    refine sets (r.setsK _ _) (fun l hl => ?_) (fun _ => rfl) rfl rfl
    dsimp only
    rw [← Spec.intCond_eq]
    split
    next holds => rw [holds]; exact (BitVec.getLsbD_allOnes (v := 32)).trans (decide_eq_true hl)
    next fails => rw [Bool.eq_false_iff.mpr fails]; exact BitVec.getLsbD_zero

theorem claims_maskResults : Claims.MaskResults := fun _ _ _ _ _ _ row runs => exec_of_masks row runs

theorem claims_floatCompare : Claims.FloatCompare := by
  intro s g r cc t a b k runs one
  refine ⟨r.setLanes t (r.active k) fun l => (one l).1, r.flags ||| (lanesOf (r.active k)).foldl (fun x l => x ||| (one l).2) 0,
    r.setsLanes t (r.active k) _, fun i _ => ?_, ?_⟩
  · simp only [BitVec.getLsbD_or, Bool.or_eq_true, getLsbD_foldl_or, mem_lanesOf, and_assoc]
    simp
  · have flags : (r.setLanes t (r.active k) fun l => (one l).1).flags = r.flags :=
      (congrArg Crew.flags (r.setsLanes t (r.active k) fun l => (one l).1).rest :)
    rw [← flags]
    exact runs.exec_eq (fun _ => rfl) rfl rfl

/-- Settles O21: each instruction sets the bits of one mask register; FCMP compares the places of the words in the order of values. -/
theorem maskResults : Obligations.MaskResults := ⟨claims_maskResults, claims_floatCompare, claims_floatOrder⟩

end Sys2Proof.Machine

/-!
The instructions that write a scalar register, and the branches (05 R123-R131).
-/

namespace Sys2Proof.Machine

variable {s : State} {g : Issue} {r : Crew} {i : Instr}

/-! ## Scalars (05 R108, R123, R125) -/

/-- A group that runs, its own wait among those that do not hold it, closes with its effect. -/
theorem Runs.exec_of_wait {u : State} {wait : WaitFn} {body : BodyFn} (runs : Runs s g r i)
    (group : ∀ t, exec i t = runGroup i t wait body) (own : ownWait i = wait) (notRett : (i == Instr.rett) = false)
    (effect : body s g r = .next u) : exec i s = .next (s.finish u g r) :=
  (group s).trans (runs.issues.finish notRett (own ▸ runs.own) effect)

/-- Each scalar instruction writes the value of the spec's table. -/
theorem exec_of_scalars {d : SReg} {v : DWord} (row : Spec.scalars s g.crew r g.hints i = some (d, v)) (runs : Runs s g r i) :
    exec i s = .next (s.finish (s.putCrew g.crew (r.setS d v)) g r) := by
  have value {v' : DWord} (h : v' = v) : Res.next (s.putCrew g.crew (r.setS d v')) = .next (s.putCrew g.crew (r.setS d v)) := by rw [h]
  cases i
  case rdsv dest id =>
    cases dest
    all_goals cases row
    exact runs.exec_eq (fun _ => rfl) rfl rfl
  case rdstate =>
    cases row
    exact runs.exec_of_wait (fun _ => rfl) rfl rfl rfl
  all_goals cases row
  all_goals refine runs.exec_eq (fun _ => rfl) rfl (value ?_)
  case sadd => rw [BitVec.ofInt_add, BitVec.ofInt_toInt, BitVec.ofInt_toInt]
  case ssub => rw [Int.sub_eq_add_neg, BitVec.ofInt_add, BitVec.ofInt_neg, BitVec.ofInt_toInt, BitVec.ofInt_toInt, ← BitVec.sub_eq_add_neg]
  case saddi => rw [BitVec.ofInt_add, BitVec.ofInt_toInt, ← Spec.imm10_eq]
  case smul => rw [BitVec.ofInt_mul, BitVec.ofInt_toInt, BitVec.ofInt_toInt]
  case sand | sor | sxor | rdtime => rfl
  case sshli => exact Spec.shl_eq _ _
  case sshri => exact Spec.shr_eq _ _
  case ssari => exact Spec.sar_eq _ _
  case smovi => exact Spec.imm17_eq _ _
  case getlane | frflags => exact (BitVec.ofNat_toNat 64 _).symm
  case ballot =>
    dsimp only
    rw [← BitVec.ofNat_toNat, Spec.maskOf_toNat]
    simp [bne, beq_eq_decide]
  case rate => cases s.boundChain g.crew r <;> rfl

/-- Settles O22: each instruction is one write of a scalar register, and the machine's operation on doublewords is the exact one modulo
2^64. -/
theorem scalarResults : Obligations.ScalarResults := fun _ _ r _ d v row runs => ⟨_, r.setsS d v, exec_of_scalars row runs⟩

/-! ## Branches (05 R127-R131) -/

/-- A group that runs and sets the lanes' PCs itself, where it waits for nothing of its own. -/
theorem Runs.exec_branch {body : BodyFn} {f : Nat → PC} (runs : Runs s g r i) (group : ∀ t, exec i t = runGroup i t noWait body)
    (notRett : (i == Instr.rett) = false) (effect : body s g r = s.branch g r f) :
    exec i s = .next (s.finishMoved (s.putCrew g.crew (r.setPcs r.head f)) g r) :=
  (group s).trans (runs.issues.finishMoved notRett rfl effect)

/-- A group that runs and whose effect finds a fault, where it waits for nothing of its own. -/
theorem Runs.exec_faults {u : State} {body : BodyFn} {w : LaneTrap} (runs : Runs s g r i)
    (group : ∀ t, exec i t = runGroup i t noWait body) (notRett : (i == Instr.rett) = false) (effect : body s g r = Res.lanes u w) :
    exec i s = .next (s.finishFault u g r w) :=
  (group s).trans (runs.issues.faults notRett rfl effect)

/-- Each branch sends the head run's lanes where the spec's table says. -/
theorem exec_of_branch {f : Nat → PC} (row : Spec.branch s g r i = some f) (runs : Runs s g r i) :
    exec i s = .next (s.finishMoved (s.putCrew g.crew (r.setPcs r.head f)) g r) := by
  have target14 (o : BitVec 14) : target g.wordAddr (off14 g.hints o) = Spec.target g.wordAddr (Spec.immInt g.hints o) := by
    rw [Spec.off14_eq, Spec.target_eq]
  have target24 (o : BitVec 24) : target g.wordAddr (off24 g.hints o) = Spec.target g.wordAddr (Spec.immInt g.hints o) := by
    rw [Spec.off24_eq, Spec.target_eq]
  have lanes {f' : Nat → PC} (h : ∀ l, f' l = f l) : s.branch g r f' = s.branch g r f := by rw [funext h]
  cases i
  case br test o =>
    cases test
    all_goals cases row
    all_goals refine runs.exec_branch (fun _ => rfl) rfl (lanes fun l => ?_)
    case vec => simp only [Spec.vtest_eq, target14]
    case mask => simp only [beq_iff_eq, target14]
  all_goals cases row
  all_goals refine runs.exec_branch (fun _ => rfl) rfl (lanes fun l => ?_)
  case brs => simp only [Spec.vtest_eq, target14]
  case j => exact target24 _

theorem claims_branches : Claims.Branches := fun _ _ r _ f row runs => ⟨_, r.movesHead f, exec_of_branch row runs⟩

theorem worstOf_eq_none_iff {fs : List (Nat × LaneFault)} : worstOf fs = none ↔ fs = [] := by
  cases fs <;> simp [worstOf]

theorem claims_registerJump : Claims.RegisterJump := by
  intro s g r a k runs t bad
  have faults : targetFaults a k s r = bad := by
    refine List.filterMap_congr fun l _ => ?_
    have aligned : (t l).extractLsb' 0 2 ≠ 0 ↔ (t l).toNat % 4 ≠ 0 := by
      rw [extract_ne_zero_iff, Nat.pow_zero, Nat.div_one]
      exact Iff.rfl
    have canon : (!canonical (t l)) = true ↔ ((t l).setWidth 57).signExtend 64 ≠ t l := by
      rw [canonical, Bool.not_eq_true', beq_eq_false_iff_ne, ne_comm]
    simp only [t] at aligned canon
    simp only [t, aligned, canon]
  refine ⟨fun none => ⟨_, r.movesHead _, runs.exec_branch (fun _ => rfl) rfl ?_⟩, fun w worst => ?_⟩
  · simp only [faults, worstOf_eq_none_iff.mpr none]
    rfl
  · exact runs.exec_faults (fun _ => rfl) rfl (by simp only [faults, worst])

/-- Settles O24: each branch is one move of the head run, and JR's faults are those of its lanes' targets. -/
theorem branches : Obligations.Branches := ⟨claims_branches, claims_registerJump⟩

end Sys2Proof.Machine

/-!
EXIT, NOP, WAITT and YIELD (05 R133, R134; 10 R276; 14 R366).
-/

namespace Sys2Proof.Machine

variable {s : State} {g : Issue} {r : Crew} {i : Instr}

/-! ## The crew that ends -/

theorem State.acquireAt_crews (s : State) (core : Nat) (wide : Bool) : (s.acquireAt core wide).crews = s.crews := by
  unfold State.acquireAt
  split <;> rfl

theorem State.settle_crews (s : State) (b : Nat) : (s.settle b).crews = s.crews := by
  unfold State.settle
  refine List.foldlRecOn (motive := fun u : State => u.crews = s.crews) _ _ rfl fun u hu n _ => ?_
  dsimp only
  split
  · refine List.foldlRecOn (motive := fun v : State => v.crews = s.crews) _ _ hu fun v hv e _ => ?_
    rw [State.onAux_crews, State.acquireAt_crews, hv]
  · exact hu

/-- A crew whose last live lane exits is EXITED. -/
theorem State.find_crews_endCrew {c : Nat} (crew : s.crews.find c = some r) :
    (s.endCrew c).crews.find c = some { r with phase := .exited, exited := 0xFFFFFFFF } := by
  simp only [State.endCrew, crew, State.settle_crews, State.onAux_crews, State.putCrew_crews, Tbl.find_put, if_true]

/-- A crew whose save routine has ended is SAVED. -/
theorem State.find_crews_saveCrew (s : State) (c : Nat) (r : Crew) :
    (s.saveCrew c r).crews.find c = some { r with phase := .saved, stalls := [] } := by
  simp only [State.saveCrew, State.onAux_crews, State.putCrew_crews, Tbl.find_put, if_true]

/-! ## EXIT -/

theorem savesOnExit_iff {a : CrewAux} : savesOnExit a = true ↔ a.trap.nesting = true ∧ a.trap.cause = 0x20 ∧ a.restored = false := by
  simp [savesOnExit, and_assoc]

/-- A group that runs and sets the lanes' PCs itself, its own wait among those that do not hold it. -/
theorem Runs.exec_moved {u : State} {wait : WaitFn} {body : BodyFn} (runs : Runs s g r i)
    (group : ∀ t, exec i t = runGroup i t wait body) (own : ownWait i = wait) (notRett : (i == Instr.rett) = false)
    (effect : body s g r = .moved u) : exec i s = .next (s.finishMoved u g r) :=
  (group s).trans (runs.issues.finishMoved notRett (own ▸ runs.own) effect)

theorem claims_exits : Claims.Exits := by
  intro s g r runs a saves
  refine ⟨fun others => ?_, fun last not => ⟨?_, _, State.find_crews_endCrew runs.issues.crew, rfl,
      show ~~~ (0xFFFFFFFF : LaneMask) = 0 by decide⟩,
    fun last saving => ⟨?_, _, s.find_crews_saveCrew g.crew r, rfl⟩⟩
  · exact runs.exec_moved (fun _ => rfl) rfl rfl (if_pos (by simp [lastExit, others]))
  all_goals have ends : ¬ (!lastExit r) = true := by simp [lastExit, last]
  · exact runs.exec_moved (fun _ => rfl) rfl rfl ((if_neg ends).trans (if_neg (mt savesOnExit_iff.mp not)))
  · exact runs.exec_moved (fun _ => rfl) rfl rfl ((if_neg ends).trans (if_pos (savesOnExit_iff.mpr saving)))

/-! ## Groups that change nothing -/

theorem claims_idleGroups : Claims.IdleGroups := by
  refine fun s g r => ⟨fun runs => runs.exec_eq (fun _ => rfl) rfl rfl, fun a runs => ⟨?_, runs.exec_of_wait (fun _ => rfl) rfl rfl rfl⟩,
    fun runs => ⟨runs.exec_eq (fun _ => rfl) rfl rfl, ?_, rfl⟩⟩
  · have own : waittWait a s g r = none := runs.own
    simpa [waittWait, BitVec.lt_def] using own
  · exact s.getLast?_recency_moveRecent g.crew r

/-- Settles O26: each EXIT is one of three ends, by what the head run leaves live and what the crew runs. -/
theorem exitsAndIdleGroups : Obligations.ExitsAndIdleGroups := ⟨claims_exits, claims_idleGroups⟩

end Sys2Proof.Machine

/-!
A group that must wait: what holds it back, and that it commits nothing (05 R109; 08 R204, R205, R208, R212; 14 R384).
-/

namespace Sys2Proof.Machine

variable {s u : State} {g : Issue} {r : Crew} {i : Instr} {n : Nat}

/-! ## The reason -/

/-- Of two reasons that may hold, the lower one that does is charged. -/
theorem lesser_eq_some {a b : Option Nat} (either : (a = some n ∧ ∀ m, b = some m → n ≤ m) ∨ (b = some n ∧ ∀ m, a = some m → n ≤ m)) :
    lesser a b = some n := by
  rcases either with ⟨rfl, least⟩ | ⟨rfl, least⟩
  · cases b with
    | none => rfl
    | some m => rw [lesser, Nat.min_eq_left (least m rfl)]
  · cases a with
    | none => rfl
    | some m => rw [lesser, Nat.min_eq_right (least m rfl)]

/-! ## What a group that waits leaves -/

/-- From s to u, the crew has taken at most the first steps of a WLD or an MMA (08 R208, R212). -/
structure Enters (s u : State) (c : Nat) (r : Crew) : Prop where
  crew : ∃ r', u.crews.find c = some r' ∧ { r' with tookPlanes := r.tookPlanes, begunWld := r.begunWld } = r
  others : ∀ x, x ≠ c → u.crews.find x = s.crews.find x
  rest : { u with crews := s.crews, partitions := s.partitions, latches := s.latches, lamps := s.lamps } = s

theorem Enters.refl {c : Nat} (crew : s.crews.find c = some r) : Enters s s c r := ⟨⟨r, crew, rfl⟩, fun _ _ => rfl, rfl⟩

/-- The crew waits under the reason, and no group is in progress. -/
theorem Enters.waits (h : Enters s u g.crew r) (nested : Bool) :
    (g.close r nested false (.wait n u)).issue = none ∧
    (∃ r', (g.close r nested false (.wait n u)).crews.find g.crew = some r' ∧ r'.phase = .waiting n ∧
      { r' with phase := r.phase, tookPlanes := r.tookPlanes, begunWld := r.begunWld } = r) ∧
    (∀ x, x ≠ g.crew → (g.close r nested false (.wait n u)).crews.find x = s.crews.find x) ∧
    { g.close r nested false (.wait n u) with
      crews := s.crews, partitions := s.partitions, latches := s.latches, lamps := s.lamps, issue := s.issue } = s := by
  obtain ⟨r', crew, same⟩ := h.crew
  have closed : g.close r nested false (.wait n u) = { u.putCrew g.crew { r' with phase := .waiting n } with issue := none } := by
    simp only [Issue.close, crew]
  rw [closed]
  refine ⟨rfl, ⟨{ r' with phase := .waiting n }, by simp, rfl, ?_⟩, fun x other => by simp [other, h.others x other], ?_⟩
  · rw [← same]
  · rw [← h.rest]
    rfl

/-! ## Groups that wait before they begin -/

/-- Every instruction but RETT, WLD and MMA runs as a group that waits for its own wait. -/
theorem exec_eq_runGroup_ownWait (group : isGroup i = true) (notRett : i ≠ .rett) (notWld : ∀ sb t f, i ≠ .wld sb t f)
    (notMma : ∀ a tr z gang sb t f, i ≠ .mma a tr z gang sb t f) : ∃ body, ∀ t, exec i t = runGroup i t (ownWait i) body := by
  cases i
  case rett => exact absurd rfl notRett
  case wld sb t f => exact absurd rfl (notWld sb t f)
  case mma a tr z gang sb t f => exact absurd rfl (notMma a tr z gang sb t f)
  all_goals cases group
  all_goals exact ⟨_, fun _ => rfl⟩

theorem runGroup_of_wait {wait : WaitFn} (issue : s.issue = some g) (crew : s.crews.find g.crew = some r)
    (passes : issueFault s g.crew r g.hints i = none) (kept : lostAccess s g.crew r g.hints i = none)
    (held : lesser (sharedWait s g.crew r g.hints i) (wait s g r) = some n) (body : BodyFn) :
    runGroup i s wait body = .next (g.close r (s.nested g.crew) false (.wait n s)) := by
  simp only [runGroup, groupWait, issue, crew, passes, kept, held]
  rfl

/-! ## WLD, MMA and RETT: no wait that instructions share holds them back -/

/-- Without an ORDER hint the order is the default. -/
theorem orderOf_of_none {hs : List Hint} (none : ∀ o sc, Hint.order o sc ∉ hs) (dflt : MemOrder × Scope) : orderOf hs dflt = dflt := by
  refine (congrArg (Option.getD · dflt) (List.findSome?_eq_none_iff.mpr fun h mem => ?_) : orderOf hs dflt = _)
  cases h with
  | order o sc => exact absurd mem (none o sc)
  | _ => rfl

/-- Without a SRC3 hint there is no third source. -/
theorem src3Of_of_none {hs : List Hint} (none : ∀ x, Hint.src3 x ∉ hs) : src3Of hs = Option.none := by
  refine List.findSome?_eq_none_iff.mpr fun h mem => ?_
  cases h with
  | src3 x => exact absurd mem (none x)
  | _ => rfl

/-- An instruction that names no vector, scalar or mask register, takes neither SRC3 nor ORDER, and moves no accumulator waits for
nothing that instructions share. -/
theorem sharedWait_eq_none {c : Nat} {hs : List Hint} (sound : Sound s c r hs i) (fields : vecFields i = []) (sregs : sregReads i = [])
    (kregs : kregReads r i = []) (ret : (i == .ret) = false) (src3 : admitsSrc3 i = false) (accs : accMove i = false)
    (order : (orderedLoad i || orderedStore i || orderedAtomic i || orderedRead i) = false)
    (acts : actsAtOnce hs i = (orderOf hs (.plain, .crew)).1.rel) : sharedWait s c r hs i = none := by
  have noSrc3 (x : VReg) : Hint.src3 x ∉ hs := fun mem => by
    have ok : admitsSrc3 i = true := sound.hints _ mem
    exact Bool.false_ne_true (src3.symm.trans ok)
  have noOrder (o : MemOrder) (sc : Scope) : Hint.order o sc ∉ hs := fun mem => by
    have ok := sound.hints _ mem
    simp only [Bool.or_eq_false_iff] at order
    simp [hintOk, order] at ok
  have uses : vecUses hs i = [] := by rw [vecUses, src3Of_of_none noSrc3, fields]
  have plain : actsAtOnce hs i = false := by rw [acts, orderOf_of_none noOrder]; rfl
  simp [sharedWait, uses, accsOf, readsOf, sregs, kregs, ret, plain, accs]

/-- A group of RETT does not wait. -/
theorem waits_rett (sound : Sound s g.crew r g.hints .rett) : sharedWait s g.crew r g.hints .rett = none ∧ ownWait .rett s g r = none :=
  ⟨sharedWait_eq_none sound rfl rfl rfl rfl rfl rfl rfl rfl, rfl⟩

/-- A WLD that waits has passed its first checks, and has taken the planes where they are free. -/
theorem wldEnter_enters (crew : s.crews.find g.crew = some r) (sb : BitVec 2) (t : TReg) : Enters s (wldEnter sb t s g.crew r) g.crew r := by
  unfold wldEnter
  split
  · exact Enters.refl crew
  · dsimp only
    split
    · exact ⟨⟨{ r with begunWld := true, tookPlanes := true }, by simp [crew], rfl⟩, fun x other => by simp [other], rfl⟩
    · exact ⟨⟨{ r with begunWld := true }, by simp [crew], rfl⟩, fun x other => by simp [other], rfl⟩

theorem State.wantLamp_eq (s : State) (core : Nat) : ∃ lamps, s.wantLamp core = { s with lamps := lamps } := by
  unfold State.wantLamp
  split
  · exact ⟨_, rfl⟩
  all_goals exact ⟨s.lamps, rfl⟩

/-- An MMA that waits has arrived in its leader's latch, and a cluster that holds its lamp has begun its burst. -/
theorem mmaEnter_enters (crew : s.crews.find g.crew = some r) (a tr z gang : Bool) (sb : BitVec 2) (t : TReg) (f : MFmt) :
    Enters s (mmaEnter a tr z gang sb t f s g r) g.crew r := by
  have enters (latches : Tbl Latch) (lamps : LampRing) : Enters s { s with latches := latches, lamps := lamps } g.crew r :=
    ⟨⟨r, crew, rfl⟩, fun _ _ => rfl, rfl⟩
  have arrived : ∃ latches, (if gang then
      { s with latches := s.latches.put (leaderOf r) (s.latchWith r (arrivalOf g r a tr z sb t f)) } else s) =
      { s with latches := latches } := by
    cases gang
    · exact ⟨s.latches, rfl⟩
    · exact ⟨_, rfl⟩
  obtain ⟨latches, put⟩ := arrived
  unfold mmaEnter
  simp only [put]
  split
  case h_3 => exact enters latches s.lamps
  case h_5 =>
    obtain ⟨lamps, lit⟩ := State.wantLamp_eq { s with latches := latches } r.core
    rw [lit]
    exact enters latches lamps
  all_goals exact Enters.refl crew

/-- A group whose effect finds that it must wait, after its first steps. -/
theorem Issues.enters {body : BodyFn} (issues : Issues s g r i) (group : ∀ t, exec i t = runGroup i t noWait body)
    (notRett : (i == Instr.rett) = false) (effect : body s g r = .wait n u) :
    exec i s = .next (g.close r (s.nested g.crew) false (.wait n u)) := by
  rw [group, issues.run rfl, notRett, effect]

/-- Settles O9: RETT does not wait, WLD and MMA wait in their effects after their first steps, and every other group waits before its
effect. -/
theorem waitsHoldGroups : Obligations.WaitsHoldGroups := by
  intro s g r i n issue crew group passes kept either
  have held := lesser_eq_some either
  have sound := sound_of_issueFault passes
  by_cases rett : i = .rett
  · subst rett
    rw [(waits_rett sound).1, (waits_rett sound).2] at held
    cases held
  by_cases wld : ∃ sb t f, i = .wld sb t f
  · obtain ⟨sb, t, f, rfl⟩ := wld
    have shared := sharedWait_eq_none sound rfl rfl rfl rfl rfl rfl rfl rfl
    rw [shared] at held
    have own : wldWait sb t s g r = some n := held
    have issues : Issues s g r (.wld sb t f) := ⟨issue, crew, passes, kept, shared⟩
    exact ⟨_, issues.enters (fun _ => rfl) rfl (by simp only [own]), fun not => absurd rfl (not sb t f), (wldEnter_enters crew sb t).waits _⟩
  by_cases mma : ∃ a tr z gang sb t f, i = .mma a tr z gang sb t f
  · obtain ⟨a, tr, z, gang, sb, t, f, rfl⟩ := mma
    have shared := sharedWait_eq_none sound rfl rfl rfl rfl rfl rfl rfl rfl
    rw [shared] at held
    have own : mmaWait a tr z gang sb t f s g r = some n := held
    have issues : Issues s g r (.mma a tr z gang sb t f) := ⟨issue, crew, passes, kept, shared⟩
    exact ⟨_, issues.enters (fun _ => rfl) rfl (by simp only [own]), fun _ not => absurd rfl (not a tr z gang sb t f),
      (mmaEnter_enters crew a tr z gang sb t f).waits _⟩
  obtain ⟨body, runs⟩ := exec_eq_runGroup_ownWait group rett (fun sb t f eq => wld ⟨sb, t, f, eq⟩)
    fun a tr z gang sb t f eq => mma ⟨a, tr, z, gang, sb, t, f, eq⟩
  refine ⟨_, (runs s).trans (runGroup_of_wait issue crew passes kept held body), fun _ _ => ?_, (Enters.refl crew).waits _⟩
  simp only [Issue.close, crew]

end Sys2Proof.Machine

/-!
CALL, CALLR and RET as they change the stacks on chip (05 R130-R132; 01 R26, R27).
-/

namespace Sys2Proof.Machine

variable {s : State} {g : Issue} {r : Crew} {i : Instr}

/-! ## A stack's pushes and pops -/

namespace RStack

variable {k : RStack} {e : Nat} {p : PC}

/-- The slot before the next one, round a ring of e slots, is the one that was filled last. -/
theorem ring_back {ptr : Nat} (low : ptr < e) : ((ptr + 1) % e + e - 1) % e = ptr := by
  rcases Nat.lt_or_eq_of_le (Nat.succ_le_of_lt low) with inside | last
  · rw [Nat.mod_eq_of_lt inside, show ptr + 1 + e - 1 = ptr + e by omega, Nat.add_mod_right, Nat.mod_eq_of_lt low]
  · rw [← Nat.succ_eq_add_one, last, Nat.mod_self, Nat.zero_add, Nat.mod_eq_of_lt (by omega)]
    omega

/-- A push that stays on chip. -/
theorem push_of_fits (fits : k.depth < 16) : k.push e p = { k with chip := k.chip ++ [p], depth := k.depth + 1 } := by
  rw [push, if_pos fits]

/-- A push that spills the oldest entry on chip and finds its slot free. -/
theorem push_of_spills (full : 16 ≤ k.depth) (room : k.depth < 16 + e) :
    k.push e p = { k with chip := k.chip.drop 1 ++ [p], depth := k.depth + 1, count := k.count + 1, ptr := (k.ptr + 1) % e } := by
  rw [push, if_neg (by omega), if_neg (by omega), if_pos room, decide_eq_false (by omega), Bool.or_false]

end RStack

theorem claims_returnStacksNest : Claims.ReturnStacksNest := by
  intro k e p room size ring
  by_cases fits : k.depth < 16
  · rw [RStack.push_of_fits fits]
    refine ⟨by simp [RStack.top], fun full => by omega, ?_⟩
    rw [RStack.pop, if_neg (by simp only; omega)]
    simp
  · have back := RStack.ring_back (ring (by omega))
    have chip : k.chip.headD 0 :: k.chip.drop 1 = k.chip := by
      cases h : k.chip with
      | nil => rw [h, List.length_nil] at size; omega
      | cons x t => rfl
    rw [RStack.push_of_spills (by omega) room]
    refine ⟨by simp [RStack.top], fun _ => back, ?_⟩
    rw [RStack.pop, if_pos (by simp only; omega)]
    simp only [RStack.refillSlot, back, List.dropLast_concat, chip, Nat.add_sub_cancel, BitVec.add_sub_cancel]

/-! ## The stacks of a crew's lanes -/

/-- A crew with the stack of each lane of a mask changed. -/
def Crew.mapStacks (r : Crew) (m : LaneMask) (f : Nat → RStack → RStack) : Crew :=
  (lanesOf m).foldl (fun u l => u.setStack l (f l (u.rstack l))) r

@[simp] theorem Crew.rstack_setStack (r : Crew) (l x : Nat) (k : RStack) :
    (r.setStack l k).rstack x = if x = l then k else r.rstack x := Sparse.get_put

theorem Crew.rstack_foldl_setStack (f : Nat → RStack → RStack) {ls : List Nat} (distinct : ls.Nodup) (r : Crew) (x : Nat) :
    (ls.foldl (fun u l => u.setStack l (f l (u.rstack l))) r).rstack x = if x ∈ ls then f x (r.rstack x) else r.rstack x := by
  induction ls generalizing r with
  | nil => simp
  | cons l t ih =>
    obtain ⟨fresh, distinct⟩ := List.nodup_cons.mp distinct
    rw [List.foldl_cons, ih distinct, Crew.rstack_setStack]
    by_cases here : x = l
    · subst here; simp [fresh]
    · simp [here]

theorem Crew.rstack_mapStacks (r : Crew) (m : LaneMask) (f : Nat → RStack → RStack) {l : Nat} (h : l < 32) :
    (r.mapStacks m f).rstack l = if m.getLsbD l then f l (r.rstack l) else r.rstack l := by
  rw [Crew.mapStacks, Crew.rstack_foldl_setStack f (pairwise_lanesOf m).nodup]
  simp [mem_lanesOf, h]

/-- Only the stacks change. -/
theorem Crew.mapStacks_rest (r : Crew) (m : LaneMask) (f : Nat → RStack → RStack) :
    { r.mapStacks m f with rstk := r.rstk } = r :=
  List.foldlRecOn (motive := fun u : Crew => { u with rstk := r.rstk } = r) _ _ rfl fun _ hu _ _ => hu

/-- r' is r with the stacks of a mask's lanes changed, and the head run's lanes moved. -/
structure MovesStacks (r r' : Crew) (m : LaneMask) (stack : Nat → RStack → RStack) (pc : Nat → PC) : Prop where
  rest : { r' with pcs := r.pcs, rstk := r.rstk } = r
  lanes : ∀ l, l < 32 → r'.rstack l = if m.getLsbD l then stack l (r.rstack l) else r.rstack l
  pcs : ∀ l, l < 32 → r'.pc l = if r.head.getLsbD l then pc l else r.pc l

theorem Crew.movesStacks (r : Crew) (m : LaneMask) (stack : Nat → RStack → RStack) (pc : Nat → PC) :
    MovesStacks r ((r.mapStacks m stack).setPcs r.head pc) m stack pc := by
  have rest := r.mapStacks_rest m stack
  have pcs : (r.mapStacks m stack).pcs = r.pcs := (congrArg Crew.pcs rest :)
  refine ⟨?_, fun l h => r.rstack_mapStacks m stack h, fun l h => ?_⟩
  · calc _ = { ({ r.mapStacks m stack with rstk := r.rstk } : Crew) with pcs := r.pcs } := rfl
      _ = r := by rw [rest]
  · rw [Crew.pc_setPcs _ _ _ _ h, Crew.pc, pcs]
    rfl

/-! ## CALL and CALLR (05 R130, R131) -/

/-- The lanes whose accesses are checked, where none of their targets is at fault. -/
theorem callTo_of_passes {mask : Crew → LaneMask} {tgt : State → Crew → Nat → PC} {faults : State → Crew → List (Nat × LaneFault)}
    (sound : faults s r = []) :
    let a := s.auxOf g.crew
    let ls := spillers r a.rsEnt (mask r)
    let chk := s.gatherLanes (viaOf r) (s.ctxOf r) r.priv (spillAccs a r ls)
    chk.1 = [] →
    let t := if ls = [] then s else
      chk.2.2.storeEvent g.crew .write none .dflt ((ls.head?.map fun l => a.spillAddr ((r.rstack l).ptr % a.rsEnt) l).getD 0) 8
        (chk.2.1.map fun p => (p.2.1, p.2.2, leBytes 8 ((r.rstack p.1).chip.headD 0).toNat))
    callTo mask tgt faults s g r = .moved (t.putCrew g.crew ((r.mapStacks (mask r) fun _ k => k.push a.rsEnt g.next).setPcs r.head
      fun l => if (mask r).getLsbD l then tgt s r l else g.next)) := by
  intro a ls chk passes t
  have all : worstOf (allLanes.filterMap fun l => (faults s r ++ chk.1).find? fun f => f.1 == l) = none := by
    rw [worstOf_eq_none_iff, sound, passes, List.nil_append, List.filterMap_eq_nil_iff]
    exact fun l _ => rfl
  have checked : (spillers r a.rsEnt (mask r)).filter (fun l => !(faults s r).any fun f => f.1 == l) = ls := by
    rw [sound]
    exact List.filter_eq_self.mpr fun _ _ => rfl
  have stores : (if ls.isEmpty then chk.2.2 else
      chk.2.2.storeEvent g.crew .write none .dflt (((spillAccs a r ls).head?.map (·.2.va)).getD 0) 8
        (chk.2.1.map fun p => (p.2.1, p.2.2, leBytes 8 ((r.rstack p.1).chip.headD 0).toNat))) = t := by
    simp only [t, spillAccs, List.head?_map, Option.map_map, List.isEmpty_iff]
    by_cases empty : ls = []
    · rw [if_pos empty, if_pos empty]
      simp only [chk, empty]
      rfl
    · rw [if_neg empty, if_neg empty]
      rfl
  unfold callTo
  dsimp only
  rw [checked]
  split
  next w fault => cases all.symm.trans fault
  next => exact congrArg (fun u : State => Res.moved (u.putCrew g.crew _)) stores

theorem claims_calls : Claims.Calls := by
  intro s g r i m tgt shape runs a ls chk passes t
  refine ⟨_, (r.movesStacks m (fun _ k => k.push a.rsEnt g.next) fun l => if m.getLsbD l then tgt l else g.next).rest,
    (r.movesStacks m _ _).lanes, (r.movesStacks m _ _).pcs, ?_⟩
  rcases shape with ⟨off, rfl, rfl, rfl⟩ | ⟨x, k, rfl, rfl, sound, rfl⟩
  · refine runs.exec_moved (fun _ => rfl) rfl rfl ((callTo_of_passes rfl passes).trans ?_)
    simp only [Spec.off24_eq, Spec.target_eq]
    rfl
  · exact runs.exec_moved (fun _ => rfl) rfl rfl (callTo_of_passes sound passes)

end Sys2Proof.Machine

/-!
Loads that the caches have room for: what they leave of memory, and which bytes the L1 holds after them (12 R309, R310).
-/

namespace Sys2Proof

/-! ## Entries of the containers -/

theorem Sparse.perm_ins {α : Type} (m : Sparse α) (i : Nat) (v : α) : (m.ins i v).Perm ((i, v) :: m) := by
  induction m with
  | nil => exact .refl _
  | cons e t ih =>
    rw [Sparse.ins]
    split
    · exact .refl _
    · exact (ih.cons e).trans (.swap _ _ _)

theorem Sparse.sublist_del {α : Type} (m : Sparse α) (i : Nat) : (m.del i).Sublist m := by
  induction m with
  | nil => exact .refl _
  | cons e t ih =>
    rw [Sparse.del]
    split
    · exact ih.cons e
    · exact ih.cons_cons e

theorem Sparse.mem_of_mem_put {α : Type} [DecidableEq α] {d : α} {m : Sparse α} {i : Nat} {v : α} {e : Nat × α}
    (h : e ∈ Sparse.put d m i v) : e.1 = i ∨ e ∈ m := by
  rw [Sparse.put] at h
  split at h
  · exact .inr ((Sparse.sublist_del m i).subset h)
  · rcases List.mem_cons.mp ((Sparse.perm_ins _ i v).subset h) with rfl | h
    · exact .inl rfl
    · exact .inr ((Sparse.sublist_del m i).subset h)

/-- A record that is set adds at most one to those that a test picks. -/
theorem Tbl.length_filter_put_le {α : Type} (t : Tbl α) (i : Nat) (v : α) (p : Nat × α → Bool) :
    ((t.put i v).filter p).length ≤ (t.filter p).length + 1 := by
  have deleted := ((Sparse.sublist_del t i).filter p).length_le
  rw [Tbl.put, ((Sparse.perm_ins (Sparse.del t i) i v).filter p).length_eq, List.filter_cons]
  split
  · exact Nat.succ_le_succ deleted
  · exact deleted.trans (Nat.le_succ _)

end Sys2Proof

namespace Sys2Proof.Machine

/-! ## Cache keys -/

theorem MemTag.ckey_eq (t : MemTag) (pa : Nat) : t.ckey pa = pa * 512 + t.ckey 0 := by
  simp only [MemTag.ckey, cacheKey]
  omega

theorem MemTag.ckey_zero_lt (t : MemTag) : t.ckey 0 < 512 := by
  have := t.key.isLt
  simp only [MemTag.ckey, cacheKey]
  split <;> omega

theorem MemTag.ckey_div (t : MemTag) (pa : Nat) : t.ckey pa / 512 = pa := by
  have := t.ckey_zero_lt
  rw [t.ckey_eq]
  omega

theorem MemTag.ckey_mod (t : MemTag) (pa : Nat) : t.ckey pa % 512 = t.ckey 0 := by
  have := t.ckey_zero_lt
  rw [t.ckey_eq]
  omega

theorem MemTag.ofNat_ckey (t : MemTag) (pa : Nat) : BitVec.ofNat 8 (t.ckey pa) = t.key := by
  apply BitVec.eq_of_toNat_eq
  have := t.key.isLt
  rw [BitVec.toNat_ofNat]
  simp only [MemTag.ckey, cacheKey]
  split <;> omega

/-- Two keys of bytes name the same byte of the same copy. -/
theorem MemTag.ckey_inj {t t' : MemTag} {pa pa' : Nat} (h : t.ckey pa = t'.ckey pa') : pa = pa' ∧ ∀ n, t.ckey n = t'.ckey n := by
  refine ⟨by rw [← t.ckey_div pa, h, t'.ckey_div], fun n => ?_⟩
  rw [t.ckey_eq, t'.ckey_eq n, ← t.ckey_mod pa, h, t'.ckey_mod]

theorem lineKey_ckey (t : MemTag) (pa : Nat) : lineKey (t.ckey pa) = t.ckey (pa / 128) := by
  rw [lineKey, t.ckey_div, t.ckey_mod, ← t.ckey_eq]

/-! ## Bytes that fill a cache -/

/-- Fill one byte into a cache, unless what it holds there stays. -/
def fillByte (stays : CByte → Bool) (m : Sparse (Option CByte)) (e : Nat × Byte) : Sparse (Option CByte) :=
  match Sparse.get none m e.1 with
  | some b => if stays b then m else Sparse.put none m e.1 (some { val := e.2, dirty := false })
  | none => Sparse.put none m e.1 (some { val := e.2, dirty := false })

section
variable (stays : CByte → Bool) (m : Sparse (Option CByte)) (bs : List (Nat × Byte))

theorem fillBytes_cons (e : Nat × Byte) : fillBytes stays m (e :: bs) = fillBytes stays (fillByte stays m e) bs := rfl

theorem get_fillByte (e : Nat × Byte) (k : Nat) : Sparse.get none (fillByte stays m e) k =
    if k = e.1 ∧ (∀ b, Sparse.get none m e.1 = some b → stays b = false) then some { val := e.2, dirty := false }
    else Sparse.get none m k := by
  unfold fillByte
  split
  next b found =>
    by_cases kept : stays b = true
    · simp only [found, Option.some.injEq, forall_eq', kept, if_true, Bool.true_eq_false, and_false, if_false]
    · simp only [found, Option.some.injEq, forall_eq', kept, if_false, Bool.false_eq_true, Sparse.get_put, and_true]
  next absent => simp [absent]

theorem mem_of_mem_fillByte {e : Nat × Byte} {x : Nat × Option CByte} (h : x ∈ fillByte stays m e) : x.1 = e.1 ∨ x ∈ m := by
  unfold fillByte at h
  split at h
  · split at h
    · exact .inr h
    · exact Sparse.mem_of_mem_put h
  · exact Sparse.mem_of_mem_put h

/-- A fill leaves the bytes it does not name. -/
theorem get_fillBytes_of_absent {k : Nat} (absent : ∀ e ∈ bs, e.1 ≠ k) :
    Sparse.get none (fillBytes stays m bs) k = Sparse.get none m k := by
  induction bs generalizing m with
  | nil => rfl
  | cons e t ih =>
    obtain ⟨here, absent⟩ := List.forall_mem_cons.mp absent
    rw [fillBytes_cons, ih _ absent, get_fillByte, if_neg (by simp [here.symm])]

/-- What is resident stays resident. -/
theorem isSome_get_fillBytes {k : Nat} (held : (Sparse.get none m k).isSome = true) :
    (Sparse.get none (fillBytes stays m bs) k).isSome = true := by
  induction bs generalizing m with
  | nil => exact held
  | cons e t ih =>
    rw [fillBytes_cons]
    refine ih _ ?_
    rw [get_fillByte]
    split
    · rfl
    · exact held

theorem mem_of_mem_fillBytes {x : Nat × Option CByte} (h : x ∈ fillBytes stays m bs) : (∃ e ∈ bs, e.1 = x.1) ∨ x ∈ m := by
  induction bs generalizing m with
  | nil => exact .inr h
  | cons e t ih =>
    rcases ih _ h with ⟨y, mem, eq⟩ | h
    · exact .inl ⟨y, List.mem_cons_of_mem e mem, eq⟩
    · exact (mem_of_mem_fillByte stays m h).imp_left fun eq => ⟨e, List.mem_cons_self, eq.symm⟩

end

/-- A fill of what lies below, where what is resident stays, changes no byte that is read. -/
theorem read_fillBytes (below : Nat → Byte) (m : Sparse (Option CByte)) {bs : List (Nat × Byte)} (agree : ∀ e ∈ bs, e.2 = below e.1)
    (k : Nat) : ((Sparse.get none (fillBytes (fun _ => true) m bs) k).map CByte.val).getD (below k) =
      ((Sparse.get none m k).map CByte.val).getD (below k) := by
  induction bs generalizing m with
  | nil => rfl
  | cons e t ih =>
    obtain ⟨here, agree⟩ := List.forall_mem_cons.mp agree
    rw [fillBytes_cons, ih _ agree, get_fillByte]
    by_cases hit : k = e.1
    · cases found : Sparse.get none m e.1 <;> simp [hit, found, here]
    · simp [hit]

/-! ## What a slice holds -/

theorem State.backGet_eq_fillSector (s : State) (key : BitVec 8) (pa : Nat) :
    s.backGet key pa = (s.fillSector key (pa / 32)).getD (pa % 32) 0 := by
  rw [State.backGet]
  split
  next keyed =>
    have low : pa % 32 < 32 := Nat.mod_lt _ (by decide)
    simp only [State.fillSector, if_pos keyed, State.physBytes, List.getD_eq_getElem?_getD, List.getElem?_map,
      List.getElem?_range low, Option.map_some, Option.getD_some, Nat.div_add_mod]
  · rfl

/-- A byte of LPDDR6 that a cache key names, below the L2. -/
def State.below (s : State) (k : Nat) : Byte := s.backGet (BitVec.ofNat 8 k) (k / 512)

theorem State.sliceGet_eq_below (s : State) (t : MemTag) {pa : Nat} (range : rangeOf pa = .lpddr) :
    s.sliceGet t pa = ((Sparse.get none s.mem.l2 (t.ckey pa)).map CByte.val).getD (s.below (t.ckey pa)) := by
  rw [State.below, t.ofNat_ckey, t.ckey_div]
  simp only [State.sliceGet, range]
  cases Sparse.get none s.mem.l2 (t.ckey pa) <;> rfl

/-- From s to u nothing changes but the L2. -/
structure OnlyL2 (s u : State) : Prop where
  rest : { u with mem := { u.mem with l2 := s.mem.l2, lines := s.mem.lines } } = s

/-- LPDDR6 is read alike with any L2. -/
theorem State.below_setL2 (s : State) (l2 : Sparse (Option CByte)) (lines : Tbl L2Line) :
    ({ s with mem := { s.mem with l2 := l2, lines := lines } } : State).below = s.below := by
  funext k
  simp only [State.below, State.backGet]
  rfl

theorem OnlyL2.below {s u : State} (only : OnlyL2 s u) : u.below = s.below := by
  rw [← u.below_setL2 s.mem.l2 s.mem.lines, only.rest]

/-- Slices read alike where the L2 does. -/
theorem OnlyL2.sliceGet {s u : State} (only : OnlyL2 s u)
    (l2 : ∀ k, ((Sparse.get none u.mem.l2 k).map CByte.val).getD (s.below k) =
      ((Sparse.get none s.mem.l2 k).map CByte.val).getD (s.below k)) (t : MemTag) (pa : Nat) : u.sliceGet t pa = s.sliceGet t pa := by
  have phys : u.mem.phys = s.mem.phys := (congrArg (·.mem.phys) only.rest :)
  cases range : rangeOf pa
  case lpddr => rw [u.sliceGet_eq_below t range, s.sliceGet_eq_below t range, only.below, l2]
  all_goals simp only [State.sliceGet, range, State.physGet, phys]

/-! ## Allocation and fills of the L2 -/

/-- A line that is not resident takes a free way. -/
theorem State.l2Alloc_plain (s : State) (lk : Nat) (room : s.mem.lines.find lk = none → (s.l2Set lk).length < 16) :
    ((s.mem.lines.find lk).isSome = true ∧ s.l2Alloc lk .plain = s) ∨
    (s.mem.lines.find lk = none ∧
      ∃ x, s.l2Alloc lk .plain = { s with mem := { s.mem with lines := s.mem.lines.put lk x } }) := by
  unfold State.l2Alloc
  split
  next l found => exact .inl ⟨by rw [found]; rfl, if_neg (by simp)⟩
  next absent =>
    rw [State.l2Room, if_pos (room absent)]
    exact .inr ⟨absent, _, rfl⟩

/-- The bytes of a sector, with their keys, as a fill brings them. -/
def State.sectorFill (s : State) (t : MemTag) (pa : Nat) : List (Nat × Byte) :=
  (List.range 32).map fun i => (t.ckey (pa / 32 * 32 + i), (s.fillSector t.key (pa / 32)).getD i 0)

theorem State.sectorFill_below (s : State) (t : MemTag) (pa : Nat) : ∀ e ∈ s.sectorFill t pa, e.2 = s.below e.1 := by
  intro e mem
  obtain ⟨i, low, rfl⟩ := List.mem_map.mp mem
  have low : i < 32 := List.mem_range.mp low
  rw [State.below, t.ofNat_ckey, t.ckey_div, s.backGet_eq_fillSector, show (pa / 32 * 32 + i) / 32 = pa / 32 by omega,
    show (pa / 32 * 32 + i) % 32 = i by omega]

/-- From s to u, allocating a line of the L2, only the L2 changes, and no byte that a slice gives. -/
structure FillsL2 (s u : State) (lk : Nat) : Prop where
  only : OnlyL2 s u
  slice : ∀ t pa, u.sliceGet t pa = s.sliceGet t pa
  lines : u.mem.lines = s.mem.lines ∨ (s.mem.lines.find lk = none ∧ ∃ x, u.mem.lines = s.mem.lines.put lk x)

theorem FillsL2.refl (s : State) (lk : Nat) : FillsL2 s s lk := ⟨⟨rfl⟩, fun _ _ => rfl, .inl rfl⟩

theorem State.l2Alloc_fills (s : State) (lk : Nat) (room : s.mem.lines.find lk = none → (s.l2Set lk).length < 16) :
    FillsL2 s (s.l2Alloc lk .plain) lk := by
  rcases s.l2Alloc_plain lk room with ⟨_, eq⟩ | ⟨absent, x, eq⟩
  · rw [eq]
    exact .refl s lk
  · have only : OnlyL2 s { s with mem := { s.mem with lines := s.mem.lines.put lk x } } := ⟨rfl⟩
    rw [eq]
    exact ⟨only, only.sliceGet fun _ => rfl, .inr ⟨absent, x, rfl⟩⟩

/-- What a fill brings is what the slices gave below the L2. -/
theorem FillsL2.setL2 {s u : State} {lk : Nat} (fills : FillsL2 s u lk) {bs : List (Nat × Byte)} (agree : ∀ e ∈ bs, e.2 = u.below e.1) :
    FillsL2 s { u with mem := { u.mem with l2 := fillBytes (fun _ => true) u.mem.l2 bs } } lk where
  only := ⟨fills.only.rest⟩
  slice t pa := by
    have only : OnlyL2 u { u with mem := { u.mem with l2 := fillBytes (fun _ => true) u.mem.l2 bs } } := ⟨rfl⟩
    rw [← fills.slice]
    exact only.sliceGet (read_fillBytes u.below u.mem.l2 agree) t pa
  lines := fills.lines

theorem State.l2Fill_fills (s : State) (t : MemTag) (pa : Nat)
    (room : s.mem.lines.find (t.ckey (pa / 128)) = none → (s.l2Set (t.ckey (pa / 128))).length < 16) :
    FillsL2 s (s.l2Fill t .plain pa) (t.ckey (pa / 128)) := by
  have allocated := s.l2Alloc_fills _ room
  unfold State.l2Fill
  extract_lets u vals bs
  split
  · exact allocated
  · exact allocated.setL2 (u.sectorFill_below t pa)

theorem State.sliceFill_fills (s : State) (t : MemTag) (pa : Nat)
    (room : s.mem.lines.find (t.ckey (pa / 128)) = none → (s.l2Set (t.ckey (pa / 128))).length < 16) :
    FillsL2 s (s.sliceFill t (some .plain) pa) (t.ckey (pa / 128)) := by
  unfold State.sliceFill
  dsimp only
  split
  · exact s.l2Fill_fills t pa room
  · exact .refl s _

end Sys2Proof.Machine

/-!
Loads that the caches have room for: the L1 after them, and the bytes they return (11 R286, R291; 12 R309).
-/

namespace Sys2Proof.Machine

/-! ## Memory's own records -/

namespace OnlyMemory

variable {s u : State} {c : Nat}

theorem refl (s : State) (c : Nat) : OnlyMemory s s c := ⟨rfl, rfl, rfl, fun _ _ => rfl, rfl, fun _ => rfl⟩

theorem setMem (h : OnlyMemory s u c) (m : Memory) : OnlyMemory s { u with mem := m } c :=
  ⟨h.rest, h.links, h.hostIf, h.others, h.own, h.cores⟩

theorem setPeers (h : OnlyMemory s u c) (p : Tbl Peer) : OnlyMemory s { u with links := { u.links with peers := p } } c :=
  ⟨h.rest, h.links, h.hostIf, h.others, h.own, h.cores⟩

theorem setL1 (h : OnlyMemory s u c) (core : Nat) (l1 : Core → Sparse (Option CByte)) :
    OnlyMemory s (u.onCore core fun k => { k with l1 := l1 k }) c where
  rest := h.rest
  links := h.links
  hostIf := h.hostIf
  others := h.others
  own := h.own
  cores k := by
    rw [State.coreOf_onCore]
    split
    next eq => subst eq; exact h.cores k
    next => exact h.cores k

theorem setTouched (h : OnlyMemory s u c) (touched : CrewAux → Sparse Bool) :
    OnlyMemory s (u.onAux c fun a => { a with touched := touched a }) c where
  rest := h.rest
  links := h.links
  hostIf := h.hostIf
  others x other := by rw [State.auxOf_onAux, if_neg other]; exact h.others x other
  own := by rw [State.auxOf_onAux, if_pos rfl]; exact h.own
  cores := h.cores

theorem fabid (h : OnlyMemory s u c) : u.links.fabid = s.links.fabid := (congrArg Links.fabid h.links :)

theorem isLocal (h : OnlyMemory s u c) (t : MemTag) : u.isLocal t = s.isLocal t := by rw [State.isLocal, h.fabid, State.isLocal]

theorem l1Able (h : OnlyMemory s u c) (t : MemTag) (pa : Nat) : u.l1Able t pa = s.l1Able t pa := by
  rw [State.l1Able, h.isLocal, State.l1Able]

end OnlyMemory

theorem OnlyL2.eq_setMem {s u : State} (h : OnlyL2 s u) : u = { s with mem := u.mem } := by
  conv_rhs => rw [← h.rest]

theorem OnlyL2.coreOf {s u : State} (h : OnlyL2 s u) (k : Nat) : u.coreOf k = s.coreOf k := (congrArg (·.coreOf k) h.rest :)

theorem OnlyL2.auxOf {s u : State} (h : OnlyL2 s u) (c : Nat) : u.auxOf c = s.auxOf c := (congrArg (·.auxOf c) h.rest :)

/-! ## What loads leave -/

/-- From t to u crew c has loaded, the caches having room, bytes of some lines into its core's caches. -/
structure Loaded (t u : State) (c core : Nat) (ls : List Nat) : Prop where
  only : OnlyMemory t u c
  storeQ : (u.auxOf c).storeQ = (t.auxOf c).storeQ
  wc : (u.coreOf core).wc = (t.coreOf core).wc
  slice : ∀ x pa, u.sliceGet x pa = t.sliceGet x pa
  held : ∀ k, (Sparse.get none (t.coreOf core).l1 k).isSome = true → (Sparse.get none (u.coreOf core).l1 k).isSome = true
  l1 : ∀ e ∈ (u.coreOf core).l1, lineKey e.1 ∈ ls ∨ ∃ e' ∈ (t.coreOf core).l1, lineKey e'.1 = lineKey e.1
  l2 : ∀ k, (u.l2Set k).length ≤ (t.l2Set k).length + ls.countP fun j => (u.mem.lines.find j).isSome

theorem Core.mem_l1Set {k : Core} {lk x : Nat} :
    x ∈ k.l1Set lk ↔ (∃ e ∈ k.l1, lineKey e.1 = x) ∧ x / 512 % 256 = lk / 512 % 256 := by
  simp [Core.l1Set, List.mem_filter, List.mem_eraseDups]

theorem nodup_eraseDups (l : List Nat) : l.eraseDups.Nodup := by
  match l with
  | [] => simp
  | x :: t =>
    rw [List.eraseDups_cons, List.nodup_cons]
    exact ⟨by simp, nodup_eraseDups _⟩
termination_by l.length
decreasing_by exact Nat.lt_succ_of_le (List.length_filter_le _ _)

/-- A test that more of a list's members pass counts more of them. -/
theorem countP_lt_countP {α : Type} {l : List α} {p q : α → Bool} (le : ∀ x ∈ l, p x = true → q x = true) {a : α}
    (mem : a ∈ l) (not : p a = false) (holds : q a = true) : l.countP p < l.countP q := by
  obtain ⟨pre, post, rfl⟩ := List.append_of_mem mem
  have before := List.countP_mono_left (l := pre) fun x hx => le x (by simp [hx])
  have after := List.countP_mono_left (l := post) fun x hx => le x (by simp [hx])
  simp only [List.countP_append, List.countP_cons, not, holds, if_true, Bool.false_eq_true, if_false]
  omega

namespace Loaded

variable {t u : State} {c core : Nat} {ls : List Nat} (h : Loaded t u c core ls)

theorem refl (t : State) (c core : Nat) (ls : List Nat) : Loaded t t c core ls where
  only := .refl t c
  storeQ := rfl
  wc := rfl
  slice _ _ := rfl
  held _ held := held
  l1 e mem := .inr ⟨e, mem, rfl⟩
  l2 _ := Nat.le_add_right _ _

include h

/-- A line of those there is room for takes no other's place in the L1. -/
theorem l1Room (room : t.roomFor core ls) {lk : Nat} (mem : lk ∈ ls) : u.l1Room core lk = u := by
  rw [State.l1Room]
  split
  · rfl
  next absent =>
    have absent : ∀ e ∈ (u.coreOf core).l1, lineKey e.1 ≠ lk := by simpa using absent
    have nodup : ((u.coreOf core).l1Set lk).Nodup := List.Nodup.filter _ (nodup_eraseDups _)
    have sub : (u.coreOf core).l1Set lk ⊆ (t.coreOf core).l1Set lk ++ ls.erase lk := by
      intro x mem
      obtain ⟨⟨e, held, rfl⟩, set_⟩ := Core.mem_l1Set.mp mem
      rcases h.l1 e held with new | old
      · exact List.mem_append_right _ ((List.mem_erase_of_ne (absent e held)).mpr new)
      · exact List.mem_append_left _ (Core.mem_l1Set.mpr ⟨old, set_⟩)
    have le := (List.subperm_of_subset nodup sub).length_le
    rw [List.length_append, List.length_erase_of_mem mem] at le
    have := (room lk mem).1
    have := List.length_pos_of_mem mem
    exact if_pos (by omega)

/-- A line of those there is room for finds a free way in the L2. -/
theorem l2Room (room : t.roomFor core ls) {lk : Nat} (mem : lk ∈ ls) (absent : u.mem.lines.find lk = none) :
    (u.l2Set lk).length < 16 := by
  have resident : (ls.countP fun j => (u.mem.lines.find j).isSome) < ls.length :=
     List.countP_lt_length_iff.mpr ⟨lk, mem, by rw [absent]; rfl⟩
  have := h.l2 lk
  have := (room lk mem).2
  omega

/-- A change of the L2 alone that allocates a line of those. -/
theorem fillsL2 {v : State} {lk : Nat} (mem : lk ∈ ls) (fills : FillsL2 u v lk) : Loaded t v c core ls := by
  have eq := fills.only.eq_setMem
  have cores : v.coreOf core = u.coreOf core := fills.only.coreOf core
  have aux : v.auxOf c = u.auxOf c := fills.only.auxOf c
  refine ⟨eq ▸ h.only.setMem v.mem, by rw [aux, h.storeQ], by rw [cores, h.wc], fun x pa => by rw [fills.slice, h.slice],
    by rw [cores]; exact h.held, by rw [cores]; exact h.l1, fun k => ?_⟩
  rcases fills.lines with same | ⟨absent, x, put⟩
  · rw [State.l2Set, same]
    exact h.l2 k
  · have added := Tbl.length_filter_put_le u.mem.lines lk x fun e => e.1 / 512 % 49152 == k / 512 % 49152
    have counted : (ls.countP fun j => (u.mem.lines.find j).isSome) < ls.countP fun j => (v.mem.lines.find j).isSome := by
      refine countP_lt_countP (fun j _ found => ?_) mem (by rw [absent]; rfl) ?_
      · rw [put, Tbl.find_put]
        split
        · rfl
        · exact found
      · rw [put, Tbl.find_put, if_pos rfl]
        rfl
    have := h.l2 k
    rw [State.l2Set] at this ⊢
    rw [put] at counted ⊢
    omega

theorem sliceFill (room : t.roomFor core ls) (x : MemTag) (pa : Nat) (mem : x.ckey (pa / 128) ∈ ls) :
    Loaded t (u.sliceFill x (some .plain) pa) c core ls := h.fillsL2 mem (u.sliceFill_fills x pa (h.l2Room room mem))

/-- Bytes of one of the lines that come into the core's L1. -/
theorem setL1 {bs : List (Nat × Byte)} (lines : ∀ e ∈ bs, lineKey e.1 ∈ ls) :
    Loaded t (u.onCore core fun k => { k with l1 := fillBytes (·.dirty) k.l1 bs }) c core ls where
  only := h.only.setL1 core fun k => fillBytes (·.dirty) k.l1 bs
  storeQ := h.storeQ
  wc := by rw [State.coreOf_onCore, if_pos rfl]; exact h.wc
  slice := h.slice
  held k held := by
    rw [State.coreOf_onCore, if_pos rfl]
    exact isSome_get_fillBytes _ _ _ (h.held k held)
  l1 e mem := by
    rw [State.coreOf_onCore, if_pos rfl] at mem
    rcases mem_of_mem_fillBytes _ _ _ mem with ⟨y, new, eq⟩ | old
    · exact .inl (eq ▸ lines y new)
    · exact h.l1 e old
  l2 := h.l2

theorem l1Fill (room : t.roomFor core ls) (x : MemTag) (pa : Nat) (mem : x.ckey (pa / 128) ∈ ls) :
    Loaded t (u.l1Fill core x (some .plain) pa) c core ls := by
  unfold State.l1Fill
  rw [h.l1Room room mem]
  refine (h.sliceFill room x pa mem).setL1 fun e new => ?_
  obtain ⟨i, low, rfl⟩ := List.mem_map.mp new
  have low : i < 32 := List.mem_range.mp low
  rw [lineKey_ckey, show (pa / 32 * 32 + i) / 128 = pa / 128 by omega]
  exact mem

theorem touch (x : MemTag) (pa : Nat) : Loaded t (u.touch c x pa) c core ls := by
  unfold State.touch
  split
  · exact ⟨h.only.setTouched _, by rw [State.auxOf_onAux, if_pos rfl]; exact h.storeQ, h.wc, h.slice, h.held, h.l1, h.l2⟩
  · exact h

theorem claim (before : State) (addr : DWord) (group : Nat) : Loaded t (u.claim before c addr group) c core ls := by
  unfold State.claim State.noteFlights
  split
  · exact h
  · exact ⟨h.only.setPeers _, h.storeQ, h.wc, h.slice, h.held, h.l1, h.l2⟩

end Loaded

/-! ## The bytes of other places -/

/-- The core's L1 holds the n bytes at a place in u as it did in t. -/
def SameL1 (t u : State) (core n : Nat) (p : MemTag × Nat) : Prop :=
  ∀ i, i < n → Sparse.get none (u.coreOf core).l1 (p.1.ckey (p.2 + i)) = Sparse.get none (t.coreOf core).l1 (p.1.ckey (p.2 + i))

/-- Filling a sector, where there is room for its line, brings the slice's bytes into the L1. -/
theorem State.l1_l1Fill {s : State} {core : Nat} {x : MemTag} {how : Option L2Mark} {pa : Nat}
    (room : s.l1Room core (x.ckey (pa / 128)) = s) (cores : (s.sliceFill x how pa).coreOf core = s.coreOf core) :
    ((s.l1Fill core x how pa).coreOf core).l1 = fillBytes (·.dirty) (s.coreOf core).l1 ((List.range 32).map fun i =>
      (x.ckey (pa / 32 * 32 + i), (s.sliceFill x how pa).sliceGet x (pa / 32 * 32 + i))) := by
  rw [State.l1Fill, room]
  simp only [State.coreOf_onCore, if_true, cores]

/-- A fill leaves the bytes of another sector. -/
theorem SameL1.l1Fill {t u : State} {c core n : Nat} {ls : List Nat} {p : MemTag × Nat} (same : SameL1 t u core n p)
    (h : Loaded t u c core ls) (room : t.roomFor core ls) (x : MemTag) (pa : Nat) (mem : x.ckey (pa / 128) ∈ ls)
    (apart : x.ckey (pa / 32) ∉ sectorsAt p n) : SameL1 t (u.l1Fill core x (some .plain) pa) core n p := by
  intro i low
  have fills := u.sliceFill_fills x pa (h.l2Room room mem)
  rw [State.l1_l1Fill (h.l1Room room mem) (fills.only.coreOf core), ← same i low]
  refine get_fillBytes_of_absent _ _ _ fun e new eq => apart ?_
  obtain ⟨j, short, rfl⟩ := List.mem_map.mp new
  have short : j < 32 := List.mem_range.mp short
  obtain ⟨here, keys⟩ := MemTag.ckey_inj eq
  refine List.mem_map.mpr ⟨i, List.mem_range.mpr low, ?_⟩
  rw [keys, ← here, show (pa / 32 * 32 + j) / 32 = pa / 32 by omega]

theorem mem_sectorsOf {pa n q : Nat} : q ∈ sectorsOf pa n ↔ ∃ i, i < n ∧ (pa + i) / 32 = q := by
  simp [sectorsOf, List.mem_eraseDups]

/-! ## A plain load of a cacheable local page -/

theorem l1Holds_iff {s : State} {core : Nat} {x : MemTag} {pa n : Nat} : s.l1Holds core x pa n = true ↔
    ∀ i, i < n → (Sparse.get none (s.coreOf core).l1 (x.ckey (pa + i))).isSome = true := by
  simp [State.l1Holds]

/-- The pages that the L1 may hold. -/
theorem State.l1Able_iff {s : State} {x : MemTag} {pa : Nat} :
    s.l1Able x pa = true ↔ s.isLocal x = true ∧ (x.attr = 0 ∨ x.attr = 4) ∧ rangeOf pa = .lpddr := by
  simp [State.l1Able, and_assoc]

theorem l2How_of_able {x : MemTag} (attr : x.attr = 0 ∨ x.attr = 4) : l2How x.attr .dflt = some .plain := by
  rcases attr with eq | eq <;> rw [eq] <;> rfl

/-- A load that misses fills its sectors; one that hits changes nothing. -/
theorem State.l1Load_state (u : State) (core : Nat) {x : MemTag} (attr : x.attr = 0 ∨ x.attr = 4) (pa n : Nat) :
    (u.l1Load core x .dflt pa n).2 = if u.l1Holds core x pa n then u
      else (sectorsOf pa n).foldl (fun v q => v.l1Fill core x (some .plain) (32 * q)) u := by
  simp only [State.l1Load, l2How_of_able attr]
  rfl

section
variable {t u : State} {c core n : Nat} {ls : List Nat} {x : MemTag} {pa : Nat}

/-- Loading n bytes, of lines there is room for, leaves the bytes of the places whose sectors they do not share. -/
theorem Loaded.l1Load (h : Loaded t u c core ls) (room : t.roomFor core ls) (attr : x.attr = 0 ∨ x.attr = 4)
    (lines : ∀ i, i < n → x.ckey ((pa + i) / 128) ∈ ls) :
    Loaded t (u.l1Load core x .dflt pa n).2 c core ls ∧
      ∀ p : MemTag × Nat, t.leaves core n (x, pa) p → SameL1 t u core n p → SameL1 t (u.l1Load core x .dflt pa n).2 core n p := by
  have line {q : Nat} (mem : q ∈ sectorsOf pa n) : x.ckey (32 * q / 128) ∈ ls := by
    obtain ⟨i, low, rfl⟩ := mem_sectorsOf.mp mem
    rw [show 32 * ((pa + i) / 32) / 128 = (pa + i) / 128 by omega]
    exact lines i low
  have fill {v : State} {q : Nat} (hv : Loaded t v c core ls) (mem : q ∈ sectorsOf pa n) :
      Loaded t (v.l1Fill core x (some .plain) (32 * q)) c core ls := hv.l1Fill room x _ (line mem)
  rw [u.l1Load_state core attr]
  split
  next => exact ⟨h, fun _ _ same => same⟩
  next missed =>
    refine ⟨List.foldlRecOn (motive := fun v : State => Loaded t v c core ls) _ _ h fun v hv q mem => fill hv mem, fun p leaves same => ?_⟩
    have apart : ∀ k ∈ sectorsAt (x, pa) n, k ∉ sectorsAt p n :=
      leaves.resolve_left fun hits => missed (l1Holds_iff.mpr fun i low => h.held _ (hits i low))
    refine (List.foldlRecOn (motive := fun v : State => Loaded t v c core ls ∧ SameL1 t v core n p) _ _ ⟨h, same⟩
      fun v ⟨hv, same⟩ q mem => ⟨fill hv mem, same.l1Fill hv room x _ (line mem) (apart _ ?_)⟩).2
    obtain ⟨i, low, rfl⟩ := mem_sectorsOf.mp mem
    rw [show 32 * ((pa + i) / 32) / 32 = (pa + i) / 32 by omega]
    exact List.mem_map.mpr ⟨i, List.mem_range.mpr low, rfl⟩

end

/-- A load that need perform no store of its crew first, of a page that the L1 may hold. -/
theorem State.loadLane_of_undelayed {u : State} {c : Nat} {r : Crew} {x : MemTag} {pa n : Nat} (able : u.l1Able x pa = true)
    (undelayed : u.undelayed c r (x, pa) n) :
    let b := (u.touch c x pa).l1Load r.core x .dflt pa n
    u.loadLane c r x pa n false .dflt =
      ((List.range n).map fun i => (forwarded (b.2.auxOf c).storeQ x (pa + i)).getD (b.1.getD i 0), b.2) := by
  intro b
  obtain ⟨localPage, attr, range⟩ := State.l1Able_iff.mp able
  have plain : (x.attr == 2) = false ∧ (x.attr == 5) = false := by rcases attr with eq | eq <;> rw [eq] <;> decide
  have memory (v : State) : v.onDevice x pa = false := by
    simp only [State.onDevice, range]
    exact Bool.and_false _
  have touched : (u.touch c x pa).l1Able x pa = true := by
    rw [((Loaded.refl u c r.core []).touch x pa).only.l1Able]
    exact able
  have buffer : u.wcYield r.core x pa = u := by
    have miss : (u.coreOf r.core).wc.any (fun w => w.line == pa / 128 && w.tag.same x) = false :=
      List.any_eq_false.mpr fun w mem hit => by
        obtain ⟨line, tag⟩ := Bool.and_eq_true_iff.mp hit
        exact Bool.eq_false_iff.mp (undelayed.2 w mem (beq_iff_eq.mp line)) tag
    rw [State.wcYield]
    exact if_neg (by rw [miss]; exact Bool.false_ne_true)
  have before : u.beforeLoad c r x pa n = u.touch c x pa := by
    have follows : mustFollow (u.auxOf c).storeQ (u.onDevice x pa) x pa n = false := by rw [memory]; exact undelayed.1
    simp only [State.beforeLoad, follows, Bool.false_eq_true, if_false, plain.1, buffer]
  simp only [State.loadLane, before, memory, touched, plain.1, plain.2, Bool.not_true, Bool.or_false, Bool.false_eq_true, if_false,
    if_true]
  rfl

section
variable {t u : State} {c n : Nat} {r : Crew} {ls : List Nat} {x : MemTag} {pa : Nat}

theorem Loaded.undelayed (h : Loaded t u c r.core ls) {p : MemTag × Nat} (free : t.undelayed c r p n) : u.undelayed c r p n := by
  rwa [State.undelayed, h.storeQ, h.wc]

/-- A plain load leaves what a plain load below the store queue does, and returns what its crew sees. -/
theorem Loaded.loadLane (h : Loaded t u c r.core ls) (room : t.roomFor r.core ls) (able : t.l1Able x pa = true)
    (free : t.undelayed c r (x, pa) n) (lines : ∀ i, i < n → x.ckey ((pa + i) / 128) ∈ ls) :
    Loaded t (u.loadLane c r x pa n false .dflt).2 c r.core ls ∧
    (∀ p : MemTag × Nat, t.leaves r.core n (x, pa) p → SameL1 t u r.core n p →
      SameL1 t (u.loadLane c r x pa n false .dflt).2 r.core n p) ∧
    (SameL1 t u r.core n (x, pa) → (u.loadLane c r x pa n false .dflt).1 = t.sees c r x pa n) := by
  have touched := h.touch x pa
  have loaded := touched.l1Load room (State.l1Able_iff.mp able).2.1 lines
  have core : (u.touch c x pa).coreOf r.core = u.coreOf r.core := by
    unfold State.touch
    split <;> rfl
  rw [State.loadLane_of_undelayed ((h.only.l1Able x pa).trans able) (h.undelayed free)]
  refine ⟨loaded.1, fun p leaves same => loaded.2 p leaves fun i low => ?_, fun same => ?_⟩
  · rw [core]
    exact same i low
  · have hit : (u.touch c x pa).l1Holds r.core x pa n = true ↔
        ∀ i, i < n → (Sparse.get none (t.coreOf r.core).l1 (x.ckey (pa + i))).isSome = true := by
      rw [l1Holds_iff, core]
      exact forall₂_congr fun i low => by rw [same i low]
    refine List.map_congr_left fun i mem => ?_
    have low : i < n := List.mem_range.mp mem
    rw [loaded.1.storeQ]
    congr 1
    simp only [State.l1Load, List.getD_eq_getElem?_getD, List.getElem?_map, List.getElem?_range low, Option.map_some,
      Option.getD_some, State.l1Byte, core, same i low, touched.slice, Bool.or_eq_true, hit]

end

end Sys2Proof.Machine

/-!
RET: the entries it pops, and those it loads from the spill slots (05 R132; 01 R26).
-/

namespace Sys2Proof.Machine

variable {s t : State} {g : Issue} {r : Crew}

/-! ## The lanes that pass their checks -/

theorem gatherStep_lanes (via : Option Nat) (ctx : Nat) (priv : Bool) (qs : List (Nat × LaneAcc))
    (acc : List (Nat × LaneFault) × List (Nat × MemTag × Nat) × State) (passes : (qs.foldl (gatherStep via ctx priv) acc).1 = []) :
    (qs.foldl (gatherStep via ctx priv) acc).2.1.map Prod.fst = acc.2.1.map Prod.fst ++ qs.map Prod.fst := by
  induction qs generalizing acc with
  | nil => simp
  | cons q qs ih =>
    rw [List.foldl_cons] at passes ⊢
    rw [ih _ passes]
    obtain ⟨fs, out, -⟩ := gatherStep_faults via ctx priv qs (gatherStep via ctx priv acc q)
    have none := (List.append_eq_nil_iff.mp (out.symm.trans passes)).1
    unfold gatherStep at none ⊢
    split at none
    · simp at none
    · simp

/-- With no fault, every lane has its place, in the order of the lanes. -/
theorem State.checkLanes_lanes {via : Option Nat} {ctx : Nat} {priv : Bool} {qs : List (Nat × LaneAcc)}
    {ps : List (Nat × MemTag × Nat)} (checked : s.checkLanes via ctx priv qs = (.ok ps, t)) : ps.map Prod.fst = qs.map Prod.fst := by
  unfold State.checkLanes at checked
  dsimp only at checked
  split at checked
  · cases checked
  next none =>
    cases checked
    exact gatherStep_lanes via ctx priv qs ([], [], s) (worstOf_eq_none_iff.mp none)

/-! ## Refills -/

/-- What one lane's refill adds: its lane with the entry, and the state after its load. -/
def State.refill (c : Nat) (r : Crew) (va : Nat → DWord) (no : Nat) (acc : List (Nat × PC) × State) (p : Nat × MemTag × Nat) :
    List (Nat × PC) × State :=
  let x := acc.2.loadLane c r p.2.1 p.2.2 8 false .dflt
  (acc.1 ++ [(p.1, BitVec.ofNat 57 (leVal x.1))], x.2.claim acc.2 c (va p.1) no)

/-- The refills of lanes in turn. -/
def State.refills (t : State) (c : Nat) (r : Crew) (va : Nat → DWord) (no : Nat) (ps : List (Nat × MemTag × Nat)) :
    List (Nat × PC) × State := ps.foldl (State.refill c r va no) ([], t)

/-- The entry that refills give a lane. -/
def refillOf (got : List (Nat × PC)) (l : Nat) : PC := ((got.find? fun x => x.1 == l).map (·.2)).getD 0

section
variable {c : Nat} {va : Nat → DWord} {no : Nat}

theorem State.refill_lanes (ps : List (Nat × MemTag × Nat)) (acc : List (Nat × PC) × State) :
    ∃ zs, (ps.foldl (State.refill c r va no) acc).1 = acc.1 ++ zs ∧ zs.map Prod.fst = ps.map Prod.fst := by
  induction ps generalizing acc with
  | nil => exact ⟨[], by simp⟩
  | cons p ps ih =>
    obtain ⟨zs, out, lanes⟩ := ih (State.refill c r va no acc p)
    exact ⟨_ :: zs, by rw [List.foldl_cons, out, State.refill, List.append_assoc]; rfl, by rw [List.map_cons, lanes, List.map_cons]⟩

/-- A lane's refill is what its load finds after those of the lanes before it. -/
theorem State.refillOf_refills {pre post : List (Nat × MemTag × Nat)} {p : Nat × MemTag × Nat} (fresh : p.1 ∉ pre.map Prod.fst) :
    refillOf (t.refills c r va no (pre ++ p :: post)).1 p.1 =
      BitVec.ofNat 57 (leVal ((t.refills c r va no pre).2.loadLane c r p.2.1 p.2.2 8 false .dflt).1) := by
  obtain ⟨before, first, lanes⟩ := State.refill_lanes (r := r) (c := c) (va := va) (no := no) pre ([], t)
  obtain ⟨after, all, -⟩ := State.refill_lanes (r := r) (c := c) (va := va) (no := no) post
    (State.refill c r va no (t.refills c r va no pre) p)
  have got : (t.refills c r va no (pre ++ p :: post)).1 = before ++ (p.1,
      BitVec.ofNat 57 (leVal ((t.refills c r va no pre).2.loadLane c r p.2.1 p.2.2 8 false .dflt).1)) :: after := by
    rw [State.refills, List.foldl_append, List.foldl_cons]
    refine all.trans ?_
    have first : (t.refills c r va no pre).1 = before := first
    rw [State.refill, first, List.append_assoc]
    rfl
  have skip : before.find? (fun x => x.1 == p.1) = none :=
    List.find?_eq_none.mpr fun x mem eq => fresh (lanes ▸ beq_iff_eq.mp eq ▸ List.mem_map_of_mem mem)
  simp [refillOf, got, List.find?_append, skip]

/-- The refills of places that the L1 may hold, where the caches have room and no store delays them. -/
theorem State.refills_loaded {ls : List Nat} (room : t.roomFor r.core ls) (ps : List (Nat × MemTag × Nat))
    (able : ∀ p ∈ ps, t.l1Able p.2.1 p.2.2 = true ∧ t.undelayed c r p.2 8)
    (lines : ∀ p ∈ ps, ∀ i, i < 8 → p.2.1.ckey ((p.2.2 + i) / 128) ∈ ls) :
    Loaded t (t.refills c r va no ps).2 c r.core ls ∧
      ∀ x : MemTag × Nat, (∀ p ∈ ps, t.leaves r.core 8 p.2 x) → SameL1 t (t.refills c r va no ps).2 r.core 8 x := by
  induction ps using List.reverseRecOn with
  | nil => exact ⟨.refl t c r.core ls, fun _ _ _ _ => rfl⟩
  | append_singleton ps p ih =>
    simp only [List.forall_mem_append, List.forall_mem_singleton] at able lines
    obtain ⟨loaded, same⟩ := ih able.1 lines.1
    obtain ⟨after, kept, -⟩ := loaded.loadLane room able.2.1 able.2.2 lines.2
    rw [State.refills, List.foldl_concat]
    refine ⟨after.claim _ _ _, fun x leaves => ?_⟩
    simp only [List.forall_mem_append, List.forall_mem_singleton] at leaves
    intro i low
    refine Eq.trans ?_ (kept x leaves.2 (same x leaves.1) i low)
    unfold State.refill State.claim State.noteFlights
    dsimp only
    split <;> rfl

/-- The entry that a lane refills is the one its crew sees at its slot, where no lower lane's load fills its sector. -/
theorem State.refillOf_refills_eq_sees {ls : List Nat} {pre post : List (Nat × MemTag × Nat)} {p : Nat × MemTag × Nat}
    (room : t.roomFor r.core ls)
    (able : ∀ q ∈ pre ++ p :: post, t.l1Able q.2.1 q.2.2 = true ∧ t.undelayed c r q.2 8)
    (lines : ∀ q ∈ pre ++ p :: post, ∀ i, i < 8 → q.2.1.ckey ((q.2.2 + i) / 128) ∈ ls)
    (distinct : ((pre ++ p :: post).map Prod.fst).Nodup) (leaves : ∀ q ∈ pre, t.leaves r.core 8 q.2 p.2) :
    refillOf (t.refills c r va no (pre ++ p :: post)).1 p.1 = BitVec.ofNat 57 (leVal (t.sees c r p.2.1 p.2.2 8)) := by
  obtain ⟨ablePre, ableHere, -⟩ := List.forall_mem_append.mp able |>.imp_right List.forall_mem_cons.mp
  obtain ⟨linesPre, linesHere, -⟩ := List.forall_mem_append.mp lines |>.imp_right List.forall_mem_cons.mp
  have fresh : p.1 ∉ pre.map Prod.fst := by
    rw [List.map_append, List.map_cons] at distinct
    exact fun mem => (List.nodup_append.mp distinct).2.2 _ mem _ List.mem_cons_self rfl
  obtain ⟨loaded, same⟩ := State.refills_loaded (va := va) (no := no) room pre ablePre linesPre
  obtain ⟨-, -, value⟩ := loaded.loadLane room ableHere.1 ableHere.2 linesHere
  rw [State.refillOf_refills fresh, value (same p.2 leaves)]

end

/-! ## RET -/

/-- A group that runs and whose effect finds a fault, its own wait among those that do not hold it. -/
theorem Runs.exec_faults_of_wait {i : Instr} {u : State} {wait : WaitFn} {body : BodyFn} {w : LaneTrap} (runs : Runs s g r i)
    (group : ∀ t, exec i t = runGroup i t wait body) (own : ownWait i = wait) (notRett : (i == Instr.rett) = false)
    (effect : body s g r = Res.lanes u w) : exec i s = .next (s.finishFault u g r w) :=
  (group s).trans (runs.issues.faults notRett (own ▸ runs.own) effect)

/-- A stack with no entry in memory takes nothing from a refill. -/
theorem RStack.pop_of_chip {k : RStack} (chip : k.depth ≤ 16) (e : Nat) (x y : PC) : k.pop e x = k.pop e y := by
  have low : ¬ 16 < k.depth := by omega
  rw [RStack.pop, RStack.pop, if_neg low, if_neg low]

/-- The lanes of the head run with an empty stack. -/
def emptyStacks (r : Crew) : LaneMask := maskOf fun l => r.head.getLsbD l && (r.rstack l).depth == 0

theorem getLsbD_emptyStacks {l : Nat} (h : l < 32) :
    (emptyStacks r).getLsbD l = (r.head.getLsbD l && (r.rstack l).depth == 0) := by
  rw [emptyStacks, getLsbD_maskOf, decide_eq_true h, Bool.true_and]

/-- The address that a lane's refill loads. -/
def refillAddr (a : CrewAux) (r : Crew) (l : Nat) : DWord := (((refillAccs a r).find? fun x => x.1 == l).map (·.2.va)).getD 0

/-- The entries that RET's refills load, and the state after them. -/
def State.retLoads (s t : State) (g : Issue) (r : Crew) (ps : List (Nat × MemTag × Nat)) : List (Nat × PC) × State :=
  t.refills g.crew r (refillAddr (s.auxOf g.crew) r) 0 ps

/-- RET where no lane's stack is empty and every refill's place is local. -/
theorem exec_ret_of_checked {ps : List (Nat × MemTag × Nat)} (runs : Runs s g r .ret)
    (filled : ∀ l, l < 32 → r.head.getLsbD l = true → 0 < (r.rstack l).depth)
    (checked : s.checkLanes (viaOf r) (s.ctxOf r) r.priv (refillAccs (s.auxOf g.crew) r) = (.ok ps, t))
    (near : ∀ p ∈ ps, t.isLocal p.2.1 = true) :
    exec .ret s = .next (s.finishMoved ((s.retLoads t g r ps).2.putCrew g.crew
      ((r.mapStacks r.head fun l k => k.pop (s.auxOf g.crew).rsEnt (refillOf (s.retLoads t g r ps).1 l)).setPcs r.head
        fun l => (r.rstack l).top)) g r) := by
  have none : emptyStacks r = 0 := by
    refine BitVec.eq_of_getLsbD_eq fun l low => ?_
    have zero : (0 : LaneMask).getLsbD l = false := BitVec.getLsbD_zero
    rw [getLsbD_emptyStacks low, zero, Bool.and_eq_false_iff, beq_eq_false_iff_ne]
    by_cases head : r.head.getLsbD l = true
    · exact .inr (Nat.ne_of_gt (filled l low head))
    · exact .inl (Bool.eq_false_iff.mpr head)
  have no : t.groupNo ps = (0, t) := if_pos (List.all_eq_true.mpr near)
  refine runs.exec_moved (fun _ => rfl) rfl rfl ((if_neg (not_not.mpr none)).trans ?_)
  simp only [checked, no]
  rfl

/-- RET where a lane's stack is empty. -/
theorem exec_ret_of_empty (runs : Runs s g r .ret) (some_ : emptyStacks r ≠ 0) : exec .ret s = .next (s.finishFault s g r
    { lanes := emptyStacks r, fault := { code := 0x16, level := 0, addr := 0, detail := 0 } }) :=
  runs.exec_faults_of_wait (fun _ => rfl) rfl rfl (if_pos some_)

/-- The lanes that refill, each once. -/
theorem refillAccs_lanes (a : CrewAux) (r : Crew) :
    (refillAccs a r).map Prod.fst = (lanesOf r.head).filter fun l => decide (16 < (r.rstack l).depth) := by
  rw [refillAccs, List.map_map]
  exact List.map_id _

theorem claims_returns : Claims.Returns := by
  intro s g r runs
  refine ⟨fun chip => ?_, fun m empty some_ => ?_, ?_⟩
  · have lanes : (lanesOf r.head).filter (fun l => decide (16 < (r.rstack l).depth)) = [] :=
      List.filter_eq_nil_iff.mpr fun l mem deep => by
        obtain ⟨low, head⟩ := mem_lanesOf.mp mem
        have := (chip l low head).2
        have := of_decide_eq_true deep
        omega
    have checked : s.checkLanes (viaOf r) (s.ctxOf r) r.priv (refillAccs (s.auxOf g.crew) r) = (.ok [], s) := by
      rw [refillAccs, lanes]
      rfl
    have moved := r.movesStacks r.head (fun l k => k.pop (s.auxOf g.crew).rsEnt (refillOf (s.retLoads s g r []).1 l))
      fun l => (r.rstack l).top
    exact ⟨_, moved.rest, moved.lanes, moved.pcs, exec_ret_of_checked runs (fun l low head => (chip l low head).1) checked (by simp)⟩
  · have eq : emptyStacks r = m := BitVec.eq_of_getLsbD_eq fun l low => by rw [getLsbD_emptyStacks low, empty l low]
    rw [← eq] at some_ ⊢
    exact exec_ret_of_empty runs some_
  · intro t ps filled a checked free room
    have lanes : ps.map Prod.fst = (lanesOf r.head).filter fun l => decide (16 < (r.rstack l).depth) :=
      (State.checkLanes_lanes checked).trans (refillAccs_lanes a r)
    have near : ∀ p ∈ ps, t.isLocal p.2.1 = true := fun p mem => (State.l1Able_iff.mp (free p mem).1).1
    have lines : ∀ p ∈ ps, ∀ i, i < 8 → p.2.1.ckey ((p.2.2 + i) / 128) ∈ linesAt (ps.map (·.2)) 8 := fun p mem i low =>
      List.mem_eraseDups.mpr (List.mem_flatMap.mpr ⟨p.2, List.mem_map_of_mem mem, List.mem_map.mpr ⟨i, List.mem_range.mpr low, rfl⟩⟩)
    have moved := r.movesStacks r.head (fun l k => k.pop a.rsEnt (refillOf (s.retLoads t g r ps).1 l)) fun l => (r.rstack l).top
    refine ⟨_, _, (State.refills_loaded (va := refillAddr a r) (no := 0) room ps free lines).1.only, moved.rest, fun l low out => ?_,
      fun l low head chip => ?_, fun pre p post split leaves => ?_, moved.pcs,
      exec_ret_of_checked runs filled checked near⟩
    · rw [moved.lanes l low, out]
      rfl
    · rw [moved.lanes l low, if_pos head]
      exact RStack.pop_of_chip chip _ _ _
    · have distinct : (ps.map Prod.fst).Nodup := lanes ▸ (pairwise_lanesOf r.head).nodup.filter _
      subst split
      have deep := List.mem_of_mem_filter (lanes ▸ List.mem_map_of_mem (List.mem_append_right pre List.mem_cons_self))
      obtain ⟨low, head⟩ := mem_lanesOf.mp deep
      rw [moved.lanes _ low, if_pos head, State.retLoads, State.refillOf_refills_eq_sees room free lines distinct leaves]

/-- Settles O25: a push and a pop are one change of each lane's stack; the loads of the refills leave each other's bytes, where the caches
have room for their lines. -/
theorem callsAndReturns : Obligations.CallsAndReturns := ⟨claims_calls, claims_returns, claims_returnStacksNest⟩

end Sys2Proof.Machine

/-!
The instructions that write one register of the crew: ROUTESET, the FFLAGS writes, RNGKEY, GANG and WRSV (06 R157, R163; 08 R220; 10 R271,
R274).
-/

namespace Sys2Proof.Machine

variable {s : State} {g : Issue} {r : Crew} {a : SReg}

/-! ## The values written -/

theorem toNat_append_eq_add {m n : Nat} (x : BitVec m) (y : BitVec n) : (x ++ y).toNat = x.toNat * 2 ^ n + y.toNat := by
  rw [BitVec.toNat_append, ← Nat.shiftLeft_add_eq_or_of_lt y.isLt, Nat.shiftLeft_eq]

/-- The control word that ROUTESET joins from five lanes, of which the last gives its low 16 bits (06 R157). -/
theorem routeWord_eq (v : Nat → Word) : (v 4).setWidth 16 ++ v 3 ++ v 2 ++ v 1 ++ v 0 =
    BitVec.ofNat 144 (((List.range 5).map fun j => (v j).toNat * 2 ^ (32 * j)).sum) := by
  have sum : ((List.range 5).map fun j => (v j).toNat * 2 ^ (32 * j)).sum = (v 0).toNat + (v 1).toNat * 2 ^ 32 + (v 2).toNat * 2 ^ 64 +
      (v 3).toNat * 2 ^ 96 + (v 4).toNat * 2 ^ 128 := by
    simp [List.sum_range_succ]
  refine BitVec.eq_of_toNat_eq ?_
  simp only [toNat_append_eq_add, BitVec.toNat_setWidth, BitVec.toNat_ofNat, sum]
  omega

/-- WRSV writes the count that the group's own completion steps to the operand (10 R274). -/
theorem setWidth_sub_one (v : DWord) : v.setWidth 48 - 1 = BitVec.ofNat 48 (v.toNat + 2 ^ 48 - 1) := by
  refine BitVec.eq_of_toNat_eq ?_
  simp only [BitVec.toNat_sub, BitVec.toNat_setWidth, BitVec.toNat_ofNat, BitVec.ofNat_eq_ofNat]
  omega

/-! ## The instructions whose operand can fault -/

/-- The crew with gang register `v`: the other fields of its mode word stay, and the word's reserved bits are 0. -/
def Crew.setGang (r : Crew) (v : BitVec 48) : Crew := { r with mode := modeWord r.matrix (r.mode.extractLsb' 1 3) r.priv v }

theorem Crew.gang_setGang (r : Crew) (v : BitVec 48) : (r.setGang v).gang = v := gang_modeWord _ _ _ _

theorem Crew.matrix_setGang (r : Crew) (v : BitVec 48) : (r.setGang v).matrix = r.matrix := matrix_modeWord _ _ _ _

theorem Crew.pair_setGang (r : Crew) (v : BitVec 48) : (r.setGang v).pair = r.pair := congrArg BitVec.toNat (pair_modeWord _ _ _ _)

theorem Crew.priv_setGang (r : Crew) (v : BitVec 48) : (r.setGang v).priv = r.priv := priv_modeWord _ _ _ _

theorem exec_gang_of_passes (runs : Runs s g r (.gang a)) (passes : s.gangFaultOf r (r.sreg a) = none) :
    exec (.gang a) s = .next (s.finish (s.putCrew g.crew (r.setGang ((r.sreg a).setWidth 48))) g r) := by
  rw [BitVec.setWidth_eq_extractLsb' (by decide)]
  exact runs.exec_eq (fun _ => rfl) rfl (by simp only [passes]; rfl)

theorem exec_wrsv_of_lt {id : BitVec 5} (runs : Runs s g r (.wrsv a id)) (low : (r.sreg a).toNat < 2 ^ 48) :
    exec (.wrsv a id) s =
      .next (s.finish (s.putCrew g.crew { r with retired := BitVec.ofNat 48 ((r.sreg a).toNat + 2 ^ 48 - 1) }) g r) := by
  have clear : ¬ (r.sreg a).extractLsb' 48 16 ≠ 0 := by
    rw [extract_ne_zero_iff, Nat.div_eq_of_lt low]
    exact not_not.mpr rfl
  rw [← setWidth_sub_one]
  exact runs.exec_eq (fun _ => rfl) rfl (if_neg clear)

/-- Settles O23: each instruction is one change of the crew's record; GANG keeps the other fields of the mode word, and WRSV writes the
count one step back, since its own completion counts. -/
theorem crewRegisterWrites : Obligations.CrewRegisterWrites := by
  intro s g r a _
  refine ⟨fun q b runs => ⟨_, r.setsQ q _, ?routeset⟩, fun runs => ?fwflags, fun runs => ?fcflags,
    fun runs => ⟨_, r.setsS a _, ?frcflags⟩, fun runs => ?rngkey, fun runs passes => ?gang, fun _ => exec_wrsv_of_lt⟩
  case routeset =>
    rw [← routeWord_eq fun j => s.getV r b.toNat j]
    exact runs.exec_eq (fun _ => rfl) rfl rfl
  case frcflags =>
    rw [BitVec.ofNat_toNat]
    exact runs.exec_eq (fun _ => rfl) rfl rfl
  case gang =>
    exact ⟨_, r.gang_setGang _, r.matrix_setGang _, r.pair_setGang _, r.priv_setGang _, rfl, exec_gang_of_passes runs passes⟩
  case fwflags | fcflags | rngkey => exact runs.exec_eq (fun _ => rfl) rfl rfl

end Sys2Proof.Machine

/-!
Tiles as the bank's tables hold them: TILEDEF, TILESET and TILEQ (07 R177-R179, Table 7.3; 11 Table 11.3).
-/

namespace Sys2Proof.Machine

variable {s : State} {g : Issue} {r : Crew} {t : TReg}

/-- The checks of TILEDEF with their codes, in the order of 07 R177's table, on the numbers that the operand's fields are. -/
def State.tiledefChecks (s : State) (r : Crew) (t : TReg) (v : Nat) : List (Bool × BitVec 8) :=
  let e := s.tile r t.toNat
  [(decide (2 ^ 42 ≤ v) || decide (4 ≤ v / 2 ^ 38 % 16), 0x08), (decide (v % 128 ≠ 0), 0x05),
    (decide (v / 2 ^ 22 % 2 ^ 16 = 0) ||
      decide (1024 * (s.packetOf r).bankKib.toNat < v % 2 ^ 22 + 128 * (v / 2 ^ 22 % 2 ^ 16)), 0x09),
    (decide (s.tileCount r ≤ t.toNat) || decide (e.state = .filling) || decide (e.state = .draining) || decide (e.pend ≠ 0), 0x0A)]

/-- A chain of four checks answers the code of the first that holds. -/
theorem ite_chain_eq_find? {α : Type} (a b c d : Bool) (w x y z : α) :
    (if a then some w else if b then some x else if c then some y else if d then some z else none) =
      ([(a, w), (b, x), (c, y), (d, z)].find? (·.1)).map (·.2) := by
  cases a with
  | true => rfl
  | false =>
    cases b with
    | true => rfl
    | false =>
      cases c with
      | true => rfl
      | false => cases d <;> rfl

theorem State.tiledefFault_eq (s : State) (r : Crew) (t : TReg) (v : DWord) :
    s.tiledefFault r t v = ((s.tiledefChecks r t v.toNat).find? (·.1)).map (·.2) := by
  have high : v.extractLsb' 42 22 ≠ 0 ↔ 2 ^ 42 ≤ v.toNat := by
    have := v.isLt
    rw [extract_ne_zero_iff]
    omega
  have aligned : v.toNat % 2 ^ 22 % 128 = v.toNat % 128 := Nat.mod_mod_of_dvd _ (by decide)
  rw [State.tiledefChecks, ← ite_chain_eq_find?, State.tiledefFault]
  simp only [high, extract_toNat, show (2 : Nat) ^ 4 = 16 from rfl, Nat.pow_zero, Nat.div_one, aligned, Bool.or_eq_true,
    decide_eq_true_eq, or_assoc]

theorem exec_tiledef {a : SReg} (runs : Runs s g r (.tiledef t a)) :
    ((s.tiledefChecks r t (r.sreg a).toNat).find? (·.1) = none → exec (.tiledef t a) s = .next (s.finish (s.putTile r.block r.part t.toNat
        { offset := (r.sreg a).extractLsb' 0 22, size := (r.sreg a).extractLsb' 22 16, swz := (r.sreg a).extractLsb' 38 4
          state := .empty, pend := 0 }) g r)) ∧
    ∀ x, (s.tiledefChecks r t (r.sreg a).toNat).find? (·.1) = some x →
      exec (.tiledef t a) s = .next (s.finishFault s g r (raised r x.2)) := by
  have fault := s.tiledefFault_eq r t (r.sreg a)
  refine ⟨fun passes => ?_, fun x fails => ?_⟩
  · rw [passes] at fault
    exact runs.exec_eq (fun _ => rfl) rfl (by simp only [fault]; rfl)
  · rw [fails] at fault
    exact runs.exec_faults (fun _ => rfl) rfl (by simp only [fault]; rfl)

/-- A field above the bits that a word has adds its place's multiple. -/
theorem toNat_or_place {n k : Nat} {a : DWord} (x : BitVec n) (low : a.toNat < 2 ^ k) (fits : k + n ≤ 64) :
    (a ||| (x.setWidth 64 <<< k)).toNat = a.toNat + 2 ^ k * x.toNat := by
  have below : x.toNat * 2 ^ k < 2 ^ 64 := calc
    x.toNat * 2 ^ k < 2 ^ n * 2 ^ k := Nat.mul_lt_mul_of_pos_right x.isLt (Nat.two_pow_pos k)
    _ = 2 ^ (k + n) := by rw [Nat.pow_add, Nat.mul_comm]
    _ ≤ 2 ^ 64 := Nat.pow_le_pow_right (by decide) fits
  have place : ((x.setWidth 64 : DWord) <<< k).toNat = x.toNat <<< k := by
    rw [BitVec.toNat_shiftLeft, BitVec.toNat_setWidth_of_le (by omega), Nat.shiftLeft_eq, Nat.mod_eq_of_lt below]
  rw [BitVec.toNat_or, place, Nat.or_comm, ← Nat.shiftLeft_add_eq_or_of_lt low, Nat.shiftLeft_eq]
  ring

/-- The bits of a tile's entry lie side by side (07 Table 7.3). -/
theorem TileEntry.bits_eq (e : TileEntry) : e.bits = BitVec.ofNat 64 (e.offset.toNat + 2 ^ 22 * e.size.toNat + 2 ^ 38 * e.swz.toNat +
    2 ^ 42 * e.state.toBits.toNat + 2 ^ 48 * e.pend.toNat) := by
  obtain ⟨offset, size, swz, state, pend⟩ := e
  have fields : TileEntry.bits ⟨offset, size, swz, state, pend⟩ = offset.setWidth 64 ||| (size.setWidth 64 <<< 22) |||
      (swz.setWidth 64 <<< 38) ||| (state.toBits.setWidth 64 <<< 42) ||| (pend.setWidth 64 <<< 48) := by
    cases state <;> rfl
  have first : (offset.setWidth 64 : DWord).toNat = offset.toNat := BitVec.toNat_setWidth_of_le (by decide)
  have := offset.isLt
  have := size.isLt
  have := swz.isLt
  have := state.toBits.isLt
  have second := toNat_or_place (a := offset.setWidth 64) (k := 22) size (by omega) (by decide)
  have third := toNat_or_place (k := 38) swz (by rw [second]; omega) (by decide)
  have fourth := toNat_or_place (k := 42) state.toBits (by rw [third]; omega) (by decide)
  have fifth := toNat_or_place (k := 48) pend (by rw [fourth]; omega) (by decide)
  rw [fields, ← first, ← second, ← third, ← fourth, ← fifth, BitVec.ofNat_toNat, BitVec.setWidth_eq]

/-- Settles O36: each answer is the first of the spec's checks that holds, else one write of the tile or of the scalar register. -/
theorem tiles : Obligations.Tiles := by
  intro s g r t e
  refine ⟨fun a runs => exec_tiledef runs, fun st runs => ⟨fun low idle sized => ?_, fun bad => ?_⟩,
    fun d runs => ⟨fun low => ⟨_, r.setsS d _, ?_⟩, fun high => ?_⟩⟩
  · have passes : ¬ (s.tileCount r ≤ t.toNat ∨ e.pend ≠ 0 ∨ e.size = 0) :=
      not_or.mpr ⟨Nat.not_le.mpr low, not_or.mpr ⟨not_not.mpr idle, sized⟩⟩
    refine runs.exec_eq (fun _ => rfl) rfl ((if_neg passes).trans ?_)
    simp only [beq_iff_eq]
    rfl
  · exact runs.exec_faults (fun _ => rfl) rfl (if_pos bad)
  · rw [← e.bits_eq]
    exact runs.exec_eq (fun _ => rfl) rfl (if_neg (Nat.not_le.mpr low))
  · exact runs.exec_faults (fun _ => rfl) rfl (if_pos high)

end Sys2Proof.Machine

/-!
Barriers: what an arrival does, and when a generation completes (07 R191-R194).
-/

namespace Sys2Proof.Machine

variable {s u : State} {g : Issue} {r : Crew}

theorem claims_barrierGroups : Claims.BarrierGroups := by
  intro s g r b arrived
  exact ⟨fun runs => runs.exec_of_wait (fun _ => rfl) rfl rfl rfl, fun runs => runs.exec_of_wait (fun _ => rfl) rfl rfl rfl,
    fun runs => runs.exec_of_wait (fun _ => rfl) rfl rfl rfl, fun runs => runs.exec_eq (fun _ => rfl) rfl rfl⟩

/-! ## One generation -/

/-- Clear a barrier's bit in the arrivals and holds of a crew. -/
def CrewAux.clear (a : CrewAux) (i : Nat) : CrewAux :=
  { a with arrived := a.arrived &&& ~~~ (1#16 <<< i), hold := a.hold &&& ~~~ (1#16 <<< i), holdIn := a.holdIn &&& ~~~ (1#16 <<< i) }

/-- Whether the generation of barrier i is complete among crews. -/
def State.barrierDone (s : State) (cs : Tbl Crew) (i : Nat) : Bool :=
  (cs.any fun e => (s.auxOf e.1).arrived.getLsbD i) && cs.all fun e => e.2.phase == .exited || (s.auxOf e.1).arrived.getLsbD i

/-- One crew leaves a generation: it acquires, and its arrival and holds clear. -/
def State.leave (s : State) (i : Nat) (e : Nat × Crew) : State :=
  (s.acquireAt e.2.core (s.wide e.2 .block)).onAux e.1 fun a => a.clear i

/-- The next generation of barrier i of a block. -/
def Block.nextGen (k : Block) (i : Nat) : Block := { k with gens := Sparse.put 0 k.gens i (Sparse.get 0 k.gens i + 1), epoch := k.epoch + 1 }

/-- Complete the generation of barrier i among the crews of a block, where it is complete. -/
def State.settleOne (b : Nat) (cs : Tbl Crew) (s : State) (i : Nat) : State :=
  if s.barrierDone cs i then
    let v := cs.foldl (fun v e => v.leave i e) s
    { v with blocks := v.blocks.upd b fun k => k.nextGen i }
  else s

theorem State.settle_eq {b : Nat} {k : Block} {l : Launch} (block : s.blocks.find b = some k) (launch : s.launches.find k.launch = some l) :
    s.settle b = (List.range l.packet.barriers).foldl (State.settleOne b (s.crewsOf b)) s := by
  simp only [State.settle, block, launch]
  rfl

/-- Barrier i's bits of a crew: whether it has arrived, its hold, and its hold of the handler that runs. -/
def CrewAux.barrierBits (a : CrewAux) (i : Nat) : Bool × Bool × Bool := (a.arrived.getLsbD i, a.hold.getLsbD i, a.holdIn.getLsbD i)

theorem getLsbD_clear_bit (x : BitVec 16) {i : Nat} (low : i < 16) (j : Nat) :
    (x &&& ~~~ (1#16 <<< j)).getLsbD i = if i = j then false else x.getLsbD i := by
  rw [← BitVec.twoPow_eq, BitVec.getLsbD_and, BitVec.getLsbD_not, BitVec.getLsbD_twoPow]
  by_cases same : i = j
  · subst same
    simp [low]
  · simp [low, same, Ne.symm same]

theorem CrewAux.barrierBits_clear (a : CrewAux) {i : Nat} (low : i < 16) (j : Nat) :
    (a.clear j).barrierBits i = if i = j then (false, false, false) else a.barrierBits i := by
  simp only [CrewAux.barrierBits, CrewAux.clear, getLsbD_clear_bit _ low]
  split <;> rfl

/-- The number of the generation of a block's barrier. -/
def State.generation (s : State) (b i : Nat) : Option Nat := (s.blocks.find b).map fun k => Sparse.get 0 k.gens i

theorem State.auxOf_leave (s : State) (i : Nat) (e : Nat × Crew) (x : Nat) :
    (s.leave i e).auxOf x = if x = e.1 then (s.auxOf e.1).clear i else s.auxOf x := by
  have acquired (c : Nat) : (s.acquireAt e.2.core (s.wide e.2 .block)).auxOf c = s.auxOf c := by
    unfold State.acquireAt
    split <;> rfl
  rw [State.leave, State.auxOf_onAux, acquired, acquired]

theorem State.blocks_leave (s : State) (i : Nat) (e : Nat × Crew) : (s.leave i e).blocks = s.blocks := by
  unfold State.leave State.acquireAt
  split <;> rfl

section
variable {b i : Nat} {cs : Tbl Crew}

/-- When all crews leave a generation, its bits clear and the other barriers' stay. -/
theorem State.foldl_leave (low : i < 16) (j : Nat) (cs : Tbl Crew) (s : State) :
    (cs.foldl (fun v e => v.leave j e) s).blocks = s.blocks ∧
    ∀ x, ((cs.foldl (fun v e => v.leave j e) s).auxOf x).barrierBits i =
      if i = j ∧ x ∈ cs.map Prod.fst then (false, false, false) else (s.auxOf x).barrierBits i := by
  induction cs generalizing s with
  | nil => exact ⟨rfl, fun x => by simp⟩
  | cons e cs ih =>
    obtain ⟨blocks, bits⟩ := ih (s.leave j e)
    refine ⟨blocks.trans (s.blocks_leave j e), fun x => (bits x).trans ?_⟩
    rw [State.auxOf_leave]
    by_cases here : x = e.1
    · subst here
      simp only [List.map_cons, List.mem_cons, true_or, and_true, if_true, CrewAux.barrierBits_clear _ low]
      split <;> simp_all
    · simp only [List.map_cons, List.mem_cons, here, false_or, if_false]

/-- From s to u barrier i's bits of some crews stay, and so does its generation in block b. -/
structure KeepsBarrier (b i : Nat) (cs : Tbl Crew) (s u : State) : Prop where
  bits : ∀ e ∈ cs, (u.auxOf e.1).barrierBits i = (s.auxOf e.1).barrierBits i
  generation : u.generation b i = s.generation b i

/-- Whether a generation is complete depends on its barrier's bits alone. -/
theorem KeepsBarrier.barrierDone (h : KeepsBarrier b i cs s u) : u.barrierDone cs i = s.barrierDone cs i := by
  have arrived : ∀ e ∈ cs, (u.auxOf e.1).arrived.getLsbD i = (s.auxOf e.1).arrived.getLsbD i := fun e mem =>
    congrArg Prod.fst (h.bits e mem)
  rw [State.barrierDone, State.barrierDone]
  congr 1
  · refine Bool.eq_iff_iff.mpr ?_
    simp only [List.any_eq_true]
    exact exists_congr fun e => and_congr_right fun mem => by rw [arrived e mem]
  · refine Bool.eq_iff_iff.mpr ?_
    simp only [List.all_eq_true]
    exact forall₂_congr fun e mem => by rw [arrived e mem]

theorem State.settleOne_of_done (done : s.barrierDone cs i = true) (low : i < 16) :
    (∀ e ∈ cs, ((State.settleOne b cs s i).auxOf e.1).barrierBits i = (false, false, false)) ∧
    (State.settleOne b cs s i).generation b i = (s.generation b i).map (· + 1) := by
  obtain ⟨blocks, bits⟩ := State.foldl_leave low i cs s
  rw [State.settleOne, if_pos done]
  refine ⟨fun e mem => (bits e.1).trans (if_pos ⟨rfl, List.mem_map_of_mem mem⟩), ?_⟩
  simp only [State.generation, blocks, Tbl.find_upd, if_true, Option.map_map]
  exact congrArg (fun f => Option.map f _) (funext fun k => by simp [Block.nextGen])

/-- Completing another barrier's generation keeps this one's. -/
theorem State.settleOne_keeps {j : Nat} (other : j ≠ i) (low : i < 16) (s : State) : KeepsBarrier b i cs s (State.settleOne b cs s j) := by
  obtain ⟨blocks, bits⟩ := State.foldl_leave low j cs s
  rw [State.settleOne]
  split
  · refine ⟨fun e _ => (bits e.1).trans (if_neg fun both => other both.1.symm), ?_⟩
    simp only [State.generation, blocks, Tbl.find_upd, if_true, Option.map_map]
    exact congrArg (fun f => Option.map f _) (funext fun k => by simp [Block.nextGen, other.symm])
  · exact ⟨fun _ _ => rfl, rfl⟩

theorem KeepsBarrier.trans {v : State} (h : KeepsBarrier b i cs s u) (k : KeepsBarrier b i cs u v) : KeepsBarrier b i cs s v :=
  ⟨fun e mem => (k.bits e mem).trans (h.bits e mem), k.generation.trans h.generation⟩

theorem State.foldl_settleOne_keeps {js : List Nat} (others : i ∉ js) (low : i < 16) (s : State) :
    KeepsBarrier b i cs s (js.foldl (State.settleOne b cs) s) := by
  induction js generalizing s with
  | nil => exact ⟨fun _ _ => rfl, rfl⟩
  | cons j js ih =>
    obtain ⟨here, later⟩ := not_or.mp (List.mem_cons.not.mp others)
    exact (State.settleOne_keeps (Ne.symm here) low s).trans (ih later _)

/-- Settling every barrier of a block settles each once. -/
theorem State.foldl_settleOne {n : Nat} (mem : i < n) (low : i < 16) (s : State) :
    (s.barrierDone cs i = true →
      (∀ e ∈ cs, (((List.range n).foldl (State.settleOne b cs) s).auxOf e.1).barrierBits i = (false, false, false)) ∧
      ((List.range n).foldl (State.settleOne b cs) s).generation b i = (s.generation b i).map (· + 1)) ∧
    (s.barrierDone cs i = false → KeepsBarrier b i cs s ((List.range n).foldl (State.settleOne b cs) s)) := by
  obtain ⟨pre, post, split⟩ := List.append_of_mem (List.mem_range.mpr mem)
  have nodup : (pre ++ i :: post).Nodup := split ▸ List.nodup_range
  rw [List.nodup_middle, List.nodup_cons, List.mem_append, not_or] at nodup
  obtain ⟨⟨notPre, notPost⟩, -⟩ := nodup
  have before := State.foldl_settleOne_keeps (b := b) (cs := cs) notPre low s
  have after := State.foldl_settleOne_keeps (b := b) (cs := cs) notPost low
    (State.settleOne b cs (pre.foldl (State.settleOne b cs) s) i)
  rw [split, List.foldl_append, List.foldl_cons]
  refine ⟨fun done => ?_, fun open_ => before.trans ?_⟩
  · obtain ⟨cleared, next⟩ := State.settleOne_of_done (b := b) (before.barrierDone.trans done) low
    exact ⟨fun e mem => (after.bits e mem).trans (cleared e mem), by rw [after.generation, next, before.generation]⟩
  · rw [State.settleOne, before.barrierDone, open_] at after ⊢
    exact after

end

theorem claims_barriersComplete : Claims.BarriersComplete := by
  intro s b i k l block launch mem low cs done
  have complete : s.barrierDone cs i = true ↔ done := by
    simp [State.barrierDone, done, List.any_eq_true, List.all_eq_true]
  have number : s.generation b i = some (Sparse.get 0 k.gens i) := by rw [State.generation, block]; rfl
  have read {u : State} {n : Nat} (h : u.generation b i = some n) : ∃ k', u.blocks.find b = some k' ∧ Sparse.get 0 k'.gens i = n :=
    Option.map_eq_some_iff.mp h
  obtain ⟨completes, keeps⟩ := State.foldl_settleOne (b := b) (cs := cs) mem low s
  rw [State.settle_eq block launch]
  refine ⟨fun holds => ?_, fun fails => ?_⟩
  · obtain ⟨cleared, next⟩ := completes (complete.mpr holds)
    refine ⟨read (by rw [next, number]; rfl), fun e mem => ?_⟩
    simpa [CrewAux.barrierBits] using cleared e mem
  · have kept := keeps (Bool.eq_false_iff.mpr fun holds => fails (complete.mp holds))
    refine ⟨read (kept.generation.trans number), fun e mem => ?_⟩
    simpa [CrewAux.barrierBits] using kept.bits e mem

/-- Settles O35: an arrival is one change of the crew's record after a release; each barrier is settled once, and settling one leaves the
others' bits and numbers. -/
theorem barriers : Obligations.Barriers := ⟨claims_barrierGroups, claims_barriersComplete⟩

end Sys2Proof.Machine

/-!
Stores and cache maintenance as they issue: the bytes of a lane's registers, and the event that joins the crew's queue (07 R169, R173,
R196).
-/

namespace Sys2Proof.Machine

/-! ## Bytes of a number and of registers -/

theorem leBytes_eq_map (n v : Nat) : leBytes n v = (List.range n).map fun i => BitVec.ofNat 8 (v / 256 ^ i) := by
  induction n generalizing v with
  | zero => rfl
  | succ n ih =>
    rw [leBytes, ih, List.range_succ_eq_map, List.map_cons, List.map_map, pow_zero, Nat.div_one]
    exact congrArg _ (List.map_congr_left fun i _ => by simp only [Function.comp, Nat.succ_eq_add_one, pow_succ', Nat.div_div_eq_div_mul])

/-- Entries in groups of four are entries in one row. -/
theorem flatMap_range_four {α : Type} (f : Nat → Nat → α) (n : Nat) :
    ((List.range n).flatMap fun i => (List.range 4).map (f i)) = (List.range (4 * n)).map fun j => f (j / 4) (j % 4) := by
  induction n with
  | zero => rfl
  | succ n ih =>
    rw [List.range_succ (n := n), List.flatMap_append, ih, Nat.mul_succ, List.range_add, List.map_append, List.map_map, List.flatMap_singleton]
    refine congrArg _ (List.map_congr_left fun j low => ?_)
    have low : j < 4 := List.mem_range.mp low
    rw [Function.comp, show (4 * n + j) / 4 = n by omega, show (4 * n + j) % 4 = j by omega]

variable {s t u : State} {g : Issue} {r : Crew} {i : Instr}

/-- The bytes that a store takes from registers are the spec's. -/
theorem regData_eq (d : VReg) (n : Nat) (s : State) (r : Crew) : regData d n s r = Spec.lowBytes s r d n := by
  funext l
  have enough : min n (4 * ((n + 3) / 4)) = n := by omega
  simp only [regData, State.regBytes, leBytes_eq_map, flatMap_range_four, ← List.map_take, List.take_range, enough, Spec.lowBytes]

theorem head?_lanesOf (m : LaneMask) : (lanesOf m).head? = (List.range 32).find? fun l => m.getLsbD l := List.head?_filter

/-! ## The event of a group -/

namespace OnlyMemory

variable {c : Nat}

theorem touch (h : OnlyMemory s u c) (t : MemTag) (pa : Nat) : OnlyMemory s (u.touch c t pa) c := by
  unfold State.touch
  split
  · exact h.setTouched _
  · exact h

theorem setStoreQ (h : OnlyMemory s u c) (q : CrewAux → List StoreEvent) : OnlyMemory s (u.onAux c fun a => { a with storeQ := q a }) c where
  rest := h.rest
  links := h.links
  hostIf := h.hostIf
  others x other := by rw [State.auxOf_onAux, if_neg other]; exact h.others x other
  own := by rw [State.auxOf_onAux, if_pos rfl]; exact h.own
  cores := h.cores

theorem setNextId (h : OnlyMemory s u c) (n : Nat) : OnlyMemory s { u with nextId := n } c :=
  ⟨h.rest, h.links, h.hostIf, h.others, h.own, h.cores⟩

end OnlyMemory

/-- From u to v, crew c's record of the lines it has touched grows alone. -/
structure Touches (u v : State) (c : Nat) : Prop where
  only : OnlyMemory u v c
  mem : v.mem = u.mem
  cores : v.cores = u.cores
  links : v.links = u.links
  hostIf : v.hostIf = u.hostIf
  nextId : v.nextId = u.nextId
  storeQ : (v.auxOf c).storeQ = (u.auxOf c).storeQ

theorem Touches.touch {v : State} {c : Nat} (h : Touches u v c) (t : MemTag) (pa : Nat) : Touches u (v.touch c t pa) c := by
  unfold State.touch
  split
  · exact ⟨h.only.setTouched _, h.mem, h.cores, h.links, h.hostIf, h.nextId, by rw [State.auxOf_onAux, if_pos rfl]; exact h.storeQ⟩
  · exact h

theorem State.foldl_touch {α : Type} (c : Nat) (tag : α → MemTag) (pa : α → Nat) (xs : List α) (u : State) :
    Touches u (xs.foldl (fun v x => v.touch c (tag x) (pa x)) u) c := by
  suffices ∀ v, Touches u v c → Touches u (xs.foldl (fun v x => v.touch c (tag x) (pa x)) v) c from
    this u ⟨.refl u c, rfl, rfl, rfl, rfl, rfl, rfl⟩
  induction xs with
  | nil => exact fun v h => h
  | cons x xs ih => exact fun v h => ih _ (h.touch _ _)

/-- The event that a group's lanes make. -/
def laneEvent (seq c : Nat) (kind : StoreKind) (release : Option Scope) (cache : CachePolicy) (addr : DWord) (width : Nat)
    (lanes : List (MemTag × Nat × List Byte)) : StoreEvent :=
  { seq := seq, crew := c, addr := addr, kind := kind, release := release, cache := cache, width := width
    bytes := lanes.flatMap fun x =>
      (List.range x.2.2.length).map fun i => (x.1, ({ pa := x.2.1 + i, byte := x.2.2.getD i 0 } : StoreByte)) }

theorem State.storeEvent_nil {c : Nat} {kind : StoreKind} {release : Option Scope} {cache : CachePolicy} {addr : DWord} {width : Nat} :
    u.storeEvent c kind release cache addr width [] = u := rfl

/-- A group with lanes leaves its event at the end of its crew's queue. -/
theorem State.storeEvent_joins (u : State) (c : Nat) (kind : StoreKind) (release : Option Scope) (cache : CachePolicy) (addr : DWord)
    (width : Nat) {lanes : List (MemTag × Nat × List Byte)} (some : lanes ≠ []) :
    let v := u.storeEvent c kind release cache addr width lanes
    OnlyMemory u v c ∧ v.mem = u.mem ∧ v.cores = u.cores ∧ v.links = u.links ∧ v.hostIf = u.hostIf ∧
      (v.auxOf c).storeQ = (u.auxOf c).storeQ ++ [laneEvent u.nextId c kind release cache addr width lanes] ∧ v.nextId = u.nextId + 1 := by
  obtain ⟨only, mem, cores, links, hostIf, nextId, storeQ⟩ := State.foldl_touch c (fun x : MemTag × Nat × List Byte => x.1) (·.2.1) lanes u
  have lanes' : lanes.isEmpty = false := List.isEmpty_eq_false_iff.mpr some
  simp only [State.storeEvent, lanes', Bool.false_eq_true, if_false, State.auxOf_onAux, if_true]
  refine ⟨(only.setNextId _).setStoreQ _, mem, cores, links, hostIf, ?_, congrArg (· + 1) nextId⟩
  rw [nextId, ← storeQ]
  rfl

/-! ## The groups -/

/-- What a store or maintenance group does once its lanes have been checked: a release of SYSTEM scope first, under reason 4 while a
peer has a write to acknowledge, and then the event. -/
def State.storeGroup (t : State) (g : Issue) (r : Crew) (kind : StoreKind) (rel : Bool) (sc : Scope) (cache : CachePolicy) (addr : DWord)
    (n : Nat) (lanes : List (MemTag × Nat × List Byte)) : Res :=
  t.releasing g.crew r (rel && sc == .system) sc fun u =>
    let v := if rel then u.releaseAt r.core (u.wide r sc) else u
    .next (v.storeEvent g.crew kind (if rel then some sc else none) cache addr n lanes)

section
variable {n : Nat} {k : KReg} {addr : State → Issue → Crew → Nat → DWord} {at_ : Nat → DWord} {ps : List (Nat × MemTag × Nat)}

theorem storeBody_checked {data : State → Crew → Nat → List Byte} {bytes : Nat → List Byte} (here : addr s g r = at_)
    (there : data s r = bytes)
    (checked : s.checkLanes (viaOf r) (s.ctxOf r) r.priv (lanesAcc (r.active k) at_ n n .write false true) = (.ok ps, t)) :
    let o := orderOf g.hints (.plain, .crew)
    storeBody n k addr data s g r = t.storeGroup g r .write o.1.rel o.2 (cacheOf g.hints)
      ((((List.range 32).find? fun l => (r.active k).getLsbD l).map at_).getD 0) n (ps.map fun p => (p.2.1, p.2.2, bytes p.1)) := by
  subst here there
  simp only [storeBody, checked, head?_lanesOf]
  rfl

theorem maintBody_checked {kind : StoreKind} {f : Bool} {a : VReg} {b : SReg}
    (checked : s.checkLanes (viaOf r) (s.ctxOf r) r.priv (lanesAcc (r.active k) (Spec.addrForm s r g.hints f a b) 1 1 .maint false
      false) = (.ok ps, t)) (sc : Scope) :
    maintBody kind a b f k s g r = t.storeGroup g r kind false sc .dflt
      ((((List.range 32).find? fun l => (r.active k).getLsbD l).map (Spec.addrForm s r g.hints f a b)).getD 0) 1
      (ps.map fun p => (p.2.1, p.2.2, [0])) := by
  rw [← formOf_eq] at checked ⊢
  simp only [maintBody, checked, head?_lanesOf]
  rfl

end

/-- A releasing effect waits after its release under reason 4 while a peer has a write to acknowledge, and else goes on. -/
theorem State.releasing_eq (t : State) (c : Nat) (r : Crew) (rel : Bool) (sc : Scope) (k : State → Res) :
    let u := if rel then t.release c r sc else t
    (rel = true → sc = .system → u.awaiting = true → t.releasing c r rel sc k = .wait 4 u) ∧
    ((rel = true → sc = .system → u.awaiting = false) → t.releasing c r rel sc k = k u) := by
  cases rel with
  | false => exact ⟨fun h => Bool.noConfusion h, fun _ => rfl⟩
  | true =>
    refine ⟨fun _ system awaits => ?_, fun settled => ?_⟩
    · subst system
      exact if_pos awaits
    · refine if_neg (c := (t.release c r sc).unsettled sc = true) fun unsettled => ?_
      obtain ⟨system, awaits⟩ := (Bool.and_eq_true _ _).mp unsettled
      exact Bool.false_ne_true ((settled rfl (eq_of_beq system)).symm.trans awaits)

theorem State.storeGroup_eq (t : State) (g : Issue) (r : Crew) (kind : StoreKind) (rel : Bool) (sc : Scope) (cache : CachePolicy)
    (addr : DWord) (n : Nat) (lanes : List (MemTag × Nat × List Byte)) :
    let u0 := if rel && sc == .system then t.release g.crew r .system else t
    let u := if rel then u0.releaseAt r.core (u0.wide r sc) else u0
    (rel = true → sc = .system → u0.awaiting = true → t.storeGroup g r kind rel sc cache addr n lanes = .wait 4 u0) ∧
    ((rel = true → sc = .system → u0.awaiting = false) → t.storeGroup g r kind rel sc cache addr n lanes =
      .next (u.storeEvent g.crew kind (if rel then some sc else none) cache addr n lanes)) := by
  have scope : (if rel && sc == .system then t.release g.crew r sc else t) = if rel && sc == .system then t.release g.crew r .system else t := by
    split
    next both => rw [eq_of_beq ((Bool.and_eq_true _ _).mp both).2]
    next => rfl
  obtain ⟨waits, goes⟩ := t.releasing_eq g.crew r (rel && sc == .system) sc fun u =>
    let v := if rel then u.releaseAt r.core (u.wide r sc) else u
    .next (v.storeEvent g.crew kind (if rel then some sc else none) cache addr n lanes)
  rw [scope] at waits goes
  exact ⟨fun hr hs => waits (by rw [hr, hs]; rfl) hs, fun settled => goes fun both => settled ((Bool.and_eq_true _ _).mp both).1⟩

/-- A group that runs closes with what its effect leaves. -/
theorem Runs.exec_closes {wait : WaitFn} {body : BodyFn} {res : Res} (runs : Runs s g r i)
    (group : ∀ t, exec i t = runGroup i t wait body) (own : ownWait i = wait) (notRett : (i == Instr.rett) = false)
    (effect : body s g r = res) : exec i s = .next (g.close r (s.nested g.crew) false res) := by
  rw [group, runs.issues.run (own ▸ runs.own), notRett, effect]

/-- Each store or maintenance instruction is such a group. -/
theorem exec_of_stores {x : Spec.Store} {ps : List (Nat × MemTag × Nat)} (row : Spec.stores s r g.hints i = some x) (runs : Runs s g r i)
    (checked : s.checkLanes (viaOf r) (s.ctxOf r) r.priv (lanesAcc x.m x.addr x.n x.n
      (if x.kind = .write then .write else .maint) false (x.kind == .write)) = (.ok ps, t)) :
    let o := orderOf g.hints (.plain, .crew)
    let addr := (((List.range 32).find? fun l => x.m.getLsbD l).map x.addr).getD 0
    let res := t.storeGroup g r x.kind (x.kind == .write && o.1.rel) o.2 (if x.kind == .write then cacheOf g.hints else .dflt) addr x.n
      (ps.map fun p => (p.2.1, p.2.2, x.data p.1))
    exec i s = .next (g.close r (s.nested g.crew) false res) ∧ ∀ l, (x.data l).length = x.n := by
  have lowBytes_length (d : VReg) (n l : Nat) : (Spec.lowBytes s r d n l).length = n := by simp [Spec.lowBytes]
  unfold Spec.stores at row
  split at row <;> cases row
  · exact ⟨runs.exec_closes (fun _ => rfl) rfl rfl
      (storeBody_checked (formSA_eq s g r _ _) (regData_eq _ _ s r) checked), lowBytes_length _ _⟩
  · exact ⟨runs.exec_closes (fun _ => rfl) rfl rfl
      (storeBody_checked (formPair_eq s g r _ _) (regData_eq _ _ s r) checked), lowBytes_length _ _⟩
  · exact ⟨runs.exec_closes (fun _ => rfl) rfl rfl
      (storeBody_checked (formSA_eq s g r _ _) (regData_eq _ _ s r) checked), lowBytes_length _ _⟩
  · exact ⟨runs.exec_closes (fun _ => rfl) rfl rfl (maintBody_checked checked _), fun _ => rfl⟩
  · exact ⟨runs.exec_closes (fun _ => rfl) rfl rfl (maintBody_checked checked _), fun _ => rfl⟩

/-- Settles O29: every store or maintenance group is one `storeGroup`, which waits, or leaves one event. -/
theorem storesQueue : Obligations.StoresQueue := by
  intro s t g r i x ps row runs checked o rel u0 u low e
  obtain ⟨run, length⟩ := exec_of_stores row runs checked
  obtain ⟨waits, goes⟩ := t.storeGroup_eq g r x.kind rel o.2 (if x.kind == .write then cacheOf g.hints else .dflt)
    ((low.map x.addr).getD 0) x.n (ps.map fun p => (p.2.1, p.2.2, x.data p.1))
  refine ⟨fun hr hs ha => by rw [run, waits hr hs ha], fun settled => ⟨fun none => ?_, fun lanes => ?_⟩⟩
  · subst none
    rw [run, goes settled]
    rfl
  · obtain ⟨only, mem, cores, links, hostIf, storeQ, nextId⟩ := u.storeEvent_joins g.crew x.kind (if rel then some o.2 else none)
      (if x.kind == .write then cacheOf g.hints else .dflt) ((low.map x.addr).getD 0) x.n
      (lanes := ps.map fun p => (p.2.1, p.2.2, x.data p.1)) (fun nil => lanes (List.map_eq_nil_iff.mp nil))
    refine ⟨_, only, mem, cores, links, hostIf, storeQ.trans ?_, nextId, by rw [run, goes settled]; rfl⟩
    simp only [laneEvent, List.flatMap_map, length]
    rfl

end Sys2Proof.Machine

/-!
Atomics as they issue: the release, the lanes ascending, and the acquire (07 R182-R187).
-/

namespace Sys2Proof.Machine

variable {s t : State} {g : Issue} {r : Crew} {i : Instr}

/-- What an atomic's lanes do once checked and released: each in turn, then the acquire, and D is noted as returning. -/
def Spec.Atomic.lanes (x : Spec.Atomic) (s : State) (g : Issue) (r : Crew) (ps : List (Nat × MemTag × Nat)) (t1 : State) : State :=
  let o := orderOf g.hints (.plain, .device)
  let no := t1.groupNo ps
  let u := ps.foldl (fun u p =>
    let a := x.opnd s p.1
    let y := u.atomicLane g.crew r p.2.1 (cacheOf g.hints) p.2.2 x.n (x.f a)
      (.atomic (BitVec.ofNat 48 p.2.2) p.2.1.attr p.2.1.key x.req x.n a)
    x.put (y.2.claim u g.crew (x.addr p.1) no.1) p.1 y.1) no.2
  (if o.1.acq then u.acquire r o.2 else u).return g.crew (if x.m = 0 then [] else (List.range x.regs).map (x.d.toNat + ·)) []
    ((((List.range 32).filter x.m.getLsbD).map fun l => (x.addr l).toNat / 128).eraseDups.length) no.1

/-- An atomic's effect once its lanes have been checked: its lanes' work under its release. -/
def Spec.Atomic.effect (x : Spec.Atomic) (s t : State) (g : Issue) (r : Crew) (ps : List (Nat × MemTag × Nat)) : Res :=
  let o := orderOf g.hints (.plain, .device)
  t.releasing g.crew r o.1.rel o.2 fun t1 => .next (x.lanes s g r ps t1)

/-- No lane crosses, where none of a mask does. -/
theorem crossFaults_eq_nil {n : Nat} {m : LaneMask} {at_ : Nat → DWord}
    (fits : n = 64 → ∀ l, l < 32 → m.getLsbD l = true → (at_ l).toNat % 4096 + 64 ≤ 4096) :
    ((lanesOf m).filterMap fun l => (crossFault n (at_ l)).map fun e => (l, e)) = [] := by
  refine List.filterMap_eq_nil_iff.mpr fun l mem => ?_
  obtain ⟨low, active⟩ := mem_lanesOf.mp mem
  rw [crossFault, if_neg fun crosses => absurd (fits crosses.1 l low active) (by omega)]
  rfl

/-- The effect of an atomic whose lanes neither cross nor fail: its lanes' work under its release. -/
theorem atomicBody_checked {x : Spec.Atomic} {m : Crew → LaneMask} {addr : State → Issue → Crew → Nat → DWord}
    {faults : DWord → Option LaneFault} {opnd : State → Crew → Nat → List Byte}
    {put : State → Issue → Crew → Nat → List Byte → State} {ps : List (Nat × MemTag × Nat)}
    (fits : x.n = 64 → ∀ l, l < 32 → x.m.getLsbD l = true → (x.addr l).toNat % 4096 + 64 ≤ 4096)
    (checked : s.gatherLanes (viaOf r) (s.ctxOf r) r.priv (lanesAcc x.m x.addr x.n x.align .atomic true true) = ([], ps, t))
    (mask : m r = x.m) (here : addr s g r = x.addr) (code : faults = crossFault x.n) (operand : opnd s r = x.opnd s)
    (puts : ∀ u, put u g r = x.put u) :
    atomicBody x.n x.align m addr faults x.req opnd x.f put x.d.toNat x.regs s g r = x.effect s t g r ps := by
  subst code
  have crossed := crossFaults_eq_nil fits
  have all := uncrossed_eq (n := x.n) (at_ := x.addr) (good := x.m) (m := x.m)
    fun l low => ⟨fun active => ⟨active, fun crosses => absurd (fits crosses.1 l low active) (by omega)⟩, And.left⟩
  rw [crossed] at all
  have none : (allLanes.filterMap fun l => ([] : List (Nat × LaneFault)).find? fun b => b.1 == l) = [] := by simp
  simp only [atomicBody, mask, here, all, checked, crossed, List.nil_append, none, worstOf, operand, puts, requestsOf, List.map_map]
  rfl

/-- Each atomic's effect is its lanes' work under its release. -/
theorem exec_of_atomics {x : Spec.Atomic} {ps : List (Nat × MemTag × Nat)} (row : Spec.atomics s g r i = some x) (runs : Runs s g r i)
    (fits : x.n = 64 → ∀ l, l < 32 → x.m.getLsbD l = true → (x.addr l).toNat % 4096 + 64 ≤ 4096)
    (checked : s.gatherLanes (viaOf r) (s.ctxOf r) r.priv (lanesAcc x.m x.addr x.n x.align .atomic true true) = ([], ps, t)) :
    exec i s = .next (g.close r (s.nested g.crew) false (x.effect s t g r ps)) := by
  have narrow (w : Bool) : (if w then 8 else 4) ≠ 64 := by cases w <;> decide
  unfold Spec.atomics at row
  dsimp only at row
  split at row <;> cases row
  · refine runs.exec_closes (fun _ => rfl) rfl rfl ?_
    exact atomicBody_checked fits checked rfl (formOf_eq s g r _ _ _) (none_eq_crossFault (n := 4) (by decide))
      (regData_eq _ _ s r) fun _ => rfl
  · refine runs.exec_closes (fun _ => rfl) rfl rfl ?_
    exact atomicBody_checked fits checked rfl (formOf_eq s g r _ _ _) (none_eq_crossFault (n := 8) (by decide))
      (regData_eq _ _ s r) fun _ => rfl
  · refine runs.exec_closes (fun _ => rfl) rfl rfl ?_
    exact atomicBody_checked (m := fun r => r.active _) fits checked rfl (formOf_eq s g r _ _ _) (none_eq_crossFault (narrow _))
      (regData_eq _ _ s r) fun _ => rfl
  · refine runs.exec_closes (fun _ => rfl) rfl rfl ?_
    exact atomicBody_checked (m := fun r => r.active _) fits checked rfl (formOf_eq s g r _ _ _) (none_eq_crossFault (narrow _))
      (regData_eq _ _ s r) fun _ => rfl
  · refine runs.exec_closes (fun _ => rfl) rfl rfl ?_
    exact atomicBody_checked (m := fun r => r.active _) fits checked rfl (formOf_eq s g r _ _ _) accCross_eq (regData_eq _ _ s r) fun _ => rfl
  · refine runs.exec_closes (fun _ => rfl) rfl rfl ?_
    exact atomicBody_checked (m := fun r => r.active _) fits checked rfl (formOf_eq s g r _ _ _) accCross_eq rfl fun _ => rfl
  · refine runs.exec_closes (fun _ => rfl) rfl rfl ?_
    exact atomicBody_checked (m := fun r => r.active _) fits checked rfl (formOf_eq s g r _ _ _) accCross_eq rfl fun _ => rfl

/-- Settles O31: an atomic's effect is `Spec.Atomic.lanes` under its release, which waits for the peers or goes on. -/
theorem atomics : Obligations.Atomics := by
  intro s t g r i x ps row runs fits checked o t1 no u
  have run := exec_of_atomics row runs fits checked
  rw [Spec.Atomic.effect] at run
  obtain ⟨waits, goes⟩ := t.releasing_eq g.crew r o.1.rel o.2 fun t1 => .next (x.lanes s g r ps t1)
  exact ⟨fun rel system awaits => by rw [run, waits rel system awaits], fun settled => by rw [run, goes settled]; rfl⟩

end Sys2Proof.Machine

/-!
The frame of memory: what the slices, the caches and the store path leave alone (07 R169; 12 R308-R329).
-/

namespace Sys2Proof.Machine

/-! ## Below the cores -/

/-- From s to u nothing changes but memory and the counter of free choices: the links, unlike in `MovesMemory`, stay. -/
structure MemOnly (s u : State) : Prop where
  rest : { u with mem := s.mem, fresh := s.fresh } = s

namespace MemOnly

variable {s u : State}

theorem refl (s : State) : MemOnly s s := ⟨rfl⟩

theorem setMem (h : MemOnly s u) (m : Memory) : MemOnly s { u with mem := m } := ⟨h.rest⟩

theorem setFresh (h : MemOnly s u) (n : Nat) : MemOnly s { u with fresh := n } := ⟨h.rest⟩

theorem eq_set (h : MemOnly s u) : u = { s with mem := u.mem, fresh := u.fresh } := by
  conv_rhs => rw [← h.rest]

theorem coreOf (h : MemOnly s u) (k : Nat) : u.coreOf k = s.coreOf k := (congrArg (·.coreOf k) h.rest :)

theorem auxOf (h : MemOnly s u) (c : Nat) : u.auxOf c = s.auxOf c := (congrArg (·.auxOf c) h.rest :)

theorem isLocal (h : MemOnly s u) (t : MemTag) : u.isLocal t = s.isLocal t := (congrArg (·.isLocal t) h.rest :)

theorem foldl {α : Type} (h : MemOnly s u) (f : State → α → State) (step : ∀ v x, MemOnly s v → MemOnly s (f v x)) (l : List α) :
    MemOnly s (l.foldl f u) := List.foldlRecOn l f h fun v hv x _ => step v x hv

theorem putSector (h : MemOnly s u) (key : BitVec 8) (sector : Nat) (vals : List Byte) : MemOnly s (u.putSector key sector vals) :=
  setMem (u := (List.range 32).foldl (fun t i => t.physPut (32 * sector + i) (vals.getD i 0)) u)
    (h.foldl _ (fun _ _ hv => hv.setMem _) _) _

theorem rekey (h : MemOnly s u) (key : BitVec 8) (sector : Nat) : MemOnly s (u.rekey key sector) :=
  h.foldl _ (fun _ _ hv => hv.putSector _ _ _) _

theorem backPut (h : MemOnly s u) (key : BitVec 8) (pa : Nat) (b : Byte) : MemOnly s (u.backPut key pa b) := (h.rekey _ _).setMem _

theorem reform (h : MemOnly s u) (line : Nat) (key : BitVec 8) (view bounded : Bool) : MemOnly s (u.reform line key view bounded) := by
  unfold State.reform
  split
  · exact h
  · exact setMem (u := (List.range 4).foldl (fun u j => u.rekey key (4 * line + j)) u) (h.foldl _ (fun _ _ hv => hv.rekey _ _) _) _

theorem l2Back (h : MemOnly s u) (lk i : Nat) : MemOnly s (u.l2Back lk i) := by
  unfold State.l2Back
  split
  · exact (h.setMem _).backPut _ _ _
  · exact h

theorem l2WriteBack (h : MemOnly s u) (lk : Nat) : MemOnly s (u.l2WriteBack lk) := by
  unfold State.l2WriteBack
  dsimp only
  split
  · exact h
  · exact (h.foldl _ (fun _ _ hv => hv.foldl _ (fun _ _ hw => hw.l2Back _ _) _) _).reform _ _ _ _

theorem l2Drop (h : MemOnly s u) (lk : Nat) : MemOnly s (u.l2Drop lk) :=
  setMem (u := (List.range 128).foldl (fun u i => u.l2Put (byteKey lk i) none) u) (h.foldl _ (fun _ _ hv => hv.setMem _) _) _

theorem l2Evict (h : MemOnly s u) (lk : Nat) : MemOnly s (u.l2Evict lk) := (h.l2WriteBack lk).l2Drop lk

theorem l2Room (h : MemOnly s u) (lk : Nat) : MemOnly s (u.l2Room lk) := by
  unfold State.l2Room
  dsimp only
  split
  · exact h
  · exact (h.setFresh _).l2Evict _

theorem l2Alloc (h : MemOnly s u) (lk : Nat) (m : L2Mark) : MemOnly s (u.l2Alloc lk m) := by
  unfold State.l2Alloc
  split
  · split
    · exact h.setMem _
    · exact h
  · exact (h.l2Room _).setMem _

theorem l2Fill (h : MemOnly s u) (t : MemTag) (m : L2Mark) (pa : Nat) : MemOnly s (u.l2Fill t m pa) := by
  have allocated := h.l2Alloc (t.ckey (pa / 128)) m
  unfold State.l2Fill
  extract_lets v
  split
  · exact allocated
  · exact setMem (u := v) allocated _

theorem sliceFill (h : MemOnly s u) (t : MemTag) (how : Option L2Mark) (pa : Nat) : MemOnly s (u.sliceFill t how pa) := by
  unfold State.sliceFill
  split
  · split
    · exact h.l2Fill _ _ _
    · exact h
  · exact h

theorem slicePut (h : MemOnly s u) (t : MemTag) (how : Option L2Mark) (pa : Nat) (b : Byte) : MemOnly s (u.slicePut t how pa b) := by
  have filled := h.sliceFill t how pa
  unfold State.slicePut State.noteView
  split
  · dsimp only
    split
    · split
      · exact (filled.setMem _).setMem _
      · exact filled.setMem _
    · exact (filled.backPut _ _ _).reform _ _ _ _
  · exact h.setMem _
  · exact h
  · exact h

theorem quantise (h : MemOnly s u) (t : MemTag) (line : Nat) : MemOnly s (u.quantise t line) :=
  h.foldl _ (fun _ _ hv => hv.slicePut _ _ _ _) _

theorem cleanse (h : MemOnly s u) (pas : List Nat) : MemOnly s (u.cleanse pas) := by
  unfold State.cleanse
  split
  · exact h
  · exact h.setMem _

theorem toL2 (h : MemOnly s u) (es : Sparse (Option CByte)) : MemOnly s (u.toL2 es) := by
  refine (h.foldl _ (fun v e hv => ?_) es).cleanse _
  split
  · split
    · exact hv.slicePut _ _ _ _
    · exact hv
  · exact hv

theorem poisonOut (h : MemOnly s u) (ps : List Nat) (es : Sparse (Option CByte)) : MemOnly s (u.poisonOut ps es) := by
  unfold State.poisonOut
  extract_lets qs
  split
  · exact h
  · exact h.setMem _

/-! ## Translation -/

theorem findLeaf (h : MemOnly s u) (via : Option Nat) (ctx va : Nat) (kind : AccKind) : MemOnly s (u.findLeaf via ctx va kind).2 := by
  rcases State.findLeaf_state u via ctx va kind with same | chose
  · rwa [same]
  · rw [chose]
    exact h.setFresh _

theorem setAD (h : MemOnly s u) (kind : AccKind) (l : Leaf) : MemOnly s (u.setAD kind l) := by
  unfold State.setAD
  extract_lets e'
  split
  · exact h
  · exact h.foldl _ (fun _ _ hv => hv.slicePut _ _ _ _) _

theorem remember (h : MemOnly s u) (via : Option Nat) (ctx va : Nat) (l : Leaf) : MemOnly s (u.remember via ctx va l) := by
  unfold State.remember
  split
  · exact h
  · exact ⟨h.rest⟩

theorem xlate (h : MemOnly s u) (via : Option Nat) (ctx : Nat) (priv : Bool) (kind : AccKind) (va : DWord) :
    MemOnly s (u.xlate via ctx priv kind va).2 := by
  have found := h.findLeaf via ctx (va.setWidth 57).toNat kind
  unfold State.xlate
  split
  · exact h
  · dsimp only
    split
    next eq => rwa [eq] at found
    next l t eq =>
      rw [eq] at found
      split
      · split
        · exact found.remember _ _ _ _
        · exact found
      · exact (found.setAD _ _).remember _ _ _ _

theorem checkLane (h : MemOnly s u) (via : Option Nat) (ctx : Nat) (priv : Bool) (q : LaneAcc) :
    MemOnly s (u.checkLane via ctx priv q).2 := by
  have translated := h.xlate via ctx priv q.kind q.va
  unfold State.checkLane
  split
  · exact h
  · split
    next eq => rwa [eq] at translated
    next eq =>
      rw [eq] at translated
      split
      · exact translated
      · split <;> exact translated

theorem gatherLanes (h : MemOnly s u) (via : Option Nat) (ctx : Nat) (priv : Bool) (qs : List (Nat × LaneAcc)) :
    MemOnly s (u.gatherLanes via ctx priv qs).2.2 := by
  refine List.foldlRecOn (motive := fun acc : List (Nat × LaneFault) × List (Nat × MemTag × Nat) × State => MemOnly s acc.2.2)
    _ _ h fun acc hv q _ => ?_
  have checked := hv.checkLane via ctx priv q.2
  split
  next eq => rwa [eq] at checked
  next eq => rwa [eq] at checked

end MemOnly

/-! ## The cores, the links and the control pages -/

namespace OnlyMemory

variable {s u v : State} {c : Nat}

theorem setFresh (h : OnlyMemory s u c) (n : Nat) : OnlyMemory s { u with fresh := n } c :=
  ⟨h.rest, h.links, h.hostIf, h.others, h.own, h.cores⟩

theorem memOnly (h : OnlyMemory s u c) (k : MemOnly u v) : OnlyMemory s v c := by
  rw [k.eq_set]
  exact (h.setMem v.mem).setFresh v.fresh

theorem foldl {α : Type} (h : OnlyMemory s u c) (f : State → α → State) (step : ∀ v x, OnlyMemory s v c → OnlyMemory s (f v x) c)
    (l : List α) : OnlyMemory s (l.foldl f u) c := List.foldlRecOn l f h fun v hv x _ => step v x hv

theorem trans (h : OnlyMemory s u c) (k : OnlyMemory u v c) : OnlyMemory s v c where
  rest := by
    have inner := congrArg (fun x : State => { x with
      mem := s.mem, cores := s.cores, aux := s.aux, links := s.links, hostIf := s.hostIf, nextId := s.nextId, fresh := s.fresh }) k.rest
    exact inner.trans h.rest
  links := by
    have inner := congrArg (fun x : Links => { x with peers := s.links.peers, outgoing := s.links.outgoing }) k.links
    exact inner.trans h.links
  hostIf := by
    have inner := congrArg (fun x : HostIf => { x with ctl := s.hostIf.ctl, isubs := s.hostIf.isubs }) k.hostIf
    exact inner.trans h.hostIf
  others x other := (k.others x other).trans (h.others x other)
  own := by
    have inner := congrArg (fun x : CrewAux => { x with
      storeQ := (s.auxOf c).storeQ, touched := (s.auxOf c).touched, returning := (s.auxOf c).returning }) k.own
    exact inner.trans h.own
  cores n := by
    have inner := congrArg (fun x : Core => { x with
      l1 := (s.coreOf n).l1, l1At := (s.coreOf n).l1At, l1Poison := (s.coreOf n).l1Poison, wc := (s.coreOf n).wc }) (k.cores n)
    exact inner.trans (h.cores n)

/-- A change of a core's L1 and write-combining buffer alone. -/
theorem onCore (h : OnlyMemory s u c) (core : Nat) (f : Core → Core)
    (caches : ∀ k, { f k with l1 := k.l1, l1At := k.l1At, l1Poison := k.l1Poison, wc := k.wc } = k) :
    OnlyMemory s (u.onCore core f) c where
  rest := h.rest
  links := h.links
  hostIf := h.hostIf
  others := h.others
  own := h.own
  cores n := by
    rw [State.coreOf_onCore]
    split
    next eq =>
      subst eq
      have inner := congrArg (fun x : Core => { x with
        l1 := (s.coreOf n).l1, l1At := (s.coreOf n).l1At, l1Poison := (s.coreOf n).l1Poison, wc := (s.coreOf n).wc })
        (caches (u.coreOf n))
      exact inner.trans (h.cores n)
    next => exact h.cores n

theorem setCtl (h : OnlyMemory s u c) (ctl : Tbl CtlPage) : OnlyMemory s { u with hostIf := { u.hostIf with ctl := ctl } } c :=
  ⟨h.rest, h.links, h.hostIf, h.others, h.own, h.cores⟩

theorem sendPeer (h : OnlyMemory s u c) (peer : BitVec 4) (q : FabricReq) : OnlyMemory s (u.sendPeer peer q) c := by
  unfold State.sendPeer
  split
  · exact h
  · split
    · exact h
    · exact ⟨h.rest, h.links, h.hostIf, h.others, h.own, h.cores⟩

theorem noteFlights (h : OnlyMemory s u c) (before : State) (l : List (Nat × DWord)) (n : Nat) :
    OnlyMemory s (u.noteFlights before l n) c := by
  unfold State.noteFlights
  split
  · exact h
  · exact h.setPeers _

theorem homeWrite (h : OnlyMemory s u c) (t : MemTag) (how : Option L2Mark) (ws : List (Nat × Byte)) :
    OnlyMemory s (u.homeWrite t how ws) c := by
  unfold State.homeWrite
  split
  · refine h.memOnly (MemOnly.cleanse ?_ _)
    have put := (MemOnly.refl u).foldl (fun u (w : Nat × Byte) => u.slicePut t how w.1 w.2) (fun _ _ hv => hv.slicePut _ _ _ _) ws
    split
    · exact put.foldl _ (fun _ _ hv => hv.quantise _ _) _
    · exact put
  · exact h.foldl _ (fun _ _ hv => hv.sendPeer _ _) _

theorem l1EvictKey (h : OnlyMemory s u c) (core lk : Nat) : OnlyMemory s (u.l1EvictKey core lk) c := by
  unfold State.l1EvictKey
  dsimp only
  split
  · exact h
  · exact (h.memOnly (((MemOnly.refl u).toL2 _).poisonOut _ _)).onCore _ _ fun _ => rfl

theorem l1Evict (h : OnlyMemory s u c) (core : Nat) (t : MemTag) (pa : Nat) : OnlyMemory s (u.l1Evict core t pa) c := h.l1EvictKey _ _

theorem l1CleanKey (h : OnlyMemory s u c) (core lk : Nat) : OnlyMemory s (u.l1CleanKey core lk) c := by
  unfold State.l1CleanKey
  dsimp only
  split
  · exact h
  · exact (h.memOnly (((MemOnly.refl u).toL2 _).poisonOut _ _)).onCore _ _ fun _ => rfl

theorem l1WriteBack (h : OnlyMemory s u c) (core : Nat) : OnlyMemory s (u.l1WriteBack core) c := by
  unfold State.l1WriteBack
  exact (h.memOnly (((MemOnly.refl u).toL2 _).poisonOut _ _)).onCore _ _ fun _ => rfl

theorem l1DropClean (h : OnlyMemory s u c) (core : Nat) : OnlyMemory s (u.l1DropClean core) c := by
  unfold State.l1DropClean
  exact h.onCore _ _ fun _ => rfl

theorem l1Room (h : OnlyMemory s u c) (core lk : Nat) : OnlyMemory s (u.l1Room core lk) c := by
  unfold State.l1Room
  dsimp only
  split
  · exact h
  · split
    · exact h
    · exact (h.setFresh _).l1EvictKey _ _

theorem l1Store (h : OnlyMemory s u c) (core : Nat) (t : MemTag) (pa : Nat) (b : Byte) : OnlyMemory s (u.l1Store core t pa b) c := by
  have put : OnlyMemory s (u.l1Put core (t.ckey pa) { val := b, dirty := true }) c := by
    unfold State.l1Put
    exact (h.l1Room core (lineKey (t.ckey pa))).onCore _ _ fun _ => rfl
  unfold State.l1Store
  refine put.onCore _ _ fun k => ?_
  split <;> rfl

theorem l1Cleanse (h : OnlyMemory s u c) (core : Nat) (t : MemTag) (pas : List Nat) : OnlyMemory s (u.l1Cleanse core t pas) c := by
  unfold State.l1Cleanse
  split
  · exact h
  · exact h.onCore _ _ fun _ => rfl

theorem l1Fill (h : OnlyMemory s u c) (core : Nat) (t : MemTag) (how : Option L2Mark) (pa : Nat) :
    OnlyMemory s (u.l1Fill core t how pa) c := by
  unfold State.l1Fill
  exact ((h.l1Room _ _).memOnly ((MemOnly.refl _).sliceFill _ _ _)).onCore _ _ fun _ => rfl

/-! ## The write-combining buffer -/

theorem wcWrite (h : OnlyMemory s u c) (core : Nat) (w : WcLine) : OnlyMemory s (u.wcWrite core w) c :=
  ((h.l1Evict _ _ _).homeWrite _ _ _).noteFlights _ _ _

theorem wcFlush (h : OnlyMemory s u c) (core : Nat) : OnlyMemory s (u.wcFlush core) c := by
  unfold State.wcFlush
  exact (h.foldl _ (fun _ _ hv => hv.wcWrite _ _) _).onCore _ _ fun _ => rfl

theorem wcYield (h : OnlyMemory s u c) (core : Nat) (t : MemTag) (pa : Nat) : OnlyMemory s (u.wcYield core t pa) c := by
  unfold State.wcYield
  dsimp only
  split
  · exact (h.foldl _ (fun _ _ hv => hv.wcWrite _ _) _).onCore _ _ fun _ => rfl
  · exact h

theorem wcStore (h : OnlyMemory s u c) (core : Nat) (e : StoreEvent) (t : MemTag) (pa : Nat) (b : Byte) :
    OnlyMemory s (u.wcStore core e t pa b) c := by
  have set (wc : List WcLine) : OnlyMemory s (u.putCore core { u.coreOf core with wc := wc }) c :=
    h.onCore core (fun k => { k with wc := wc }) fun _ => rfl
  unfold State.wcStore
  dsimp only
  split
  · exact set _
  · split
    · split
      · exact set _
      · exact (h.wcWrite _ _).onCore _ _ fun _ => rfl
    · exact set _

/-! ## Store events -/

theorem mmioWrite (h : OnlyMemory s u c) (ws : List (Nat × Byte)) : OnlyMemory s (u.mmioWrite ws) c := by
  unfold State.mmioWrite
  extract_lets t
  have written : OnlyMemory s t c := by
    refine h.foldl _ (fun _ _ hv => ?_) _
    split
    · exact hv.setCtl _
    · exact hv
  split
  · exact ⟨written.rest, written.links, written.hostIf, written.others, written.own, written.cores⟩
  · exact written

theorem releaseAt (h : OnlyMemory s u c) (core : Nat) (wide : Bool) : OnlyMemory s (u.releaseAt core wide) c := by
  unfold State.releaseAt
  dsimp only
  split
  · exact (h.wcFlush _).l1WriteBack _
  · exact h.wcFlush _

theorem acquireAt (h : OnlyMemory s u c) (core : Nat) (wide : Bool) : OnlyMemory s (u.acquireAt core wide) c := by
  unfold State.acquireAt
  split
  · exact h.l1DropClean _
  · exact h

theorem perform (h : OnlyMemory s u c) (core : Nat) (e : StoreEvent) (t : MemTag) (ws : List (Nat × Byte)) :
    OnlyMemory s (u.perform core e t ws) c := by
  unfold State.perform
  split
  · exact h.foldl _ (fun _ _ hv => (hv.l1Evict _ _ _).wcStore _ _ _ _ _) _
  · extract_lets u v
    have yielded : OnlyMemory s u c := h.foldl _ (fun _ _ hv => hv.wcYield _ _ _) _
    have allocated : OnlyMemory s v c := by
      unfold v
      split
      · exact yielded.memOnly ((MemOnly.refl u).foldl _ (fun _ _ hw => hw.l2Alloc _ _) _)
      · exact yielded
    split
    · exact (allocated.foldl _ (fun _ _ hv => hv.l1Store _ _ _ _) _).l1Cleanse _ _ _
    · exact (yielded.foldl _ (fun _ _ hv => hv.l1Evict _ _ _) _).homeWrite _ _ _

theorem cleanLine (h : OnlyMemory s u c) (core : Nat) (t : MemTag) (pa : Nat) : OnlyMemory s (u.cleanLine core t pa) c := by
  unfold State.cleanLine
  split
  · exact h
  · exact (h.l1CleanKey _ _).memOnly ((MemOnly.refl _).l2WriteBack _)

theorem flushLine (h : OnlyMemory s u c) (core : Nat) (t : MemTag) (pa : Nat) : OnlyMemory s (u.flushLine core t pa) c := by
  unfold State.flushLine
  split
  · exact h
  · exact (h.l1EvictKey _ _).memOnly ((MemOnly.refl _).l2Evict _)

theorem performEvent (h : OnlyMemory s u c) (core : Nat) (wide : Scope → Bool) (e : StoreEvent) :
    OnlyMemory s (u.performEvent core wide e) c := by
  unfold State.performEvent
  extract_lets s1
  have released : OnlyMemory s s1 c := by
    unfold s1
    split
    · exact h.releaseAt _ _
    · exact h
  split
  · exact (released.foldl _ (fun _ _ hv => hv.mmioWrite _) _).foldl _ (fun _ _ hv => hv.perform _ _ _ _) _
  · exact released.foldl _ (fun _ _ hv => hv.cleanLine _ _ _) _
  · exact released.foldl _ (fun _ _ hv => hv.flushLine _ _ _) _

theorem drainAll (h : OnlyMemory s u c) (r : Crew) : OnlyMemory s (u.drainAll c r) c :=
  (h.foldl _ (fun _ _ hv => (hv.performEvent _ _ _).noteFlights _ _ _) _).setStoreQ _

theorem release (h : OnlyMemory s u c) (r : Crew) (sc : Scope) : OnlyMemory s (u.release c r sc) c := (h.drainAll r).releaseAt _ _

theorem acquire (h : OnlyMemory s u c) (r : Crew) (sc : Scope) : OnlyMemory s (u.acquire r sc) c := h.acquireAt _ _

/-- A read-modify-write leaves all but memory and its own crew's records alone. -/
theorem atomicLane (h : OnlyMemory s u c) (r : Crew) (t : MemTag) (cache : CachePolicy) (pa n : Nat)
    (f : List Byte → Option (List Byte)) (req : FabricReq) : OnlyMemory s (u.atomicLane c r t cache pa n f req).2 c := by
  unfold State.atomicLane
  extract_lets s1 old
  have before : OnlyMemory s s1 c :=
    (h.drainAll r).foldl _ (fun _ _ hv => ((hv.wcYield _ _ _).l1Evict _ _ _).touch _ _) _
  split
  · split
    · dsimp only
      split
      · exact before.mmioWrite _
      · exact before
    · dsimp only
      split
      · exact before.homeWrite _ _ _
      · exact before.memOnly ((MemOnly.refl _).foldl _ (fun _ _ hv => hv.sliceFill _ _ _) _)
  · exact (before.setFresh _).sendPeer _ _

end OnlyMemory

end Sys2Proof.Machine

/-!
Fences: what they leave in their core's L1 and write-combining buffer, and that other cores' caches stay (07 R188; 12 R309, R312).
-/

namespace Sys2Proof

theorem Sparse.mem_of_get_eq_some {α : Type} {m : Sparse (Option α)} {i : Nat} {v : α} (h : Sparse.get none m i = some v) :
    (i, some v) ∈ m := by
  induction m with
  | nil => cases h
  | cons e t ih =>
    obtain ⟨k, w⟩ := e
    rw [Sparse.get] at h
    split at h
    next here =>
      subst here h
      exact List.mem_cons_self
    next => exact List.mem_cons_of_mem _ (ih h)

namespace Machine

/-! ## Other cores -/

/-- From s to u nothing of the cores but one changes. -/
def OthersStay (core : Nat) (s u : State) : Prop := ∀ n, n ≠ core → u.coreOf n = s.coreOf n

namespace OthersStay

variable {core : Nat} {s u v : State}

theorem refl (s : State) : OthersStay core s s := fun _ _ => rfl

theorem memOnly (h : OthersStay core s u) (k : MemOnly u v) : OthersStay core s v := fun n other => (k.coreOf n).trans (h n other)

theorem foldl {α : Type} (h : OthersStay core s u) (f : State → α → State) (step : ∀ v x, OthersStay core s v → OthersStay core s (f v x))
    (l : List α) : OthersStay core s (l.foldl f u) := List.foldlRecOn l f h fun v hv x _ => step v x hv

theorem onCore (h : OthersStay core s u) (f : Core → Core) : OthersStay core s (u.onCore core f) := fun n other => by
  rw [State.coreOf_onCore, if_neg other, h n other]

theorem l1EvictKey (h : OthersStay core s u) (lk : Nat) : OthersStay core s (u.l1EvictKey core lk) := by
  unfold State.l1EvictKey
  dsimp only
  split
  · exact h
  · exact (h.memOnly (((MemOnly.refl u).toL2 _).poisonOut _ _)).onCore _

theorem l1WriteBack (h : OthersStay core s u) : OthersStay core s (u.l1WriteBack core) :=
  (h.memOnly (((MemOnly.refl u).toL2 _).poisonOut _ _)).onCore _

theorem sendPeer (h : OthersStay core s u) (peer : BitVec 4) (q : FabricReq) : OthersStay core s (u.sendPeer peer q) := by
  unfold State.sendPeer
  split
  · exact h
  · split <;> exact h

theorem homeWrite (h : OthersStay core s u) (t : MemTag) (how : Option L2Mark) (ws : List (Nat × Byte)) :
    OthersStay core s (u.homeWrite t how ws) := by
  unfold State.homeWrite
  split
  · have put := (MemOnly.refl u).foldl (fun u (w : Nat × Byte) => u.slicePut t how w.1 w.2) (fun _ _ hv => hv.slicePut _ _ _ _) ws
    refine h.memOnly (MemOnly.cleanse ?_ _)
    split
    · exact put.foldl _ (fun _ _ hv => hv.quantise _ _) _
    · exact put
  · exact h.foldl _ (fun _ _ hv => hv.sendPeer _ _) _

theorem wcWrite (h : OthersStay core s u) (w : WcLine) : OthersStay core s (u.wcWrite core w) := by
  unfold State.wcWrite State.noteFlights
  split <;> exact (h.l1EvictKey _).homeWrite _ _ _

theorem wcFlush (h : OthersStay core s u) : OthersStay core s (u.wcFlush core) := (h.foldl _ (fun _ _ hv => hv.wcWrite _) _).onCore _

theorem releaseAt (h : OthersStay core s u) (wide : Bool) : OthersStay core s (u.releaseAt core wide) := by
  unfold State.releaseAt
  dsimp only
  split
  · exact h.wcFlush.l1WriteBack
  · exact h.wcFlush

theorem acquireAt (h : OthersStay core s u) (wide : Bool) : OthersStay core s (u.acquireAt core wide) := by
  unfold State.acquireAt
  split
  · exact h.onCore _
  · exact h

theorem fence {r : Crew} (s : State) (o : FenceOrder) (sc : Scope) : OthersStay r.core s (s.fence r o sc) := by
  have released : OthersStay r.core s (if fenceRel o then s.releaseAt r.core (s.wide r sc) else s) := by
    split
    · exact (refl s).releaseAt _
    · exact refl s
  unfold State.fence
  dsimp only
  split
  · exact released.acquireAt _
  · exact released

end OthersStay

/-! ## The core's own caches -/

/-- What settles in full is clean. -/
theorem l1Dirty_of_mem_l1Settled {l1 : Sparse (Option CByte)} {e : Nat × Option CByte} (mem : e ∈ l1Settled l1 fun _ => true) :
    l1Dirty e = false := by
  obtain ⟨x, held, kept⟩ := List.mem_filterMap.mp mem
  dsimp only at kept
  split at kept
  next other =>
    obtain rfl : x = e := Option.some.inj kept
    refine Bool.eq_false_iff.mpr fun dirty => ?_
    simp only [Bool.not_eq_true', List.contains_eq_mem, decide_eq_false_iff_not] at other
    exact other (List.mem_eraseDups.mpr (List.mem_map_of_mem (List.mem_filter.mpr ⟨held, by simpa using dirty⟩)))
  next =>
    split at kept
    · obtain rfl := Option.some.inj kept
      obtain ⟨k, none | b⟩ := x <;> rfl
    · cases kept

theorem State.coreOf_l1WriteBack (s : State) (core : Nat) : (s.l1WriteBack core).coreOf core =
    { s.coreOf core with l1 := l1Settled (s.coreOf core).l1 fun _ => true, l1At := [] } := by
  have written := ((MemOnly.refl s).toL2 (s.coreOf core).l1).poisonOut (s.coreOf core).l1Poison (s.coreOf core).l1
  simp only [State.l1WriteBack, State.coreOf_onCore, if_true, written.coreOf]

theorem State.wc_releaseAt (s : State) (core : Nat) (wide : Bool) : ((s.releaseAt core wide).coreOf core).wc = [] := by
  have flushed : ((s.wcFlush core).coreOf core).wc = [] := by simp only [State.wcFlush, State.coreOf_onCore, if_true]
  unfold State.releaseAt
  dsimp only
  split
  · rw [State.coreOf_l1WriteBack]
    exact flushed
  · exact flushed

/-- The core as an acquire leaves it. -/
theorem State.coreOf_acquireAt (s : State) (core : Nat) (wide : Bool) :
    ((s.acquireAt core wide).coreOf core).wc = (s.coreOf core).wc ∧
    ((s.acquireAt core wide).coreOf core).l1 = if wide then (s.coreOf core).l1.filter l1Dirty else (s.coreOf core).l1 := by
  unfold State.acquireAt State.l1DropClean
  split <;> simp

theorem spans_iff_wide (s : State) (r : Crew) (sc : Scope) :
    (sc = .cluster ∨ sc = .device ∨ sc = .system ∨ (sc = .block ∧ 1 < s.spreadOf r)) ↔ s.wide r sc = true := by
  cases sc <;> simp [State.wide, wideScope]

theorem OnlyMemory.wide {s u : State} {c : Nat} (h : OnlyMemory s u c) (r : Crew) (sc : Scope) : u.wide r sc = s.wide r sc :=
  (congrArg (fun x : State => x.wide r sc) h.rest :)

/-- An acquire keeps or drops each entry whole. -/
theorem mem_of_get_acquired {l1 : Sparse (Option CByte)} {wide : Bool} {n : Nat} {b : CByte}
    (held : Sparse.get none (if wide then l1.filter l1Dirty else l1) n = some b) : (n, some b) ∈ l1 := by
  have mem := Sparse.mem_of_get_eq_some held
  split at mem
  · exact List.mem_of_mem_filter mem
  · exact mem

/-- What a release leaves in the L1 is clean, entry by entry. -/
theorem State.l1Dirty_releaseAt {s : State} {core : Nat} {e : Nat × Option CByte} (mem : e ∈ ((s.releaseAt core true).coreOf core).l1) :
    l1Dirty e = false := by
  unfold State.releaseAt at mem
  dsimp only at mem
  rw [if_pos rfl, State.coreOf_l1WriteBack] at mem
  exact l1Dirty_of_mem_l1Settled mem

theorem claims_fencesCleanTheL1 : Claims.FencesCleanTheL1 := by
  intro s r o sc k spans
  let t := if fenceRel o then s.releaseAt r.core (s.wide r sc) else s
  have only : OnlyMemory s t 0 := by
    unfold t
    split
    · exact (OnlyMemory.refl s 0).releaseAt _ _
    · exact .refl s 0
  have acquired := State.coreOf_acquireAt t r.core (s.wide r sc)
  have fence : s.fence r o sc = if fenceAcq o then t.acquireAt r.core (s.wide r sc) else t := by
    rw [State.fence, State.acquire, only.wide]
  refine ⟨fun rel => ?_, fun acq wide n b held => ?_⟩
  · have released : t = s.releaseAt r.core (s.wide r sc) := if_pos rel
    have wc : k.wc = [] := by
      have before : (t.coreOf r.core).wc = [] := by rw [released, State.wc_releaseAt]
      unfold k
      rw [fence]
      split
      · rw [acquired.1, before]
      · exact before
    refine ⟨wc, fun wide n b held => ?_⟩
    have wide : s.wide r sc = true := (spans_iff_wide s r sc).mp wide
    have mem : (n, some b) ∈ (t.coreOf r.core).l1 := by
      unfold k at held
      rw [fence] at held
      split at held
      · rw [acquired.2] at held
        exact mem_of_get_acquired held
      · exact Sparse.mem_of_get_eq_some held
    rw [released, wide] at mem
    exact State.l1Dirty_releaseAt mem
  · have wide : s.wide r sc = true := (spans_iff_wide s r sc).mp wide
    have held : (n, some b) ∈ (t.coreOf r.core).l1.filter l1Dirty := by
      unfold k at held
      rw [fence, if_pos acq, acquired.2, if_pos wide] at held
      exact Sparse.mem_of_get_eq_some held
    exact (List.mem_filter.mp held).2

end Machine

end Sys2Proof

/-!
DCFENCE: the lines that it takes out of the L2 and the L1s, and those it leaves (07 R190; 12 R315).
-/

namespace Sys2Proof.Machine

/-! ## Lines and their bytes -/

theorem lineKey_byteKey (lk : Nat) {i : Nat} (low : i < 128) : lineKey (byteKey lk i) = lk := by
  unfold lineKey byteKey
  omega

theorem byteKey_lineKey (k : Nat) : byteKey (lineKey k) (k / 512 % 128) = k := by
  unfold lineKey byteKey
  omega

theorem otherView_otherView (lk : Nat) : otherView (otherView lk) = lk := by
  unfold otherView
  split <;> split <;> omega

theorem State.ckey_tagOfKey (s : State) (k pa : Nat) : (s.tagOfKey k).ckey pa = pa * 512 + k % 512 := by
  have key : (BitVec.ofNat 8 (k % 256)).toNat = k % 256 := by simp
  simp only [MemTag.ckey, State.tagOfKey, MemTag.view, cacheKey, key]
  split <;> rename_i view <;> simp at view ⊢ <;> omega

/-- A fold makes a fact that one of its steps makes and every step keeps. -/
theorem foldl_makes {α : Type} {P : State → Prop} {f : State → α → State} {l : List α} {x : α} (mem : x ∈ l)
    (makes : ∀ v, P (f v x)) (keeps : ∀ v y, P v → P (f v y)) (s : State) : P (l.foldl f s) := by
  obtain ⟨before, after, rfl⟩ := List.append_of_mem mem
  rw [List.foldl_append, List.foldl_cons]
  exact List.foldlRecOn after f (makes _) fun v hv y _ => keeps v y hv

/-! ## Bytes that the L2 does not hold -/

/-- The L2 does not hold the byte of a cache key. -/
structure L2Absent (k : Nat) (s : State) : Prop where
  get : Sparse.get none s.mem.l2 k = none

namespace L2Absent

variable {k : Nat} {s : State} (h : L2Absent k s)

include h

theorem foldl {α : Type} (f : State → α → State) (step : ∀ v x, L2Absent k v → L2Absent k (f v x)) (l : List α) :
    L2Absent k (l.foldl f s) := List.foldlRecOn l f h fun v hv x _ => step v x hv

theorem of_l2 {u : State} (same : u.mem.l2 = s.mem.l2) : L2Absent k u := ⟨by rw [same, h.get]⟩

theorem drop (k' : Nat) : L2Absent k (s.l2Put k' none) := by
  refine ⟨?_⟩
  rw [State.l2Put, Sparse.get_put]
  split
  · rfl
  · exact h.get

theorem put {k' : Nat} (other : k ≠ k') (b : Option CByte) : L2Absent k (s.l2Put k' b) := by
  refine ⟨?_⟩
  rw [State.l2Put, Sparse.get_put, if_neg other]
  exact h.get

theorem physPut (pa : Nat) (b : Byte) : L2Absent k (s.physPut pa b) := h.of_l2 rfl

theorem putSector (key : BitVec 8) (sector : Nat) (vals : List Byte) : L2Absent k (s.putSector key sector vals) := by
  unfold State.putSector
  extract_lets t
  have put : L2Absent k t := h.foldl _ (fun _ _ hv => hv.physPut _ _) _
  clear_value t
  exact put.of_l2 rfl

theorem rekey (key : BitVec 8) (sector : Nat) : L2Absent k (s.rekey key sector) := h.foldl _ (fun _ _ hv => hv.putSector _ _ _) _

theorem backPut (key : BitVec 8) (pa : Nat) (b : Byte) : L2Absent k (s.backPut key pa b) := (h.rekey _ _).of_l2 rfl

theorem reform (line : Nat) (key : BitVec 8) (view bounded : Bool) : L2Absent k (s.reform line key view bounded) := by
  unfold State.reform
  split
  · exact h
  · extract_lets t
    have keyed : L2Absent k t := h.foldl _ (fun _ _ hv => hv.rekey _ _) _
    clear_value t
    exact keyed.of_l2 rfl

theorem l2Back (lk i : Nat) : L2Absent k (s.l2Back lk i) := by
  unfold State.l2Back
  split
  next held =>
    have other : k ≠ byteKey lk i := fun here => by
      rw [← here, h.get] at held
      cases held
    exact (h.put other _).backPut _ _ _
  next => exact h

theorem l2WriteBack (lk : Nat) : L2Absent k (s.l2WriteBack lk) := by
  unfold State.l2WriteBack
  dsimp only
  split
  · exact h
  · exact (h.foldl _ (fun _ _ hv => hv.foldl _ (fun _ _ hw => hw.l2Back _ _) _) _).reform _ _ _ _

theorem l2Drop (lk : Nat) : L2Absent k (s.l2Drop lk) := by
  unfold State.l2Drop
  extract_lets t
  have dropped : L2Absent k t := h.foldl _ (fun _ _ hv => hv.drop _) _
  clear_value t
  exact dropped.of_l2 rfl

theorem l2Alloc (lk : Nat) (m : L2Mark) : L2Absent k (s.l2Alloc lk m) := by
  have room : L2Absent k (s.l2Room lk) := by
    unfold State.l2Room State.l2Evict
    dsimp only
    split
    · exact h
    · exact ((h.of_l2 (u := (s.choose _).2) rfl).l2WriteBack _).l2Drop _
  unfold State.l2Alloc
  split
  · split
    · exact h.of_l2 rfl
    · exact h
  · exact room.of_l2 rfl

theorem l2Fill {t : MemTag} {pa : Nat} (other : lineKey k ≠ t.ckey (pa / 128)) (m : L2Mark) : L2Absent k (s.l2Fill t m pa) := by
  unfold State.l2Fill
  extract_lets u vals bs
  have allocated : L2Absent k u := h.l2Alloc (t.ckey (pa / 128)) m
  split
  · exact allocated
  · have apart : ∀ e ∈ bs, e.1 ≠ k := fun e mem here => by
      obtain ⟨i, low, rfl⟩ := List.mem_map.mp mem
      have low : i < 32 := List.mem_range.mp low
      exact other (by rw [← here, lineKey_ckey, show (pa / 32 * 32 + i) / 128 = pa / 128 by omega])
    clear_value u bs
    exact ⟨(get_fillBytes_of_absent _ _ _ apart).trans allocated.get⟩

theorem slicePut {t : MemTag} {pa : Nat} (other : lineKey k ≠ t.ckey (pa / 128)) (how : Option L2Mark) (b : Byte) :
    L2Absent k (s.slicePut t how pa b) := by
  have filled : L2Absent k (s.sliceFill t how pa) := by
    unfold State.sliceFill
    split
    · split
      · exact h.l2Fill other _
      · exact h
    · exact h
  have apart : k ≠ t.ckey pa := fun here => other (by rw [here, lineKey_ckey])
  unfold State.slicePut State.noteView
  split
  · dsimp only
    split
    · split
      · exact (filled.put apart (some { val := b, dirty := true })).of_l2 rfl
      · exact filled.put apart _
    · exact (filled.backPut _ _ _).reform _ _ _ _
  · exact h.of_l2 rfl
  · exact h
  · exact h

theorem cleanse (pas : List Nat) : L2Absent k (s.cleanse pas) := by
  unfold State.cleanse
  split
  · exact h
  · exact h.of_l2 rfl

theorem l1EvictKey {lk : Nat} (other : lineKey k ≠ lk) (core : Nat) : L2Absent k (s.l1EvictKey core lk) := by
  unfold State.l1EvictKey State.poisonOut
  extract_lets c es qs
  have written : L2Absent k (s.toL2 es) := by
    refine (List.foldlRecOn (motive := L2Absent k) es _ h fun v hv e mem => ?_).cleanse _
    have line : lineKey e.1 = lk := by simpa using (List.mem_filter.mp mem).2
    have apart : lineKey k ≠ (v.tagOfKey e.1).ckey (e.1 / 512 / 128) := by
      rw [v.ckey_tagOfKey]
      exact fun here => other (here.trans line)
    split
    · split
      · exact hv.slicePut apart _ _
      · exact hv
    · exact hv
  split
  · exact h
  · split <;> exact written.of_l2 rfl

end L2Absent

/-- A line that the L2 drops is gone. -/
theorem L2Absent.of_l2Drop (k : Nat) (s : State) : L2Absent k (s.l2Drop (lineKey k)) := by
  unfold State.l2Drop
  extract_lets t
  have dropped : L2Absent k t := foldl_makes (List.mem_range.mpr (Nat.mod_lt (k / 512) (by decide)))
    (fun v => ⟨by rw [byteKey_lineKey, State.l2Put, Sparse.get_put, if_pos rfl]⟩) (fun _ _ hv => hv.drop _) s
  clear_value t
  exact dropped.of_l2 rfl

/-! ## Bytes that an L1 does not hold -/

theorem State.l1_l1EvictKey (s : State) (core lk n : Nat) : ((s.l1EvictKey core lk).coreOf n).l1 =
    if n = core then (s.coreOf core).l1.filter fun e => lineKey e.1 != lk else (s.coreOf n).l1 := by
  unfold State.l1EvictKey
  extract_lets c es
  split
  next empty =>
    have none : ∀ e ∈ c.l1, (lineKey e.1 != lk) = true := by simpa [es] using empty
    split
    next here => rw [here, List.filter_eq_self.mpr none]
    next => rfl
  next =>
    rw [State.coreOf_onCore]
    have written := ((MemOnly.refl s).toL2 es).poisonOut c.l1Poison es
    split
    · rw [written.coreOf]
    · rw [written.coreOf]

/-- The L1 of core n does not hold the byte of a cache key. -/
structure L1Absent (n k : Nat) (s : State) : Prop where
  get : Sparse.get none (s.coreOf n).l1 k = none

/-- An eviction takes the line out of the core's L1 and leaves every other byte of every L1. -/
theorem State.get_l1EvictKey (s : State) (core lk n k : Nat) : Sparse.get none ((s.l1EvictKey core lk).coreOf n).l1 k =
    if n = core ∧ lineKey k = lk then none else Sparse.get none (s.coreOf n).l1 k := by
  rw [State.l1_l1EvictKey]
  by_cases here : n = core
  · subst here
    by_cases line : lineKey k = lk
    · rw [if_pos rfl, if_pos ⟨rfl, line⟩]
      refine Sparse.get_of_free fun e mem same => ?_
      simpa [same, line] using (List.mem_filter.mp mem).2
    · rw [if_pos rfl, if_neg fun both => line both.2, Sparse.get_filter fun _ => by simpa using line]
  · rw [if_neg here, if_neg fun both => here both.1]

namespace L1Absent

variable {n k : Nat} {s u : State}

theorem memOnly (h : L1Absent n k s) (m : MemOnly s u) : L1Absent n k u :=
  ⟨by rw [m.coreOf, h.get]⟩

theorem l1EvictKey (h : L1Absent n k s) (core lk : Nat) : L1Absent n k (s.l1EvictKey core lk) :=
  ⟨by rw [State.get_l1EvictKey, h.get, ite_self]⟩

theorem of_l1EvictKey (core k : Nat) (s : State) : L1Absent core k (s.l1EvictKey core (lineKey k)) :=
  ⟨(s.get_l1EvictKey core _ core k).trans (if_pos ⟨rfl, rfl⟩)⟩

/-- A core that is not listed holds nothing. -/
theorem of_unlisted (absent : n ∉ s.cores.keys) (k : Nat) : L1Absent n k s := by
  have none : s.cores.find n = none := (Tbl.find_eq_none_iff s.cores n).mpr fun e mem here => absent (here ▸ List.mem_map_of_mem mem)
  refine ⟨?_⟩
  rw [State.coreOf, none]
  rfl

end L1Absent

/-! ## One line -/

/-- What follows the last eviction changes memory alone. -/
theorem MemOnly.of_drops (s : State) (lk : Nat) : MemOnly s (((s.l2WriteBack lk).l2Drop (otherView lk)).l2Drop lk) :=
  (((MemOnly.refl s).l2WriteBack lk).l2Drop (otherView lk)).l2Drop lk

theorem OnlyMemory.dcLine {s u : State} {c : Nat} (h : OnlyMemory s u c) (core lk : Nat) : OnlyMemory s (u.dcLine core lk) c := by
  have others := h.foldl (fun u c => u.l1EvictKey c (otherView lk)) (fun _ _ hv => hv.l1EvictKey _ _) u.cores.keys
  exact ((others.memOnly ((MemOnly.refl _).l2WriteBack (otherView lk))).l1EvictKey core lk).memOnly
    (.of_drops _ lk)

/-- Neither view of the line stays in the L2, and no other line comes. -/
theorem L2Absent.dcLine {k : Nat} {s : State} {lk : Nat} (h : lineKey k = lk ∨ lineKey k = otherView lk ∨ L2Absent k s) (core : Nat) :
    L2Absent k (s.dcLine core lk) := by
  unfold State.dcLine
  by_cases here : lineKey k = lk
  · subst here
    exact .of_l2Drop k _
  · by_cases other : lineKey k = otherView lk
    · rw [← other]
      exact (L2Absent.of_l2Drop k _).l2Drop _
    · have absent : L2Absent k s := (h.resolve_left here).resolve_left other
      have evicted := absent.foldl (fun u c => u.l1EvictKey c (otherView lk)) (fun _ _ hv => hv.l1EvictKey other _) s.cores.keys
      exact (((((evicted.l2WriteBack _).l1EvictKey here core).l2WriteBack _).l2Drop _).l2Drop _)

theorem L1Absent.dcLine {n k : Nat} {s : State} (h : L1Absent n k s) (core lk : Nat) : L1Absent n k (s.dcLine core lk) := by
  have others : L1Absent n k (s.cores.keys.foldl (fun u c => u.l1EvictKey c (otherView lk)) s) :=
    List.foldlRecOn _ _ h fun _ hv _ _ => hv.l1EvictKey _ _
  exact ((others.memOnly ((MemOnly.refl _).l2WriteBack (otherView lk))).l1EvictKey core lk).memOnly
    (.of_drops _ lk)

/-- The other view's copies go from every L1. -/
theorem L1Absent.of_dcLine_otherView (n k : Nat) (s : State) (core : Nat) {lk : Nat} (line : lineKey k = otherView lk) :
    L1Absent n k (s.dcLine core lk) := by
  have others : L1Absent n k (s.cores.keys.foldl (fun u c => u.l1EvictKey c (otherView lk)) s) := by
    by_cases listed : n ∈ s.cores.keys
    · exact foldl_makes listed (fun v => line ▸ L1Absent.of_l1EvictKey n k v) (fun _ _ hv => hv.l1EvictKey _ _) s
    · exact List.foldlRecOn _ _ (L1Absent.of_unlisted listed k) fun _ hv _ _ => hv.l1EvictKey _ _
  exact ((others.memOnly ((MemOnly.refl _).l2WriteBack (otherView lk))).l1EvictKey core lk).memOnly
    (.of_drops _ lk)

/-- The touched view's copies go from the core's own L1. -/
theorem L1Absent.of_dcLine (k : Nat) (s : State) (core : Nat) : L1Absent core k (s.dcLine core (lineKey k)) :=
  (L1Absent.of_l1EvictKey core k _).memOnly (.of_drops _ _)

/-- Another core keeps every line but the other view's. -/
theorem State.get_dcLine (s : State) {core lk n k : Nat} (other : n ≠ core) (line : lineKey k ≠ otherView lk) :
    Sparse.get none ((s.dcLine core lk).coreOf n).l1 k = Sparse.get none (s.coreOf n).l1 k := by
  have others : Sparse.get none ((s.cores.keys.foldl (fun u c => u.l1EvictKey c (otherView lk)) s).coreOf n).l1 k =
      Sparse.get none (s.coreOf n).l1 k :=
    List.foldlRecOn (motive := fun u : State => Sparse.get none (u.coreOf n).l1 k = Sparse.get none (s.coreOf n).l1 k) _ _ rfl
      fun v hv c _ => by rw [State.get_l1EvictKey, if_neg fun both => line both.2, hv]
  have written := (MemOnly.refl (s.cores.keys.foldl (fun u c => u.l1EvictKey c (otherView lk)) s)).l2WriteBack (otherView lk)
  rw [State.dcLine, (MemOnly.of_drops _ lk).coreOf, State.get_l1EvictKey, if_neg fun both => other both.1, written.coreOf, others]

/-! ## The instruction -/

/-- What a DCFENCE leaves: every touched line brought to one state. -/
def State.dcfenced (s : State) (c core : Nat) (u : State) : State := (s.auxOf c).touched.foldl (fun v e => v.dcLine core e.1) u

variable {s u : State} {g : Issue} {r : Crew}

theorem OnlyMemory.fence {c : Nat} (h : OnlyMemory s u c) (r : Crew) (o : FenceOrder) (sc : Scope) : OnlyMemory s (u.fence r o sc) c := by
  unfold State.fence
  extract_lets t
  have released : OnlyMemory s t c := by
    unfold t
    split
    · exact h.releaseAt _ _
    · exact h
  split
  · exact released.acquire _ _
  · exact released

/-- A DCFENCE leaves no touched line, under either view, in the L2 or the core's L1, nor the other view in any L1. -/
theorem State.absent_dcfenced {c core : Nat} {e : Nat × Bool} (mem : e ∈ (s.auxOf c).touched) (u : State) {k : Nat}
    (line : lineKey k = e.1 ∨ lineKey k = otherView e.1) :
    L2Absent k (s.dcfenced c core u) ∧ L1Absent core k (s.dcfenced c core u) := by
  refine ⟨foldl_makes mem (fun v => .dcLine (line.imp_right .inl) core) (fun v x hv => .dcLine (.inr (.inr hv)) core) u,
    foldl_makes mem (fun v => ?_) (fun v x hv => hv.dcLine core x.1) u⟩
  rcases line with here | other
  · rw [← here]
    exact .of_dcLine k v core
  · exact .of_dcLine_otherView core k v core other

end Sys2Proof.Machine

/-!
The ordering instructions and the prefetches (07 R188-R190, R195, R197; 12 R309-R315).
-/

namespace Sys2Proof

/-- Setting a record that is there adds none to those that a test of the numbers picks. -/
theorem Tbl.length_filter_put_le_of_held {α : Type} (t : Tbl α) (i : Nat) (v : α) (p : Nat → Bool) (held : (t.find i).isSome = true) :
    ((t.put i v).filter fun e => p e.1).length ≤ (t.filter fun e => p e.1).length := by
  have fewer : (if p i then 1 else 0) + ((Sparse.del t i).filter fun e => p e.1).length ≤ (t.filter fun e => p e.1).length := by
    induction t with
    | nil => cases held
    | cons e t ih =>
      obtain ⟨k, w⟩ := e
      rw [Sparse.del]
      by_cases here : k = i
      · subst here
        have deleted := ((Sparse.sublist_del t k).filter fun e => p e.1).length_le
        rw [if_pos rfl, List.filter_cons]
        split
        · rw [List.length_cons]
          omega
        · omega
      · have held : (Tbl.find t i).isSome = true := by simpa only [Tbl.find, if_neg here] using held
        have := ih held
        rw [if_neg here, List.filter_cons, List.filter_cons]
        by_cases picked : p k = true
        · simp only [picked, if_true, List.length_cons]
          omega
        · simp only [picked, if_false, Bool.false_eq_true]
          omega
  rw [Tbl.put, ((Sparse.perm_ins (Sparse.del t i) i v).filter fun e => p e.1).length_eq, List.filter_cons]
  split
  next picked =>
    rw [if_pos picked] at fewer
    rw [List.length_cons]
    omega
  next not =>
    rw [if_neg not] at fewer
    omega

namespace Machine

variable {s t u : State} {g : Issue} {r : Crew}

/-! ## Fills of any mark -/

/-- From s to u, an access having allocated a line of the L2 where a way was free, only the L2 changes, no byte that a slice gives does,
and no line loses its place. -/
structure TakesLine (s u : State) (lk : Nat) : Prop where
  only : OnlyL2 s u
  slice : ∀ t pa, u.sliceGet t pa = s.sliceGet t pa
  kept : ∀ j, (s.mem.lines.find j).isSome = true → (u.mem.lines.find j).isSome = true
  ways : (∀ k, (u.l2Set k).length ≤ (s.l2Set k).length) ∨
    (s.mem.lines.find lk = none ∧ (u.mem.lines.find lk).isSome = true ∧ ∀ k, (u.l2Set k).length ≤ (s.l2Set k).length + 1)

theorem TakesLine.refl (s : State) (lk : Nat) : TakesLine s s lk := ⟨⟨rfl⟩, fun _ _ => rfl, fun _ h => h, .inl fun _ => le_rfl⟩

/-- A mark is changed in its place, and that of the oldest retained line, where it goes, in its own. -/
theorem State.l2SetMark_eq (s : State) (lk : Nat) (m : L2Mark) (bounded : Bool) : ∃ lines x,
    s.l2SetMark lk m bounded = { s with mem := { s.mem with lines := lines.put lk x } } ∧
    (lines = s.mem.lines ∨ ∃ j y, (s.mem.lines.find j).isSome = true ∧ lines = s.mem.lines.put j y) := by
  refine ⟨_, _, rfl, ?_⟩
  split
  next j _ =>
    rw [Tbl.upd]
    split
    · exact .inl rfl
    next y found => exact .inr ⟨j, _, by rw [found]; rfl, rfl⟩
  next => exact .inl rfl

theorem State.l2SetMark_takes (s : State) (lk : Nat) (m : L2Mark) (bounded : Bool) : TakesLine s (s.l2SetMark lk m bounded) lk := by
  obtain ⟨lines, x, eq, cleared⟩ := s.l2SetMark_eq lk m bounded
  have only : OnlyL2 s { s with mem := { s.mem with lines := lines.put lk x } } := ⟨rfl⟩
  have kept : ∀ j, (s.mem.lines.find j).isSome = true → (lines.find j).isSome = true := by
    intro j found
    rcases cleared with rfl | ⟨j', y, -, rfl⟩
    · exact found
    · rw [Tbl.find_put]
      split
      · rfl
      · exact found
  have ways (k : Nat) : (lines.filter fun e => e.1 / 512 % 49152 == k / 512 % 49152).length ≤ (s.l2Set k).length := by
    rcases cleared with rfl | ⟨j', y, held, rfl⟩
    · exact le_rfl
    · exact Tbl.length_filter_put_le_of_held s.mem.lines j' y (fun n => n / 512 % 49152 == k / 512 % 49152) held
  rw [eq]
  refine ⟨only, only.sliceGet fun _ => rfl, fun j found => ?_, ?_⟩
  · simp only [Tbl.find_put]
    split
    · rfl
    · exact kept j found
  · by_cases held : (s.mem.lines.find lk).isSome = true
    · exact .inl fun k => (Tbl.length_filter_put_le_of_held lines lk x (fun n => n / 512 % 49152 == k / 512 % 49152)
        (kept lk held)).trans (ways k)
    · refine .inr ⟨by simpa using held, by simp [Tbl.find_put], fun k => ?_⟩
      exact (Tbl.length_filter_put_le lines lk x _).trans (Nat.succ_le_succ (ways k))

theorem State.l2Alloc_takes (s : State) (lk : Nat) (m : L2Mark) (room : s.mem.lines.find lk = none → (s.l2Set lk).length < 16) :
    TakesLine s (s.l2Alloc lk m) lk := by
  unfold State.l2Alloc
  split
  · split
    · exact s.l2SetMark_takes lk m _
    · exact .refl s lk
  next absent =>
    rw [State.l2Room, if_pos (room absent)]
    exact s.l2SetMark_takes lk m _

/-- What a fill brings is what the slices gave below the L2. -/
theorem TakesLine.setL2 {lk : Nat} (takes : TakesLine s u lk) {bs : List (Nat × Byte)} (agree : ∀ e ∈ bs, e.2 = u.below e.1) :
    TakesLine s { u with mem := { u.mem with l2 := fillBytes (fun _ => true) u.mem.l2 bs } } lk where
  only := ⟨takes.only.rest⟩
  slice t pa := by
    have filled : OnlyL2 u { u with mem := { u.mem with l2 := fillBytes (fun _ => true) u.mem.l2 bs } } := ⟨rfl⟩
    rw [filled.sliceGet (read_fillBytes u.below u.mem.l2 agree), takes.slice]
  kept := takes.kept
  ways := takes.ways

theorem State.sliceFill_takes (s : State) (t : MemTag) (how : Option L2Mark) (pa : Nat)
    (room : s.mem.lines.find (t.ckey (pa / 128)) = none → (s.l2Set (t.ckey (pa / 128))).length < 16) :
    TakesLine s (s.sliceFill t how pa) (t.ckey (pa / 128)) := by
  unfold State.sliceFill
  split
  next m =>
    split
    · unfold State.l2Fill
      extract_lets u vals bs
      have allocated : TakesLine s u (t.ckey (pa / 128)) := s.l2Alloc_takes _ m room
      split
      · exact allocated
      · exact allocated.setL2 (u.sectorFill_below t pa)
    · exact .refl s _
  next => exact .refl s _

namespace Loaded

variable {c core : Nat} {ls : List Nat} (h : Loaded t u c core ls)

include h

/-- An access that allocates one of the lines that there is room for. -/
theorem takesLine {v : State} {lk : Nat} (mem : lk ∈ ls) (takes : TakesLine u v lk) : Loaded t v c core ls := by
  have cores : v.coreOf core = u.coreOf core := takes.only.coreOf core
  have aux : v.auxOf c = u.auxOf c := takes.only.auxOf c
  refine ⟨takes.only.eq_setMem ▸ h.only.setMem v.mem, by rw [aux, h.storeQ], by rw [cores, h.wc],
    fun x pa => by rw [takes.slice, h.slice], by rw [cores]; exact h.held, by rw [cores]; exact h.l1, fun k => ?_⟩
  have before := h.l2 k
  have counted : (ls.countP fun j => (u.mem.lines.find j).isSome) ≤ ls.countP fun j => (v.mem.lines.find j).isSome :=
    List.countP_mono_left fun j _ found => takes.kept j found
  rcases takes.ways with same | ⟨absent, found, more⟩
  · have := same k
    omega
  · have := more k
    have := countP_lt_countP (l := ls) (p := fun j => (u.mem.lines.find j).isSome) (q := fun j => (v.mem.lines.find j).isSome)
      (fun j _ held => takes.kept j held) mem (by rw [absent]; rfl) found
    omega

theorem fill (room : t.roomFor core ls) (x : MemTag) (how : Option L2Mark) (pa : Nat) (mem : x.ckey (pa / 128) ∈ ls) :
    Loaded t (u.sliceFill x how pa) c core ls := h.takesLine mem (u.sliceFill_takes x how pa (h.l2Room room mem))

end Loaded

/-! ## Prefetches (07 R197) -/

section
variable (stays : CByte → Bool) (m : Sparse (Option CByte)) (bs : List (Nat × Byte))

/-- A fill leaves a byte that stays. -/
theorem get_fillBytes_of_stays {k : Nat} {v : CByte} (held : Sparse.get none m k = some v) (kept : stays v = true) :
    Sparse.get none (fillBytes stays m bs) k = some v := by
  induction bs generalizing m with
  | nil => exact held
  | cons e bs ih =>
    rw [fillBytes_cons]
    refine ih _ ?_
    rw [get_fillByte, if_neg fun both => ?_]
    · exact held
    · rw [both.1] at held
      exact Bool.false_ne_true ((both.2 v held).symm.trans kept)

/-- A byte after a fill stood there, or the fill brought it. -/
theorem get_fillBytes_cases {k : Nat} {v : CByte} (held : Sparse.get none (fillBytes stays m bs) k = some v) :
    Sparse.get none m k = some v ∨ ∃ e ∈ bs, e.1 = k ∧ v = { val := e.2, dirty := false } := by
  induction bs generalizing m with
  | nil => exact .inl held
  | cons e bs ih =>
    rw [fillBytes_cons] at held
    rcases ih _ held with before | ⟨x, mem, eq⟩
    · rw [get_fillByte] at before
      split at before
      next both => exact .inr ⟨e, List.mem_cons_self, both.1.symm, (Option.some.inj before).symm⟩
      next => exact .inl before
    · exact .inr ⟨x, List.mem_cons_of_mem e mem, eq⟩

end

/-- A byte of a slice goes by its cache key. -/
theorem State.sliceGet_congr (s : State) {x y : MemTag} {pa : Nat} (key : x.ckey pa = y.ckey pa) : s.sliceGet x pa = s.sliceGet y pa := by
  have same : x.key = y.key := by rw [← x.ofNat_ckey pa, key, y.ofNat_ckey]
  simp only [State.sliceGet, key, same]

/-- A prefetch of one sector. -/
def State.prefetchSector (core : Nat) (l1 : Bool) (p : CachePolicy) (x : MemTag) (u : State) (pa : Nat) : State :=
  if u.poisoned pa 32 then u
  else if l1 && !skipsL1 p && u.l1Able x pa then u.l1Fill core x (l2How x.attr p) pa
  else u.sliceFill x (l2How x.attr p) pa

/-- A prefetch of the line of a place. -/
def State.prefetchLine (core : Nat) (l1 : Bool) (p : CachePolicy) (u : State) (q : MemTag × Nat) : State :=
  if !u.isLocal q.1 then u else (List.range 4).foldl (fun u i => u.prefetchSector core l1 p q.1 (q.2 / 128 * 128 + 32 * i)) u

/-- What a fact needs to outlast a prefetch. -/
theorem State.prefetchLine_keeps {P : State → Prop} {core : Nat} {l1 : Bool} {p : CachePolicy} {q : MemTag × Nat} (h : P u)
    (fill : ∀ v pa, pa / 128 = q.2 / 128 → P v → P (v.l1Fill core q.1 (l2How q.1.attr p) pa))
    (slice : ∀ v pa, pa / 128 = q.2 / 128 → P v → P (v.sliceFill q.1 (l2How q.1.attr p) pa)) : P (u.prefetchLine core l1 p q) := by
  unfold State.prefetchLine
  split
  · exact h
  · refine List.foldlRecOn _ _ h fun v hv i mem => ?_
    have low : i < 4 := List.mem_range.mp mem
    have line : (q.2 / 128 * 128 + 32 * i) / 128 = q.2 / 128 := by omega
    unfold State.prefetchSector
    split
    · exact hv
    · split
      · exact fill v _ line hv
      · exact slice v _ line hv

/-- From t to u the core's L1 has gained clean bytes alone, as their slices have them, and the slices read alike. -/
structure Prefetched (t u : State) (c core : Nat) (ls : List Nat) : Prop where
  loaded : Loaded t u c core ls
  dirty : ∀ k v, Sparse.get none (t.coreOf core).l1 k = some v → v.dirty = true → Sparse.get none (u.coreOf core).l1 k = some v
  clean : ∀ x pa v, Sparse.get none (u.coreOf core).l1 (x.ckey pa) = some v →
    Sparse.get none (t.coreOf core).l1 (x.ckey pa) = some v ∨ v.dirty = false ∧ v.val = t.sliceGet x pa

namespace Prefetched

variable {c core : Nat} {ls : List Nat} (h : Prefetched t u c core ls)

theorem refl (t : State) (c core : Nat) (ls : List Nat) : Prefetched t t c core ls :=
  ⟨.refl t c core ls, fun _ _ held _ => held, fun _ _ _ held => .inl held⟩

include h

theorem sliceFill (room : t.roomFor core ls) (x : MemTag) (how : Option L2Mark) (pa : Nat) (mem : x.ckey (pa / 128) ∈ ls) :
    Prefetched t (u.sliceFill x how pa) c core ls := by
  have cores : (u.sliceFill x how pa).coreOf core = u.coreOf core := ((MemOnly.refl u).sliceFill x how pa).coreOf core
  exact ⟨h.loaded.fill room x how pa mem, by rw [cores]; exact h.dirty, by rw [cores]; exact h.clean⟩

theorem l1Fill (room : t.roomFor core ls) (x : MemTag) (how : Option L2Mark) (pa : Nat) (mem : x.ckey (pa / 128) ∈ ls) :
    Prefetched t (u.l1Fill core x how pa) c core ls := by
  have filled := h.loaded.fill room x how pa mem
  have eq := State.l1_l1Fill (how := how) (h.loaded.l1Room room mem) (((MemOnly.refl u).sliceFill x how pa).coreOf core)
  refine ⟨?_, fun k v held dirty => ?_, fun y q v held => ?_⟩
  · unfold State.l1Fill
    rw [h.loaded.l1Room room mem]
    refine filled.setL1 fun e new => ?_
    obtain ⟨i, low, rfl⟩ := List.mem_map.mp new
    have low : i < 32 := List.mem_range.mp low
    rw [lineKey_ckey, show (pa / 32 * 32 + i) / 128 = pa / 128 by omega]
    exact mem
  · rw [eq]
    exact get_fillBytes_of_stays _ _ _ (h.dirty k v held dirty) dirty
  · rw [eq] at held
    rcases get_fillBytes_cases _ _ _ held with before | ⟨e, new, key, rfl⟩
    · exact h.clean y q v before
    · obtain ⟨i, -, rfl⟩ := List.mem_map.mp new
      obtain ⟨place, keys⟩ := MemTag.ckey_inj key
      subst place
      exact .inr ⟨rfl, (filled.slice x _).trans (t.sliceGet_congr key)⟩

theorem prefetchLine (room : t.roomFor core ls) (l1 : Bool) (p : CachePolicy) {q : MemTag × Nat} (mem : q.1.ckey (q.2 / 128) ∈ ls) :
    Prefetched t (u.prefetchLine core l1 p q) c core ls :=
  State.prefetchLine_keeps (P := fun v => Prefetched t v c core ls) h (fun _ pa line hv => hv.l1Fill room q.1 _ pa (line ▸ mem))
    fun _ pa line hv => hv.sliceFill room q.1 _ pa (line ▸ mem)

end Prefetched

theorem OnlyMemory.prefetchLine {c : Nat} (h : OnlyMemory s u c) (core : Nat) (l1 : Bool) (p : CachePolicy) (q : MemTag × Nat) :
    OnlyMemory s (u.prefetchLine core l1 p q) c :=
  State.prefetchLine_keeps (P := fun v => OnlyMemory s v c) h (fun _ _ _ hv => hv.l1Fill _ _ _ _) fun _ _ _ hv => hv.memOnly ((MemOnly.refl _).sliceFill _ _ _)

theorem OthersStay.prefetchLine {core : Nat} (h : OthersStay core s u) (l1 : Bool) (p : CachePolicy) (q : MemTag × Nat) :
    OthersStay core s (u.prefetchLine core l1 p q) := by
  refine State.prefetchLine_keeps (P := fun v => OthersStay core s v) h (fun v pa _ hv => ?_) fun _ _ _ hv => hv.memOnly ((MemOnly.refl _).sliceFill _ _ _)
  have room : OthersStay core s (v.l1Room core (q.1.ckey (pa / 128))) := by
    unfold State.l1Room
    dsimp only
    split
    · exact hv
    · split
      · exact hv
      · exact (hv.memOnly ((MemOnly.refl v).setFresh (v.fresh + 1))).l1EvictKey _
  exact (room.memOnly ((MemOnly.refl _).sliceFill _ _ _)).onCore _

theorem mem_linesAt {ps : List (MemTag × Nat)} {q : MemTag × Nat} (mem : q ∈ ps) : q.1.ckey (q.2 / 128) ∈ linesAt ps 1 :=
  List.mem_eraseDups.mpr (List.mem_flatMap.mpr ⟨q, mem, List.mem_map.mpr ⟨0, List.mem_range.mpr Nat.one_pos, rfl⟩⟩)

/-- What a prefetch leaves, its lanes having been translated: nothing, with policy noalloc. -/
def prefetched (s : State) (g : Issue) (r : Crew) (l1 : Bool) (x : List (Nat × LaneFault) × List (Nat × MemTag × Nat) × State) : State :=
  if cacheOf g.hints = .noalloc then s else (x.2.1.map (·.2)).foldl (State.prefetchLine r.core l1 (cacheOf g.hints)) x.2.2

theorem prefetchBody_eq (l1 : Bool) (a : VReg) (b : SReg) (f : Bool) (k : KReg) (s : State) (g : Issue) (r : Crew) :
    prefetchBody l1 a b f k s g r = .next (prefetched s g r l1
      (s.gatherLanes (viaOf r) (s.ctxOf r) r.priv (lanesAcc (r.active k) (formOf f a b s g r) 1 1 .read true false))) := by
  rw [prefetchBody, prefetched, List.foldl_map]
  by_cases none : cacheOf g.hints = .noalloc
  · rw [if_pos none]
    exact if_pos (beq_iff_eq.mpr none)
  · rw [if_neg none]
    exact if_neg fun same => none (eq_of_beq same)

theorem prefetched_claims (s : State) (g : Issue) (r : Crew) (l1 : Bool) (qs : List (Nat × LaneAcc)) :
    let x := s.gatherLanes (viaOf r) (s.ctxOf r) r.priv qs
    let t := if cacheOf g.hints = .noalloc then s else x.2.2
    let u := prefetched s g r l1 x
    OnlyMemory s u g.crew ∧ OthersStay r.core t u ∧
      (t.roomFor r.core (linesAt (x.2.1.map (·.2)) 1) → Prefetched t u g.crew r.core (linesAt (x.2.1.map (·.2)) 1)) := by
  intro x t u
  unfold u t prefetched
  split
  · exact ⟨.refl s _, .refl s, fun _ => .refl s _ _ _⟩
  · refine ⟨?_, ?_, fun room => ?_⟩
    · have gathered := (OnlyMemory.refl s g.crew).memOnly ((MemOnly.refl s).gatherLanes (viaOf r) (s.ctxOf r) r.priv qs)
      exact gathered.foldl _ (fun _ _ hv => hv.prefetchLine _ _ _ _) _
    · exact (OthersStay.refl x.2.2).foldl _ (fun _ _ hv => hv.prefetchLine _ _ _) _
    · exact List.foldlRecOn (motive := fun v => Prefetched x.2.2 v g.crew r.core (linesAt (x.2.1.map (·.2)) 1)) _ _
        (.refl _ _ _ _) fun v hv q mem => hv.prefetchLine room _ _ (mem_linesAt mem)

/-! ## The obligation -/

/-- A fence that does not wait finds the crew's queue empty. -/
theorem storeQ_of_fenceWait {o : FenceOrder} {sc : Scope} (own : fenceWait o sc s g r = none) : (s.auxOf g.crew).storeQ = [] := by
  by_contra queued
  have waits : fenceWait o sc s g r = some 4 := by
    refine if_pos ?_
    simp [List.isEmpty_eq_false_iff.mpr queued]
  rw [waits] at own
  cases own

theorem copying_of_qfenceWait {m : BitVec 4} (own : qfenceWait m s g r = none) : s.copying g.crew r m = false := by
  by_contra copies
  have waits : qfenceWait m s g r = some 13 := if_pos (by simpa using copies)
  rw [waits] at own
  cases own

theorem claims_orderingGroups : Claims.OrderingGroups := by
  intro s g r
  refine ⟨fun o sc runs => ?_, fun m runs => ?_, fun runs => runs.exec_of_wait (fun _ => rfl) rfl rfl rfl, fun runs => ?_,
    fun i a b f k shape runs => ?_⟩
  · refine ⟨(OnlyMemory.refl s g.crew).fence r o sc, storeQ_of_fenceWait (r := r) runs.own, ?_⟩
    intro t late
    have late_iff : (fenceRel o && t.unsettled sc) = true ↔ late := by
      simp only [late, fenceRel, State.unsettled, Bool.and_eq_true, bne_iff_ne, beq_iff_eq, ne_eq]
    refine ⟨fun yes => runs.exec_closes (fun _ => rfl) rfl rfl (if_pos (late_iff.mpr yes)),
      fun no => runs.exec_of_wait (fun _ => rfl) rfl rfl (if_neg fun yes => no (late_iff.mp yes))⟩
  · exact ⟨(OnlyMemory.refl s g.crew).acquire r .device, copying_of_qfenceWait runs.own, runs.exec_of_wait (fun _ => rfl) rfl rfl rfl⟩
  · refine ⟨s.dcfenced g.crew r.core (s.fence r .acqrel .device),
      ((OnlyMemory.refl s g.crew).fence r .acqrel .device).foldl _ (fun _ _ hv => hv.dcLine _ _) _,
      runs.exec_of_wait (fun _ => rfl) rfl rfl rfl, fun e mem i low => ⟨fun lk either => ?_, fun n => ?_⟩, fun n other k lines => ?_⟩
    · have line : lineKey (byteKey lk i) = e.1 ∨ lineKey (byteKey lk i) = otherView e.1 := by rwa [lineKey_byteKey lk low]
      obtain ⟨l2, l1⟩ := State.absent_dcfenced mem (core := r.core) (s.fence r .acqrel .device) line
      exact ⟨l2.get, l1.get⟩
    · have gone : L1Absent n (byteKey (otherView e.1) i) (s.dcfenced g.crew r.core (s.fence r .acqrel .device)) :=
        foldl_makes mem (fun v => .of_dcLine_otherView n _ v r.core (lineKey_byteKey _ low)) (fun v x hv => hv.dcLine r.core x.1) _
      exact gone.get
    · refine List.foldlRecOn (motive := fun u : State => Sparse.get none (u.coreOf n).l1 k = Sparse.get none (s.coreOf n).l1 k)
        (s.auxOf g.crew).touched _ ?_ fun v hv e mem => (v.get_dcLine other (lines e mem)).trans hv
      rw [OthersStay.fence s .acqrel .device n other]
  · have run (l1 : Bool) (group : ∀ t, exec i t = runGroup i t noWait (prefetchBody l1 a b f k)) (notRett : (i == Instr.rett) = false) :=
      runs.exec_eq group notRett (prefetchBody_eq l1 a b f k s g r)
    have claims (l1 : Bool) := prefetched_claims s g r l1 (lanesAcc (r.active k) (formOf f a b s g r) 1 1 .read true false)
    rcases shape with rfl | rfl
    · obtain ⟨only, others, fetched⟩ := claims true
      exact ⟨_, only, run true (fun _ => rfl) rfl, others, fun room => ⟨(fetched room).loaded.slice, (fetched room).dirty, (fetched room).clean⟩⟩
    · obtain ⟨only, others, fetched⟩ := claims false
      exact ⟨_, only, run false (fun _ => rfl) rfl, others, fun room => ⟨(fetched room).loaded.slice, (fetched room).dirty, (fetched room).clean⟩⟩

/-- Settles O34: each group's effect is on memory alone; a line that a DCFENCE brings to one state goes and no later one brings it back,
a prefetch fills what slices have, and what a fence settles or drops is told entry by entry. -/
theorem orderingGroups : Obligations.OrderingGroups := ⟨claims_orderingGroups, claims_fencesCleanTheL1⟩

end Machine

end Sys2Proof

/-!
Stores that race with reads of tiles: each chunk of a read that is under way is read old or new (07 R176; 08 R207).
-/

namespace Sys2Proof

/-- An entry of lists of one length in a row. -/
theorem getElem?_flatMap_of_length {α β : Type} {f : α → List β} {w : Nat} (length : ∀ a, (f a).length = w) {j : Nat} (low : j < w)
    (l : List α) (i : Nat) : (l.flatMap f)[w * i + j]? = l[i]?.bind fun a => (f a)[j]? := by
  induction l generalizing i with
  | nil => rfl
  | cons a l ih =>
    rw [List.flatMap_cons]
    cases i with
    | zero =>
      rw [Nat.mul_zero, Nat.zero_add, List.getElem?_append_left (by rw [length]; exact low)]
      rfl
    | succ i =>
      rw [List.getElem?_append_right (by rw [length, Nat.mul_succ]; omega), length,
        show w * (i + 1) + j - w = w * i + j by rw [Nat.mul_succ]; omega, ih]
      rfl

namespace Machine

/-! ## A read under way -/

/-- Of each chunk a read that meets a store takes the bank's bytes, where they are new, and else keeps its own. -/
theorem TileRead.getD_meet {x : TileRead} {bank : Nat → Byte} {new : Nat → Bool} {i j a : Nat} (chunk : x.chunks[i]? = some a) (low : j < 16) :
    (x.meet bank new).bytes.getD (16 * i + j) 0 = if new a then bank (a + j) else x.bytes.getD (16 * i + j) 0 := by
  simp only [TileRead.meet, List.getD_eq_getElem?_getD]
  rw [getElem?_flatMap_of_length (fun _ => by simp) low, List.getElem?_zipIdx, chunk]
  simp only [Option.map_some, Option.bind_some, List.getElem?_map, List.getElem?_range low, Option.getD_some, Nat.zero_add]

/-- What reads are read from: the streams, the WLD and the ACCLDs of two partitions are the same. -/
structure SameReads (p q : Partition) : Prop where
  streams : q.streams = p.streams
  wld : q.wld = p.wld
  wldRead : q.wldRead = p.wldRead
  accld : q.accld = p.accld

theorem SameReads.reads {p q : Partition} (h : SameReads p q) (clk : Nat) : q.reads clk = p.reads clk := by
  simp only [Partition.reads, h.streams, h.wld, h.wldRead, h.accld]

/-- A partition whose reads are changed, before what they have written follows. -/
def Partition.rereads (p : Partition) (clk : Nat) (f : ReadKey → TileRead → TileRead) : Partition :=
  { p with
    streams := p.streams.map fun x =>
      if clk < x.start + 32 then { x with work := { x.work with read := f (.mma, x.work.read.crew, x.start) x.work.read } } else x
    wldRead := match p.wld, p.wldRead with
      | some w, some x => if clk < w.2 + 32 then some (f (.wld, x.crew, w.2) x) else some x
      | _, x => x
    accld := p.accld.map fun x =>
      if clk < x.start + accldTime then { x with read := f (.accld, x.read.crew, x.start) x.read } else x }

theorem Partition.sameReads_reread (p : Partition) (clk : Nat) (f : ReadKey → TileRead → TileRead) :
    SameReads (p.rereads clk f) (p.reread clk f) := by
  have work (q : Partition) (h : SameReads (p.rereads clk f) q) (t : Nat) (w : StreamWork) : SameReads (p.rereads clk f) (q.putWork t w) :=
    ⟨h.streams, h.wld, h.wldRead, h.accld⟩
  have load (q : Partition) (h : SameReads (p.rereads clk f) q) (t : Nat) (c : AccConv) (bs : List Byte) :
      SameReads (p.rereads clk f) (q.putLoad t c bs) := ⟨h.streams, h.wld, h.wldRead, h.accld⟩
  unfold Partition.reread
  extract_lets p1 p2 p3
  have streamed : SameReads (p.rereads clk f) p2 := by
    refine List.foldlRecOn _ _ ⟨rfl, rfl, rfl, rfl⟩ fun q hq x _ => ?_
    split
    · split
      · exact work q hq _ _
      · exact hq
    · exact hq
  have loaded : SameReads (p.rereads clk f) p3 := by
    refine List.foldlRecOn _ _ streamed fun q hq x _ => ?_
    split
    · split
      · exact load q hq _ _ _
      · exact hq
    · exact hq
  split
  · split
    · exact ⟨loaded.streams, loaded.wld, loaded.wldRead, loaded.accld⟩
    · exact loaded
  · exact loaded

theorem Partition.reads_rereads (p : Partition) (clk : Nat) {f : ReadKey → TileRead → TileRead} (crew : ∀ k x, (f k x).crew = x.crew) :
    (p.rereads clk f).reads clk = (p.reads clk).map fun x => (x.1, f x.1 x.2) := by
  simp only [Partition.reads, Partition.rereads, List.map_append, List.map_map, List.filter_map]
  congr 1
  · congr 1
    · have start : ((fun x : Stream => decide (clk < x.start + 32)) ∘ fun x => if clk < x.start + 32 then
          { x with work := { x.work with read := f (.mma, x.work.read.crew, x.start) x.work.read } } else x) =
          fun x => decide (clk < x.start + 32) := funext fun x => by simp only [Function.comp]; split <;> rfl
      rw [start]
      refine List.map_congr_left fun x mem => ?_
      have going : clk < x.start + 32 := by simpa using (List.mem_filter.mp mem).2
      simp only [Function.comp, going, if_true, crew]
    · cases p.wld with
      | none => rfl
      | some w =>
        cases p.wldRead with
        | none => rfl
        | some x =>
          dsimp only
          by_cases going : clk < w.2 + 32
          · simp only [going, if_true, crew, List.map_cons, List.map_nil]
          · simp only [going, if_false, List.map_nil]
  · have start : ((fun x : AccLoad => decide (clk < x.start + accldTime)) ∘ fun x => if clk < x.start + accldTime then
        { x with read := f (.accld, x.read.crew, x.start) x.read } else x) =
        fun x => decide (clk < x.start + accldTime) := funext fun x => by simp only [Function.comp]; split <;> rfl
    rw [start]
    refine List.map_congr_left fun x mem => ?_
    have going : clk < x.start + accldTime := by simpa using (List.mem_filter.mp mem).2
    simp only [Function.comp, going, if_true, crew]

theorem Partition.reads_reread (p : Partition) (clk : Nat) {f : ReadKey → TileRead → TileRead} (crew : ∀ k x, (f k x).crew = x.crew) :
    (p.reread clk f).reads clk = (p.reads clk).map fun x => (x.1, f x.1 x.2) := by
  rw [(p.sameReads_reread clk f).reads, p.reads_rereads clk crew]

/-! ## A store -/

/-- A store of crew c to some bank addresses meets chunk a of a read: another crew reads there, in a part of the same block. -/
def MeetsAt (c : Nat) (r : Crew) (vas : List DWord) (x : TileRead) (a : Nat) : Prop :=
  x.crew ≠ c ∧ x.block = r.block ∧ ∃ va ∈ vas, va.toNat / 2 ^ 22 % 8 = x.part ∧ va.toNat % 2 ^ 22 / 16 * 16 = a

/-- The parts and chunks that a store writes to. -/
def storeSpots (vas : List DWord) : List (Nat × Nat) :=
  (vas.map fun va => ((va.extractLsb' 22 3).toNat, (va.extractLsb' 0 22).toNat / 16 * 16)).eraseDups

theorem meetsAt_of_spot {c : Nat} {r : Crew} {vas : List DWord} {x : TileRead} {q : Nat × Nat} (mem : q ∈ storeSpots vas)
    (exposed : x.exposed c r.block q.1 = true) : MeetsAt c r vas x q.2 := by
  obtain ⟨va, given, rfl⟩ := List.mem_map.mp (List.mem_eraseDups.mp mem)
  simp only [TileRead.exposed, Bool.and_eq_true, bne_iff_ne, beq_iff_eq] at exposed
  obtain ⟨⟨other, block⟩, part⟩ := exposed
  refine ⟨other, block, va, given, ?_, ?_⟩
  · exact (extract_toNat va 22 3).symm.trans part.symm
  · have low : (va.extractLsb' 0 22).toNat = va.toNat % 2 ^ 22 := by rw [extract_toNat, pow_zero, Nat.div_one]
    exact congrArg (· / 16 * 16) low.symm

/-- The reads of a partition as a store changes them: those that it meets take new bytes in some chunks. -/
def Partition.raced (s : State) (hit : TileRead → Bool) (new : ReadKey → TileRead → Nat → Bool) (p : Partition) : Partition :=
  if (p.reads s.clk).any fun x => hit x.2 then
    p.reread s.clk fun k x => if hit x then x.meet (s.bankByte x.block x.part) (new k x) else x
  else p

/-- A store meets no read, or races with those that it meets, in chunks that it writes to. -/
theorem State.raceTiles_cases (s : State) (c : Nat) (r : Crew) (vas : List DWord) : s.raceTiles c r vas = s ∨
    ∃ (hit : TileRead → Bool) (new : ReadKey → TileRead → Nat → Bool) (n : Nat),
      (∀ x, hit x = true → ∃ a ∈ x.chunks, MeetsAt c r vas x a) ∧ (∀ k x a, new k x a = true → MeetsAt c r vas x a) ∧
      s.raceTiles c r vas = { s with partitions := s.partitions.map fun p => (p.1, p.2.raced s hit new), fresh := n } := by
  unfold State.raceTiles
  extract_lets spots hit keys new
  split
  · exact .inl rfl
  · refine .inr ⟨hit, new, s.fresh + spots.length * keys.length, fun x met => ?_, fun k x a fresh => ?_, ?_⟩
    · obtain ⟨q, mem, both⟩ := List.any_eq_true.mp met
      rw [Bool.and_eq_true] at both
      exact ⟨q.2, by simpa using both.2, meetsAt_of_spot mem both.1⟩
    · obtain ⟨q, mem, all⟩ := List.any_eq_true.mp fresh
      simp only [Bool.and_eq_true, beq_iff_eq] at all
      obtain ⟨⟨rfl, exposed⟩, -⟩ := all
      exact meetsAt_of_spot mem exposed
    · congr 1
      refine List.map_congr_left fun p _ => ?_
      unfold Partition.raced
      split <;> rfl

/-- A partition's reads after a race: the same reads, each with its own bytes or, where it was met, with new chunks. -/
theorem Partition.reads_raced (s : State) (hit : TileRead → Bool) (new : ReadKey → TileRead → Nat → Bool) (p : Partition) :
    (p.raced s hit new).reads s.clk =
      (p.reads s.clk).map fun x => (x.1, if hit x.2 then x.2.meet (s.bankByte x.2.block x.2.part) (new x.1 x.2) else x.2) := by
  unfold Partition.raced
  split
  · exact p.reads_reread s.clk fun k x => by split <;> rfl
  next none =>
    refine ((List.map_congr_left fun x mem => ?_).trans (List.map_id _)).symm
    rw [if_neg fun met => none (List.any_eq_true.mpr ⟨x, mem, met⟩)]
    rfl

theorem State.pn_map (s : State) (f : Partition → Partition) (blank : f Partition.blank = Partition.blank) (n k : Nat) :
    ({ s with partitions := s.partitions.map fun p => (p.1, f p.2), fresh := n } : State).pn k = f (s.pn k) := by
  simp only [State.pn, Tbl.find_map (fun e : Nat × Partition => (e.1, f e.2)) fun _ => rfl]
  cases s.partitions.find k with
  | none => exact blank.symm
  | some p => rfl

theorem claims_storesRace : Claims.StoresRace := by
  intro s c r vas u spot
  rcases s.raceTiles_cases c r vas with same | ⟨hit, new, n, meets, fresh, eq⟩
  · have same : u = s := same
    rw [same]
    exact ⟨rfl, fun _ _ => rfl, fun k => ⟨rfl, fun n x y here there => by
      obtain rfl : x = y := Option.some.inj (here.symm.trans there)
      exact ⟨rfl, fun _ _ _ _ => .inl fun _ _ => rfl⟩⟩⟩
  · have eq : u = _ := eq
    have pn (k : Nat) : u.pn k = (s.pn k).raced s hit new := by rw [eq]; exact s.pn_map _ rfl n k
    refine ⟨by rw [eq], fun k none => ?_, fun k => ?_⟩
    · rw [pn]
      refine if_neg fun met => ?_
      obtain ⟨x, mem, hitting⟩ := List.any_eq_true.mp met
      obtain ⟨a, chunk, at_⟩ := meets x.2 hitting
      exact none x mem a chunk at_
    · rw [pn, Partition.reads_raced, List.map_map]
      refine ⟨rfl, fun n x y here there => ?_⟩
      rw [List.getElem?_map, there] at here
      obtain rfl := Option.some.inj here
      refine ⟨by dsimp only; split <;> rfl, fun i _ a chunk => ?_⟩
      dsimp only
      by_cases met : hit y.2 = true
      · rw [if_pos met]
        by_cases fresher : new y.1 y.2 a = true
        · exact .inr ⟨fresh y.1 y.2 a fresher, fun j low => by rw [TileRead.getD_meet chunk low, if_pos fresher]⟩
        · exact .inl fun j low => by rw [TileRead.getD_meet chunk low, if_neg fresher]
      · rw [if_neg met]
        exact .inl fun _ _ => rfl

end Machine

end Sys2Proof

/-!
LDS, LDT and STS: the words they move between the bank and the registers (07 R174, R176, R181).
-/

namespace Sys2Proof.Machine

variable {s t u : State} {g : Issue} {r : Crew} {i : Instr}

/-! ## Runs of registers -/

/-- Registers d to d + n - 1 of a lane take words. -/
theorem State.putRun_writes {w : Nat → Nat → Prop} {v : Nat → Nat → Word} (h : WritesV s u r w v) (seated : s.seated r) {d n : Nat}
    (fits : d + n ≤ 128) {l : Nat} (lane : l < 32) (f : Nat → Word) :
    WritesV s ((List.range n).foldl (fun u i => u.putV r (d + i) l (f i)) u) r
      (fun x y => w x y ∨ (d ≤ x ∧ x < d + n ∧ y = l)) (fun x y => if d ≤ x ∧ x < d + n ∧ y = l then f (x - d) else v x y) := by
  induction n with
  | zero => exact h.congr (fun x y _ _ => ⟨.inl, fun either => either.resolve_right (by omega)⟩) fun x y _ _ _ => (if_neg (by omega)).symm
  | succ n ih =>
    rw [List.range_succ, List.foldl_append]
    refine ((ih (by omega)).put seated (d + n) l (by omega) lane (f n)).congr (fun x y _ _ => ?_) fun x y _ _ _ => ?_
    · constructor
      · rintro ((written | run) | ⟨rfl, rfl⟩)
        · exact .inl written
        · exact .inr ⟨run.1, by omega, run.2.2⟩
        · exact .inr ⟨by omega, by omega, rfl⟩
      · rintro (written | ⟨low, high, rfl⟩)
        · exact .inl (.inl written)
        · by_cases last : x = d + n
          · exact .inr ⟨last, rfl⟩
          · exact .inl (.inr ⟨low, by omega, rfl⟩)
    · by_cases last : x = d + n ∧ y = l
      · rw [if_pos last, if_pos ⟨by omega, by omega, last.2⟩, last.1, Nat.add_sub_cancel_left]
      · have same : (d ≤ x ∧ x < d + n ∧ y = l) ↔ (d ≤ x ∧ x < d + (n + 1) ∧ y = l) :=
          ⟨fun run => ⟨run.1, by omega, run.2.2⟩, fun run => ⟨run.1, by
            by_contra high
            exact last ⟨by omega, run.2.2⟩, run.2.2⟩⟩
        simp only [if_neg last, same]

/-- The same of each lane of a list. -/
theorem State.putRuns_writes {w : Nat → Nat → Prop} {v : Nat → Nat → Word} (h : WritesV s u r w v) (seated : s.seated r) {d n : Nat}
    (fits : d + n ≤ 128) (ls : List Nat) (lanes : ∀ l ∈ ls, l < 32) (f : Nat → Nat → Word) :
    WritesV s (ls.foldl (fun u l => (List.range n).foldl (fun u i => u.putV r (d + i) l (f l i)) u) u) r
      (fun x y => w x y ∨ (d ≤ x ∧ x < d + n ∧ y ∈ ls)) (fun x y => if d ≤ x ∧ x < d + n ∧ y ∈ ls then f y (x - d) else v x y) := by
  induction ls generalizing u w v with
  | nil => exact h.congr (fun _ _ _ _ => by simp) fun _ _ _ _ _ => by simp
  | cons l ls ih =>
    obtain ⟨lane, lanes⟩ := List.forall_mem_cons.mp lanes
    refine (ih (State.putRun_writes h seated fits lane (f l)) lanes).congr (fun x y _ _ => ?_) fun x y _ _ _ => ?_
    · simp only [List.mem_cons]
      tauto
    · by_cases here : y = l
      · subst here
        by_cases run : d ≤ x ∧ x < d + n <;> simp [run, ← and_assoc]
      · simp only [List.mem_cons, here, false_or, and_false, if_false]

/-- A mask's lanes take the words that a load returns. -/
theorem State.loads_write (s : State) {d : VReg} {n : Nat} (m : LaneMask) {f : Nat → Nat → Word} {v : Nat → Nat → Word} (seated : s.seated r)
    (fits : d.toNat + n ≤ 128) (value : ∀ l i, i < n → f l i = v l (d.toNat + i)) :
    WritesV s ((lanesOf m).foldl (fun u l => (List.range n).foldl (fun u i => u.putV r (d.toNat + i) l (f l i)) u) s) r
      (fun x l => d.toNat ≤ x ∧ x < d.toNat + n ∧ m.getLsbD l = true) (fun x l => v l x) := by
  refine (State.putRuns_writes (WritesV.none s r fun _ _ => 0) seated fits (lanesOf m) (fun l mem => (mem_lanesOf.mp mem).1) f).congr
    (fun x l _ lane => by simp [mem_lanesOf, lane]) fun x l _ lane either => ?_
  have run := either.resolve_left id
  rw [if_pos run, value l _ (by omega), Nat.add_sub_of_le run.1]

/-- The registers that a group names lie among the 128 (02 Table 2.3). -/
theorem run_fits (issues : Issues s g r i) {u : VecUse} (field : u ∈ vecFields i) (size : u.size ∣ 128) :
    u.reg.toNat + u.size ≤ 128 := by
  obtain ⟨u', mem, reg, same⟩ := exists_vecUse (hs := g.hints) field
  have ok := (sound_of_issueFault issues.passes).regs u' mem
  simp only [regOk, reg, same, Bool.and_eq_true, beq_iff_eq] at ok
  obtain ⟨k, aligned⟩ := Nat.dvd_of_mod_eq_zero ok.1
  obtain ⟨n, whole⟩ := size
  have low : u.size * k < u.size * n := by
    rw [← aligned, ← whole]
    exact u.reg.isLt
  have := Nat.mul_le_mul_left u.size (Nat.succ_le_of_lt (Nat.lt_of_mul_lt_mul_left low))
  rw [aligned, whole]
  rwa [Nat.mul_succ] at this

theorem width_regs_dvd (w : Width) : w.regs ∣ 128 := by cases w <;> decide

/-! ## LDS and LDT -/

/-- What a bank load notes as returning. -/
def State.bankReturn (u : State) (g : Issue) (r : Crew) (d : VReg) (w : Width) (k : KReg) : State :=
  if r.active k = 0 then u else u.onAux g.crew fun a => { a with returning := a.returning ++
    [{ regs := (List.range w.regs).map (d.toNat + ·), sregs := [], kregs := [], stack := false, requests := 0, issued := u.nextId, group := 0
       lost := none }] }

theorem State.return_eq_bankReturn (u : State) (g : Issue) (r : Crew) (d : VReg) (w : Width) (k : KReg) :
    u.return g.crew (if r.active k = 0 then [] else regsFrom d.toNat w.regs) [] 0 0 = u.bankReturn g r d w k := by
  unfold State.bankReturn
  split
  · rfl
  · cases w <;> rfl

theorem State.seated_acquireAt (h : s.seated r) (core : Nat) (wide : Bool) : (s.acquireAt core wide).seated r := by
  unfold State.acquireAt
  split <;> exact h

theorem bankFaults_eq_nil_iff {m : LaneMask} {va : Nat → DWord} {n : Nat} : s.bankFaults r m va n = [] ↔
    ∀ l, l < 32 → m.getLsbD l = true → s.bankFault r (va l) n = none := by
  simp [State.bankFaults, List.filterMap_eq_nil_iff, mem_lanesOf, and_imp]

theorem State.bankWord_eq (s : State) (r : Crew) (va : DWord) (i : Nat) :
    s.bankGet r.block (va.extractLsb' 22 3).toNat ((va.extractLsb' 0 22).toNat / 4 + i) =
      s.bankGet r.block (va.toNat / 2 ^ 22 % 8) (va.toNat % 2 ^ 22 / 4 + i) := by
  rw [extract_toNat, extract_toNat, pow_zero, Nat.div_one]
  rfl

theorem ldtFaults_eq_nil {m : LaneMask} {e : TileEntry} {off : Nat → DWord} {n : Nat}
    (sound : ∀ l, l < 32 → m.getLsbD l = true → (off l).toNat % n = 0 ∧ 0 ≤ (off l).toInt ∧ (off l).toInt + n ≤ 128 * e.size.toNat) :
    ((lanesOf m).filterMap fun l => (ldtFault e (off l) n).map fun f => (l, f)) = [] := by
  refine List.filterMap_eq_nil_iff.mpr fun l mem => ?_
  obtain ⟨low, active⟩ := mem_lanesOf.mp mem
  obtain ⟨aligned, nonneg, fits⟩ := sound l low active
  have value : (off l).toInt = (off l).toNat := BitVec.toInt_eq_toNat_of_lt (by
    by_contra high
    have := BitVec.toInt_neg_iff (x := off l)
    omega)
  have none : ldtFault e (off l) n = none := by
    by_contra fault
    obtain ⟨f, found⟩ := Option.ne_none_iff_exists'.mp fault
    rcases (ldtFault_eq_some_iff e (off l) n f).mp found with ⟨crooked, -⟩ | ⟨-, out, -⟩
    · exact crooked aligned
    · omega
  rw [none]
  rfl

theorem claims_bankLoads : Claims.BankLoads := by
  intro s g r d a w k seated inD o back
  have returned (u : State) : u.return g.crew (if r.active k = 0 then [] else regsFrom d.toNat w.regs) [] 0 0 = back u :=
    u.return_eq_bankReturn g r d w k
  constructor
  · intro b runs va s1 sound seated1
    have addr : ∀ l, s.addrSA r g.hints a b l = va l := s.addrSA_eq r g.hints a b
    refine ⟨_, s1.loads_write (r.active k) seated1 (run_fits runs.issues (u := vw d w.regs) (.head _) (width_regs_dvd w))
      (f := fun l i => (s.bankWords r (va l) w.regs).getD i 0)
      (v := fun l n => s.bankGet r.block ((va l).toNat / 2 ^ 22 % 8) ((va l).toNat % 2 ^ 22 / 4 + (n - d.toNat))) fun l i low => ?_, ?_⟩
    · simp only [State.bankWords, List.getD_eq_getElem?_getD, List.getElem?_map, List.getElem?_range low, Option.map_some,
        Option.getD_some, State.bankWord_eq, Nat.add_sub_cancel_left]
    · refine runs.exec_eq (fun _ => rfl) rfl ?_
      simp only [addr, sound, worstOf, ← returned]
      rfl
  · intro t runs off e good sound
    refine ⟨_, (s.acquireAt r.core true).loads_write (r.active k) (State.seated_acquireAt seated _ _)
      (run_fits runs.issues (u := vw d w.regs) (.head _) (width_regs_dvd w))
      (f := fun l i => s.bankGet r.block r.part (e.place ((off l).toNat + 4 * i) / 4))
      (v := fun l n => s.bankGet r.block r.part (e.place ((off l).toNat + 4 * (n - d.toNat)) / 4)) fun l i _ => ?_, ?_⟩
    · rw [Nat.add_sub_cancel_left]
    · refine runs.exec_of_wait (fun _ => rfl) rfl rfl ?_
      dsimp only
      rw [good, ldtFaults_eq_nil sound, ← returned]
      rfl

/-! ## STS -/

/-- Where word i of a bank access at an address lies. -/
def bankPlace (r : Crew) (va : DWord) (i : Nat) : Place := .bank r.block (va.toNat / 2 ^ 22 % 8) (va.toNat % 2 ^ 22 / 4 + i)

theorem bankPlace_inj {va : DWord} {i j : Nat} (same : bankPlace r va i = bankPlace r va j) : i = j := by
  simp only [bankPlace, Place.bank.injEq] at same
  omega

/-- The part that holds an address is there. -/
def State.bankSeated (s : State) (r : Crew) (va : DWord) : Prop := (s.part? r.block (va.toNat / 2 ^ 22 % 8)).isSome = true

theorem SameButWords.bankSeated (h : SameButWords s u) {va : DWord} (seated : s.bankSeated r va) : u.bankSeated r va := by
  have same := congrArg Option.isSome (h.parts r.block (va.toNat / 2 ^ 22 % 8))
  rw [Option.isSome_map, Option.isSome_map] at same
  exact same.trans seated

/-- From u to v, an access at an address has written words. -/
structure StoresWords (u v : State) (r : Crew) (va : DWord) (n : Nat) (f : Nat → Word) : Prop where
  same : SameButWords u v
  new : ∀ i, i < n → v.word (bankPlace r va i) = f i
  old : ∀ p, (∀ i, i < n → bankPlace r va i ≠ p) → v.word p = u.word p

theorem State.putBankWords_stores {va : DWord} (seated : u.bankSeated r va) (ws : List Word) :
    StoresWords u (u.putBankWords r va ws) r va ws.length fun i => ws.getD i 0 := by
  have place (i : Nat) : Place.bank r.block (va.extractLsb' 22 3).toNat ((va.extractLsb' 0 22).toNat / 4 + i) = bankPlace r va i := by
    rw [extract_toNat, extract_toNat, pow_zero, Nat.div_one]
    rfl
  have part : (va.extractLsb' 22 3).toNat = va.toNat / 2 ^ 22 % 8 := extract_toNat va 22 3
  unfold State.putBankWords
  generalize ws.length = n
  induction n with
  | zero => exact ⟨.refl u, fun i low => absurd low (Nat.not_lt_zero i), fun _ _ => rfl⟩
  | succ n ih =>
    rw [List.range_succ, List.foldl_append]
    have there := ih.same.bankSeated seated
    have word := State.word_bankPut (List.foldl _ u (List.range n)) r.block (va.extractLsb' 22 3).toNat
      ((va.extractLsb' 0 22).toNat / 4 + n) (ws.getD n 0) (h := by rw [part]; exact there)
    refine ⟨ih.same.trans (State.sameButWords_bankPut _ _ _ _ _), fun i low => (word _).trans ?_, fun p apart => (word p).trans ?_⟩
    · rw [place]
      by_cases last : i = n
      · rw [last, if_pos rfl]
      · rw [if_neg fun same => last (bankPlace_inj same)]
        exact ih.new i (by omega)
    · rw [place, if_neg fun same => apart n (Nat.lt_succ_self n) same.symm]
      exact ih.old p fun i low => apart i (Nat.lt_succ_of_lt low)

/-- The lanes of a list store their words in turn. -/
def State.storeLanes (u : State) (r : Crew) (va : Nat → DWord) (n : Nat) (f : Nat → Nat → Word) (ls : List Nat) : State :=
  ls.foldl (fun u l => u.putBankWords r (va l) ((List.range n).map (f l))) u

theorem State.storeLane_stores {va : DWord} (seated : u.bankSeated r va) (n : Nat) (f : Nat → Word) :
    StoresWords u (u.putBankWords r va ((List.range n).map f)) r va n f := by
  obtain ⟨same, new, old⟩ := State.putBankWords_stores seated ((List.range n).map f)
  rw [List.length_map, List.length_range] at new old
  exact ⟨same, fun i low => by
    rw [new i low, List.getD_eq_getElem?_getD, List.getElem?_map, List.getElem?_range low]
    rfl, old⟩

theorem State.sameButWords_storeLanes {va : Nat → DWord} {n : Nat} {f : Nat → Nat → Word} {ls : List Nat}
    (seated : ∀ l ∈ ls, u.bankSeated r (va l)) : SameButWords u (u.storeLanes r va n f ls) ∧
      ∀ p, (∀ l ∈ ls, ∀ i, i < n → bankPlace r (va l) i ≠ p) → (u.storeLanes r va n f ls).word p = u.word p := by
  induction ls generalizing u with
  | nil => exact ⟨.refl u, fun _ _ => rfl⟩
  | cons l ls ih =>
    obtain ⟨here, later⟩ := List.forall_mem_cons.mp seated
    have stored := State.storeLane_stores here n (f l)
    obtain ⟨same, old⟩ := ih fun x mem => stored.same.bankSeated (later x mem)
    refine ⟨stored.same.trans same, fun p apart => ?_⟩
    obtain ⟨notHere, notLater⟩ := List.forall_mem_cons.mp apart
    exact (old p notLater).trans (stored.old p notHere)

/-- A word that no later lane stores is its lane's. -/
theorem State.word_storeLanes {va : Nat → DWord} {n : Nat} {f : Nat → Nat → Word} {ls : List Nat}
    (seated : ∀ l ∈ ls, u.bankSeated r (va l)) (ascending : ls.Pairwise (· < ·)) {l : Nat} (mem : l ∈ ls) {i : Nat} (low : i < n)
    (last : ∀ l' ∈ ls, l < l' → ∀ i', i' < n → bankPlace r (va l') i' ≠ bankPlace r (va l) i) :
    (u.storeLanes r va n f ls).word (bankPlace r (va l) i) = f l i := by
  induction ls generalizing u with
  | nil => cases mem
  | cons x ls ih =>
    obtain ⟨first, ascending⟩ := List.pairwise_cons.mp ascending
    obtain ⟨here, later⟩ := List.forall_mem_cons.mp seated
    have stored := State.storeLane_stores here n (f x)
    have later : ∀ y ∈ ls, (u.putBankWords r (va x) ((List.range n).map (f x))).bankSeated r (va y) :=
      fun y mem => stored.same.bankSeated (later y mem)
    rcases List.mem_cons.mp mem with rfl | mem
    · refine ((State.sameButWords_storeLanes later).2 _ fun y later => ?_).trans (stored.new i low)
      exact last y (List.mem_cons_of_mem _ later) (first y later)
    · exact ih later ascending mem fun y more => last y (List.mem_cons_of_mem _ more)

theorem claims_bankStores : Claims.BankStores := by
  intro s g r d a b w k runs va o s0 s1 place sound
  have addr : ∀ l, s.addrSA r g.hints a b l = va l := s.addrSA_eq r g.hints a b
  let ls := lanesOf (r.active k)
  let f := fun l i => s.getV r (d.toNat + i) l
  have run : exec (.sts d a b w k) s = .next (g.close r (s.nested g.crew) false (s.releasing g.crew r o.1.rel o.2 fun s0 =>
      .next (((s0.races g r true (ls.map va) w.regs).storeLanes r va w.regs f ls).raceTiles g.crew r (ls.map va)))) := by
    refine runs.exec_closes (fun _ => rfl) rfl rfl ?_
    simp only [addr, sound, worstOf]
    rfl
  obtain ⟨waits, goes⟩ := s.releasing_eq g.crew r o.1.rel o.2 fun s0 =>
    .next (((s0.races g r true (ls.map va) w.regs).storeLanes r va w.regs f ls).raceTiles g.crew r (ls.map va))
  refine ⟨fun rel system awaits => by rw [run, waits rel system awaits], fun settled parts => ?_⟩
  have seated : ∀ l ∈ ls, s1.bankSeated r (va l) := fun l mem => by
    obtain ⟨low, active⟩ := mem_lanesOf.mp mem
    refine parts _ ?_
    by_contra out
    have fault := (s.bankFault_eq_some_iff r (va l) w.bytes { code := 0x09, level := 0, addr := va l, detail := 0 })
    have none := bankFaults_eq_nil_iff.mp sound l low active
    by_cases aligned : (va l).toNat % w.bytes = 0
    · rw [fault.mpr (.inr ⟨aligned, .inr (.inl (Nat.le_of_not_lt out)), rfl⟩)] at none
      cases none
    · rw [(s.bankFault_eq_some_iff r (va l) w.bytes _).mpr (.inl ⟨aligned, rfl⟩)] at none
      cases none
  obtain ⟨same, old⟩ := State.sameButWords_storeLanes (n := w.regs) (f := f) seated
  refine ⟨_, same, by rw [run, goes settled]; rfl, fun l i low active fits last => ?_, fun p apart => old p fun l mem => ?_⟩
  · refine State.word_storeLanes seated (pairwise_lanesOf _) (mem_lanesOf.mpr ⟨low, active⟩) fits fun l' mem later i' fits' => ?_
    obtain ⟨low', active'⟩ := mem_lanesOf.mp mem
    exact last l' i' later low' active' fits'
  · obtain ⟨low, active⟩ := mem_lanesOf.mp mem
    exact fun i fits => apart l i low active fits

/-- Settles O33: a bank load writes one run of registers per lane, a store one run of words per lane, ascending, and a store changes of the
reads it meets no more than chunks that it writes to. -/
theorem bankAccesses : Obligations.BankAccesses := ⟨claims_bankLoads, claims_bankStores, claims_storesRace⟩

end Sys2Proof.Machine

/-!
A byte written at its slice: what every slice reads afterwards (12 R308, R311, R319, R320).
-/

namespace Sys2Proof.Machine

variable {s u : State} {key : BitVec 8}

/-! ## Sectors stored under a key -/

/-- From s to u some sectors have been stored anew under a key, with the bytes that fills of s gave. -/
structure Resectored (s u : State) (key : BitVec 8) (qs : List Nat) : Prop where
  rest : { u with mem := { u.mem with phys := s.mem.phys, keys := s.mem.keys } } = s
  phys : ∀ q, u.physGet q = if q / 32 ∈ qs then (s.fillSector key (q / 32)).getD (q % 32) 0 else s.physGet q
  keys : ∀ x, Sparse.get 0 u.mem.keys x = if x ∈ qs then s.keyMat key else Sparse.get 0 s.mem.keys x

theorem State.physGet_putSector (s : State) (key : BitVec 8) (sector : Nat) (vals : List Byte) (q : Nat) :
    (s.putSector key sector vals).physGet q = if q / 32 = sector then vals.getD (q % 32) 0 else s.physGet q := by
  have run (n : Nat) (low : n ≤ 32) : ((List.range n).foldl (fun t i => t.physPut (32 * sector + i) (vals.getD i 0)) s).physGet q =
      if q / 32 = sector ∧ q % 32 < n then vals.getD (q % 32) 0 else s.physGet q := by
    induction n with
    | zero => exact (if_neg fun both => absurd both.2 (Nat.not_lt_zero _)).symm
    | succ n ih =>
      rw [List.range_succ, List.foldl_append, List.foldl_cons, List.foldl_nil, State.physGet_physPut, ih (by omega)]
      by_cases here : q = 32 * sector + n
      · rw [if_pos here, if_pos (by omega), show q % 32 = n by omega]
      · rw [if_neg here]
        by_cases before : q / 32 = sector ∧ q % 32 < n
        · rw [if_pos before, if_pos (by omega)]
        · rw [if_neg before, if_neg (by omega)]
  have all := run 32 le_rfl
  simp only [Nat.mod_lt q (show 0 < 32 by decide), and_true] at all
  exact all

theorem State.putSector_rest (s : State) (key : BitVec 8) (sector : Nat) (vals : List Byte) :
    { s.putSector key sector vals with mem := { (s.putSector key sector vals).mem with phys := s.mem.phys, keys := s.mem.keys } } = s ∧
    (s.putSector key sector vals).mem.keys = Sparse.put 0 s.mem.keys sector (s.keyMat key) := by
  unfold State.putSector
  extract_lets t
  have rest : { t with mem := { t.mem with phys := s.mem.phys } } = s :=
    List.foldlRecOn (motive := fun u : State => { u with mem := { u.mem with phys := s.mem.phys } } = s) _ _ rfl fun _ hv _ _ => hv
  clear_value t
  have keys : t.mem.keys = s.mem.keys := (congrArg (·.mem.keys) rest :)
  exact ⟨(congrArg (fun x : State => { x with mem := { x.mem with keys := s.mem.keys } }) rest :), by rw [← keys]⟩

namespace Resectored

variable {qs : List Nat} (h : Resectored s u key qs)

include h

theorem keyMat (k : BitVec 8) : u.keyMat k = s.keyMat k := (congrArg (·.keyMat k) h.rest :)

theorem formOf (n : Nat) : u.formOf n = s.formOf n := (congrArg (·.formOf n) h.rest :)

theorem l2 : u.mem.l2 = s.mem.l2 := (congrArg (·.mem.l2) h.rest :)

theorem lines : u.mem.lines = s.mem.lines := (congrArg (·.mem.lines) h.rest :)

theorem putSector (x : Nat) : Resectored s (u.putSector key x (s.fillSector key x)) key (qs ++ [x]) := by
  obtain ⟨rest, keys⟩ := u.putSector_rest key x (s.fillSector key x)
  refine ⟨?_, fun q => ?_, fun y => ?_⟩
  · have inner := congrArg (fun v : State => { v with mem := { v.mem with phys := s.mem.phys, keys := s.mem.keys } }) rest
    exact inner.trans h.rest
  · rw [State.physGet_putSector, h.phys]
    by_cases here : q / 32 = x
    · rw [if_pos here, if_pos (by simp [here]), here]
    · simp only [List.mem_append, List.mem_singleton, here, or_false, if_false]
  · rw [keys, Sparse.get_put, h.keys, h.keyMat]
    by_cases here : y = x
    · rw [if_pos here, if_pos (by simp [here])]
    · simp only [List.mem_append, List.mem_singleton, here, or_false, if_false]

theorem foldl (xs : List Nat) : Resectored s (xs.foldl (fun t q => t.putSector key q (s.fillSector key q)) u) key (qs ++ xs) := by
  induction xs generalizing u qs with
  | nil => rwa [List.append_nil]
  | cons x xs ih =>
    rw [List.foldl_cons, List.append_cons]
    exact ih (h.putSector x)

end Resectored

/-! ## What LPDDR6 gives -/

/-- From s to u the bytes, keys and form of a line of LPDDR6 stay. -/
structure SameLine (s u : State) (n : Nat) : Prop where
  mat : ∀ k, u.keyMat k = s.keyMat k
  phys : ∀ q, q / 128 = n → u.physGet q = s.physGet q
  keys : ∀ x, x / 4 = n → Sparse.get 0 u.mem.keys x = Sparse.get 0 s.mem.keys x
  form : u.formOf n = s.formOf n

namespace SameLine

theorem refl (s : State) (n : Nat) : SameLine s s n := ⟨fun _ => rfl, fun _ _ => rfl, fun _ _ => rfl, rfl⟩

theorem trans {v : State} {n : Nat} (h : SameLine s u n) (k : SameLine u v n) : SameLine s v n :=
  ⟨fun x => (k.mat x).trans (h.mat x), fun q on => (k.phys q on).trans (h.phys q on), fun x on => (k.keys x on).trans (h.keys x on),
    k.form.trans h.form⟩

/-- Such a line is read alike under every key. -/
theorem backGet {n : Nat} (h : SameLine s u n) (k : BitVec 8) {q : Nat} (on : q / 128 = n) : u.backGet k q = s.backGet k q := by
  have sector : q / 32 / 4 = n := by omega
  have bytes : u.physBytes (32 * (q / 32)) 32 = s.physBytes (32 * (q / 32)) 32 :=
    List.map_congr_left fun i low => h.phys _ (by have := List.mem_range.mp low; omega)
  have line : u.physBytes (n * 128) 128 = s.physBytes (n * 128) 128 :=
    List.map_congr_left fun i low => h.phys _ (by have := List.mem_range.mp low; omega)
  simp only [State.backGet, State.fillSector, h.mat, h.keys _ sector, h.phys q on, bytes, sector, h.form, line]

end SameLine

/-- The sectors that a rekeying stores anew. -/
def State.rekeyed (s : State) (key : BitVec 8) (sector : Nat) : List Nat :=
  (if s.formOf (sector / 4) = .plain then [sector] else (List.range 4).map (4 * (sector / 4) + ·)).filter fun q =>
    Sparse.get 0 s.mem.keys q ≠ s.keyMat key

theorem State.rekey_resectored (s : State) (key : BitVec 8) (sector : Nat) :
    Resectored s (s.rekey key sector) key (s.rekeyed key sector) := by
  have none : Resectored s s key [] := ⟨rfl, fun q => by simp only [List.not_mem_nil, if_false],
    fun x => by simp only [List.not_mem_nil, if_false]⟩
  have rekey : s.rekey key sector = (s.rekeyed key sector).foldl (fun t q => t.putSector key q (s.fillSector key q)) s := rfl
  rw [rekey]
  exact none.foldl (s.rekeyed key sector)

theorem State.mem_rekeyed {sector x : Nat} : x ∈ s.rekeyed key sector ↔
    (if s.formOf (sector / 4) = .plain then x = sector else x / 4 = sector / 4) ∧ Sparse.get 0 s.mem.keys x ≠ s.keyMat key := by
  rw [State.rekeyed, List.mem_filter, decide_eq_true_iff]
  refine and_congr_left fun _ => ?_
  split
  · exact List.mem_singleton
  · rw [List.mem_map]
    constructor
    · rintro ⟨i, low, rfl⟩
      have := List.mem_range.mp low
      omega
    · exact fun same => ⟨x % 4, List.mem_range.mpr (Nat.mod_lt x (by decide)), by omega⟩

theorem State.div_of_mem_rekeyed {sector x : Nat} (mem : x ∈ s.rekeyed key sector) : x / 4 = sector / 4 := by
  have shape := (State.mem_rekeyed.mp mem).1
  split at shape
  · rw [shape]
  · exact shape

/-- Another line does not change when a sector is rekeyed. -/
theorem State.rekey_sameLine (s : State) (key : BitVec 8) {sector n : Nat} (other : n ≠ sector / 4) : SameLine s (s.rekey key sector) n := by
  have h := s.rekey_resectored key sector
  refine ⟨h.keyMat, fun q on => ?_, fun x on => ?_, h.formOf n⟩
  · rw [h.phys, if_neg fun mem => ?_]
    have := State.div_of_mem_rekeyed mem
    omega
  · rw [h.keys, if_neg fun mem => ?_]
    have := State.div_of_mem_rekeyed mem
    omega

/-- A sector that a state stores under a key. -/
def State.keyed (s : State) (key : BitVec 8) (x : Nat) : Prop := Sparse.get 0 s.mem.keys x = s.keyMat key

theorem State.keyed_rekey (s : State) (key : BitVec 8) (sector : Nat) {x : Nat}
    (either : s.keyed key x ∨ if s.formOf (sector / 4) = .plain then x = sector else x / 4 = sector / 4) :
    (s.rekey key sector).keyed key x := by
  have h := s.rekey_resectored key sector
  rw [State.keyed, h.keys, h.keyMat]
  split
  · rfl
  next out =>
    by_contra not
    exact out (State.mem_rekeyed.mpr ⟨either.resolve_left not, not⟩)

theorem State.backGet_of_keyed {q : Nat} (keyed : s.keyed key (q / 32)) : s.backGet key q = s.physGet q := if_pos keyed

/-- Rekeying changes no byte as the key reads it. -/
theorem State.backGet_rekey (s : State) (key : BitVec 8) (sector q : Nat) : (s.rekey key sector).backGet key q = s.backGet key q := by
  have h := s.rekey_resectored key sector
  by_cases mem : q / 32 ∈ s.rekeyed key sector
  · rw [State.backGet_of_keyed (s.keyed_rekey key sector (.inr (State.mem_rekeyed.mp mem).1)), h.phys, if_pos mem,
      State.backGet_eq_fillSector]
  · by_cases keyed : s.keyed key (q / 32)
    · rw [State.backGet_of_keyed (s.keyed_rekey key sector (.inl keyed)), h.phys, if_neg mem, State.backGet_of_keyed keyed]
    · by_cases line : q / 128 = sector / 4
      · have plain : s.formOf (q / 32 / 4) = .plain := by
          by_contra encoded
          refine mem (State.mem_rekeyed.mpr ⟨?_, keyed⟩)
          rw [if_neg (by rwa [← line, show q / 128 = q / 32 / 4 by omega])]
          omega
        have bytes : (s.rekey key sector).physBytes (32 * (q / 32)) 32 = s.physBytes (32 * (q / 32)) 32 :=
          List.map_congr_left fun i low => by
            have := List.mem_range.mp low
            rw [h.phys, if_neg (by rwa [show (32 * (q / 32) + i) / 32 = q / 32 by omega])]
        have keys : Sparse.get 0 (s.rekey key sector).mem.keys (q / 32) = Sparse.get 0 s.mem.keys (q / 32) := by rw [h.keys, if_neg mem]
        simp only [State.backGet_eq_fillSector, State.fillSector, keys, h.keyMat, bytes, h.formOf, if_pos plain]
      · exact (s.rekey_sameLine key line).backGet key rfl

/-! ## A byte written back -/

theorem State.physPut_sameLine (s : State) (b : Byte) {pa n : Nat} (other : n ≠ pa / 128) : SameLine s (s.physPut pa b) n :=
  ⟨fun _ => rfl, fun q on => by rw [State.physGet_physPut, if_neg (by omega)], fun _ _ => rfl, rfl⟩

/-- A byte stored in a sector that a key's own, with its line where that is encoded, changes no other byte as the key reads it. -/
theorem State.backGet_physPut {pa : Nat} (here : s.keyed key (pa / 32))
    (whole : s.formOf (pa / 128) ≠ .plain → ∀ x, x / 4 = pa / 128 → s.keyed key x) (b : Byte) (q : Nat) :
    (s.physPut pa b).backGet key q = if q = pa then b else s.backGet key q := by
  by_cases on : s.keyed key (q / 32)
  · have kept : (s.physPut pa b).keyed key (q / 32) := on
    rw [State.backGet_of_keyed kept, State.physGet_physPut, State.backGet_of_keyed on]
  · rw [if_neg fun same : q = pa => on (by rw [same]; exact here)]
    by_cases line : q / 128 = pa / 128
    · have sector : q / 32 / 4 = pa / 128 := by omega
      have plain : s.formOf (q / 32 / 4) = .plain := by
        by_contra encoded
        exact on (whole (sector ▸ encoded) _ sector)
      have bytes : (s.physPut pa b).physBytes (32 * (q / 32)) 32 = s.physBytes (32 * (q / 32)) 32 :=
        List.map_congr_left fun i low => by
          have := List.mem_range.mp low
          refine (s.physGet_physPut pa _ b).trans (if_neg fun same => on ?_)
          rwa [show q / 32 = pa / 32 by omega]
      have form : (s.physPut pa b).formOf (q / 32 / 4) = .plain := plain
      simp only [State.backGet_eq_fillSector, State.fillSector, bytes, form, plain, if_true]
      rfl
    · exact (s.physPut_sameLine b line).backGet key rfl

/-- What a byte written back under a key leaves: the byte, and every other byte as the key reads it. -/
theorem State.backGet_backPut (s : State) (key : BitVec 8) (pa : Nat) (b : Byte) (q : Nat) :
    (s.backPut key pa b).backGet key q = if q = pa then b else s.backGet key q := by
  have form := (s.rekey_resectored key (pa / 32)).formOf
  have here := s.keyed_rekey key (pa / 32) (x := pa / 32) (.inr (by split <;> rfl))
  have whole : (s.rekey key (pa / 32)).formOf (pa / 128) ≠ .plain → ∀ x, x / 4 = pa / 128 → (s.rekey key (pa / 32)).keyed key x :=
    fun encoded x line => by
      have same : pa / 32 / 4 = pa / 128 := by omega
      rw [form, ← same] at encoded
      exact s.keyed_rekey key _ (.inr (by rw [if_neg encoded, same]; exact line))
  rw [State.backPut, State.backGet_physPut here whole, State.backGet_rekey]

theorem State.backPut_sameLine (s : State) (key : BitVec 8) (b : Byte) {pa n : Nat} (other : n ≠ pa / 128) :
    SameLine s (s.backPut key pa b) n :=
  (s.rekey_sameLine key (by omega)).trans (State.physPut_sameLine _ b other)

theorem State.l2_backPut (s : State) (key : BitVec 8) (pa : Nat) (b : Byte) : (s.backPut key pa b).mem.l2 = s.mem.l2 :=
  (s.rekey_resectored key (pa / 32)).l2

theorem State.lines_backPut (s : State) (key : BitVec 8) (pa : Nat) (b : Byte) : (s.backPut key pa b).mem.lines = s.mem.lines :=
  (s.rekey_resectored key (pa / 32)).lines

/-! ## The form of the line -/

/-- From s to u sectors of one line have been rekeyed. -/
structure Rekeys (s u : State) (key : BitVec 8) (line : Nat) : Prop where
  read : ∀ q, u.backGet key q = s.backGet key q
  other : ∀ n, n ≠ line → SameLine s u n
  kept : ∀ x, s.keyed key x → u.keyed key x
  form : ∀ n, u.formOf n = s.formOf n
  l2 : u.mem.l2 = s.mem.l2
  lines : u.mem.lines = s.mem.lines

theorem Rekeys.refl (s : State) (key : BitVec 8) (line : Nat) : Rekeys s s key line :=
  ⟨fun _ => rfl, fun n _ => .refl s n, fun _ h => h, fun _ => rfl, rfl, rfl⟩

theorem Rekeys.rekey {line : Nat} (h : Rekeys s u key line) {sector : Nat} (on : sector / 4 = line) :
    Rekeys s (u.rekey key sector) key line :=
  have k := u.rekey_resectored key sector
  ⟨fun q => (u.backGet_rekey key sector q).trans (h.read q),
    fun n other => (h.other n other).trans (u.rekey_sameLine key (on ▸ other)), fun x keyed => u.keyed_rekey key sector (.inl (h.kept x keyed)),
    fun n => (k.formOf n).trans (h.form n), k.l2.trans h.l2, k.lines.trans h.lines⟩

/-- The form of one line is nothing to another. -/
theorem State.setForm_sameLine (s : State) {line n : Nat} (form : LineForm) (other : n ≠ line) :
    SameLine s { s with mem := { s.mem with forms := Sparse.put .plain s.mem.forms line form } } n :=
  ⟨fun _ => rfl, fun _ _ => rfl, fun _ _ => rfl, Sparse.get_put.trans (if_neg other)⟩

/-- What a line written back from the plain view reads as, and every other line. -/
theorem State.reform_reads (s : State) (line : Nat) (key : BitVec 8) (bounded : Bool) :
    (∀ q, (s.reform line key false bounded).backGet key q = s.backGet key q) ∧
    (∀ n, n ≠ line → SameLine s (s.reform line key false bounded) n) ∧
    (s.reform line key false bounded).mem.l2 = s.mem.l2 ∧ (s.reform line key false bounded).mem.lines = s.mem.lines := by
  unfold State.reform
  split
  · exact ⟨fun _ => rfl, fun n _ => .refl s n, rfl, rfl⟩
  next encoded =>
    extract_lets t
    have rekeys : Rekeys s t key line := by
      refine List.foldlRecOn (motive := fun u => Rekeys s u key line) _ _ (.refl s key line) fun v hv j mem => hv.rekey ?_
      have := List.mem_range.mp mem
      omega
    have keyed : ∀ x, x / 4 = line → t.keyed key x := fun x on => by
      have makes (v : State) : (v.rekey key (4 * line + x % 4)).keyed key x := by
        rw [show 4 * line + x % 4 = x by omega]
        exact v.keyed_rekey key x (.inr (by split <;> rfl))
      have keeps (v : State) (i : Nat) (hv : v.keyed key x) : (v.rekey key (4 * line + i)).keyed key x :=
        v.keyed_rekey key _ (.inl hv)
      have mem : x % 4 ∈ List.range 4 := List.mem_range.mpr (Nat.mod_lt x (by decide))
      exact foldl_makes (f := fun v i => State.rekey v key (4 * line + i)) mem makes keeps s
    clear_value t
    refine ⟨fun q => ?_, fun n other => ?_, rekeys.l2, rekeys.lines⟩
    · rw [← rekeys.read]
      by_cases on : q / 128 = line
      · have here := keyed (q / 32) (by omega)
        rw [State.backGet_of_keyed here]
        exact State.backGet_of_keyed here
      · exact (t.setForm_sameLine _ on).backGet key rfl
    · exact (rekeys.other n other).trans (t.setForm_sameLine _ other)

end Sys2Proof.Machine

/-!
One read-modify-write at a slice, and the arithmetic of ATOM and ATOM64 (07 R182, R185; 11 R297).
-/

namespace Sys2Proof.Machine

variable {s t u v : State} {x : MemTag} {how : Option L2Mark} {pa : Nat} {b : Byte}

/-! ## One byte written at its slice -/

/-- The ranges of Table 12.2 end with lines. -/
theorem rangeOf_of_line {p q : Nat} (same : p / 128 = q / 128) : rangeOf p = rangeOf q := by
  have low (n : Nat) (whole : n % 128 = 0) : (p < n) = (q < n) := propext (by omega)
  have high (n : Nat) (whole : n % 128 = 0) : (n ≤ p) = (n ≤ q) := propext (by omega)
  simp (disch := decide) only [rangeOf, low, high]

/-- A line of LPDDR6 that stays, with the L2, is read alike at its slice, and so is strip SRAM. -/
theorem SameLine.sliceGet {n : Nat} (h : SameLine s u n) (l2 : u.mem.l2 = s.mem.l2) (y : MemTag) {q : Nat} (on : q / 128 = n) :
    u.sliceGet y q = s.sliceGet y q := by
  unfold State.sliceGet
  split
  · rw [l2, h.backGet y.key on]
  · exact h.phys q on
  · rfl
  · rfl

/-- From s to u the byte at pa has been written under a tag at its slice, which allocates in the L2 or not. -/
structure WritesByte (s u : State) (x : MemTag) (how : Option L2Mark) (pa : Nat) (b : Byte) : Prop where
  new : u.sliceGet x pa = b
  other : ∀ y q, ¬ sameByte x pa y q → (y.key = x.key ∨ pa / 128 ≠ q / 128) → (how = none → pa ≠ q) → u.sliceGet y q = s.sliceGet y q

/-- A byte set in the L2 is read under its own key alone. -/
theorem State.l2Put_writes (range : rangeOf pa = .lpddr) : WritesByte s (s.l2Put (x.ckey pa) (some ⟨b, true⟩)) x how pa b where
  new := by
    rw [State.sliceGet_eq_below _ _ range]
    simp only [State.l2Put, Sparse.get_put, if_true]
    rfl
  other y q apart _ _ := by
    have only : OnlyL2 s (s.l2Put (x.ckey pa) (some ⟨b, true⟩)) := ⟨rfl⟩
    cases qrange : rangeOf q
    case lpddr =>
      have distinct : y.ckey q ≠ x.ckey pa := fun same => by
        obtain ⟨rfl, _⟩ := MemTag.ckey_inj same
        exact apart ⟨rfl, .inr same.symm⟩
      rw [State.sliceGet_eq_below _ _ qrange, State.sliceGet_eq_below _ _ qrange, only.below]
      simp only [State.l2Put, Sparse.get_put, if_neg distinct]
    all_goals simp only [State.sliceGet, qrange, State.l2Put, State.physGet]

/-- A byte written back to LPDDR6 from the plain view, where the L2 does not hold it. -/
theorem State.backPut_writes (range : rangeOf pa = .lpddr) (absent : Sparse.get none s.mem.l2 (x.ckey pa) = none) (bounded : Bool) :
    WritesByte s ((s.backPut x.key pa b).reform (pa / 128) x.key false bounded) x none pa b := by
  obtain ⟨reads, others, l2, -⟩ := (s.backPut x.key pa b).reform_reads (pa / 128) x.key bounded
  have l2 := l2.trans (s.l2_backPut x.key pa b)
  refine ⟨?_, fun y q _ key place => ?_⟩
  · simp only [State.sliceGet, range, l2, absent, reads, State.backGet_backPut, if_true]
  · by_cases line : q / 128 = pa / 128
    · have keys : y.key = x.key := key.resolve_right fun not => not line.symm
      have qrange : rangeOf q = .lpddr := (rangeOf_of_line line).trans range
      simp only [State.sliceGet, qrange, l2, keys, reads, State.backGet_backPut, if_neg (place rfl).symm]
    · exact ((s.backPut_sameLine x.key b line).trans (others _ line)).sliceGet l2 y rfl

/-- A byte of strip SRAM. -/
theorem State.physPut_writes (range : rangeOf pa = .strip) : WritesByte s (s.physPut pa b) x how pa b where
  new := by simp only [State.sliceGet, range, State.physGet_physPut, if_true]
  other y q apart _ _ := by
    have other : q ≠ pa := fun same => apart ⟨same.symm, .inl range⟩
    cases qrange : rangeOf q
    case lpddr =>
      have line : q / 128 ≠ pa / 128 := fun same => by simp [← rangeOf_of_line same, qrange] at range
      exact (s.physPut_sameLine b line).sliceGet rfl y rfl
    case strip => simp only [State.sliceGet, qrange, State.physGet_physPut, if_neg other]
    all_goals simp only [State.sliceGet, qrange]

/-- A write after a fill that gives every slice's bytes as they were. -/
theorem WritesByte.of_slice (h : WritesByte u v x how pa b) (slice : ∀ y q, u.sliceGet y q = s.sliceGet y q) : WritesByte s v x how pa b :=
  ⟨h.new, fun y q apart key place => (h.other y q apart key place).trans (slice y q)⟩

/-- A fill leaves the bytes it names resident. -/
theorem isSome_get_fillBytes_of_mem (stays : CByte → Bool) (m : Sparse (Option CByte)) {bs : List (Nat × Byte)} {k : Nat}
    (mem : ∃ e ∈ bs, e.1 = k) : (Sparse.get none (fillBytes stays m bs) k).isSome = true := by
  obtain ⟨e, mem, rfl⟩ := mem
  obtain ⟨before, after, rfl⟩ := List.append_of_mem mem
  rw [fillBytes, List.foldl_append]
  refine isSome_get_fillBytes stays (fillByte stays (fillBytes stays m before) e) after ?_
  unfold fillByte
  split
  next found =>
    split
    · rw [found]; rfl
    · rw [Sparse.get_put, if_pos rfl]; rfl
  next => rw [Sparse.get_put, if_pos rfl]; rfl

theorem State.mem_sectorFill (s : State) (x : MemTag) (pa : Nat) : ∃ e ∈ s.sectorFill x pa, e.1 = x.ckey pa := by
  have low : pa % 32 ∈ List.range 32 := List.mem_range.mpr (Nat.mod_lt pa (by decide))
  refine ⟨(x.ckey (pa / 32 * 32 + pa % 32), (s.fillSector x.key (pa / 32)).getD (pa % 32) 0), List.mem_map_of_mem low, ?_⟩
  exact congrArg x.ckey (by omega)

/-- An access that allocates leaves the byte's sector in the L2. -/
theorem State.isSome_sliceFill (s : State) (x : MemTag) (m : L2Mark) (range : rangeOf pa = .lpddr) :
    (Sparse.get none (s.sliceFill x (some m) pa).mem.l2 (x.ckey pa)).isSome = true := by
  unfold State.sliceFill
  simp only [range, beq_self_eq_true, if_true]
  unfold State.l2Fill
  extract_lets u vals bs
  split
  next held => exact held
  next =>
    have eq : bs = u.sectorFill x pa := rfl
    have mem : ∃ e ∈ bs, e.1 = x.ckey pa := eq ▸ u.mem_sectorFill x pa
    clear_value bs
    exact isSome_get_fillBytes_of_mem (fun _ => true) u.mem.l2 mem

/-- One byte of a write to LPDDR6 or strip SRAM through the plain view. -/
theorem State.slicePut_writes (plain : x.view = false) (range : rangeOf pa = .lpddr ∨ rangeOf pa = .strip)
    (room : s.mem.lines.find (x.ckey (pa / 128)) = none → (s.l2Set (x.ckey (pa / 128))).length < 16) :
    WritesByte s (s.slicePut x how pa b) x how pa b := by
  have filled := (s.sliceFill_takes x how pa room).slice
  unfold State.slicePut State.noteView
  rw [plain]
  rcases range with lpddr | strip
  · simp only [lpddr, Bool.false_eq_true, if_false]
    split
    · exact (State.l2Put_writes lpddr).of_slice filled
    next absent =>
      cases how with
      | none => exact (State.backPut_writes lpddr (by simpa using absent) _).of_slice filled
      | some m => exact absurd (s.isSome_sliceFill x m lpddr) absent
  · simp only [strip]
    exact State.physPut_writes strip

/-! ## Room for the lines of a write (12 Table 12.1) -/

theorem State.lines_slicePut (s : State) (plain : x.view = false) (how : Option L2Mark) (pa : Nat) (b : Byte) :
    (s.slicePut x how pa b).mem.lines = if rangeOf pa = .lpddr then (s.sliceFill x how pa).mem.lines else s.mem.lines := by
  unfold State.slicePut State.noteView
  rw [plain]
  cases range : rangeOf pa with
  | lpddr =>
    simp only [Bool.false_eq_true, if_false, if_true]
    split
    · rfl
    · exact ((State.reform_reads _ _ _ _).2.2.2).trans (State.lines_backPut _ _ _ _)
  | strip => rfl
  | mmio => rfl
  | hole => rfl

/-- From v to u the L2 has taken a way for a line of a list, at most, for each that it did not hold. -/
structure TakesWays (v u : State) (ls : List Nat) : Prop where
  ways : ∀ k, (u.l2Set k).length ≤ (v.l2Set k).length + ls.countP fun j => (u.mem.lines.find j).isSome

namespace TakesWays

variable {ls : List Nat} {core : Nat}

theorem refl (v : State) (ls : List Nat) : TakesWays v v ls := ⟨fun _ => Nat.le_add_right _ _⟩

/-- The lines of the L2 are all that counts. -/
theorem of_lines {w : State} (h : TakesWays v u ls) (lines : w.mem.lines = u.mem.lines) : TakesWays v w ls := by
  refine ⟨fun k => ?_⟩
  rw [State.l2Set, lines]
  exact h.ways k

theorem takesLine {w : State} {lk : Nat} (h : TakesWays v u ls) (mem : lk ∈ ls) (takes : TakesLine u w lk) : TakesWays v w ls := by
  refine ⟨fun k => ?_⟩
  have before := h.ways k
  have counted : (ls.countP fun j => (u.mem.lines.find j).isSome) ≤ ls.countP fun j => (w.mem.lines.find j).isSome :=
    List.countP_mono_left fun j _ found => takes.kept j found
  rcases takes.ways with same | ⟨absent, found, more⟩
  · have := same k
    omega
  · have := more k
    have := countP_lt_countP (l := ls) (p := fun j => (u.mem.lines.find j).isSome) (q := fun j => (w.mem.lines.find j).isSome)
      (fun j _ held => takes.kept j held) mem (by rw [absent]; rfl) found
    omega

/-- A line of those there is room for finds a free way. -/
theorem free (h : TakesWays v u ls) (room : v.roomFor core ls) {lk : Nat} (mem : lk ∈ ls) (absent : u.mem.lines.find lk = none) :
    (u.l2Set lk).length < 16 := by
  have resident : (ls.countP fun j => (u.mem.lines.find j).isSome) < ls.length :=
    List.countP_lt_length_iff.mpr ⟨lk, mem, by rw [absent]; rfl⟩
  have := h.ways lk
  have := (room lk mem).2
  omega

end TakesWays

/-! ## The bytes of a write -/

/-- From v to u the first k bytes have been written from pa on. -/
structure WritesBytes (v u : State) (x : MemTag) (how : Option L2Mark) (pa k : Nat) (bs : Nat → Byte) (ls : List Nat) : Prop where
  ways : TakesWays v u ls
  new : ∀ j, j < k → u.sliceGet x (pa + j) = bs j
  other : ∀ y q, (∀ j, j < k → ¬ sameByte x (pa + j) y q) → (y.key = x.key ∨ ∀ j, j < k → (pa + j) / 128 ≠ q / 128) →
    (how = none → ∀ j, j < k → pa + j ≠ q) → u.sliceGet y q = v.sliceGet y q

theorem WritesBytes.succ {core k : Nat} {bs : Nat → Byte} {ls : List Nat} (h : WritesBytes v u x how pa k bs ls) (plain : x.view = false)
    (range : rangeOf (pa + k) = .lpddr ∨ rangeOf (pa + k) = .strip) (room : v.roomFor core ls) (mem : x.ckey ((pa + k) / 128) ∈ ls) :
    WritesBytes v (u.slicePut x how (pa + k) (bs k)) x how pa (k + 1) bs ls := by
  have byte : WritesByte u (u.slicePut x how (pa + k) (bs k)) x how (pa + k) (bs k) :=
    State.slicePut_writes plain range (h.ways.free room mem)
  refine ⟨?_, fun j low => ?_, fun y q apart key place => ?_⟩
  · have lines := u.lines_slicePut plain how (pa + k) (bs k)
    split at lines
    · exact (h.ways.takesLine mem (u.sliceFill_takes x how _ (h.ways.free room mem))).of_lines lines
    · exact h.ways.of_lines lines
  · rcases Nat.lt_succ_iff_lt_or_eq.mp low with before | rfl
    · rw [byte.other x (pa + j) (fun same => absurd same.1 (by omega)) (.inl rfl) (fun _ => by omega), h.new j before]
    · exact byte.new
  · have last := k.lt_succ_self
    rw [byte.other y q (apart k last) (key.imp_right fun lines => lines k last) fun none => place none k last]
    exact h.other y q (fun j low => apart j (low.trans last)) (key.imp_right fun lines j low => lines j (low.trans last))
      fun none j low => place none j (low.trans last)

theorem mem_linesAt_byte {n j : Nat} (low : j < n) : x.ckey ((pa + j) / 128) ∈ linesAt [(x, pa)] n :=
  List.mem_eraseDups.mpr (List.mem_flatMap.mpr ⟨(x, pa), List.mem_singleton_self _, List.mem_map.mpr ⟨j, List.mem_range.mpr low, rfl⟩⟩)

/-- The bytes of a write to one home, in turn. -/
theorem State.foldl_slicePut_writes {core n : Nat} (plain : x.view = false)
    (range : ∀ j, j < n → rangeOf (pa + j) = .lpddr ∨ rangeOf (pa + j) = .strip) (room : v.roomFor core (linesAt [(x, pa)] n))
    (how : Option L2Mark) (bs : Nat → Byte) {k : Nat} (le : k ≤ n) :
    WritesBytes v ((List.range k).foldl (fun u i => u.slicePut x how (pa + i) (bs i)) v) x how pa k bs (linesAt [(x, pa)] n) := by
  induction k with
  | zero => exact ⟨.refl v _, fun j low => absurd low j.not_lt_zero, fun _ _ _ _ _ => rfl⟩
  | succ k ih =>
    rw [List.range_succ, List.foldl_append, List.foldl_cons, List.foldl_nil]
    exact (ih (by omega)).succ plain (range k (by omega)) room (mem_linesAt_byte (by omega))

/-- Poison is no part of what a slice gives. -/
theorem State.sliceGet_cleanse (s : State) (pas : List Nat) (y : MemTag) (q : Nat) : (s.cleanse pas).sliceGet y q = s.sliceGet y q := by
  unfold State.cleanse
  split
  · rfl
  · rfl

/-- A write of this device's, outside the bounded view. -/
theorem State.homeWrite_local (home : v.isLocal x = true) (wide : x.attr ≠ 5) (how : Option L2Mark) (bs : Nat → Byte) (n : Nat) :
    v.homeWrite x how ((List.range n).map fun i => (pa + i, bs i)) =
      ((List.range n).foldl (fun u i => u.slicePut x how (pa + i) (bs i)) v).cleanse ((List.range n).map (pa + ·)) := by
  simp only [State.homeWrite, home, if_true, beq_eq_false_iff_ne.mpr wide, Bool.false_eq_true, if_false, List.foldl_map, List.map_map,
    Function.comp_def]

/-! ## The state that a read-modify-write finds -/

/-- What a read-modify-write does for one of its lines: the core's own copies go out. -/
def State.yieldLine (core c : Nat) (x : MemTag) (u : State) (line : Nat) : State :=
  ((u.wcYield core x (line * 128)).l1Evict core x (line * 128)).touch c x (line * 128)

/-- The state in which a read-modify-write reads: the crew's stores are performed, and its core's own copies of the lines are out. -/
def State.yielded (s : State) (c : Nat) (r : Crew) (x : MemTag) (pa n : Nat) : State :=
  (linesOf ((List.range n).map (pa + ·))).foldl (State.yieldLine r.core c x) (s.drainAll c r)

/-- What a read-modify-write leaves of the state that it reads. -/
def State.modified (v : State) (x : MemTag) (how : Option L2Mark) (pa n : Nat) (new : Option (List Byte)) : State :=
  match new with
  | some bs => v.homeWrite x how ((List.range n).map fun i => (pa + i, bs.getD i 0))
  | none => (List.range n).foldl (fun u i => u.sliceFill x how (pa + i)) v

theorem State.atomicLane_of_local {c : Nat} {r : Crew} {n : Nat} (home : (s.yielded c r x pa n).isLocal x = true) (memory : rangeOf pa ≠ .mmio)
    (cache : CachePolicy) (f : List Byte → Option (List Byte)) (req : FabricReq) :
    let v := s.yielded c r x pa n
    let old := (List.range n).map fun j => v.sliceGet x (pa + j)
    s.atomicLane c r x cache pa n f req = (old, v.modified x (l2How x.attr cache) pa n (f old)) := by
  intro v old
  unfold State.atomicLane
  extract_lets s1 old' old''
  have eq : s1 = v := rfl
  rw [if_pos (eq ▸ home), if_neg (by simpa using memory)]
  rfl

theorem OnlyMemory.yielded (s : State) (c : Nat) (r : Crew) (x : MemTag) (pa n : Nat) : OnlyMemory s (s.yielded c r x pa n) c :=
  ((OnlyMemory.refl s c).drainAll r).foldl _ (fun _ _ hv => ((hv.wcYield _ _ _).l1Evict _ _ _).touch _ _) _

theorem State.storeQ_touch (s : State) (c : Nat) (x : MemTag) (pa : Nat) : ((s.touch c x pa).auxOf c).storeQ = (s.auxOf c).storeQ := by
  unfold State.touch
  split
  · rw [State.auxOf_onAux, if_pos rfl]
  · rfl

/-- What one line does is no access of another crew, and puts no store in its own's queue. -/
theorem State.storeQ_yieldLine (core c : Nat) (x : MemTag) (u : State) (line : Nat) :
    ((u.yieldLine core c x line).auxOf c).storeQ = (u.auxOf c).storeQ := by
  have other := ((OnlyMemory.refl u (c + 1)).wcYield core x (line * 128)).l1Evict core x (line * 128)
  rw [State.yieldLine, State.storeQ_touch, other.others c (by omega)]

/-- The crew's stores are performed, whatever its queue holds. -/
theorem State.storeQ_yielded (s : State) (c : Nat) (r : Crew) (x : MemTag) (pa n : Nat) : ((s.yielded c r x pa n).auxOf c).storeQ = [] := by
  refine List.foldlRecOn (motive := fun u : State => (u.auxOf c).storeQ = []) _ _ ?_ fun u hu line _ => ?_
  · rw [State.drainAll, State.auxOf_onAux, if_pos rfl]
  · rw [State.storeQ_yieldLine, hu]

/-! ### A quiet crew -/

/-- From s to u nothing changes but the crews' own records. -/
structure OnlyAux (s u : State) : Prop where
  rest : { u with aux := s.aux } = s

theorem OnlyAux.coreOf (h : OnlyAux s u) (k : Nat) : u.coreOf k = s.coreOf k := (congrArg (·.coreOf k) h.rest :)

theorem OnlyAux.sliceGet (h : OnlyAux s u) (y : MemTag) (q : Nat) : u.sliceGet y q = s.sliceGet y q := (congrArg (·.sliceGet y q) h.rest :)

theorem OnlyAux.touch (h : OnlyAux s u) (c : Nat) (y : MemTag) (q : Nat) : OnlyAux s (u.touch c y q) := by
  unfold State.touch
  split
  · exact ⟨h.rest⟩
  · exact h

/-- A core without copies gives none up. -/
theorem State.wcYield_of_empty {core : Nat} (wc : (s.coreOf core).wc = []) (y : MemTag) (q : Nat) : s.wcYield core y q = s := by
  rw [State.wcYield, wc]
  rfl

theorem State.l1Evict_of_empty {core : Nat} (l1 : (s.coreOf core).l1 = []) (y : MemTag) (q : Nat) : s.l1Evict core y q = s := by
  rw [State.l1Evict, State.l1EvictKey, l1]
  rfl

/-- The accesses of a quiet crew find the slices as they are. -/
theorem OnlyAux.yielded {c : Nat} {r : Crew} (quiet : Quiet s c r) (x : MemTag) (pa n : Nat) : OnlyAux s (s.yielded c r x pa n) := by
  refine List.foldlRecOn _ _ ?_ fun u hu line _ => ?_
  · rw [State.drainAll, quiet.stores]
    exact ⟨rfl⟩
  · have wc : (u.coreOf r.core).wc = [] := by rw [hu.coreOf, quiet.wc]
    have l1 : (u.coreOf r.core).l1 = [] := by rw [hu.coreOf, quiet.l1]
    rw [State.yieldLine, State.wcYield_of_empty wc, State.l1Evict_of_empty l1]
    exact hu.touch c x _

/-! ### The core's own copies -/

namespace L1Absent

variable {core k : Nat}

theorem of_coreOf (h : L1Absent core k s) (cores : u.coreOf core = s.coreOf core) : L1Absent core k u := ⟨by rw [cores, h.get]⟩

theorem sendPeer (h : L1Absent core k s) (peer : BitVec 4) (q : FabricReq) : L1Absent core k (s.sendPeer peer q) := by
  unfold State.sendPeer
  split
  · exact h
  · split
    · exact h
    · exact h.of_coreOf rfl

theorem homeWrite (h : L1Absent core k s) (x : MemTag) (how : Option L2Mark) (ws : List (Nat × Byte)) :
    L1Absent core k (s.homeWrite x how ws) := by
  unfold State.homeWrite
  split
  · refine h.memOnly (MemOnly.cleanse ?_ _)
    have put := (MemOnly.refl s).foldl (fun u (w : Nat × Byte) => u.slicePut x how w.1 w.2) (fun _ _ hv => hv.slicePut _ _ _ _) ws
    split
    · exact put.foldl _ (fun _ _ hv => hv.quantise _ _) _
    · exact put
  · exact List.foldlRecOn _ _ h fun _ hv _ _ => hv.sendPeer _ _

theorem wcWrite (h : L1Absent core k s) (n : Nat) (w : WcLine) : L1Absent core k (s.wcWrite n w) := by
  unfold State.wcWrite State.noteFlights
  have written := (h.l1EvictKey n (w.tag.ckey (w.line * 128 / 128))).homeWrite w.tag none (w.bytes.filterMap fun e => e.2.map fun b => (e.1, b))
  split
  · exact written
  · exact written.of_coreOf rfl

theorem setWc (h : L1Absent core k s) (n : Nat) (f : List WcLine → List WcLine) :
    L1Absent core k (s.onCore n fun c => { c with wc := f c.wc }) := by
  refine ⟨?_⟩
  rw [State.coreOf_onCore]
  split
  next here => exact here ▸ h.get
  next => exact h.get

theorem wcYield (h : L1Absent core k s) (n : Nat) (x : MemTag) (pa : Nat) : L1Absent core k (s.wcYield n x pa) := by
  unfold State.wcYield
  dsimp only
  split
  · exact setWc (List.foldlRecOn _ _ h fun _ hv _ _ => hv.wcWrite _ _) n _
  · exact h

theorem touch (h : L1Absent core k s) (c : Nat) (x : MemTag) (pa : Nat) : L1Absent core k (s.touch c x pa) := by
  unfold State.touch
  split
  · exact h.of_coreOf rfl
  · exact h

theorem yieldLine (h : L1Absent core k s) (n c : Nat) (x : MemTag) (line : Nat) : L1Absent core k (s.yieldLine n c x line) :=
  ((h.wcYield n x _).l1EvictKey n _).touch c x _

theorem of_yieldLine (core c : Nat) (x : MemTag) (s : State) {line q : Nat} (on : q / 128 = line) :
    L1Absent core (x.ckey q) (s.yieldLine core c x line) := by
  have evicted := of_l1EvictKey core (x.ckey q) (s.wcYield core x (line * 128))
  have key : lineKey (x.ckey q) = x.ckey (line * 128 / 128) := by rw [lineKey_ckey, on, Nat.mul_div_cancel line (by decide)]
  rw [key] at evicted
  exact evicted.touch c x _

/-- None of the lines is in the core's L1 then. -/
theorem of_yielded (s : State) (c : Nat) (r : Crew) (x : MemTag) {pa n q : Nat} (on : ∃ j, j < n ∧ (pa + j) / 128 = q / 128) :
    L1Absent r.core (x.ckey q) (s.yielded c r x pa n) := by
  obtain ⟨j, low, on⟩ := on
  have mem : q / 128 ∈ linesOf ((List.range n).map (pa + ·)) :=
    List.mem_eraseDups.mpr (List.mem_map.mpr ⟨pa + j, List.mem_map_of_mem (List.mem_range.mpr low), on⟩)
  exact foldl_makes mem (fun v => of_yieldLine r.core c x v rfl) (fun v line hv => hv.yieldLine r.core c x line) _

end L1Absent

/-! ## One lane -/

theorem OnlyMemory.modified {c : Nat} (v : State) (x : MemTag) (how : Option L2Mark) (pa n : Nat) (new : Option (List Byte)) :
    OnlyMemory v (v.modified x how pa n new) c := by
  unfold State.modified
  split
  · exact (OnlyMemory.refl v c).homeWrite _ _ _
  · exact (OnlyMemory.refl v c).memOnly ((MemOnly.refl v).foldl _ (fun _ _ hv => hv.sliceFill _ _ _) _)

/-- An access that allocates where there is room changes no byte of a slice. -/
theorem State.sliceGet_fills {core n : Nat} (room : v.roomFor core (linesAt [(x, pa)] n)) (how : Option L2Mark) (y : MemTag) (q : Nat) :
    ((List.range n).foldl (fun u i => u.sliceFill x how (pa + i)) v).sliceGet y q = v.sliceGet y q := by
  have loaded : Loaded v ((List.range n).foldl (fun u i => u.sliceFill x how (pa + i)) v) 0 core (linesAt [(x, pa)] n) :=
    List.foldlRecOn (motive := fun u => Loaded v u 0 core (linesAt [(x, pa)] n)) _ _ (.refl v 0 core _)
      fun u hu i mem => hu.fill room x how (pa + i) (mem_linesAt_byte (List.mem_range.mp mem))
  exact loaded.slice y q

theorem l2How_of_allocates {cache : CachePolicy} (attr : x.attr = 0 ∨ x.attr = 3) (none : l2How x.attr cache = none) : cache = .noalloc := by
  have uncached : (x.attr == 1 || x.attr == 2) = false := by rcases attr with attr | attr <;> rw [attr] <;> rfl
  have wide : (x.attr == 5) = false := by rcases attr with attr | attr <;> rw [attr] <;> rfl
  simp only [l2How, uncached, wide, Bool.false_eq_true, if_false] at none
  cases cache with
  | noalloc => rfl
  | _ => cases none

/-- What a read-modify-write stores, and what it leaves. -/
theorem State.modified_writes {core n : Nat} {cache : CachePolicy} (home : v.isLocal x = true) (attr : x.attr = 0 ∨ x.attr = 3)
    (range : ∀ j, j < n → rangeOf (pa + j) = .lpddr ∨ rangeOf (pa + j) = .strip) (room : v.roomFor core (linesAt [(x, pa)] n))
    (bs : List Byte) :
    WritesBytes v ((List.range n).foldl (fun u i => u.slicePut x (l2How x.attr cache) (pa + i) (bs.getD i 0)) v) x (l2How x.attr cache)
        pa n (bs.getD · 0) (linesAt [(x, pa)] n) ∧
      ∀ y q, (v.modified x (l2How x.attr cache) pa n (some bs)).sliceGet y q =
        ((List.range n).foldl (fun u i => u.slicePut x (l2How x.attr cache) (pa + i) (bs.getD i 0)) v).sliceGet y q := by
  have plain : x.view = false := by rcases attr with attr | attr <;> simp [MemTag.view, attr]
  have wide : x.attr ≠ 5 := by rcases attr with attr | attr <;> rw [attr] <;> decide
  refine ⟨State.foldl_slicePut_writes plain range room _ _ le_rfl, fun y q => ?_⟩
  rw [State.modified, State.homeWrite_local home wide (l2How x.attr cache) (bs.getD · 0) n, State.sliceGet_cleanse]

/-- One read-modify-write at a slice. -/
theorem atomicLane_slice : Claims.AtomicLane := by
  intro s c r x cache pa n f req home attr range same pos short
  have only := OnlyMemory.yielded s c r x pa n
  have local_ : (s.yielded c r x pa n).isLocal x = true := (only.isLocal x).trans home
  have memory : rangeOf pa ≠ .mmio := fun mmio => by
    rcases range 0 pos with h | h <;> rw [Nat.add_zero, mmio] at h <;> cases h
  have run := State.atomicLane_of_local local_ memory cache f req
  refine ⟨s.yielded c r x pa n, only, s.storeQ_yielded c r x pa n, fun ⟨stores, l1, wc⟩ => (OnlyAux.yielded ⟨stores, l1, wc⟩ x pa n).sliceGet,
    fun k line i low => ?_, ?_⟩
  · have on : (k * 128 + i) / 128 = k := by omega
    refine (L1Absent.of_yielded s c r x ?_).get
    rcases line with first | last
    · exact ⟨0, pos, by rw [on, first]; rfl⟩
    · exact ⟨n - 1, by omega, by rw [on, last]; congr 1; omega⟩
  · generalize s.yielded c r x pa n = v at local_ run
    intro old y
    have run : y = (old, v.modified x (l2How x.attr cache) pa n (f old)) := run
    rw [run]
    refine ⟨rfl, .modified .., fun room => ⟨fun new stored j low => ?_, fun t' q apart key place => ?_⟩⟩
    · obtain ⟨writes, reads⟩ := State.modified_writes (cache := cache) local_ attr range room new
      dsimp only
      rw [stored, reads, writes.new j low]
    · dsimp only
      cases stored : f old with
      | none => exact State.sliceGet_fills room _ t' q
      | some new =>
        obtain ⟨writes, reads⟩ := State.modified_writes (cache := cache) local_ attr range room new
        have apart : ∀ j, j < n → ¬ sameByte x (pa + j) t' q := apart.resolve_left (by simp [stored])
        rw [reads, writes.other t' q apart key fun none => place (l2How_of_allocates attr none)]

/-! ## The arithmetic of ATOM and ATOM64 (07 Table 7.5) -/

theorem length_leBytes (n k : Nat) : (leBytes n k).length = n := by
  rw [leBytes_eq_map, List.length_map, List.length_range]

theorem leVal_leBytes (n k : Nat) : leVal (leBytes n k) = k % 256 ^ n := by
  induction n generalizing k with
  | zero => rw [pow_zero, Nat.mod_one]; rfl
  | succ n ih =>
    rw [leBytes, leVal, ih, BitVec.toNat_ofNat, pow_succ' 256]
    exact Nat.mod_mul.symm

theorem leVal_lt (bs : List Byte) : leVal bs < 256 ^ bs.length := by
  induction bs with
  | nil => exact Nat.one_pos
  | cons b bs ih =>
    have := b.isLt
    rw [leVal, List.length_cons, pow_succ']
    omega

theorem Spec.signed_toNat {w : Nat} (z : BitVec w) : Spec.signed w z.toNat = z.toInt := z.toInt_eq_toNat_cond.symm

/-- What ATOM stores, as a number of its width. -/
theorem atomNew_value {w : Nat} (op : AtomOp) (old x : BitVec w) :
    match op with
    | .add => (atomNew op old x).toNat = (old.toNat + x.toNat) % 2 ^ w
    | .min => (atomNew op old x).toInt = min old.toInt x.toInt
    | .max => (atomNew op old x).toInt = max old.toInt x.toInt
    | .minu => (atomNew op old x).toNat = min old.toNat x.toNat
    | .maxu => (atomNew op old x).toNat = max old.toNat x.toNat
    | .and => (atomNew op old x).toNat = old.toNat &&& x.toNat
    | .or => (atomNew op old x).toNat = old.toNat ||| x.toNat
    | .xor => (atomNew op old x).toNat = old.toNat ^^^ x.toNat := by
  cases op with
  | add => exact BitVec.toNat_add old x
  | min =>
    simp only [atomNew, BitVec.slt_iff_toInt_lt]
    split <;> omega
  | max =>
    simp only [atomNew, BitVec.slt_iff_toInt_lt]
    split <;> omega
  | minu =>
    simp only [atomNew, BitVec.lt_def]
    split <;> omega
  | maxu =>
    simp only [atomNew, BitVec.lt_def]
    split <;> omega
  | and => exact BitVec.toNat_and old x
  | or => exact BitVec.toNat_or old x
  | xor => exact BitVec.toNat_xor old x

/-- The arithmetic on bytes is that on words of as many bits, signed and unsigned. -/
theorem atomicArithmetic : Claims.AtomicArithmetic := by
  intro n op x old _ xs olds w v sg
  have pow : 256 ^ n = 2 ^ w := by rw [show (256 : Nat) = 2 ^ 8 from rfl, ← pow_mul]
  have number (bs : List Byte) (len : bs.length = n) : (BitVec.ofNat w (leVal bs)).toNat = leVal bs := by
    rw [BitVec.toNat_ofNat, Nat.mod_eq_of_lt (by rw [← pow, ← len]; exact leVal_lt bs)]
  have value : v = (atomNew op (BitVec.ofNat w (leVal old)) (BitVec.ofNat w (leVal x))).toNat := by
    have : v = _ := leVal_leBytes n _
    rw [this, pow, Nat.mod_eq_of_lt (BitVec.isLt _)]
  have new := atomNew_value op (BitVec.ofNat w (leVal old)) (BitVec.ofNat w (leVal x))
  simp only [← Spec.signed_toNat, ← value, number x xs, number old olds] at new
  exact ⟨length_leBytes _ _, new⟩

/-- Settles O32: the bytes of a write land one by one, each at its own place of its slice, once the core's own copies are out; the
arithmetic is that of words. -/
theorem atomicLane : Obligations.AtomicLane := ⟨atomicLane_slice, atomicArithmetic⟩

end Sys2Proof.Machine

/-!
An L1 that lists one byte twice, and what CCLEAN leaves of it (07 R196; 12 R309).
-/

namespace Sys2Proof.Machine

/-- A crew of core 0. -/
def cleaner : Crew := crewStart 2 1 0 0 0 0 0 fetchPacket 0x20000 true

/-- Byte 0 of a write-back page. -/
def cleanedTag : MemTag := { attr := 0, key := 0, home := State.reset.links.fabid }

/-- Its CCLEAN, of that byte alone. -/
def cleanEvent : StoreEvent :=
  { seq := 1, crew := 0, addr := 0, kind := .clean, release := none, cache := .dflt, width := 1, bytes := [(cleanedTag, { pa := 0, byte := 0 })] }

/-- The machine whose core 0 lists byte 0 of its L1 as absent, and again as dirty: a lookup finds the first entry. -/
def twiceListed : State :=
  { State.reset with
    crews := [(0, cleaner)]
    aux := [(0, { CrewAux.blank with storeQ := [cleanEvent] })]
    cores := [(0, { Core.blank with l1 := [(0, none), (0, some { val := 1, dirty := true })] })] }

/-- The write-back drops the absent entry and keeps the dirty one, clean, so that the byte is found from then on. -/
theorem get_l1_cleaned : Sparse.get none ((twiceListed.drainOne 0 cleaner).coreOf 0).l1 0 = some { val := 1, dirty := false } := by
  decide +kernel

/-- Refutes O30: the statement is about every state, that whose L1 is not in canonical form among them; there CCLEAN brings a byte into the
L1 that a lookup did not find before. -/
theorem not_storesPerform : ¬ Obligations.StoresPerform := by
  intro h
  obtain ⟨-, performs⟩ := h twiceListed 0 cleaner cleanEvent [] rfl rfl
  have paid : (twiceListed.auxOf 0).returning = [] := rfl
  obtain ⟨u, run, -, -, -, -, lines⟩ := performs (by simp [paid])
  obtain ⟨-, absent, -⟩ := (lines _ rfl rfl (by decide +kernel) (by decide)).1 rfl
  have eq : twiceListed.drainOne 0 cleaner = u := Host.Outcome.next.inj run
  have kept : Sparse.get none (u.coreOf 0).l1 0 = none := absent 0 rfl
  rw [← eq, get_l1_cleaned] at kept
  cases kept

end Sys2Proof.Machine

/-!
A load past an L1 that lists one byte twice, and the byte that it returns (07 R173; 11 R291; 12 R309).
-/

namespace Sys2Proof.Machine

/-- A crew whose k1 holds lanes 0 and 1. -/
def loader : Crew := { crewStart 2 1 0 0 0 0 0 fetchPacket 0x20000 true with phase := .ready, kregs := [(1, 3)] }

/-- Its group, a load with CACHE stream. -/
def loadGroup : Issue := { crew := 128, addr := 0x20000, next := 0x20004, hints := [.cache .stream], words := [] }

/-- LD of 4 bytes at v1 into v2, under k1. -/
def wordLoad : Instr := .ld 2 1 0 .w4 1

/-- The machine with that crew, its lane 1 at address 32; core 0 lists byte 32 of its L1 as absent, and again as dirty. -/
def loadState : State :=
  let s := ((State.reset.pokeTable.withCrew.putCrew 128 loader).putLanes loader 1 [1] fun _ => 32).onCore 0 fun c =>
    { c with l1 := [(16384, none), (16384, some { val := 1, dirty := true })] }
  { s with issue := some loadGroup, inputs := [] }

/-- The load as the instruction makes it. -/
def wordLoadSpec : Spec.Load :=
  { d := 2, m := loader.active 1, n := 4, regs := 1, addr := Spec.addrSA loadState loader loadGroup.hints 1 0, ext := id }

/-- The checks of the load, and the state after its translations. -/
def loadChecks : Except LaneTrap (List (Nat × MemTag × Nat)) × State :=
  loadState.checkLanes (viaOf loader) (loadState.ctxOf loader) loader.priv
    (lanesAcc wordLoadSpec.m wordLoadSpec.addr wordLoadSpec.n wordLoadSpec.n .read true false
      (orderOf loadGroup.hints (.plain, .crew)).1.acq)

/-- Lane 0 loads at 0 and lane 1 at 32, each from the line of LPDDR6 at 0. -/
theorem loadChecks_fst : loadChecks.1 = .ok [(0, cleanedTag, 0), (1, cleanedTag, 32)] := by decide +kernel

theorem runs_wordLoad : Runs loadState loadGroup loader wordLoad where
  issues := { issue := rfl, crew := by decide +kernel, passes := by decide +kernel, kept := by decide +kernel, free := by decide +kernel }
  own := by decide +kernel

theorem eq_mk_of_fst_eq {α β : Type} {x : α × β} {a : α} (first : x.1 = a) : x = (a, x.2) := first ▸ rfl

/-- A register's word in the state that a group leaves. -/
def wordAfter (o : Host.Outcome State Fault Refusal) (r : Crew) (n l : Nat) : Option Word :=
  match o with
  | .next u => some (u.getV r n l)
  | _ => none

/-- Lane 0 misses, and takes its line out of the L1: the entry that a lookup did not find goes to the slice, where lane 1 finds it. -/
theorem wordAfter_wordLoad : wordAfter (exec wordLoad loadState) loader 2 1 = some 1 := by decide +kernel

/-- The bytes that lane 1 finds before. -/
theorem sees_loadChecks : loadChecks.2.sees 128 loader cleanedTag 32 4 = [0, 0, 0, 0] := by decide +kernel

theorem seated_loadState : loadState.seated loader := by
  unfold State.seated
  decide +kernel

/-- Neither lane's load waits for a store of its crew. -/
theorem undelayed_loadChecks : ∀ p ∈ [(0, cleanedTag, 0), (1, cleanedTag, 32)],
    loadChecks.2.l1Able p.2.1 p.2.2 = true ∧ loadChecks.2.undelayed 128 loader p.2 4 := by
  unfold State.undelayed
  decide +kernel

theorem roomFor_loadChecks : loadChecks.2.roomFor 0 (linesAt [(cleanedTag, 0), (cleanedTag, 32)] 4) := by
  unfold State.roomFor
  decide +kernel

/-- Lane 0 fills no sector of lane 1's. -/
theorem leaves_loadChecks : ∀ q ∈ [(0, cleanedTag, 0)], loadChecks.2.leaves 0 4 q.2 (cleanedTag, 32) := by
  unfold State.leaves
  decide +kernel

theorem get_l1_loadChecks : Sparse.get none (loadChecks.2.coreOf 0).l1 (cleanedTag.ckey (32 + 0)) = none := by decide +kernel

/-- The end of a group leaves the registers as its effect left them. -/
theorem State.getV_finish {s v : State} {g : Issue} {r r' : Crew} (crew : v.crews.find g.crew = some r') (there : r'.resident = true)
    (goes : s.stops g r' = false) (plain : schedOfGroup g.hints = .none) (free : (v.auxOf g.crew).held = false) (y : Crew) (n l : Nat) :
    (s.finish v g r).getV y n l = v.getV y n l := by
  rw [State.finish_eq_counted crew there goes plain free]
  rfl

theorem OnlyMemory.held {s u : State} {c : Nat} (h : OnlyMemory s u c) : (u.auxOf c).held = (s.auxOf c).held :=
  (congrArg CrewAux.held h.own :)

theorem SameButWords.auxOf {s u : State} (h : SameButWords s u) (c : Nat) : u.auxOf c = s.auxOf c := (congrArg (·.auxOf c) h.rest :)

/-- Refutes O27: the statement is about every state, that whose L1 is not in canonical form among them; there a lower lane's load takes an
entry to the slice that no lookup of the L1 gave, and a load past the L1 returns it. -/
theorem not_loads : ¬ Obligations.Loads := by
  intro h
  have checked : loadChecks = (.ok [(0, cleanedTag, 0), (1, cleanedTag, 32)], loadChecks.2) :=
    eq_mk_of_fst_eq loadChecks_fst
  obtain ⟨u, v, f, writes, only, run, -, value⟩ :=
    h loadState loadChecks.2 loadGroup loader wordLoad wordLoadSpec _ rfl runs_wordLoad seated_loadState checked
  have zero : f 2 1 = 0 := by
    have word := value rfl undelayed_loadChecks roomFor_loadChecks [(0, cleanedTag, 0)] (1, cleanedTag, 32) []
      rfl leaves_loadChecks
      (.inr (.inr ⟨0, by decide, get_l1_loadChecks⟩)) 0 (by decide)
    refine word.trans ?_
    have sees : loadChecks.2.sees loadGroup.crew loader cleanedTag 32 wordLoadSpec.n = [0, 0, 0, 0] := sees_loadChecks
    rw [sees]
    rfl
  have new : u.getV loader 2 1 = f 2 1 := writes.new 2 1 (by decide) (by decide) (by decide +kernel)
  have same : v.getV loader 2 1 = u.getV loader 2 1 := (congrArg (·.getV loader 2 1) only.rest :)
  have crew : v.crews.find 128 = some loader := by
    have crews : v.crews = u.crews := (congrArg (·.crews) only.rest :)
    have crews' : u.crews = loadState.crews := (congrArg (·.crews) writes.same.rest :)
    rw [crews, crews']
    decide +kernel
  have free : (v.auxOf 128).held = false := by
    refine only.held.trans ?_
    rw [writes.same.auxOf]
    decide +kernel
  have kept := State.getV_finish (s := loadState) (g := loadGroup) (r := loader) crew rfl (by decide +kernel) rfl free loader 2 1
  have one := wordAfter_wordLoad
  rw [run, wordAfter, kept, same, new, zero] at one
  cases one

end Sys2Proof.Machine
